-- ==== Sys2Proof/Word.lean ====
section
/-!
DEFINITION. Word.lean: the word types of the block and its plain data containers. A value is a bit vector where the
spec treats it as bits (registers, flit data, bytes); counts, indices, addresses as keys and lengths are `Nat`
(00 R2, R4); signed arithmetic is exact on `Int` and narrowed once (00 R14).
-/
namespace Sys2Proof

/-- One byte. -/
abbrev Byte := BitVec 8
/-- A BAR0 register or an indirect word (R5). -/
abbrev Word := BitVec 32
/-- The data of one flit or one 32-byte memory word (R143). -/
abbrev Data := BitVec 256
/-- Operand bytes 63:8 of a command entry, byte 8 lowest (R324). -/
abbrev OpBytes := BitVec 448

/-- A sparse map by key, in one canonical form: keys strictly rising and no entry equal to what its key reads as
unlisted. The default function is given with each use. -/
abbrev SMap (β : Type) := List (Nat × β)

end Sys2Proof
end

