-- ==== Sys2Proof/Syntax.lean ====
section
/-!
DEFINITION. Syntax.lean: the commands of the block, one constructor per row of the operation and event table
(opcode_table.json), with the operands each needs. Rows that the host submits through ring 0 carry their command
entry (R324). Rows that happen to the block (a packet, a pin, a timer, an array cycle) carry what the outside
world or the fabric contributes.
-/
namespace Sys2Proof

/-- The kind of a sequenced tile (R41). -/
inductive TileKind where | mx | mm | sf | rk
deriving DecidableEq, Repr

/-- A tile by Terrace, physical Row and tile number `k` of R185: 0–15 MX, 16–23 MM, 24–27 SF, 28–29 RK. -/
structure TileRef where
  t : Fin 4
  row : Fin 9
  k : Fin 30
deriving DecidableEq, Repr

/-- A cask by Terrace, physical Row, MM tile and index (Table 5.7). -/
structure CaskRef where
  t : Fin 4
  row : Fin 9
  m : Fin 8
  c : Fin 16
deriving DecidableEq, Repr

/-- A switch point: a Row point 0–12 of a physical Row, or a bridge point 0–2 (R134, R42). -/
inductive PointRef where
  | row (t : Fin 4) (row : Fin 9) (j : Fin 13)
  | bridge (t : Fin 4) (j : Fin 3)
deriving DecidableEq, Repr

/-- What the Hub sends over a Hub bridge: the plane lines of a plane, or a remote-stream ingress (R176, R363). -/
inductive HubStream where
  | plane (p : Fin 8)
  | ingress (k : Fin 16)
deriving DecidableEq, Repr

/-- A source of circuits (R141): a tile output port (MX 0 O-out; MM 0 MR0, 1 MR1; SF 0 S-out, 1 scale out; RK DO), a
cask read side, a logic-cell port, or a Hub stream on Hub-facing IO tile 0–3 of a Terrace. -/
inductive SrcRef where
  | tile (r : TileRef) (port : Fin 4)
  | cask (c : CaskRef)
  | logic (t : Fin 4) (row : Fin 9) (j : Fin 11)
  | hub (t : Fin 4) (io : Fin 4) (st : HubStream)
deriving DecidableEq, Repr

/-- A sink of circuits (R141): a tile input stage (MX 0 A-in, 1 P-in, 2 W-in; MM 0 MW0, 1 MW1; SF 0 SA-in, 1 SB-in,
2 scale in; RK 0–3 DI, 4 TI), a cask write side, a logic-cell port, or the Hub behind an IO tile of a Terrace. -/
inductive SnkRef where
  | tile (r : TileRef) (port : Fin 5)
  | cask (c : CaskRef)
  | logic (t : Fin 4) (row : Fin 9) (j : Fin 11)
  | hub (t : Fin 4) (io : Fin 4)
deriving DecidableEq, Repr

/-- Bit errors that struck one stored codeword since it was last written: the internal address of its first data byte
and the pattern, byte `i` of the codeword at bits `8i + 7 : 8i` (R340, R437); bits 90:88 strike the copies of an on-chip poison bit (R439). -/
structure Upset where
  addr : Nat
  pat : Nat
deriving DecidableEq, Repr

/-- What a die-boundary code finds on a flit (R159). -/
inductive BridgeCode where | clean | corrected | uncorrectable
deriving DecidableEq, Repr

/-- A command entry of ring 0 but for its opcode: flags (byte 1), tag (bytes 3:2), reserved bytes 7:4 and operand bytes
63:8 (R324). -/
structure CmdEntry where
  flags : Byte
  tag : BitVec 16
  rsv : Word
  ops : OpBytes
deriving DecidableEq, Repr

/-- A command in the hands of the command processor: opcode, entry, and the bytes its channel-6 or channel-7 read of host memory
delivered, or the code with which that read ended (R306, R324). -/
structure Cmd where
  op : Nat
  e : CmdEntry
  data : List Byte
  bad : Nat
deriving DecidableEq, Repr

/-- Sources of register and memory accesses (HUB.VIOL_INFO.source). -/
inductive AccSrc where | bar0 | bar2 | bar4 | cellarmaster | trellis | stream | jtag | config
deriving DecidableEq, Repr

/-- A write to the register space: a BAR0 word from a source, a word of the MSI-X table in BAR4, or the fields of the
configuration space that the device acts on (Tables 11.1, 11.4; R310, R321). -/
inductive RegWrite where
  | word (src : AccSrc) (off : Nat) (v : Word)
  | msixTable (off : Nat) (v : Word)
  | msi (en : Bool) (log2n : Fin 6) (addr : Nat) (data : Nat) (mask : Nat)
  | msix (en mask : Bool)
  | link (mps mrrs : Nat) (aspm : Fin 4)
  | bar (i : Fin 3) (base : Nat)
  | aer (clear : Nat)
deriving DecidableEq, Repr

/-- A stream packet as the CoaXPress link layer hands it over (R257, R259): camera, whether the kind is supported and the CRC holds,
the image header's X and Y sizes and pixel format (0 Mono8, 1 Mono10, 2 Mono12, others unsupported), the image line and first pixel
of the payload, and its pixels. `start` marks the first packet of a line; `ahead` counts the images between the oldest that the camera
has not delivered whole and this one.
(DESIGN CHOICE, log 172) -/
structure StreamPkt where
  cam : Fin 4
  supported : Bool
  crcOk : Bool
  xSize : Nat
  ySize : Nat
  fmt : Nat
  start : Bool
  ahead : Nat
  line : Nat
  first : Nat
  px : List Nat
deriving DecidableEq, Repr

/-- A frame as received on a Trellis port: its 256 bytes with what the line corrupted of each of the four codewords (R354, R355). -/
structure FrameIn where
  bytes : List Byte
  err : List Nat
deriving DecidableEq, Repr

/-- A SYNC token (R365). -/
structure SyncTok where
  kind : Nat
  origin : Nat
  hops : Nat
  value : Nat
deriving DecidableEq, Repr

/-- A Trellis message: header unit and data (R358, Table 13.2). -/
structure TrlMsg where
  kind : Nat
  dest : Nat
  origin : Nat
  addr : Nat
  aux : Nat
  data : List Byte
deriving DecidableEq, Repr

/-- One regulator's answer at a telemetry sample: voltage in mV and current in mA, none when it stays silent (R387, R390). -/
abbrev RegAnswer := Option (Nat × Nat)

/-- Supplies with warning levels (R401): VDD_T0–VDD_T3 and VDD_HUB. -/
abbrev Supply := Fin 5

/-- What triggers a reset (HUB.RST_STATUS.cause, Table 15.1). -/
inductive ColdCause where | powerOn | ball | register | lifeCycle | jtag
deriving DecidableEq, Repr
inductive WarmCause where | perst | ball | register | brownOut | supply
deriving DecidableEq, Repr

/-- What the on-chip scrubber reads (R441): the codeword of an internal address, the codeword of an indirect control word by its key,
or a codeword of the Cellarmaster's memories, of which the event says how it decodes. -/
inductive ScrubAt where
  | mem (a : Nat)
  | ctl (key : Nat)
  | cellar (code : BridgeCode)
deriving DecidableEq, Repr

/-- What the nets that no block drives carry in a cycle (R198, Table 7.9): net 256 · row + segment is a mesh segment of a Row of the Terrace,
net 2,304 + lane a lane of the Row crossbar. -/
abbrev LogicNets := BitVec 2560

/-- A flit that logic cells put at their port (R178, R199): bits that a lane of the Row drives are those of the lane, the others are given
here. -/
structure LogicFlit where
  port : Fin 11
  data : Data
  poison : Bool
  tag : BitVec 4
  last : Bool
  evLine : Bool
  evBand : Bool
  smk : Bool
deriving DecidableEq, Repr

/-- What a Row's logic cells do at their ports in a cycle, whose handshake the spec does not give: flits put out, ports whose oldest flit is
taken; and the marker lanes that stand at 1 by a wiring outside the routing words. -/
structure LogicIo where
  put : List LogicFlit
  took : List (Fin 11)
  marks : BitVec 16
deriving DecidableEq, Repr

/-- What a register write finds outside the block when its effect needs it: the time in 10 ns units, the die boundaries that fail
training, and the number of the root. -/
structure WriteEnv where
  now : Nat
  failed : List (Fin 4 × Fin 8)
  root : Fin 64
deriving DecidableEq, Repr

/-- The commands of the block. -/
inductive Instr where
  /-- NOP (R325): The command processor takes a NOP command and completes it at once, echoing bytes 15:8. -/
  | nop (e : CmdEntry)
  /-- LOAD_BLEND (R220): Reads a Blend image from host memory into a HyperRAM slot, then measures, checks and verifies it. -/
  | loadBlend (e : CmdEntry)
  /-- PLACE (R227): Writes a verified Blend from a slot into one Vintage through the ordered steps of checks, relocation and writes. -/
  | place (e : CmdEntry)
  /-- START_JOB (R52): Checks the configuration, starts every used sequencer at pc 0 of the active Vintage and begins the fills before
  accepting lines. -/
  | startJob (e : CmdEntry)
  /-- END_JOB (R194): Requests that the job end at a named band boundary, or at the first boundary after it is taken. -/
  | endJob (e : CmdEntry)
  /-- SWITCH_VINTAGE (R186): Makes a placed Vintage active, at once outside a job or at an eligible band boundary inside one. -/
  | switchVintage (e : CmdEntry)
  /-- FENCE (R303): Marks a dependence so that the next descriptor on channels 6 and 7 waits until earlier HyperRAM writes are accepted. -/
  | fence (e : CmdEntry)
  /-- HINT_PHASE (R400): Sets or cancels a voltage margin for a heavy phase over a range of bands. -/
  | hintPhase (e : CmdEntry)
  /-- SET_CAP (R397): Sets the power cap that the governor holds the device to. -/
  | setCap (e : CmdEntry)
  /-- GRAFT_SUBMIT (R241): Queues a Graft command that optionally resets the state, appends labelled samples to the pool and runs training
  steps. -/
  | graftSubmit (e : CmdEntry) (data : List Byte) (bad : Nat)
  /-- GRAFT_COMMIT (R251): Queues a commit of the trained head into a target Vintage, optionally at a named band. -/
  | graftCommit (e : CmdEntry)
  /-- BARRIER (R373): Sends ARRIVE towards the root and completes when the RELEASE reaches this device. -/
  | barrier (e : CmdEntry)
  /-- SNAPSHOT (R375): Runs a barrier that captures the device state at a released band and writes it to HyperRAM. -/
  | snapshot (e : CmdEntry)
  /-- REPLAY_PUSH (R328): Supplies camera lines from host memory to a replay job. -/
  | replayPush (e : CmdEntry) (data : List Byte) (bad : Nat)
  /-- QUERY (R325): Returns the part and Vintage status, a Vintage's REPORT section or the job summary. -/
  | query (e : CmdEntry)
  /-- ATTEST (R431): Captures the attestation fields and starts signing a report for the host. -/
  | attest (e : CmdEntry)
  /-- ATTEST_DONE (R431): The signed attestation report is written to the host and the ATTEST command completes. -/
  | attestDone
  /-- DOORBELL (R318): A host write to a BAR4 doorbell moves its end of a ring, or is dropped as invalid. -/
  | doorbell (off : Nat) (v : Word) (read : List Cmd)
  /-- REGISTER_WRITE (R7): A host or internal write to a register with no row of its own takes effect by its access codes, subject to lock
  rules. -/
  | registerWrite (w : RegWrite) (env : WriteEnv)
  /-- LOW_WORD_READ (R6): A read of the low word of a 64-bit quantity latches the high word for the next high-word read. -/
  | lowWordRead (src : AccSrc) (off : Nat)
  /-- RC_FIELD_READ (R8): A read of an RC field returns its value and clears it. -/
  | rcFieldRead (src : AccSrc) (off : Nat)
  /-- INDIRECT_DATA_ACCESS (R473): An access to an indirect data register acts on the selected word and advances an enabled autoinc index. -/
  | indirectDataAccess (src : AccSrc) (off : Nat) (wr : Option Word)
  /-- BAR0_INVALID_ACCESS (R314): An unaligned, wrong-width or unmapped BAR0 access completes with Completer Abort or is dropped, and is
  logged. -/
  | bar0InvalidAccess (write : Bool) (off len : Nat)
  /-- BAR2_ACCESS (R315): A host access through BAR2 reaches the shared store inside the window, or is a violation. -/
  | bar2Access (off len : Nat) (wr : Option (List (Option Byte))) (hits : List Upset)
  /-- RING_ENABLE (R318): Setting a ring's en bit zeroes both indices; clearing it makes entries wait or stops command taking. -/
  | ringEnable (r : Fin 5) (v : Word)
  /-- IRQ_MASK_WRITE (R322): Setting a mask bit while its status bit is already set raises the vector. -/
  | irqMaskWrite (v : Word)
  /-- COLD_RESET (R410): A cold reset from any trigger senses fuses, wipes on-chip SRAM, initialises HyperRAM and boots. -/
  | coldReset (c : ColdCause) (failed : List (Fin 4 × Fin 8))
  /-- WARM_RESET (R410): A warm reset returns classes A and V, wipes on-chip SRAM, invalidates Blend slots and boots. -/
  | warmReset (c : WarmCause) (failed : List (Fin 4 × Fin 8))
  /-- FLR (R313): A Function Level Reset ends any job at once, discards pending work and returns classes A and V. -/
  | flr (failed : List (Fin 4 × Fin 8))
  /-- ARRAY_RESET (R413): Stops the array, returns class V, retrains the bridges and releases the logic cells. -/
  | arrayReset (failed : List (Fin 4 × Fin 8))
  /-- CELLARMASTER_RESTART (R414): Holds the Cellarmaster, selects a boot slot again and reloads its memories while the rest of the device
  runs on. -/
  | cellarmasterRestart
  /-- WATCHDOG_EXPIRY (R415): The Cellarmaster watchdog count expires, raising E-0C22 and starting a Cellarmaster restart. -/
  | watchdogExpiry
  /-- WIPE_DONE (R412): The on-chip wipe completes and sources may reach on-chip SRAM again. -/
  | wipeDone
  /-- BOOT (R421): The boot ROM checks both flash slots, measures and verifies them in order and boots the first that passes, or enters
  recovery. -/
  | boot
  /-- LOGIC_CELL_RELEASE (R201): A Row's logic cells pass a stage of the staged release after each 64 cycles of its slowest tree. -/
  | logicCellRelease (t : Fin 4) (row : Fin 9)
  /-- D3HOT_ENTRY (R312): A host write of D3hot ends any job with E-0108 and takes the device into Park. -/
  | d3hotEntry
  /-- WAKE (R403): A write of PWR.STATE.wake leaves a brown-out Park when every supply is above its warning level. -/
  | wake (failed : List (Fin 4 × Fin 8))
  /-- SYNC (R364): A write of TRL.CTRL.sync on the root drives one SYNC pulse. -/
  | sync
  /-- SYNC_PULSE (R364): A device samples a SYNC pulse and sets its system time to 0, or ignores it with E-0907 during a system job. -/
  | syncPulse
  /-- CALIBRATION (R367): A write of TRL.CTRL.cal on the root starts calibration of every device's offset and trim. -/
  | calibration (now : Nat)
  /-- SYS_RESET (R376): A write of TRL.CTRL.sys_reset sends a RESET token naming a tick. -/
  | sysReset
  /-- TRELLIS_BRING_UP (R353): Setting TRL.CFG.en acquires block and frame lock on the ports and sends CENSUS tokens. -/
  | trellisBringUp (v : Word) (root : Fin 64)
  /-- CENSUS_TIMEOUT (R353): 100 µs after the ports came up, a census count other than N − 1 raises E-0902 and keeps the ring down. -/
  | censusTimeout
  /-- TRELLIS_RETIRE (R378): A write of TRL.RETIRE.go requests a planned retirement of a segment at a band. -/
  | trellisRetire (v : Word)
  /-- FREQ_WRITE (R392): A write to PWR.FREQ sets the mode and f_top, or is refused with E-0B01 or E-0B02. -/
  | freqWrite (v : Word)
  /-- LOAM_WRITE (R408): A write to PWR.LOAM takes effect at once outside a job or at the next S_b inside one. -/
  | loamWrite (v : Word)
  /-- STREAM_GO (R298): A write of go arms the staged descriptor as active or shadow, or refuses it. -/
  | streamGo (n : Fin 8)
  /-- STREAM_STOP (R305): A write of stop halts the channel at its next descriptor boundary and discards the shadow and prefetched
  descriptors. -/
  | streamStop (n : Fin 8)
  /-- MAILBOX_SEND (R260): A write of go frames the mailbox payload as a control packet and sends it on the uplink. -/
  | mailboxSend (c : Fin 4) (v : Word)
  /-- TRIGGER_SOFTWARE (R272): A write of sw fires a software-source trigger generator. -/
  | triggerSoftware (k : Fin 8) (v : Word) (now : Nat)
  /-- FORCE_FAIL (R347): A write of force_fail puts a HyperRAM channel into the failed state. -/
  | forceFail (c : Fin 4)
  /-- HYPERRAM_CHANNEL_FAIL (R347): A HyperRAM channel fails on missing strobes or an excessive uncorrectable rate, raising E-0812. -/
  | hyperramChannelFail (c : Fin 4) (cause : Fin 3)
  /-- BSTORE_WRITE (R343): A write to HRM.BSTORE moves the Blend store and marks all four slots invalid. -/
  | bstoreWrite (v : Word)
  /-- CROP_STORE_WRITE (R342): A write to HRM.CROP_BASE or CROP_SIZE is held until the crop store is empty. -/
  | cropStoreWrite (size : Bool) (v : Word)
  /-- LIFE_CYCLE_TRANSITION (R426): A confirmed request advances the life-cycle state through key generation, fuse burning and wipes, then
  a cold reset. -/
  | lifeCycleTransition (v : Word) (failed : List (Fin 4 × Fin 8))
  /-- SVN_UP (R428): A write of svn_up burns svn fuses up to the booted image's svn. -/
  | svnUp
  /-- KEY_PROGRAM (R428): A write of prog burns the key window into the selected Blend-signer key slot. -/
  | keyProgram (v : Word)
  /-- KEY_REVOKE (R428): A write of revoke burns the revoked fuse of the selected key slot. -/
  | keyRevoke (v : Word)
  /-- FLASH_READ_PAGE (R424): SEC.FL_CTRL op 1 reads a flash page into the page buffer. -/
  | flashReadPage
  /-- FLASH_PROGRAM_PAGE (R424): SEC.FL_CTRL op 2 programs a flash page from the buffer, or is refused in the booted slot. -/
  | flashProgramPage
  /-- FLASH_ERASE (R424): SEC.FL_CTRL op 3 erases 64 KiB of flash, or is refused in the booted slot. -/
  | flashErase
  /-- FLASH_OP_DONE (R424): A flash operation completes, clearing busy and recording its result code. -/
  | flashOpDone
  /-- DEBUG_CHALLENGE (R432): A write of chal builds a new debug challenge for a scope and discards any earlier one. -/
  | debugChallenge (v : Word)
  /-- DEBUG_SUBMIT (R432): A write of submit consumes the challenge and starts verifying the response. -/
  | debugSubmit
  /-- DEBUG_VERIFY_DONE (R433): Verification of a debug response ends, unlocking its scope or raising E-0C32. -/
  | debugVerifyDone
  /-- PROBE_ARM (R203): A write of arm starts probe capture waiting for its trigger. -/
  | probeArm (v : Word)
  /-- PROBE_FORCE (R203): A write of force triggers the probe capture now. -/
  | probeForce (v : Word)
  /-- PROBE_TRIGGER (R203): The masked probe bus matches the trigger value and capture begins counting post samples. -/
  | probeTrigger (mesh : List LogicNets)
  /-- PROBE_CAPTURE_DONE (R203): The post samples have been recorded and capture stops. -/
  | probeCaptureDone (mesh : List LogicNets)
  /-- JTAG_BOUNDARY_SCAN (R434): A boundary-scan hold instruction holds the device in cold reset until it is left. -/
  | jtagBoundaryScan (hold : Bool) (failed : List (Fin 4 × Fin 8))
  /-- ENCODER_EDGE (R270): An accepted quadrature edge moves the 48-bit position, or raises a phase error. -/
  | encoderEdge (a b a' b' : Bool) (now : Nat)
  /-- TRIGGER_TIMER (R272): A timer-source trigger generator's period expires and it fires. -/
  | triggerTimer (k : Fin 8) (now : Nat)
  /-- MARKER_WIDTH_EXPIRY (R275): A time-mode marker output's width expires and the output returns from its active level. -/
  | markerWidthExpiry (k : Fin 16)
  /-- STREAM_PACKET (R259): A CoaXPress stream packet is checked and its pixels assembled into camera lines, or discarded on error. -/
  | streamPacket (p : StreamPkt)
  /-- REPLY_OR_EVENT_PACKET (R260): A control reply or event packet on a master link is stored in the receive mailbox, or lost when it is
  full. -/
  | replyOrEventPacket (c : Fin 4) (ev : Bool) (bs : List Byte)
  /-- HEARTBEAT_TIMEOUT (R260): A camera's heartbeat has not arrived for 1 s and E-0206 is raised. -/
  | heartbeatTimeout (c : Fin 4)
  /-- LINK_LOCK_LOST (R262): A downlink loses lock, raising E-0201, and its camera's lines become missing. -/
  | linkLockLost (l : Fin 8)
  /-- LINK_RELOCK (R262): A downlink relocks and its camera's lines are taken again from a clean line start. -/
  | linkRelock (l : Fin 8)
  /-- LINE_COMPLETE (R261): Every enabled camera has delivered its line for a trigger and the device line completes. -/
  | lineComplete
  /-- LINE_TIMEOUT (R261): A camera line has not arrived within timeout_us and is marked missing and substituted. -/
  | lineTimeout (c : Fin 4)
  /-- HALO_TIMEOUT (R268): A halo has not arrived within halo_to_us and is replaced by poisoned zp pixels. -/
  | haloTimeout (line : Nat) (plane : Fin 8) (right : Bool)
  /-- LINE_START (R25): The Stamp sends a line into the array once both halos are held, numbering and tagging it. -/
  | lineStart
  /-- FREQUENCY_CHANGE (R395): The frequency window's 64 settle-free periods end and the clock takes its new period at S_b. -/
  | frequencyChange
  /-- IDLE (R45): The sequencer spends n + 1 ac with the datapath doing nothing. -/
  | idle (t : TileRef)
  /-- LOOP (R46): The sequencer opens a loop on a counter, loading it directly or from a loop-count register. -/
  | loop (t : TileRef)
  /-- FIRE (R49): The sequencer performs len datapath firings under an operation descriptor. -/
  | fire (t : TileRef)
  /-- WAIT_LINE (R50): A WAIT LINE completes in the first ac its line latch is above 0 and decrements it. -/
  | waitLine (t : TileRef)
  /-- WAIT_BAND (R179): A WAIT BAND completes on a latched band event, starting the next band at the tile. -/
  | waitBand (t : TileRef) (hits : List Upset)
  /-- JUMP (R45): The sequencer moves control to a target pc without taking time. -/
  | jump (t : TileRef)
  /-- ROT (R53): The sequencer advances a generator's rot value by rot_step, wrapped. -/
  | rot (t : TileRef)
  /-- HALT (R45): The sequencer halts until the next START_JOB or a Vintage change at the tile. -/
  | halt (t : TileRef)
  /-- FIRING (R68): One datapath firing completes in the ac every input holds a word and every output has room. -/
  | firing (t : TileRef) (hits : List Upset)
  /-- DRAIN_DONE (R59): The drain makes its last read of a bank, freeing it for a waiting hand-over. -/
  | drainDone (t : TileRef)
  /-- JOIN (R162): An arrival-fired RK unit joins its token with the data its kind needs and steers the data. -/
  | join (t : TileRef) (u : Fin 4)
  /-- FLIT_EMISSION (R147): A source emits a held flit on its circuit in a slot of that circuit in which it has credit. -/
  | flitEmission (src : SrcRef)
  /-- CREDIT_ARRIVAL (R145): A credit freed by a sink reaches the source L ac later and increments its counter. -/
  | creditArrival (src : SrcRef) (snk : SnkRef)
  /-- FLIT_ARRIVAL (R146): A flit arrives at a switch point or input stage after its route time. -/
  | flitArrival (n : Nat) (code : BridgeCode) (eg : Option (Fin 16))
  /-- CASK_WORD_WRITE (R151): A word is written into a cask in the ac it arrives, with its parity stored. -/
  | caskWordWrite (c : CaskRef)
  /-- CASK_WORD_READ (R151): A cask word is read when offered and the consumer has credit, freeing an entry and sending a credit. -/
  | caskWordRead (c : CaskRef) (flip : Bool) (hits : List Upset)
  /-- CASK_POINTER_MISMATCH (R158): The duplicate pointers of a privileged cask differ and the cask resets with E-0603. -/
  | caskPointerMismatch (c : CaskRef) (rp wp cnt : Nat)
  /-- BROADCAST_EVENT (R177): The Terrace broadcast delivers a line or band event to tiles with event port 0xF at S + bc_lag. -/
  | broadcastEvent (t : TileRef)
  /-- PARTIAL_ENTRY_SEND (R100): A collecting tile sends its band maximum as a partial entry 4 ac after holding its band event and
  predecessor's partial. -/
  | partialEntrySend (t : TileRef)
  /-- GAIN_ENTRY_SEND (R101): The lead computes the next band's gain and sends the gain entry on the scale stream. -/
  | gainEntrySend (t : TileRef)
  /-- DECANT (R166): A cycle waiting 4,096 ac without movement has its designated cask moved to its spill ring. -/
  | decant (cyc : Fin 32)
  /-- REFILL (R168): The controller fills a spilled cask's refill buffer from the head of its spill ring. -/
  | refill (c : CaskRef)
  /-- SWITCH_COMPLETE (R191): Every target tile has started band b, and the outgoing tables are dropped and SWITCH_VINTAGE completes. -/
  | switchComplete
  /-- REMOTE_HOLD_RELEASE (R181): The array runs a held remote-read ac 24 ACLK periods after the late word is written. -/
  | remoteHoldRelease
  /-- HOLD_LIMIT_EXPIRY (R182): Remote and system holds exceed HUB.HOLD_LIMIT, raising E-0721 and ending the job at once. -/
  | holdLimitExpiry
  /-- JOB_END (R194): After the stop the array runs until the due verdicts are held or 2A ac pass, then halts and the job ends. -/
  | jobEnd
  /-- FILL_RECORDS_DONE (R112): Every MM tile reports its fills complete and START_JOB completes with the first line-start released. -/
  | fillRecordsDone
  /-- VERDICT_VECTOR (R284): The aggregator takes one verdict vector and forms the verdict class and flags. -/
  | verdictVector (t io : Fin 4) (src : SrcRef)
  /-- FEATURE_VECTOR (R289): The feature tap delivers one patch's feature vector, which waits in region 2 or is discarded when full. -/
  | featureVector (t io : Fin 4) (src : SrcRef)
  /-- CROP_CUT (R291): The crop cutter takes a request once its window rows have arrived, or reports it absent. -/
  | cropCut
  /-- STREAM_BURST (R301): A Stream-engine channel moves one burst when its class has beats and its pace allows. -/
  | streamBurst (n : Fin 16) (hits : List Upset)
  /-- DESCRIPTOR_COMPLETE (R304): A descriptor completes and the channel takes the shadow, the next descriptor or goes idle. -/
  | descriptorComplete (n : Fin 16) (next : List Word)
  /-- READ_COMPLETION_ERROR (R306): A source read ends in a completion or address error and the channel halts with coordinates. -/
  | readCompletionError (n : Fin 16)
  /-- COMPLETION_TIMEOUT (R306): A source read has no completion within 50 ms and the channel halts with E-0A11. -/
  | completionTimeout (n : Fin 16)
  /-- DEVICE_RING_WRITE (R319): A waiting completion, record or crop chunk is written into a free ring slot with its phase bit. -/
  | deviceRingWrite (r : Fin 5)
  /-- RING_IRQ_TIMER (R323): time_us passes after the first unsignalled ring entry and the ring raises its vector. -/
  | ringIrqTimer (r : Fin 5)
  /-- FRAME (R355): A Trellis frame is received and decoded, delivering its control unit and message units. -/
  | frame (p : Fin 2) (f : FrameIn)
  /-- SEGMENT_DOWN (R377): A segment goes down on lost block lock or four failed sendings, raising E-0903 and sending REPAIR. -/
  | segmentDown (p : Fin 2)
  /-- REMOTE_WRITE (R360): A remote write message is written into region 6 of the destination or dropped as a violation. -/
  | remoteWrite
  /-- FETCH_ADD (R361): A fetch-add message atomically adds to a word and optionally returns the old value. -/
  | fetchAdd
  /-- HALO_WRITE (R362): A halo write message places its pixels into the named halo of the named plane line. -/
  | haloWrite
  /-- CASK_WRITE (R363): A cask write message delivers remote-stream flits into an ingress buffer. -/
  | caskWrite
  /-- CASK_CREDIT (R363): A cask credit message returns end-to-end credits to a remote stream egress. -/
  | caskCredit
  /-- CENSUS (R353): A CENSUS token is received and its device recorded in the route map. -/
  | census
  /-- TIME (R367): A TIME token's arrival is recorded for calibration of offsets, `now` being the arrival in 0.5 ns; `res`, with which the
  calibration closes, brings the transits the devices recorded of each segment in ring order, towards port 1 and towards port 0. -/
  | time (now : Nat) (res : Option (List (Int × Int)))
  /-- ARRIVE (R373): An ARRIVE token is received and forwarded towards the root once its side has arrived. -/
  | arrive
  /-- RELEASE (R373): A RELEASE token completes a barrier, snapshot or repair on the device. -/
  | release
  /-- START (R368): A START token names the start tick, band length and bin of a system job. -/
  | start
  /-- LINE0 (R369): A LINE0 token gives the root's job line 0 time, and the device chooses its own job line 0. -/
  | line0 (far : Bool)
  /-- THROTTLE (R371): A THROTTLE token records a device's bin announcement for a band. -/
  | throttle
  /-- HOLD_ON (R371): A HOLD_ON token names a tick at which a system hold starts. -/
  | holdOn
  /-- HOLD_OFF (R371): A HOLD_OFF token names a tick at which the matching system hold ends. -/
  | holdOff
  /-- REPAIR (R377): A REPAIR token names a tick at which the system holds and reroutes around a segment. -/
  | repair
  /-- RESET (R376): A RESET token names a tick at which every device takes an array reset. -/
  | reset
  /-- SYSTEM_START_TICK (R368): At tick E plus trim the device runs its first run ac of the system job. -/
  | systemStartTick (now : Nat)
  /-- SYSTEM_HOLD_TICK (R371): At a hold's named tick the system hold cause turns on or off. -/
  | systemHoldTick (now : Nat)
  /-- REPAIR_TICK (R377): At the repair tick the device holds, stops new messages and routes around the break. -/
  | repairTick (now : Nat)
  /-- GRAFT_STEP (R244): A Graft step starts, forming the deployed head and running forward and backward passes. -/
  | graftStep
  /-- GRAFT_STEP_END (R246): A step ends by updating masters and optimiser state and flipping the bank. -/
  | graftStepEnd (poisoned : Bool)
  /-- COMMIT_STAGING_DONE (R252): Staging of a commit's weights into the idle copies completes. -/
  | commitStagingDone (poisoned : Bool)
  /-- COMMIT_COMPLETE (R252): Every head tile has changed copy, the generation advances and GRAFT_COMMIT completes. -/
  | commitComplete
  /-- TELEMETRY_SAMPLE (R398): The 1 ms PMBus sample updates power and energy and the governor makes its cap decision. -/
  | telemetrySample (ans : List RegAnswer)
  /-- THERMAL_SAMPLE (R404): The 100 µs sensor reading updates T and the governor moves b_therm. -/
  | thermalSample (readings : List Int)
  /-- THERMAL_TRIP (R406): A sensor comparator trips at 125 °C, stopping the array clocks and ending the job at once. -/
  | thermalTrip
  /-- SUPPLY_WARNING (R402): A VDD_T falls below its warning level and a settle starts. -/
  | supplyWarning (k : Supply)
  /-- SETTLE_END (R402): 256 normal-length periods after the last supply recovers, the settle ends. -/
  | settleEnd
  /-- BROWN_OUT_TIMEOUT (R403): A supply below warning for more than 1 ms triggers Park or a warm reset by policy. -/
  | brownOutTimeout (failed : List (Fin 4 × Fin 8))
  /-- LOAM_RAMP_STEP (R407): After a release the filler fraction falls by one of 16 steps every 625 ns. -/
  | loamRampStep
  /-- HYPERRAM_SCRUB (R346): The HyperRAM scrubber reads one block and writes it back corrected or poisoned. -/
  | hyperramScrub (off : Nat) (hits : List Upset)
  /-- HYPERRAM_SCRUB_LATE (R346): A HyperRAM scrub pass has not ended 60 s after it began and E-0813 is raised. -/
  | hyperramScrubLate
  /-- HYPERRAM_INIT_DONE (R349): A channel finishes initialising every block and reports ready. -/
  | hyperramInitDone (c : Fin 4)
  /-- SRAM_SCRUB (R441): The on-chip scrubber reads one codeword in a free ac and writes it back corrected or poisoned. -/
  | sramScrub (w : ScrubAt) (hits : List Upset) (endPass : Bool)
  /-- SRAM_SCRUB_LATE (R442): An on-chip scrub pass has not ended 2 s after it began and E-0803 is raised. -/
  | sramScrubLate
  /-- ECC_WINDOW_EVAL (R444): Once per window the Cellarmaster evaluates the Row counts and sets the ECC alert. -/
  | eccWindowEval
  /-- POWER_REMOVAL (R382): Removal of power takes the device to Off, losing everything but class F. -/
  | powerRemoval
  /-- RESET_BALL_RELEASE (R411): COLD_RST_N, WARM_RST_N or PERST_N rises and the reset held by the ball proceeds. -/
  | resetBallRelease (b : Fin 3)
  /-- D3HOT_EXIT (R382): A host write of D0 to the power-state field takes the device out of Park within 2 ms. -/
  | d3hotExit (failed : List (Fin 4 × Fin 8))
  /-- TRELLIS_PORT_UP (R353): A port gains block and frame lock on all lanes in both directions, and CENSUS tokens go out once every
  connected port is up. -/
  | trellisPortUp (p : Fin 2) (all chain : Bool)
  /-- HEARTBEAT_PACKET (R260): A camera heartbeat packet arrives and restarts that camera's 1 s heartbeat watch. -/
  | heartbeatPacket (c : Fin 4)
  /-- MAILBOX_SENT (R260): The framed control packet has left on the uplink and MBX_CTRL.go clears. -/
  | mailboxSent (c : Fin 4)
  /-- TRIGGER_PULSE_END (R272): A fired trigger output's width × 10 ns expires and TRIG_OUTk leaves its active level. -/
  | triggerPulseEnd (k : Fin 8)
  /-- SUPPLY_RECOVERY (R402): A supply rises back above its warning level, ending the brown-out timer and starting the 256-period settle
  tail. -/
  | supplyRecovery (k : Supply)
  /-- LOAD_BLEND_DONE (R221): Reading, measuring and verifying the image end, and LOAD_BLEND completes and marks the slot valid or invalid. -/
  | loadBlendDone (image : List Byte) (bad : Nat)
  /-- PLACE_DONE (R227): PLACE ends its maintenance writes, computes the digests, sets the placed bit and completes. -/
  | placeDone
  /-- HYPERRAM_WRITE_ACCEPTED (R344): The HyperRAM controller finishes a write transaction, releasing waiting fences and barrier descriptors. -/
  | hyperramWriteAccepted (ch : Fin 4)
  /-- PCIE_READ_COMPLETION (R304): A successful PCIe read completion delivers requested data, including the barrier's final 4-byte read. -/
  | pcieReadCompletion (n : Fin 16) (bs : List Byte)
  /-- ROW_POWER_UP_DONE (R386): The Rows used by a switch target finish powering up within 20 µs, so boundaries become eligible. -/
  | rowPowerUpDone
  /-- HINT_MARGIN_START (R400): 1 ms before the expected S of a hinted first band, the hint margin is added to the VDD_T setpoints. -/
  | hintMarginStart
  /-- LINE_RECORDING_START (R369): At E − 10 µs each device starts recording line trigger times and keeping those lines in its plane rings. -/
  | lineRecordingStart
  /-- LOGIC_CELL_CYCLE (R197): A clock-tree edge updates the logic-cell flip-flops and LUT RAMs of a Row, driving ports and marker lanes. -/
  | logicCellCycle (t : Fin 4) (row : Fin 9) (tree : Fin 4) (mesh : LogicNets) (io : LogicIo)
deriving DecidableEq, Repr

end Sys2Proof
end

