-- ==== Sys2Proof/Machine/Store.lean ====
section
/-!
DEFINITION. Machine/Store.lean: the one sparse store every memory and register space of the block uses, and the
bit-field and byte helpers the meanings share (R2).
-/
namespace Sys2Proof.Machine

/-- Read key `k`; an unlisted key reads as `d k`. -/
def sget {β : Type} (d : Nat → β) : SMap β → Nat → β
  | [], k => d k
  | (k', v) :: m, k => if k' = k then v else sget d m k

/-- Remove key `k`. -/
def serase {β : Type} : SMap β → Nat → SMap β
  | [], _ => []
  | (k', v) :: m, k => if k' = k then serase m k else (k', v) :: serase m k

/-- Insert key `k` in order, replacing an entry of the same key. -/
def sinsert {β : Type} : SMap β → Nat → β → SMap β
  | [], k, v => [(k, v)]
  | (k', v') :: m, k, v =>
    if k < k' then (k, v) :: (k', v') :: m
    else if k' = k then (k, v) :: m
    else (k', v') :: sinsert m k v

/-- Write key `k`; writing what an unlisted key reads as removes the entry. -/
def sset {β : Type} [DecidableEq β] (d : Nat → β) (m : SMap β) (k : Nat) (v : β) : SMap β :=
  if v = d k then serase m k else sinsert m k v

/-- Every key of `m` lies above `lo`, keys rise strictly and no entry equals its default. -/
def swfFrom {β : Type} [DecidableEq β] (d : Nat → β) : Nat → SMap β → Bool
  | _, [] => true
  | lo, (k, v) :: m => lo ≤ k && !(v == d k) && swfFrom d (k + 1) m

/-- The canonical form. -/
def swf {β : Type} [DecidableEq β] (d : Nat → β) (m : SMap β) : Bool := swfFrom d 0 m

/-- The default of maps whose unlisted keys read 0.
(DESIGN CHOICE, log 8) -/
def zeroB : Nat → Byte := fun _ => 0
/-- The default of word maps whose unlisted keys read 0. -/
def zeroW : Nat → Word := fun _ => 0
/-- The default of flag maps. -/
def zeroF : Nat → Bool := fun _ => false
/-- The default of integer maps. -/
def zeroI : Nat → Int := fun _ => 0
/-- The default of count maps. -/
def zeroN : Nat → Nat := fun _ => 0

/-- Bits `lo + w - 1 : lo` of a number (R2). -/
def bitsN (x lo w : Nat) : Nat := (x >>> lo) % 2 ^ w
/-- Bit `i` of a number. -/
def bitN (x i : Nat) : Bool := (x >>> i) % 2 == 1
/-- Bits `lo + w - 1 : lo` of a word. -/
def bitsW (x : Word) (lo w : Nat) : Nat := bitsN x.toNat lo w
/-- Bit `i` of a word. -/
def bitW (x : Word) (i : Nat) : Bool := x.getLsbD i
/-- A `w`-bit two's-complement number read as an integer (R2). -/
def signed (w x : Nat) : Int := if x % 2 ^ w < 2 ^ (w - 1) then (x % 2 ^ w : Nat) else (x % 2 ^ w : Nat) - (2 ^ w : Nat)
/-- The `w`-bit two's-complement code of an integer. -/
def unsigned (w : Nat) (x : Int) : Nat := (x % (2 ^ w : Nat)).toNat
/-- Clamp an integer. -/
def clampI (lo hi x : Int) : Int := if x > hi then hi else if x < lo then lo else x
/-- Saturation to `w` signed bits. -/
def satI (w : Nat) (x : Int) : Int := clampI (-(2 ^ (w - 1) : Nat)) ((2 ^ (w - 1) : Nat) - 1) x
/-- Arithmetic right shift of an exact integer (00, 0.5). -/
def asr (x : Int) (n : Nat) : Int := x / (2 ^ n : Nat)
/-- Saturating count of `w` bits. -/
def satAdd (w x n : Nat) : Nat := if x + n > 2 ^ w - 1 then 2 ^ w - 1 else x + n
/-- The bytes of a number, lowest first (R2). -/
def bytesOf : Nat → Nat → List Byte
  | 0, _ => []
  | n + 1, x => BitVec.ofNat 8 x :: bytesOf n (x / 256)
/-- The number little-endian bytes spell (R2). -/
def ofBytes : List Byte → Nat
  | [] => 0
  | b :: bs => b.toNat + 256 * ofBytes bs
/-- Flit data from 32 bytes, lowest first. -/
def dataOf (bs : List Byte) : Data := BitVec.ofNat 256 (ofBytes bs)
/-- Byte `i` of flit data. -/
def dataByte (d : Data) (i : Nat) : Byte := BitVec.ofNat 8 (d.toNat >>> (8 * i))
/-- The 32 bytes of flit data. -/
def dataBytes (d : Data) : List Byte := bytesOf 32 d.toNat
/-- Signed byte `i` of flit data. -/
def dataS8 (d : Data) (i : Nat) : Int := (dataByte d i).toInt
/-- 32-bit signed value `i` of flit data. -/
def dataS32 (d : Data) (i : Nat) : Int := signed 32 (d.toNat >>> (32 * i))
/-- Pack integers as `w`-bit codes, lowest first. -/
def packI (w : Nat) : List Int → Nat
  | [] => 0
  | x :: xs => unsigned w x + 2 ^ w * packI w xs
/-- Flit data from 32-bit signed values. -/
def dataOfI32 (xs : List Int) : Data := BitVec.ofNat 256 (packI 32 xs)
/-- Flit data from INT8 codes. -/
def dataOfI8 (xs : List Int) : Data := BitVec.ofNat 256 (packI 8 xs)
/-- Element `i` of a list, with a default. -/
def nth {α : Type} (d : α) : List α → Nat → α
  | [], _ => d
  | x :: _, 0 => x
  | _ :: xs, i + 1 => nth d xs i
/-- Replace element `i` of a list. -/
def setNth {α : Type} : List α → Nat → α → List α
  | [], _, _ => []
  | _ :: xs, 0, v => v :: xs
  | x :: xs, i + 1, v => x :: setNth xs i v
/-- Remove element `i` of a list. -/
def dropNth {α : Type} : List α → Nat → List α
  | [], _ => []
  | _ :: xs, 0 => xs
  | x :: xs, i + 1 => x :: dropNth xs i
/-- Remove the first element that satisfies `p`. -/
def eraseFirst {α : Type} (p : α → Bool) : List α → List α
  | [] => []
  | x :: xs => if p x then xs else x :: eraseFirst p xs
/-- The largest of a list of numbers, 0 when empty. -/
def maxN (xs : List Nat) : Nat := xs.foldl Nat.max 0
/-- The exact sum of a list. -/
def sumI (xs : List Int) : Int := xs.foldl (· + ·) 0
/-- Do two closed ranges meet? -/
def rangesMeet (a b c d : Nat) : Bool := a ≤ b && c ≤ d && a ≤ d && c ≤ b
/-- ⌈a / b⌉. -/
def cdiv (a b : Nat) : Nat := (a + b - 1) / b

end Sys2Proof.Machine
end

