-- ==== Sys2Proof/Machine/Arith.lean ====
section
/-!
DEFINITION. Machine/Arith.lean: the bit-exact arithmetic of the array as pure functions: accumulation and codebook (R83–R88),
requantisation, activation and softmax (R92–R96), scale adaptation (R101–R104), Winograd (R115–R119), pooling and
resampling (R124), and the Silt codec (R130). Values are exact integers, narrowed where the pseudocode narrows (R14).
-/
namespace Sys2Proof.Machine

/-! ## Accumulation (R83) -/

/-- Σ a_r · w_r over two lists of the same rows. -/
def dot : List Int → List Int → Int
  | a :: as, w :: ws => a * w + dot as ws
  | _, _ => 0

/-- A 32-bit saturated value with whether it saturated. -/
def sat32c (x : Int) : Int × Bool :=
  if x > 2147483647 then (2147483647, true) else if x < -2147483648 then (-2147483648, true) else (x, false)

/-- Read a `w`-bit field at a bit offset of a byte string (R81). -/
def bitsAt (bs : List Byte) (off w : Nat) : Nat :=
  let k := off / 8
  bitsN (ofBytes ((bs.drop k).take 3)) (off % 8) w

/-- The INT8 activations of an A-in flit (R82). -/
def actI8 (d : Data) : List Int := (List.range 16).map (dataS8 d)
/-- The INT4 activations of an A-in flit (R82). -/
def actI4 (d : Data) : List Int := (List.range 32).map fun r => signed 4 (d.toNat >>> (4 * r))

/-- Column `c` of an INT8 weight set (Table 3.2). -/
def colI8 (ws : List Byte) (c : Nat) : List Int := (List.range 16).map fun r => signed 8 (bitsAt ws (8 * (32 * r + c)) 8)
/-- Column `c` of an INT4 weight set. -/
def colI4 (ws : List Byte) (c : Nat) : List Int := (List.range 32).map fun r => signed 4 (bitsAt ws (4 * (32 * r + c)) 4)

/-- One codebook product sum for column `c` (R87), and whether an index reached its group's size (R88). -/
def cbRow (ws book : List Byte) (b c : Nat) (a : Int) (r : Nat) : Int × Bool :=
  let i := bitsAt ws (b * (64 * r + c)) b
  let g := c / 8
  let n := Nat.min (nth 0 book (128 + g)).toNat 16
  if i ≥ n then (0, true) else (a * (nth 0 book (16 * g + i)).toInt, false)

/-- The product sum of a codebook column over the 16 rows. -/
def cbCol (ws book : List Byte) (b c : Nat) (as : List Int) : Int × Bool :=
  let ps := (List.range 16).map fun r => cbRow ws book b c (nth 0 as r) r
  (sumI (ps.map (·.1)), ps.any (·.2))

/-- Column `c` of a transformed Winograd weight set: 12-bit values (R117). -/
def colWino (ws : List Byte) (c : Nat) : List Int := (List.range 16).map fun r => signed 12 (bitsAt ws (12 * (32 * r + c)) 12)

/-! ## Winograd transforms (R115) -/

def matBT : List (List Int) := [[1, 0, -1, 0], [0, 1, 1, 0], [0, -1, 1, 0], [0, 1, 0, -1]]
def matGP : List (List Int) := [[2, 0, 0], [1, 1, 1], [1, -1, 1], [0, 0, 2]]
def matAT : List (List Int) := [[1, 1, 1, 0], [0, 1, -1, -1]]
/-- Entry of a matrix. -/
def ent (m : List (List Int)) (i j : Nat) : Int := nth 0 (nth [] m i) j

/-- Σ over k, l of L[i][k] · d[k][l] · L[j][l]. -/
def sandwich (m : List (List Int)) (n : Nat) (d : Nat → Nat → Int) (i j : Nat) : Int :=
  sumI ((List.range n).map fun k => sumI ((List.range n).map fun l => ent m i k * d k l * ent m j l))

/-- Transformed input value V[4i + j] of one channel of a raw block of 16 flits, flit 4k + l at row k and column l (R116). -/
def winoV (block : List Data) (r xi : Nat) : Int :=
  sandwich matBT 4 (fun k l => dataS8 (nth 0 block (4 * k + l)) r) (xi / 4) (xi % 4)

/-- The weight transform, which the compiler does (R115). -/
def winoU (g : Nat → Nat → Int) (xi : Nat) : Int := sandwich matGP 3 g (xi / 4) (xi % 4)

/-- The drained value before the initial value is added, shifted right by 2 (R115). -/
def winoY (acc : Nat → Int) (u v : Nat) : Int :=
  asr (sandwich2 acc u v) 2
where
  sandwich2 (acc : Nat → Int) (u v : Nat) : Int :=
    sumI ((List.range 4).map fun i => sumI ((List.range 4).map fun j => ent matAT u i * ent matAT v j * acc (4 * i + j)))

/-! ## Requantisation, activation, softmax (R92–R96) -/

/-- rq_t of R92: the intermediate t and whether it was clamped. -/
def rqT (acc m : Int) (sh : Nat) : Int × Bool :=
  let p := acc * m
  let p := if sh > 0 then asr (p + (2 ^ (sh - 1) : Nat)) sh else p
  if p > 32767 then (32767, true) else if p < -32768 then (-32768, true) else (p, false)

/-- out of R92: the code and whether it saturated. -/
def outQ (y zp lo hi : Int) : Int × Bool :=
  let q := y + zp
  if q > hi then (hi, true) else if q < lo then (lo, true) else (q, false)

/-- One segment's coefficients c0, c1, c2 (R93). -/
structure Seg where
  c0 : Int
  c1 : Int
  c2 : Int
deriving DecidableEq, Repr

/-- seg of R94 on a table of 64 segments. -/
def segEval (tab : Nat → Seg) (t : Int) : Int :=
  let i := (asr (t + 32768) 10).toNat
  let u := t - (1024 * (i : Int) - 32768)
  let g := tab i
  let v := g.c1 * u * 1024 + g.c2 * u * u
  g.c0 + asr (v + 524288) 20

/-- Softmax of R96: output codes in class order. -/
def softmax (tab : Nat → Seg) (xs : List Int) : List Int :=
  let mx := xs.foldl max (nth 0 xs 0)
  let es := xs.map fun x => clampI 0 32767 (segEval tab (128 * (x - mx)))
  let S := sumI es
  es.map fun e => (if S = 0 then 0 else (e * 255 + S / 2) / S) - 128

/-- sat16((mult × g + 8,192) >> 14) (R104). -/
def scaleMult (mult : Int) (g : Nat) : Int := satI 16 (asr (mult * g + 8192) 14)

/-- The initial value with scaled_bias (R84). -/
def scaledBias (b zterm : Int) (g : Nat) : Int := satI 32 (asr (b * g + 8192) 14 + zterm)

/-- The lead's result (R101): next gain, whether lim bound it, whether g_min or g_max bound it. -/
def nextGain (g M h T lim gmin gmax : Nat) : Nat × Bool × Bool :=
  let gn := if h = 0 ∨ M = 0 then g else (g * T * 256 + M * h / 2) / (M * h)
  let d := g >>> Nat.min lim 8
  let gl := if lim = 0 then gn else if gn > g + d then g + d else if gn < g - d then g - d else gn
  let g1 := if gl > gmax then gmax else gl
  let lo := Nat.max gmin 1
  let g2 := if g1 < lo then lo else g1
  (g2, gl != gn, g2 != gl)

/-- The reciprocal of a gain (R101).
(DESIGN CHOICE, log 176) -/
def rcpOf (g : Nat) : Nat := if g = 0 then 65535 else Nat.min 65535 ((2 ^ 28 + g / 2) / g)

/-! ## Pooling and resampling (R124) -/

/-- Max pooling of one lane. -/
def poolMax : List Int → Int
  | [] => 0
  | x :: xs => xs.foldl max x

/-- Average pooling of one lane before requantisation: Σ (e − zp_in). -/
def poolSum (zp : Int) (xs : List Int) : Int := sumI (xs.map fun e => e - zp)

/-- Resampling of one lane. -/
def resample (w : List Int) (zp : Int) (xs : List Int) : Int :=
  satI 8 (asr (dot w (xs.map fun e => e - zp) + 8) 4 + zp)

/-! ## The Silt codec (R127–R130) -/

/-- half of R130. -/
def half (k : Nat) : Nat := if k = 0 then 0 else 2 ^ (k - 1)

/-- The smallest shift from `k` on that fits, `fuel` tries. -/
def siltK (D qmax : Nat) : Nat → Nat → Nat
  | 0, k => k
  | f + 1, k => if (D + half k) >>> k > qmax then siltK D qmax f (k + 1) else k

/-- silt_enc as one number, bit 0 lowest. -/
def siltEncN (x : List Int) (n : Nat) : Nat :=
  let m := x.foldl min (nth 0 x 0)
  let mx := x.foldl max (nth 0 x 0)
  let D := (mx - m).toNat
  let k := siltK D (2 ^ n - 1) 9 0
  let idx := x.map fun v => (((v - m).toNat + half k) >>> k) % 2 ^ n
  unsigned 8 m + 2 ^ 8 * (k + 2 ^ 3 * idx.foldr (fun i acc => i + 2 ^ n * acc) 0)

/-- silt_dec from one number. -/
def siltDecN (e n : Nat) : List Int :=
  let m := signed 8 e
  let k := bitsN e 8 3
  (List.range 16).map fun i => min (m + ((bitsN e (11 + n * i) n) <<< k : Nat)) 127

/-- Bytes of an encoded block at ratio code 0 (1:1), 1 (3:4) or 2 (1:2) (R127). -/
def siltBytes (ratio : Nat) : Nat := if ratio = 0 then 16 else if ratio = 1 then 12 else 8
/-- Index bits at a ratio. -/
def siltN (ratio : Nat) : Nat := if ratio = 1 then 5 else 3

/-- Encode 16 codes given as bytes. -/
def siltEncBlock (ratio : Nat) (bs : List Byte) : List Byte :=
  if ratio = 0 then bs else bytesOf (siltBytes ratio) (siltEncN (bs.map (·.toInt)) (siltN ratio))
/-- Decode a block to 16 bytes. -/
def siltDecBlock (ratio : Nat) (bs : List Byte) : List Byte :=
  if ratio = 0 then bs else (siltDecN (ofBytes bs) (siltN ratio)).map fun v => BitVec.ofInt 8 v

/-- Encode a flit (R127). -/
def siltEnc (ratio : Nat) (d : Data) : List Byte :=
  siltEncBlock ratio ((dataBytes d).take 16) ++ siltEncBlock ratio ((dataBytes d).drop 16)
/-- Decode a flit. -/
def siltDec (ratio : Nat) (bs : List Byte) : Data :=
  let w := siltBytes ratio
  dataOf (siltDecBlock ratio (bs.take w) ++ siltDecBlock ratio (bs.drop w))

end Sys2Proof.Machine
end

