-- ==== Sys2Proof/Config.lean ====
section
/-!
DEFINITION. Config.lean: the values the spec leaves open, as constants without a body. Nothing can be proved of a value of
theirs, so a statement about one holds for every value.
-/
namespace Sys2Proof.Config

/-- A fresh open value: the index is the state's counter of open values, which each use advances.
(DESIGN CHOICE, log 5) -/
opaque freeNat : Nat → Nat

/-- How many bytes of a record region of the given size the patch-verdict queue takes; the defect queue has the rest (R288 names
no division).
(DESIGN CHOICE, log 31) -/
opaque recSplit : Nat → Nat

/-- Does a flit of a tile end its packet? By the tile's key, the output port, the Vintage, the band and the flit's number in the band; no rule
says which flit of a tile does (R144).
(DESIGN CHOICE, log 141) -/
opaque tileLast (tile port vint band n : Nat) : Bool
/-- Which flits of a plane's job line end a packet, a bit for each.
(DESIGN CHOICE, log 141) -/
opaque lineLast (plane line : Nat) : Nat

/-- The priorities of channels 6 and 7 of the Stream engine, which R297 does not give.
(DESIGN CHOICE, log 128) -/
opaque cmdPrio : Nat → Nat

/-- Where in the HyperRAM region of a Vintage the feature store and the sample pool lie, which R239 does not give.
(DESIGN CHOICE, log 40) -/
opaque graftOff : Nat → Nat

/-- The wiring of the logic cells of a Terrace, for which the spec gives no map (R198, R222). A lane is 2048 · Row + 32 · block + w for
routing word 32 + w of a block, or, within a Row, 32 · block + w; a larger number is no lane. The lane that drives mesh segment 256 · Row
+ segment.
(DESIGN CHOICE, log 75) -/
opaque segFrom : Nat → Nat
/-- The lane of a Row that drives a lane of its crossbar.
(DESIGN CHOICE, log 75) -/
opaque xbarFrom : Nat → Nat
/-- The lane of a Row that drives bit 512 · port + b of its ports: data (b below 256), poison, tag, last, ev_line, ev_band, smk.
(DESIGN CHOICE, log 75) -/
opaque portFrom : Nat → Nat
/-- The lane of a Row that drives a marker lane.
(DESIGN CHOICE, log 75) -/
opaque markFrom : Nat → Nat

/-- The level on output ball `k` (markers 0–15, triggers 16–23, probe 24–31) while the device has no power (17 R459), for each value of the
state's counter of open values; none is high-impedance.
(DESIGN CHOICE, log 208) -/
opaque offBall : Nat → Nat → Option Bool

/-- The value of firmware-signer key `k`, fused at manufacture (15 R428).
(DESIGN CHOICE, log 71) -/
opaque fwKey : Nat → List Byte

end Sys2Proof.Config
end

