-- ==== Sys2Proof/Machine/State.lean ====
section
/-!
DEFINITION. Machine/State.lean: everything the spec gives the block, as plain data, and the block right after a cold
reset. Register values stand in `regs` by BAR0 offset; indirect words in `words`; memories by internal byte address.
-/
namespace Sys2Proof.Machine

/-- Access codes (Table 0.2, R7). -/
inductive Acc where | rw | ro | wo | w1c | w1s | rc | rws
deriving DecidableEq, Repr

/-- Persistence classes (Table 0.3, R12). -/
inductive Cls where | F | S | A | V
deriving DecidableEq, Repr

/-- A field as a register table gives it: lowest bit, width, access code, class and reset value. -/
structure FieldDef where
  lo : Nat
  w : Nat
  acc : Acc
  cls : Cls
  rst : Nat
deriving DecidableEq, Repr

/-- A register or a two-dimensional array of registers with the same fields: first offset in its window, and count and
stride of each dimension. -/
structure RegDef where
  base : Nat
  n1 : Nat
  s1 : Nat
  n2 : Nat
  s2 : Nat
  fields : List FieldDef
deriving DecidableEq, Repr

/-- A field of a register by BAR0 offset, lowest bit and width. -/
structure Fld where
  off : Nat
  lo : Nat
  w : Nat
deriving DecidableEq, Repr

/-- A flit: 256 data bits and the side fields of Table 5.4 (R143). -/
structure Flit where
  data : Data
  poison : Bool
  tag : Nat
  last : Bool
  evLine : Bool
  evBand : Bool
  smk : Bool
deriving DecidableEq, Repr

/-- A flit of zeros with no side field set. -/
def Flit.zero : Flit := ⟨0, false, 0, false, false, false, false⟩

/-- One hop of a circuit: the point, its input port and the connection taken there (R141). -/
structure Hop where
  pt : PointRef
  inPort : Nat
  conn : Word
deriving DecidableEq, Repr

/-- A circuit: its source, the connections along its route and its sinks, each with the latency L (R135, R141). -/
structure Circuit where
  src : SrcRef
  route : List Hop
  sinks : List (SnkRef × Nat)
deriving DecidableEq, Repr

/-- A flit held in an input stage: its arrival ac (R146) and the circuit it came on, by which its credit returns (R145). -/
structure StageEntry where
  flit : Flit
  arr : Nat
  circ : Circuit
deriving DecidableEq, Repr

/-- A flit waiting at a source: the ac from which it presents itself, the flit, and the circuit it is bound to once it has
presented itself without leaving (R147). -/
structure OutEntry where
  due : Nat
  flit : Flit
  bound : Option Circuit
  logged : Bool
deriving DecidableEq, Repr

/-- Where a flit in flight arrives next. -/
inductive Stop where
  | point (p : PointRef) (inPort : Nat)
  | sink (k : SnkRef)
deriving DecidableEq, Repr

/-- A flit in flight: where it arrives and in which ac, its circuit, and whether the part of its route just travelled crosses
a die boundary at an IO tile of a Terrace (R140, R159). -/
structure Flight where
  stop : Stop
  due : Nat
  flit : Flit
  circ : Circuit
  cross : Option (Nat × Nat)
  /-- Held ac in which it has moved on, which it is ahead of the array by (R181). -/
  skip : Nat
deriving DecidableEq, Repr

/-- A credit on its way back to a source (R145). -/
structure CreditFlight where
  circ : Circuit
  snk : SnkRef
  due : Nat
  skip : Nat
deriving DecidableEq, Repr

/-- A credit counter of a circuit for one sink; a counter not listed stands at its sink's capacity (R145). -/
structure CreditCtr where
  circ : Circuit
  snk : SnkRef
  n : Nat
deriving DecidableEq, Repr

/-- The state field of SEQ_STATUS (R44). -/
inductive SeqState where | idle | firing | waiting | stalled | halted | faulted
deriving DecidableEq, Repr

/-- An event in a tile's latches, oldest first; a band event carries the sequence tag of its flit (R50, R177). -/
inductive LatchEv where
  | line
  | band (tag : Nat)
deriving DecidableEq, Repr

/-- An open loop (R46, R47): its counter, its first body pc, its end pc, its trips and its remaining trips. -/
structure LoopSt where
  ctr : Nat
  start : Nat
  endPc : Nat
  trips : Nat
  rem : Nat
deriving DecidableEq, Repr

/-- A running FIRE (R49): descriptor, edge counter, flags, length, the number of the next firing, what its first firing fixed (R118),
and the weight set it holds (R117). -/
structure FireSt where
  d : Nat
  e : Nat
  clrFirst : Bool
  swapLast : Bool
  len : Nat
  b : Nat
  ag0 : Int
  ag2 : Int
  wset : List Byte
  wPoison : Bool
deriving DecidableEq, Repr

/-- What a stalled firing waits for. -/
inductive StallWhy where
  | none
  | input
  | output
  | drain
deriving DecidableEq, Repr

/-- An element on its way through an SF tile, with its poison (R97, R126). -/
structure Elem where
  v : Int
  poison : Bool
deriving DecidableEq, Repr

/-- A scale-stream entry (Table 3.7) with its poison and its source. -/
structure ScaleEntry where
  value : Nat
  tag : Nat
  kind : Nat
  layer : Nat
  rcp : Nat
  poison : Bool
  src : Option SrcRef
deriving DecidableEq, Repr

/-- A token of an RK unit (R161): its value, its poison and its arrival ac. -/
structure Token where
  v : Bool
  poison : Bool
  arr : Nat
deriving DecidableEq, Repr

/-- A bank handed to the drain unit (R59): the ac of its last read; and, for a Winograd bank whose initial values come on P-in
(R119), the outputs that still wait for theirs and the ac of the next read. -/
structure DrainSt where
  lastRead : Nat
  wait : List (List Int × Bool)
  nextRead : Nat
deriving DecidableEq, Repr

/-- The ledger counts of one band at a tile (R183). -/
structure Ledger where
  fire : Nat
  idle : Nat
  stall : Nat
deriving DecidableEq, Repr

/-- The dynamic state of one sequenced tile, class V. -/
structure TileSt where
  pc : Nat
  vint : Nat
  st : SeqState
  /-- The run ac in which the current instruction may next act. -/
  next : Nat
  started : Bool
  why : StallWhy
  latch : List LatchEv
  loops : List LoopSt
  rot : List Int
  fire : Option FireSt
  /-- Current band (R144, R179); whether it counts on from an earlier one, runs and is not yet closed, is the first band of its
  Vintage (R183), and whether the next band will be. -/
  band : Nat
  begun : Bool
  inBand : Bool
  firstBand : Bool
  fresh : Bool
  /-- Counts of the open band, and the Vintage in which it was started (R183). -/
  led : Ledger
  ledV : Nat
  obs : Ledger
  obsBand : Nat
  bandsClosed : Nat
  /-- Output ports whose next flit carries ev_line or ev_band (R178). -/
  markLine : List Nat
  markBand : List Nat
  /-- Flits each output port has emitted in the band. -/
  outNo : List Nat
  stages : List (List StageEntry)
  outq : List (List OutEntry)
  -- MX
  acc : SMap Int
  accPoison : SMap Bool
  bank : Nat
  drain : Option DrainSt
  biasJ : Nat
  winoFill : List StageEntry
  winoGroup : List Flit
  -- gain (MX and SF)
  gain : Nat
  rcp : Nat
  gainTag : Nat
  gainPend : Option ScaleEntry
  gainNeed : Bool
  bandPoison : Bool
  -- SF
  pack : List Elem
  logits : List Elem
  win : List (List Elem)
  group : List (List Elem)
  coll : List Nat
  collObs : List Nat
  collBand : Nat
  mOwn : Nat
  /-- The band event of the chain is held, and since which ac (R100). -/
  chain : Option Nat
  partIn : Option (ScaleEntry × Nat)
  adLead : Nat
  adInit : Bool
  mLast : Nat
  limited : Bool
  clamped : Bool
  -- RK
  tokens : List (Option Token)
  /-- Some tokens of the TI flit at the head of its stage have been delivered; those still to deliver (R161). -/
  tiOpen : Bool
  tiHeld : List (Nat × Token)
  /-- The token that governs each unit's packet (R162). -/
  govern : List (Option Token)
  lastTaken : List (Option Flit)
deriving DecidableEq, Repr

/-- A tile at reset and at START_JOB (R52): every counter, latch and bank clear, gain 1.0 (R106). -/
def TileSt.init : TileSt :=
  { pc := 0, vint := 0, st := .idle, next := 0, started := false, why := .none, latch := [], loops := [],
    rot := [0, 0, 0, 0], fire := none, band := 0, begun := false, inBand := false, firstBand := false, fresh := true, led := ⟨0, 0, 0⟩,
    ledV := 0, obs := ⟨0, 0, 0⟩, obsBand := 0, bandsClosed := 0, markLine := [], markBand := [], outNo := [0, 0, 0, 0],
    stages := [[], [], [], [], []], outq := [[], [], [], []], acc := [], accPoison := [], bank := 0, drain := none,
    biasJ := 0, winoFill := [], winoGroup := [], gain := 0x4000, rcp := 0x4000, gainTag := 0, gainPend := none, gainNeed := false,
    bandPoison := false, pack := [], logits := [], win := [], group := [], coll := List.replicate 32 0,
    collObs := List.replicate 32 0, collBand := 0, mOwn := 0, chain := none, partIn := none, adLead := 0,
    adInit := false, mLast := 0, limited := false, clamped := false, tokens := [none, none, none, none], tiOpen := false, tiHeld := [],
    govern := [none, none, none, none],
    lastTaken := [none, none, none, none] }

/-- The side record of a cask word (R149, Table 5.8) with its parity bit (R156), its write ac, and the circuit its credit
returns by (R145). -/
structure SideRec where
  poison : Bool
  tag : Nat
  last : Bool
  evLine : Bool
  evBand : Bool
  smk : Bool
  parity : Bool
  wr : Nat
  circ : Circuit
deriving DecidableEq, Repr

/-- The controller state of one cask, class V: read and write pointers and count, the second copies a privileged cask keeps
(R157), the side records of the words held, the packet position (R152), the marks, and the spill state (R166–R170). -/
structure CaskSt where
  rp : Nat
  wp : Nat
  cnt : Nat
  rp2 : Nat
  wp2 : Nat
  cnt2 : Nat
  side : List SideRec
  pktRead : Nat
  hwm : Nat
  peak : Nat
  rWait : Bool
  ringHead : Nat
  ringTail : Nat
  ringWords : Nat
  /-- First byte and groups of the ring, as its first decant took them (R168, R170). -/
  ringBase : Nat
  ringSize : Nat
  /-- Words that the decant under way still has to move, and whether one is on the maintenance path (R167). -/
  decant : Nat
  moving : Bool
  /-- A word for the refill buffer is on the maintenance path (R168). -/
  filling : Bool
  refill : List Flit
  /-- Remote words: the ACLK period in which each was written, oldest first (R181). -/
  wrPeriod : List Nat
  /-- The ac until which the maintenance path is busy with this cask (R167, R168). -/
  pathBusy : Nat
deriving DecidableEq, Repr

def CaskSt.init : CaskSt :=
  { rp := 0, wp := 0, cnt := 0, rp2 := 0, wp2 := 0, cnt2 := 0, side := [], pktRead := 0, hwm := 0, peak := 0,
    rWait := false, ringHead := 0, ringTail := 0, ringWords := 0, ringBase := 0, ringSize := 0, decant := 0, moving := false, filling := false, refill := [], wrPeriod := [], pathBusy := 0 }

/-- The waiting-cycle detector's count for one cycle entry (R166): consecutive ac without movement. -/
structure CycleSt where
  wait : Nat
  moved : Bool
deriving DecidableEq, Repr

/-- A broadcast event on its way to a tile (R177). -/
structure Bcast where
  tile : Nat
  due : Nat
  band : Bool
  tag : Nat
deriving DecidableEq, Repr

/-- A memory write not yet readable (classes MM3, MM4 and MX5): the ac in which the bytes become readable. -/
structure Delayed where
  due : Nat
  addr : Nat
  bytes : List Byte
  poison : Bool
deriving DecidableEq, Repr

/-- A Vintage switch in hand (R186–R191): its tag and irq flag, target, outgoing Vintage and band; armed from the last line
of the band before. -/
structure SwitchSt where
  tag : Nat
  irq : Bool
  target : Nat
  old : Nat
  band : Nat
  armed : Bool
deriving DecidableEq, Repr

/-- The nets of a Row's logic cells (R198): what its blocks drive onto their lanes, 32 · block + lane, the registers of its mesh segments, and
what its crossbar carried before the last edge. -/
structure LcNets where
  drv : SMap Bool
  seg : SMap Bool
  xbar : SMap Bool
deriving DecidableEq, Repr

def LcNets.init : LcNets := { drv := [], seg := [], xbar := [] }

/-- The array: tiles by number 30·(9t + row) + k, casks by number 128·(9t + row) + 16m + c, the flits and credits on the
wires, and the array clock's counts (R137, R180). -/
structure ArraySt where
  tiles : SMap TileSt
  casks : SMap CaskSt
  flights : List Flight
  creditFlights : List CreditFlight
  credits : List CreditCtr
  /-- Sources that have emitted in the present ac (R140). -/
  emitted : List SrcRef
  /-- Outputs driven by outgoing flits during a switch: point, port and ac (R190). -/
  driven : List (Nat × Nat × Nat)
  /-- Flits that reached the Hub behind an IO tile of a Terrace, oldest first. -/
  hubIn : List (Nat × Nat × StageEntry)
  bcast : List Bcast
  delayed : List Delayed
  cycles : SMap CycleSt
  /-- A: ac in which the array has run since START_JOB; the held ac; ACLK periods since cold reset. -/
  runAc : Nat
  holdAc : Nat
  period : Nat
  elast : Nat
  /-- The array clock runs (a job has started and has not ended). -/
  clocked : Bool
  /-- Hold causes (R181) and the remote cask that raised the last hold. -/
  holdRemote : Option (CaskRef × Option Nat)
  /-- The tile whose late input from the Hub holds the array (R66). -/
  holdTile : Option TileRef
  /-- Periods of the present hold in which only a late input holds the array: the Hub circuit that brings it runs in them (R181). -/
  remAc : Nat
  /-- The last switch that has completed (R191): a halted or faulted tile's event of its band may still come (R189). -/
  lastSw : Option SwitchSt
  /-- The edges of each clock tree, 4 · Terrace + tree: how many there have been, and the logic cells' nets before the last one (R198). -/
  lcWaves : List (Nat × List LcNets)
  /-- Consecutive ACLK periods the remote and system causes, taken together, have stood (R182). -/
  holdRun : Nat
deriving DecidableEq, Repr

/--
(DESIGN CHOICE, log 9) -/
def ArraySt.init : ArraySt :=
  { tiles := [], casks := [], flights := [], creditFlights := [], credits := [], emitted := [], driven := [], hubIn := [], bcast := [], delayed := [], cycles := [],
    runAc := 0, holdAc := 0, period := 0, elast := 0, clocked := false, holdRemote := none, holdTile := none,
    remAc := 0, lastSw := none, lcWaves := List.replicate 16 (0, []),
    holdRun := 0 }

/-- The job (R194, R330): what START_JOB set, where it stands, and what ends it. -/
structure JobSt where
  running : Bool
  /-- START_JOB waits for the fills (R112). -/
  filling : Bool
  number : Nat
  bandLen : Nat
  replay : Bool
  system : Bool
  tag : Nat
  /-- The next job line the Stamp numbers (R26) and the next band whose boundary has not been reached. -/
  lineNo : Nat
  /-- A fault asks the job to stop at the next band boundary (R194). -/
  stopFault : Bool
  /-- END_JOB in hand: its tag and irq flag, and the band it names (R330). -/
  endReq : Option (Nat × Bool × Nat)
  /-- From b_e no line enters; the run ac at which the last line of b_e − 1 entered (R194). -/
  stopped : Option (Nat × Nat)
  firstErr : Nat
  bandsClosed : Nat
  lastRow : Nat
  verdicts : Nat
  indeterminate : Nat
  energyUj : Nat
deriving DecidableEq, Repr

def JobSt.init : JobSt :=
  { running := false, filling := false, number := 0, bandLen := 64, replay := false, system := false, tag := 0, lineNo := 0,
    stopFault := false, endReq := none, stopped := none, firstErr := 0, bandsClosed := 0,
    lastRow := 0xFFFFFFFF, verdicts := 0, indeterminate := 0, energyUj := 0 }

/-- A completion or job-end entry waiting to be written, without its phase bit (Table 11.9), and whether ring 1 raises its vector for
it at once (R323). -/
structure Comp where
  kind : Nat
  tag : Nat
  op : Nat
  code : Nat
  result : Nat
  irq : Bool
deriving DecidableEq, Repr

/-- A posted write to host memory. -/
structure HostWr where
  addr : Nat
  bytes : List Byte
deriving DecidableEq, Repr

/-- A BARRIER or SNAPSHOT in hand (R373, R375): tag, irq flag, id, whether ARRIVE has left, and for a snapshot its destination, the
released band, and the bytes captured that channel 6 still has to write. -/
structure BarrierSt where
  tag : Nat
  irq : Bool
  id : Nat
  sent : Bool
  dst : Nat
  band : Option Nat
  block : Option (List (Byte × Bool))
deriving DecidableEq, Repr

/-- An ATTEST in hand: where the report goes and its bytes 0x000–0x17F (R431). -/
structure AttestSt where
  tag : Nat
  irq : Bool
  addr : Nat
  fields : List Byte
deriving DecidableEq, Repr

/-- A REPLAY_PUSH in hand (R328). -/
structure ReplaySt where
  tag : Nat
  irq : Bool
  cam : Nat
  lines : Nat
  stride : Nat
  pos : Nat
  step : Nat
  taken : Nat
  data : List Byte
  bad : Nat
deriving DecidableEq, Repr

/-- What the last host read answered (R314, R315). -/
inductive Resp where
  | none
  | value (v : Nat)
  | bytes (bs : List Byte) (ep : Bool)
  | abort
  /-- Configuration Request Retry Status (R422). -/
  | retry
deriving DecidableEq, Repr

/-- The PCIe function (Tables 11.1, 11.2): MSI with its message address, data and vector masks; MSI-X with its function mask; the vectors
pending under a mask; payload and read-request sizes, ASPM, power state, subsystem IDs, the base addresses of BAR0, BAR2 and BAR4, and the
uncorrectable errors that AER has recorded (R314). -/
structure PciSt where
  msiEn : Bool
  msiLog2 : Nat
  msiAddr : Nat
  msiData : Nat
  msiMask : Nat
  msixEn : Bool
  msixMask : Bool
  pend : Nat
  mps : Nat
  mrrs : Nat
  aspm : Nat
  d3 : Bool
  /-- A write of D3hot waits for the PLACE that runs (Table 11.13). -/
  d3Wait : Bool
  subsys : Nat
  bars : List Nat
  aer : Nat
deriving DecidableEq, Repr

/-- The PCIe function after a reset.
(PRESUMED, log 173) -/
def PciSt.init : PciSt :=
  { msiEn := false, msiLog2 := 0, msiAddr := 0, msiData := 0, msiMask := 0, msixEn := false, msixMask := false, pend := 0, mps := 128, mrrs := 512,
    aspm := 0, d3 := false, d3Wait := false, subsys := 0, bars := [0, 0, 0], aer := 0 }

/-- A message sent to the host (R321): its number, the address and data of the write that carries it, and how many posted writes went before
it (R319). -/
structure IrqMsg where
  msg : Nat
  addr : Nat
  data : Nat
  after : Nat
deriving DecidableEq, Repr

/-- The command processor and the host interface. -/
structure CpSt where
  /-- Commands the processor has read from ring 0 and not taken, in ring order. -/
  cmds : List Cmd
  serial : Option Cmd
  comps : List Comp
  barrier : Option BarrierSt
  snap : Option BarrierSt
  attest : Option AttestSt
  replay : List ReplaySt
  /-- Entries written to each ring since its vector was last raised (R323). -/
  unsig : List Nat
  /-- High words latched by reads of low words (R6), by the high word's offset. -/
  latch : List (Nat × Word)
  resp : Resp
  out : List HostWr
deriving DecidableEq, Repr

/--
(DESIGN CHOICE, log 9) -/
def CpSt.init : CpSt :=
  { cmds := [], serial := none, comps := [], barrier := none, snap := none, attest := none, replay := [], unsig := [0, 0, 0, 0, 0],
    latch := [], resp := .none, out := [] }

/-- One Blend-signer key slot of the fuse block (R428). -/
structure KeySlot where
  written : Bool
  dbg : Bool
  revoked : Bool
  key : List Byte
deriving DecidableEq, Repr

/-- The fuse block, class F: what manufacturing and the life cycle burned. -/
structure Fuses where
  /-- 1 = A1, 2 = B0 (HUB.PART_INFO). -/
  stepping : Nat
  gradeH : Bool
  /-- Good physical Rows of each Terrace, one bit each (R16). -/
  rowGood : List Nat
  /-- Fuse bins of MX tiles by tile number; 20 where not listed (R60). -/
  fbin : SMap Nat
  /-- Fused voltages in mV by 32·Terrace + bin; 800 where not listed (R388). -/
  volts : SMap Nat
  serial : Nat
  lc : Nat
  banks : Nat
  /-- The valid fuse of each seed bank used, oldest first (R426, R427). -/
  bankOk : List Bool
  svnFloor : Nat
  keys : List KeySlot
  /-- Firmware-signer keys fused at manufacture; their values stand in Config (R428). -/
  fwFused : List Bool
  idSeed : List (List Byte)
deriving DecidableEq, Repr

/-- The bin of an MX tile the fuse list does not name. -/
def defBin : Nat → Nat := fun _ => 20
/-- The voltage the fuse list does not name.
(DESIGN CHOICE, log 6) -/
def defVolt : Nat → Nat := fun _ => 800

/--
(DESIGN CHOICE, log 6) -/
def Fuses.init : Fuses :=
  { stepping := 2, gradeH := true, rowGood := [0x1FF, 0x1FF, 0x1FF, 0x1FF], fbin := [], volts := [], serial := 0, lc := 0, banks := 0,
    bankOk := [], svnFloor := 0, keys := List.replicate 8 ⟨false, false, false, []⟩, fwFused := [true, true, true, true], idSeed := [] }

/-- A plane line waiting for the array (R267): its job line, its plane, whether it holds a ring slot, and the flits left to send. -/
structure PlaneLine where
  line : Nat
  plane : Nat
  stored : Bool
  flits : List Flit
deriving DecidableEq, Repr

/-- The Hub's send side into the array.
(DESIGN CHOICE, log 212) -/
structure HubTx where
  /-- Plane lines started by the Stamp, oldest first (R25, R176). -/
  lines : List PlaneLine
  /-- Flits waiting in each remote-stream ingress buffer (R363). -/
  ingress : List (List Flit)
  /-- Sources' flits held without credit (R147). -/
  boundTo : List (SrcRef × Circuit)
  logged : List SrcRef
  /-- The run ac of the last line's first flit and of S_b of the last band opened (R176). -/
  lastS : Nat
  /-- The next band whose band event has not been set on a flit (R176). -/
  nextEv : Nat
  /-- Bands whose first flit is on its way to a Hub bridge: S_b and b, oldest first (R176, R179). -/
  bandAt : List (Nat × Nat)
deriving DecidableEq, Repr

def HubTx.init : HubTx := { lines := [], ingress := List.replicate 16 [], boundTo := [], logged := [], lastS := 0, nextEv := 0, bandAt := [] }

/-- A line delivered by one camera (R261): its pixels in camera order, `none` where missing, its position (R271), the system time of
its trigger (R369), and the count of START_JOBs when its trigger fired (R280). -/
structure CamLine where
  px : List (Option Nat)
  pos : Nat
  time : Nat
  job : Nat
deriving DecidableEq, Repr

/-- One camera's assembly state (R259–R262). -/
structure CamSt where
  /-- Triggers whose image has not been delivered: position, system time, START_JOB count. -/
  trig : List (Nat × Nat × Nat)
  cur : List (Option Nat)
  /-- A packet of the line in hand has come. -/
  busy : Bool
  /-- The line in hand of the image, the lines of the image (of the last one seen while none is in hand), and whether the image has been
  refused. -/
  frameLine : Nat
  ySize : Nat
  refused : Bool
  lines : List CamLine
  /-- After a lock loss every line is missing until a line starts cleanly (R262). -/
  lost : Bool
deriving DecidableEq, Repr

def CamSt.init : CamSt :=
  { trig := [], cur := [], busy := false, frameLine := 0, ySize := 1, refused := false, lines := [], lost := false }

/-- A plane line held for the Stamp (R267, R268): job line, plane, own codes with poison, each halo once it has arrived, position,
whether it found a ring slot, whether a pixel was substituted, and when its trigger fired. -/
structure RLine where
  line : Nat
  plane : Nat
  own : List (Int × Bool)
  haloL : Option (List (Int × Bool))
  haloR : Option (List (Int × Bool))
  pos : Nat
  stored : Bool
  subst : Bool
  time : Nat
deriving DecidableEq, Repr

/-- Ingest, Flat-field, Reshuffle and Slicer.
(DESIGN CHOICE, log 212) -/
structure IngSt where
  cams : List CamSt
  lines : List RLine
  /-- START_JOBs seen. -/
  jobs : Nat
  /-- The band whose bank Flat-field has taken (R266), none before the job's first. -/
  ffBand : Option Nat
  /-- Positions by job line, for P_r and crops (R271, R274). -/
  posOf : SMap Nat
  /-- Next job line that the Stamp starts. -/
  nextStart : Nat
  /-- Device lines kept from E − 10 µs until job line 0 is chosen (R369). -/
  kept : List (List (Nat × CamLine))
  /-- Halos that came before their plane line: job line, plane, side (true right) and pixels (R268). -/
  halos : List (Nat × Nat × Bool × List (Int × Bool))
deriving DecidableEq, Repr

def IngSt.init : IngSt :=
  { cams := List.replicate 4 CamSt.init, lines := [], jobs := 0, ffBand := none, posOf := [], nextStart := 0, kept := [], halos := [] }

/-- One trigger generator (R272): position at which en was set, furthest position reached since, previous firing on the scale of the
system time in 10 ns, below 0 when the time has restarted since, and whether its output pulse is active. -/
structure TrgSt where
  base : Nat
  far : Nat
  last : Option Int
  pulse : Bool
deriving DecidableEq, Repr

/-- One marker output (R274–R276): pending events with their due position and the mode and width in force when they were queued (R278),
activity in time mode, the position up to which length mode keeps it
active, and the last patch row that queued an event. -/
structure MrkSt where
  queue : List (Nat × Bool × Nat)
  pulse : Bool
  upTo : Option Nat
  lastRow : Option Nat
deriving DecidableEq, Repr

/-- The encoder, trigger generators and marker engine (9.5–9.7). -/
structure LinSt where
  pos : Nat
  trg : List TrgSt
  mrk : List MrkSt
  /-- Marker and trigger balls that have been enabled since the last cold reset (R277): bits 15:0 markers, 23:16 triggers. -/
  driven : Nat
  /-- Marker outputs that a warm reset holds at their safe level until they fire or their MRK_CFG is written, one bit each (R277). -/
  safe : Nat
  /-- Trigger packets sent on uplinks: camera, position and delay field. -/
  pkts : List (Nat × Nat × Nat)
  /-- Control packets being sent on uplinks. -/
  uplink : List (Nat × List Byte)
deriving DecidableEq, Repr

def LinSt.init : LinSt :=
  { pos := 0, trg := List.replicate 8 ⟨0, 0, none, false⟩, mrk := List.replicate 16 ⟨[], false, none, none⟩, driven := 0,
    safe := 0, pkts := [], uplink := [] }

/-- A record waiting in region 3 without its phase bit (Tables 11.10, 11.11). -/
structure RecSt where
  seq : Nat
  bytes : List Byte
deriving DecidableEq, Repr

/-- A crop request (R290). -/
structure CropReq where
  seq : Nat
  row : Nat
  col : Nat
  vint : Nat
deriving DecidableEq, Repr

/-- A plane line in the line history (R290). -/
structure HistLine where
  plane : Nat
  line : Nat
  codes : List (Int × Bool)
  subst : Bool
  pos : Nat
deriving DecidableEq, Repr

/-- A crop on its way to ring 4 (R294): packed bytes, or the code with which it is reported absent; the pages of the crop store it
occupies, the bytes already written to the ring, and, while channel 3 moves it into the store, its first page there and the bytes issued. -/
structure CropSt where
  seq : Nat
  bytes : List Byte
  absent : Nat
  pages : Option (Nat × Nat)
  sent : Nat
  wb : Option (Nat × Nat)
deriving DecidableEq, Repr

/-- The verdict aggregator, record builder, crop engines and statistics (10.2–10.5).
(DESIGN CHOICE, log 212) -/
structure VrdSt where
  row : Nat
  col : Nat
  /-- Verdict vectors still to be discarded with the warm-up rows (R193). -/
  warm : Nat
  seq : Nat
  vq : List RecSt
  dq : List RecSt
  reqs : List CropReq
  crops : List CropSt
  /-- First page of the crop store that channel 3 fills next (R342). -/
  nextPage : Nat
  hist : List HistLine
  /-- Feature vectors waiting in region 2: number, flits, poison (R289). -/
  feats : List (Nat × List Data × Bool)
  /-- Feature vectors still to be discarded with the warm-up rows, and the number of the next one. -/
  featNo : Nat
  vecNo : Nat
  /-- Verdict counts by 32·band + item, the last latched band's counts, the job totals (R295). -/
  cnt : SMap Nat
  last : List Nat
  total : List Nat
  /-- Histograms by 2048·band + 256·plane + bin, and the latched one. -/
  hist8 : SMap Nat
  lastHist : SMap Nat
  /-- Columns and geometry of the job: fixed at START_JOB from the report. -/
  nCol : Nat
  patchW : Nat
  patchH : Nat
  kLines : Nat
  uLines : Nat
  aAc : Nat
  /-- First job lines of the switch bands of the job (R193). -/
  switchLines : List Nat
  /-- The Graft generation by first band, and the band of the last verdict vector (R285). -/
  gens : List (Nat × Nat)
  vecBand : Nat
deriving DecidableEq, Repr

def VrdSt.init : VrdSt :=
  { row := 0, col := 0, warm := 0, seq := 0, vq := [], dq := [], reqs := [], crops := [], nextPage := 0, hist := [], feats := [],
    featNo := 0, vecNo := 0, cnt := [], last := List.replicate 18 0, total := List.replicate 18 0, hist8 := [], lastHist := [],
    nCol := 1, patchW := 1, patchH := 1, kLines := 0, uLines := 0, aAc := 0, switchLines := [], gens := [], vecBand := 0 }

/-- A descriptor of the Stream engine (Table 10.4): its 16 words. -/
abbrev DescW := List Word

/-- The place of a channel in its descriptor: loop indices, offset in the run, and for a stride program its pc, addresses and open
counters; `slot0` is the ring slot of the first slot moved (R299), `done` that every burst has been issued. -/
structure Walk where
  i0 : Nat
  i1 : Nat
  i2 : Nat
  off : Nat
  pc : Nat
  sa : Nat
  da : Nat
  ctrs : List (Option Nat)
  slot0 : Nat
  done : Bool
deriving DecidableEq, Repr

def Walk.init : Walk := ⟨0, 0, 0, 0, 0, 0, 0, [none, none, none], 0, false⟩

/-- An outstanding read of host memory (R302): the bytes asked for, where the burst's bytes go, its place in the descriptor, and whether
it is the final read of a barrier (R304). -/
structure ReadReq where
  srcs : List Nat
  dst : Nat
  n : Nat
  place : Walk
  barrier : Bool
deriving DecidableEq, Repr

/-- One channel (R297–R307). -/
structure ChanSt where
  active : Option DescW
  shadow : Option DescW
  walk : Walk
  /-- Bytes delivered, and the total of the active descriptor. -/
  moved : Nat
  total : Nat
  reads : List ReadReq
  /-- HyperRAM writes the fence waits for, and those of this descriptor not yet accepted, as numbers in issue order. -/
  fence : List Nat
  shadowFence : List Nat
  waitAll : List Nat
  /-- A barrier's final host read: 0 not issued, 1 outstanding, 2 done. -/
  barRead : Nat
  stop : Bool
  halfDone : Bool
  paused : Bool
  halted : Bool
  /-- Destination range of an active HyperRAM-writing descriptor, and when it was armed. -/
  wrange : Option (Nat × Nat)
  order : Nat
  /-- When the shadow was armed (R303). -/
  shadowOrder : Nat
  /-- The last byte written (R304). -/
  lastDst : Nat
deriving DecidableEq, Repr

def ChanSt.init : ChanSt :=
  { active := none, shadow := none, walk := Walk.init, moved := 0, total := 0, reads := [], fence := [], shadowFence := [], waitAll := [], barRead := 0,
    stop := false, halfDone := false, paused := false, halted := false, wrange := none, order := 0,
    shadowOrder := 0, lastDst := 0 }

/-- A HyperRAM write issued and not yet accepted: its number, the channel of the Stream engine, address, bytes and poison (R344). -/
structure HyperWr where
  no : Nat
  chan : Nat
  addr : Nat
  bytes : List Byte
  poison : Bool
deriving DecidableEq, Repr

/-- The Stream engine and the HyperRAM write queue. -/
structure StrSt where
  chans : List ChanSt
  writes : List HyperWr
  nextWrite : Nat
  nextOrder : Nat
  /-- A FENCE command in hand waits for the HyperRAM writes numbered below this, and so does the next descriptor of channels 6 and 7
  (R303). -/
  fenceTo : Option Nat
  /-- STR.SPLIT as START_JOB took it (R301). -/
  split : Nat
  /-- Bursts granted so far, and the count at which each channel was last granted one: equal priorities take turns (R301). -/
  turn : Nat
  served : List Nat
deriving DecidableEq, Repr

/--
(DESIGN CHOICE, log 9) -/
def StrSt.init : StrSt :=
  { chans := List.replicate 16 ChanSt.init, writes := [], nextWrite := 0, nextOrder := 0, fenceTo := none, split := 0x34, turn := 0, served := List.replicate 16 0 }

/-- One Blend slot (R221): valid, length, measurement, network and key ids. -/
structure SlotSt where
  valid : Bool
  len : Nat
  meas : List Byte
  netId : Nat
  keyId : Nat
deriving DecidableEq, Repr

def SlotSt.init : SlotSt := ⟨false, 0, [], 0, 0⟩

/-- A placed Vintage's loader record: slot, variant, network, row_mask, report bytes, HyperRAM region, f_min, configuration digests by 9t + p,
Graft section and head digest. -/
structure PlacedSt where
  slot : Nat
  variant : Nat
  netId : Nat
  rowMask : Nat
  report : List Byte
  base : Nat
  len : Nat
  fMin : Nat
  digests : List (List Byte)
  graft : List Byte
  digest : List Byte
  meas : List Byte
deriving DecidableEq, Repr

def PlacedSt.init : PlacedSt := ⟨0, 0, 0, 0, [], 0, 0, 0, [], [], [], []⟩

/-- A running PLACE (R227): target, slot, variant, staged weight bytes and cask descriptors of steps 9–11, the record it will leave,
and whether a write reached the target meanwhile. -/
structure PlaceSt where
  v : Nat
  /-- Bins of the MX tiles that the Vintage will use (Table 7.12: it counts as placed from step 6). -/
  bins : List Nat
  weights : List (Nat × List Byte)
  casks : List (Nat × Word × Word × Bool)
  dropCasks : List Nat
  rec1 : PlacedSt
  elastic : Bool
  compat : Nat
  rows : List (Nat × Nat × Nat)
  touched : Bool
deriving DecidableEq, Repr

/-- HyperRAM, Blend store and loader (7, 12). -/
structure HrmSt where
  slots : List SlotSt
  placed : List PlacedSt
  loading : Option Nat
  placing : Option PlaceSt
  /-- Where each channel stands, by the codes of HRM.CHn_STATUS.state (R347–R349). -/
  chan : List Nat
  /-- Held writes of HRM.CROP_BASE and HRM.CROP_SIZE (R342). -/
  heldBase : Option Nat
  heldSize : Option Nat
deriving DecidableEq, Repr

def HrmSt.init : HrmSt :=
  { slots := List.replicate 4 SlotSt.init, placed := List.replicate 4 PlacedSt.init, loading := none, placing := none,
    chan := List.replicate 4 0, heldBase := none, heldSize := none }

/-- One Trellis port (R353–R359): up, next frame expected, resend wait, failed sendings of it, credits, units freed for the partner,
units received that do not yet make a message, segment down, the hold its uncorrectable frame started, and the resend request it last
answered. -/
structure PortSt where
  up : Bool
  next : Nat
  resend : Bool
  fails : Nat
  credit : Nat
  freed : Nat
  part : List (List Byte)
  down : Bool
  hold : Option Nat
  answered : Option Nat
  /-- Tokens that wait for a frame; messages started and not yet whole in frames, and the units of the first of them that are (R356, R358). -/
  tokQ : List SyncTok
  msgQ : List TrlMsg
  cut : Nat
  /-- Number of the next frame to send, the last 32 frames sent, oldest first, how many of the last of these are to be sent again, and the
  frame sent last (R357). -/
  txSeq : Nat
  sent : List (List Byte)
  /-- Messages that ended in each of these frames. -/
  sentMsgs : List (List TrlMsg)
  again : Nat
  out : List Byte
  /-- The segment is retired: it carries what is on its way and takes nothing new (R378). -/
  retired : Bool
deriving DecidableEq, Repr

def PortSt.init : PortSt :=
  { up := false, next := 0, resend := false, fails := 0, credit := 1024, freed := 0, part := [], down := false, hold := none, answered := none,
    tokQ := [], msgQ := [], cut := 0, txSeq := 0, sent := [], sentMsgs := [], again := 0, out := [], retired := false }

/-- A system hold (R371): origin, number, tick it starts, tick it ends once known, and whether it is on. -/
structure HoldSt where
  origin : Nat
  no : Nat
  on : Nat
  off : Option Nat
  active : Bool
deriving DecidableEq, Repr

/-- One remote-stream egress (R363): flits held, end-to-end credits. -/
structure EgressSt where
  q : List StageEntry
  credit : Nat
deriving DecidableEq, Repr

/-- Trellis (13). -/
structure TrlSt where
  dev : Nat
  n : Nat
  root : Bool
  /-- The number of the root, the board's knowledge; whether the devices stand as a chain (R352, R377). -/
  rootDev : Nat
  chain : Bool
  ports : List PortSt
  /-- Devices seen: number, port, hops; both directions of the census. -/
  seen : List (Nat × Nat × Nat)
  /-- TRL.STATUS.state: 0 off, 1 training, 2 census, 3 intact, 4 chain, 5 split; and whether the census failed (R353). -/
  phase : Nat
  censusBad : Bool
  /-- SYNC pulses driven (R364). -/
  pulses : Nat
  /-- System time in 10 ns (R364), and what has passed of the next 10 ns. -/
  time : Nat
  frac : Nat
  holds : List HoldSt
  holdNo : Nat
  /-- Announcements: device, band, bin (R371), and what this device last announced. -/
  anns : List (Nat × Nat × Nat)
  lastAnn : Option Nat
  /-- Arrivals received: port, id, purpose, devices covered. -/
  arrivals : List (Nat × Nat × Nat × Nat)
  /-- A system job's start (R368): tick E, bin, and whether B differed. -/
  start : Option (Nat × Nat)
  waitStart : Bool
  recording : Bool
  noLines : Bool
  startBin : Nat
  line0 : Option Nat
  /-- The tick of a system reset to come, and that of the last one taken (R376). -/
  resetTick : Option Nat
  lastReset : Option Nat
  repair : Option (Nat × Nat × Bool)
  /-- The device upstream of the segment that is no longer used (R377). -/
  broken : Option Nat
  stopMsgs : Bool
  retire : Option (Nat × Nat)
  calSent : Bool
  calTimes : List (Nat × Nat × Nat)
  egress : List EgressSt
  rse : List Word
  rsi : List Word
  /-- Who feeds each ingress buffer: 16·device + egress index. -/
  ingSrc : List Nat
  /-- Tokens and messages sent, by port, oldest first; messages that wait for a port, each with the port whose receive buffer holds it (2: this
  device's own; 3: it has left that buffer). -/
  txTok : List (Nat × SyncTok)
  txMsg : List (Nat × TrlMsg)
  txWait : List (Nat × Nat × TrlMsg)
  /-- Tokens and messages received by frames and not yet acted on. -/
  rxTok : List (Nat × SyncTok)
  rxMsg : List (Nat × TrlMsg)
deriving DecidableEq, Repr

def TrlSt.init : TrlSt :=
  { dev := 0, n := 1, root := false, rootDev := 0, chain := false, ports := [PortSt.init, PortSt.init], seen := [], phase := 0, censusBad := false, pulses := 0, time := 0, frac := 0, holds := [], holdNo := 0,
    anns := [], lastAnn := none, arrivals := [], start := none, waitStart := false, recording := false, noLines := false, startBin := 0,
    line0 := none, resetTick := none, lastReset := none, repair := none, broken := none, stopMsgs := false, retire := none, calSent := false, calTimes := [],
    egress := List.replicate 16 ⟨[], 64⟩, rse := List.replicate 16 0, rsi := List.replicate 16 0, ingSrc := List.replicate 16 0,
    txTok := [], txMsg := [], txWait := [], rxTok := [], rxMsg := [] }

/-- The power block (14). -/
structure PwrSt where
  park : Bool
  /-- Fresh samples of P in µW since the last change took effect, newest first, at most 8 (R398). -/
  fresh : List Nat
  lowRun : Nat
  bCap : Nat
  bTherm : Nat
  /-- Fresh samples since b_therm last changed, samples below target − 3 °C, throttling and above-105 flags (R404, R405). -/
  thFresh : Nat
  thLow : Nat
  throttling : Bool
  hot : Bool
  temps : List Int
  sensors : List Int
  deferBg : Bool
  fallback : Bool
  unmet : Bool
  /-- Last answers of the regulators (mV, mA) and their runs of silence (R390). -/
  tel : List (Nat × Nat)
  silent : List Nat
  /-- Supplies below warning, supplies below it for the brown-out timer (R401, R403). -/
  low : List Bool
  settle : Bool
  /-- The 256-period tail of a settle runs, or a decision waits for the 256 periods after it (R396). -/
  tail : Nat
  sinceSettle : Nat
  /-- Bins armed for bands to come, band and bin, oldest first, and whether a decision is deferred. -/
  armed : List (Nat × Nat)
  deferred : Bool
  /-- Frequency window periods still to run before S_b, and the bin it leads to. -/
  window : Option (Nat × Nat)
  /-- Hint: phase, first band, bands, margin in force in mV (R400). -/
  hint : Option (Nat × Nat × Nat)
  margin : Nat
  /-- Loam register held for the next S_b, and the steps left of the filler's ramp (R407, R408). -/
  loamNext : Option Word
  ramp : Nat
  /-- Energy since cold reset and of the job, in nJ (R389). -/
  energy : Nat
  jobNj : Nat
  /-- The ACLK period of the last decision that changed the wanted bin. -/
  decided : Nat
  /-- The ACLK period of the last line-start event of the job, and the spacing of its last two, 0 before a second: the present line
  rate (R394). -/
  lineAt : Nat
  lineDt : Nat
  tripped : Bool
  warmWait : Option WarmCause
  /-- Rows that have been powered up for a switch (R386). -/
  rowsReady : Bool
  /-- The voltages in mV of the rails, numbered as in PWR.REGk: VDD_T0 to VDD_T3 as last commanded (R388, R457), the others nominal (R456). -/
  vout : List Nat
  /-- The device parked with its HyperRAM in deep power-down (R349). -/
  dpd : Bool
deriving DecidableEq, Repr

def PwrSt.init : PwrSt :=
  { park := false, fresh := [], lowRun := 0, bCap := 20, bTherm := 20, thFresh := 0, thLow := 0, throttling := false,
    hot := false, temps := [], sensors := [], deferBg := false, fallback := false, unmet := false, tel := List.replicate 8 (0, 0),
    silent := List.replicate 8 0, low := List.replicate 5 false, settle := false, tail := 0, sinceSettle := 256, armed := [],
    deferred := false, window := none, hint := none, margin := 0, loamNext := none, ramp := 0, energy := 0, jobNj := 0,
    decided := 0, lineAt := 0, lineDt := 0, tripped := false, warmWait := none, rowsReady := true,
    vout := [800, 800, 800, 800, 750, 900, 1200, 1800, 3300], dpd := false }

/-- The state of the Graft block (HUB.GRF_STATUS.state). -/
inductive GraftMode where | uninit | ready | damaged
deriving DecidableEq, Repr

/-- A GRAFT_SUBMIT or GRAFT_COMMIT in the queue (R241, R251). -/
structure GraftCmd where
  commit : Bool
  tag : Nat
  irq : Bool
  reset : Bool
  steps : Nat
  list : List Byte
  bad : Nat
  target : Nat
  band : Option Nat
  /-- The samples have been appended; steps already run. -/
  appended : Bool
  done : Nat
  /-- Commit: staging has started or ended; the band it is armed for. -/
  staging : Bool
  staged : Bool
  armed : Option Nat
deriving DecidableEq, Repr

/-- The Graft state (8): binding, mode, masters and optimiser state of the bank in use by 2^20·matrix + 2^10·row + column. -/
structure GrfSt where
  bound : Option (List Byte)
  /-- The HyperRAM region in which the feature store and the pool lie: usable offset and length (R239). -/
  base : Nat
  len : Nat
  /-- The section bound, the Blend slot it came from and the measurement of the image there (R250). -/
  sect : List Byte
  slot : Nat
  meas : List Byte
  mode : GraftMode
  w16 : SMap Int
  m8 : SMap Int
  v8 : SMap Int
  em : SMap Nat
  ev : SMap Nat
  step : Nat
  /-- The pool is a circle of entries in HyperRAM: the slot of the oldest, and how many it holds (R239, R242). -/
  poolHead : Nat
  poolLen : Nat
  /-- Slots of the store that hold an entry (R239), and entries that wait while their writes are held back (R240). -/
  feats : SMap Bool
  wait : List (List Byte)
  /-- Bytes of the oldest waiting entry that channel 4 has issued. -/
  featSent : Nat
  queue : List GraftCmd
  stepping : Bool
  /-- What the commit under way writes once staging ends: byte addresses and bytes (R252). -/
  stage : List (Nat × List Byte)
  /-- Head tiles that have changed for the armed commit (R252). -/
  changed : List Nat
deriving DecidableEq, Repr

/--
(DESIGN CHOICE, log 131) -/
def GrfSt.init : GrfSt :=
  { bound := none, base := 0, len := 0, sect := [], slot := 0, meas := [], mode := .uninit, w16 := [], m8 := [], v8 := [], em := [], ev := [], step := 0, poolHead := 0, poolLen := 0, feats := [],
    wait := [], featSent := 0, queue := [], stepping := false, stage := [], changed := [] }

/-- One Row's logic cells, in the configuration of the active Vintage (R197–R202): the stage of the release, whether a release
has been started, the edges each of the trees G0–G3 has made since the stage began, flip-flops as differences from their
reset values by cell, LUT RAM bits as differences from the configured table by 64·cell + address, the marker lanes the
Row drives, the flits at the ports, its nets, and the edges of each tree that have reached it. -/
structure LcRow where
  stage : Nat
  go : Bool
  cyc : List Nat
  ff : SMap Bool
  ram : SMap Bool
  lanes : Nat
  inq : List (Nat × StageEntry)
  outq : List (Nat × OutEntry)
  nets : LcNets
  edges : List Nat
deriving DecidableEq, Repr

def LcRow.init : LcRow :=
  { stage := 0, go := false, cyc := [0, 0, 0, 0], ff := [], ram := [], lanes := 0, inq := [], outq := [], nets := LcNets.init, edges := [0, 0, 0, 0] }

/-- A boot image as selected (R420): slot, seq, svn, key, measurement. -/
structure BootSt where
  slot : Nat
  seq : Nat
  svn : Nat
  key : Nat
  meas : List Byte
deriving DecidableEq, Repr

/-- A flash operation under way: kind and the address it was given (R424). -/
structure FlashOp where
  op : Nat
  addr : Nat
  code : Nat
deriving DecidableEq, Repr

/-- A life-cycle transition under way (R426): its target, whether the identity key is still being burned, and the crossings that will fail
to train at its cold reset. -/
structure TransSt where
  target : Nat
  burning : Bool
  failed : List (Fin 4 × Fin 8)
deriving DecidableEq, Repr

/-- Reset, boot and security (15). -/
structure SecSt where
  /-- Balls that hold the device in reset: COLD_RST_N, WARM_RST_N, PERST_N, and a JTAG hold instruction. -/
  heldCold : Bool
  heldWarm : Bool
  heldPerst : Bool
  heldJtag : Bool
  /-- The level of TEST_EN, which the board ties (R455). -/
  testEn : Bool
  off : Bool
  wiping : Bool
  /-- The boot after a reset has ended (R422). -/
  released : Bool
  /-- No slot booted (R423). -/
  recov : Bool
  /-- Where the Cellarmaster stands, by the codes of HUB.CM_STATUS.state, and what its memories hold from byte 0 on, zeros above (R412,
  R414, R421). -/
  cm : Nat
  cmMem : List Byte
  boot : Option BootSt
  /-- A Cellarmaster restart runs (R414). -/
  restart : Bool
  flash : SMap Byte
  flashOp : Option FlashOp
  challenge : Option (List Byte)
  chScope : Nat
  verify : Option (Nat × List Byte × List Byte)
  /-- Debug has been unlocked at some time since the last cold reset (Table 15.5). -/
  everUnlocked : Bool
  /-- A return authorisation is held (R433). -/
  retAuth : Bool
  /-- Wipe-done fuses that are burned, one bit for each state (R427). -/
  wipeDone : Nat
  trans : Option TransSt
  probe : SMap Nat
  probeLeft : Nat
  probeRun : Bool
  probeTrig : Bool
  probeDone : Bool
  /-- Index of the last sample, 65,536 before the first; bus bits 7:0 as last registered for the probe balls. -/
  probeLast : Nat
  probeBall : Nat
deriving DecidableEq, Repr

/-- Erased flash reads 0xFF.
(DESIGN CHOICE, log 8) -/
def erased : Nat → Byte := fun _ => 0xFF

def SecSt.init : SecSt :=
  { heldCold := false, heldWarm := false, heldPerst := false, heldJtag := false, testEn := false, off := false, wiping := false, released := false,
    recov := false, cm := 0, cmMem := [], boot := none, restart := false, flash := [],
    flashOp := none, challenge := none, chScope := 0, verify := none, everUnlocked := false, retAuth := false, wipeDone := 1, trans := none, probe := [],
    probeLeft := 0, probeRun := false, probeTrig := false, probeDone := false, probeLast := 65536, probeBall := 0 }

/-- The state of the block. -/
structure State where
  /-- Commands waiting, first in, first out. -/
  pending : List Instr
  fuse : Fuses
  regs : SMap Word
  words : SMap Word
  mem : SMap Byte
  poison : SMap Bool
  upset : SMap Nat
  free : Nat
  eccUnc : List (Nat × Nat)
  /-- Corrected codewords of each Row in the window that runs, by Terrace and physical Row (R444). -/
  eccWin : List Nat
  irqOut : List IrqMsg
  arr : ArraySt
  tx : HubTx
  lcRows : SMap LcRow
  job : JobSt
  sw : Option SwitchSt
  swWait : Option (Nat × Bool × Nat × Bool × Nat)
  cp : CpSt
  pci : PciSt
  ing : IngSt
  lin : LinSt
  vrd : VrdSt
  str : StrSt
  hrm : HrmSt
  trl : TrlSt
  pwr : PwrSt
  grf : GrfSt
  sec : SecSt
deriving DecidableEq, Repr

/-- The block right after a cold reset (R11, Table 15.1): registers at their reset values (none listed), on-chip memory wiped
(R412), fuses as the part was made, queues empty.
(DESIGN CHOICE, log 2; DESIGN CHOICE, log 6; DEDUCED, log 7; DESIGN CHOICE, log 9; DESIGN CHOICE, log 140) -/
def State.reset : State :=
  { pending := [], fuse := Fuses.init, regs := [], words := [], mem := [], poison := [], upset := [], free := 0, eccUnc := [],
    eccWin := List.replicate 36 0,
    irqOut := [], arr := ArraySt.init, tx := HubTx.init, lcRows := [], job := JobSt.init, sw := none, swWait := none,
    cp := CpSt.init, pci := PciSt.init, ing := IngSt.init, lin := LinSt.init, vrd := VrdSt.init, str := StrSt.init,
    hrm := HrmSt.init, trl := TrlSt.init, pwr := PwrSt.init, grf := GrfSt.init, sec := SecSt.init }

/-- Faults: the spec gives every command of the table an effect in every state, so none exists. -/
inductive Fault where
deriving DecidableEq, Repr

/-- Refusals. -/
inductive Refusal where
  /-- The arm of a command that has no meaning yet answers with this, naming its mnemonic; safe. -/
  | notModelled (mnemonic : String)
deriving DecidableEq, Repr

end Sys2Proof.Machine
end

