-- ==== Sys2Proof/Machine/Regs.lean ====
section
/-!
DEFINITION. Machine/Regs.lean: every register the spec heads, with its offset, fields, access codes, persistence
classes and reset values (spec files 01-16, the table under each register heading; R5-R12). `R.X` is a BAR0
offset, `F.X_f` a field of it. Registers of arrays take their indices; registers of a tile, IO, switch-point or
logic-cell window take the window's base `b` (R41, R42).
-/
namespace Sys2Proof.Machine

/-! ## Offsets -/
/-- HUB.PART_INFO (01, R22). -/
def R.HUB_PART_INFO : Nat := 0x0
/-- TER.ROW_STATUS (01, R22). -/
def R.TER_ROW_STATUS (n : Nat) : Nat := 0x80000 + n * 0x20000 + 0x0
/-- TER.ROW_MAP_V (01, R22). -/
def R.TER_ROW_MAP_V (n i : Nat) : Nat := 0x80000 + n * 0x20000 + 0x10 + i * 0x4
/-- MX.SEQ_CTRL (02, R44). -/
def R.MX_SEQ_CTRL (b : Nat) : Nat := b
/-- MX.SEQ_STATUS (02, R44). -/
def R.MX_SEQ_STATUS (b : Nat) : Nat := b + 0x4
/-- MX.SEQ_CTR01 (02, R44). -/
def R.MX_SEQ_CTR01 (b : Nat) : Nat := b + 0x8
/-- MX.SEQ_CTR23 (02, R44). -/
def R.MX_SEQ_CTR23 (b : Nat) : Nat := b + 0xC
/-- MX.PARAM_ADDR (02, R44). -/
def R.MX_PARAM_ADDR (b : Nat) : Nat := b + 0x10
/-- MX.PARAM_DATA (02, R44). -/
def R.MX_PARAM_DATA (b : Nat) : Nat := b + 0x14
/-- MX.DELAY_PAD_V (02, R44). -/
def R.MX_DELAY_PAD_V (b i : Nat) : Nat := b + 0x18 + i * 0x4
/-- MX.FAULT (02, R44). -/
def R.MX_FAULT (b : Nat) : Nat := b + 0x28
/-- MX.STALL_CNT (02, R44). -/
def R.MX_STALL_CNT (b : Nat) : Nat := b + 0x2C
/-- MX.FBIN (02, R59). -/
def R.MX_FBIN (b : Nat) : Nat := b + 0x40
/-- SF.PTAB_ADDR (02, R62). -/
def R.SF_PTAB_ADDR (b : Nat) : Nat := b + 0x40
/-- SF.PTAB_DATA (02, R62). -/
def R.SF_PTAB_DATA (b : Nat) : Nat := b + 0x44
/-- TER.FAULT_LOC (02, R73). -/
def R.TER_FAULT_LOC (n : Nat) : Nat := 0x80000 + n * 0x20000 + 0x40
/-- TER.FAULT_BAND (02, R73). -/
def R.TER_FAULT_BAND (n : Nat) : Nat := 0x80000 + n * 0x20000 + 0x44
/-- TER.FAULT_COUNT (02, R73). -/
def R.TER_FAULT_COUNT (n : Nat) : Nat := 0x80000 + n * 0x20000 + 0x48
/-- MX.SAT_CNT (03, R106). -/
def R.MX_SAT_CNT (b : Nat) : Nat := b + 0x44
/-- MX.GAIN (03, R106). -/
def R.MX_GAIN (b : Nat) : Nat := b + 0x48
/-- MX.TAG_LOG (03, R106). -/
def R.MX_TAG_LOG (b : Nat) : Nat := b + 0x4C
/-- SF.TAG_LOG (03, R106). -/
def R.SF_TAG_LOG (b : Nat) : Nat := b + 0x58
/-- SF.SAT_CNT (03, R106). -/
def R.SF_SAT_CNT (b : Nat) : Nat := b + 0x48
/-- SF.COLL_SEL (03, R106). -/
def R.SF_COLL_SEL (b : Nat) : Nat := b + 0x4C
/-- SF.COLL_DATA (03, R106). -/
def R.SF_COLL_DATA (b : Nat) : Nat := b + 0x50
/-- SF.GAIN (03, R106). -/
def R.SF_GAIN (b : Nat) : Nat := b + 0x54
/-- SF.ADAPT_LAST (03, R106). -/
def R.SF_ADAPT_LAST (b : Nat) : Nat := b + 0x5C
/-- SP.FRAME (05, R142). -/
def R.SP_FRAME (b : Nat) : Nat := b
/-- SP.SLOT_ADDR (05, R142). -/
def R.SP_SLOT_ADDR (b : Nat) : Nat := b + 0x4
/-- SP.SLOT_DATA (05, R142). -/
def R.SP_SLOT_DATA (b : Nat) : Nat := b + 0x8
/-- SP.STATUS (05, R142). -/
def R.SP_STATUS (b : Nat) : Nat := b + 0xC
/-- MM.CASK_SEL (05, R155). -/
def R.MM_CASK_SEL (b : Nat) : Nat := b + 0x40
/-- MM.CASK_DESC0 (05, R155). -/
def R.MM_CASK_DESC0 (b : Nat) : Nat := b + 0x44
/-- MM.CASK_DESC1 (05, R155). -/
def R.MM_CASK_DESC1 (b : Nat) : Nat := b + 0x48
/-- MM.CASK_COUNT (05, R155). -/
def R.MM_CASK_COUNT (b : Nat) : Nat := b + 0x4C
/-- MM.CASK_HWM (05, R155). -/
def R.MM_CASK_HWM (b : Nat) : Nat := b + 0x50
/-- MM.CASK_SPILL (05, R155). -/
def R.MM_CASK_SPILL (b : Nat) : Nat := b + 0x54
/-- MM.CASK_FAULT (05, R155). -/
def R.MM_CASK_FAULT (b : Nat) : Nat := b + 0x58
/-- MM.CASK_PERR (05, R155). -/
def R.MM_CASK_PERR (b : Nat) : Nat := b + 0x5C
/-- IO.BRIDGE_STATUS (05, R159). -/
def R.IO_BRIDGE_STATUS (b : Nat) : Nat := b + 0x40
/-- RK.UNIT_STATUS (05, R164). -/
def R.RK_UNIT_STATUS (b : Nat) : Nat := b + 0x40
/-- RK.WAIT_CNT (05, R164). -/
def R.RK_WAIT_CNT (b : Nat) : Nat := b + 0x44
/-- RK.SKEW_LOG (05, R164). -/
def R.RK_SKEW_LOG (b : Nat) : Nat := b + 0x48
/-- HUB.DLD_STATUS (05, R170). -/
def R.HUB_DLD_STATUS : Nat := 0x600
/-- HUB.DLD_COUNT (05, R170). -/
def R.HUB_DLD_COUNT : Nat := 0x604
/-- TER.FAULT_AUX (05, R171). -/
def R.TER_FAULT_AUX (n : Nat) : Nat := 0x80000 + n * 0x20000 + 0x4C
/-- HUB.ELAST_LO (06, R175). -/
def R.HUB_ELAST_LO : Nat := 0x610
/-- HUB.ELAST_HI (06, R175). -/
def R.HUB_ELAST_HI : Nat := 0x614
/-- HUB.RUN_AC_LO (06, R182). -/
def R.HUB_RUN_AC_LO : Nat := 0x618
/-- HUB.RUN_AC_HI (06, R182). -/
def R.HUB_RUN_AC_HI : Nat := 0x61C
/-- HUB.HOLD_AC_LO (06, R182). -/
def R.HUB_HOLD_AC_LO : Nat := 0x620
/-- HUB.HOLD_AC_HI (06, R182). -/
def R.HUB_HOLD_AC_HI : Nat := 0x624
/-- HUB.HOLD_STATUS (06, R182). -/
def R.HUB_HOLD_STATUS : Nat := 0x628
/-- HUB.HOLD_LIMIT (06, R182). -/
def R.HUB_HOLD_LIMIT : Nat := 0x62C
/-- TER.UNT_ADDR (06, R185). -/
def R.TER_UNT_ADDR (n : Nat) : Nat := 0x80000 + n * 0x20000 + 0x80
/-- TER.UNT_DATA (06, R185). -/
def R.TER_UNT_DATA (n : Nat) : Nat := 0x80000 + n * 0x20000 + 0x84
/-- TER.LDG_SEL (06, R185). -/
def R.TER_LDG_SEL (n : Nat) : Nat := 0x80000 + n * 0x20000 + 0x88
/-- TER.LDG_OBS (06, R185). -/
def R.TER_LDG_OBS (n : Nat) : Nat := 0x80000 + n * 0x20000 + 0x8C
/-- TER.LDG_STATUS (06, R185). -/
def R.TER_LDG_STATUS (n : Nat) : Nat := 0x80000 + n * 0x20000 + 0x90
/-- HUB.VNT_STATUS (06, R193). -/
def R.HUB_VNT_STATUS : Nat := 0x630
/-- HUB.VNT_SWITCH (06, R193). -/
def R.HUB_VNT_SWITCH : Nat := 0x634
/-- LC.STATUS (06, R204). -/
def R.LC_STATUS (b : Nat) : Nat := b
/-- LC.IND_ADDR (06, R204). -/
def R.LC_IND_ADDR (b : Nat) : Nat := b + 0x4
/-- LC.IND_DATA (06, R204). -/
def R.LC_IND_DATA (b : Nat) : Nat := b + 0x8
/-- TER.LC_TREE_V (06, R204). -/
def R.TER_LC_TREE_V (n i : Nat) : Nat := 0x80000 + n * 0x20000 + 0xA0 + i * 0x4
/-- HUB.PRB_CTRL (06, R204). -/
def R.HUB_PRB_CTRL : Nat := 0x700
/-- HUB.PRB_STATUS (06, R204). -/
def R.HUB_PRB_STATUS : Nat := 0x704
/-- HUB.PRB_MASK_LO (06, R204). -/
def R.HUB_PRB_MASK_LO : Nat := 0x708
/-- HUB.PRB_MASK_HI (06, R204). -/
def R.HUB_PRB_MASK_HI : Nat := 0x70C
/-- HUB.PRB_MATCH_LO (06, R204). -/
def R.HUB_PRB_MATCH_LO : Nat := 0x710
/-- HUB.PRB_MATCH_HI (06, R204). -/
def R.HUB_PRB_MATCH_HI : Nat := 0x714
/-- HUB.PRB_ADDR (06, R204). -/
def R.HUB_PRB_ADDR : Nat := 0x718
/-- HUB.PRB_DATA_LO (06, R204). -/
def R.HUB_PRB_DATA_LO : Nat := 0x71C
/-- HUB.PRB_DATA_HI (06, R204). -/
def R.HUB_PRB_DATA_HI : Nat := 0x720
/-- HUB.LDR_STATUS (07, R231). -/
def R.HUB_LDR_STATUS : Nat := 0x800
/-- HUB.LDR_LOC (07, R231). -/
def R.HUB_LDR_LOC : Nat := 0x804
/-- HUB.LDR_UNIT (07, R231). -/
def R.HUB_LDR_UNIT : Nat := 0x808
/-- HUB.LDR_PROG (07, R231). -/
def R.HUB_LDR_PROG : Nat := 0x80C
/-- HUB.GRF_CTRL (08, R255). -/
def R.HUB_GRF_CTRL : Nat := 0x900
/-- HUB.GRF_STATUS (08, R255). -/
def R.HUB_GRF_STATUS : Nat := 0x904
/-- HUB.GRF_STEP (08, R255). -/
def R.HUB_GRF_STEP : Nat := 0x908
/-- HUB.GRF_POOL (08, R255). -/
def R.HUB_GRF_POOL : Nat := 0x90C
/-- HUB.GRF_GEN (08, R255). -/
def R.HUB_GRF_GEN : Nat := 0x910
/-- HUB.GRF_SAT (08, R255). -/
def R.HUB_GRF_SAT : Nat := 0x914
/-- HUB.GRF_DROP (08, R255). -/
def R.HUB_GRF_DROP : Nat := 0x918
/-- HUB.GRF_ERR (08, R255). -/
def R.HUB_GRF_ERR : Nat := 0x91C
/-- ING.CAM_CFG (09, R280). -/
def R.ING_CAM_CFG (i : Nat) : Nat := 0x20000 + i * 0x10
/-- ING.CAM_POS (09, R280). -/
def R.ING_CAM_POS (i : Nat) : Nat := 0x20004 + i * 0x10
/-- ING.LINE_CFG (09, R280). -/
def R.ING_LINE_CFG : Nat := 0x20040
/-- ING.LINK_STATUS (09, R280). -/
def R.ING_LINK_STATUS : Nat := 0x20044
/-- ING.CRC_CNT (09, R280). -/
def R.ING_CRC_CNT : Nat := 0x20048
/-- ING.SUB_CNT (09, R280). -/
def R.ING_SUB_CNT : Nat := 0x2004C
/-- ING.OVR_CNT (09, R280). -/
def R.ING_OVR_CNT : Nat := 0x20050
/-- ING.DISC_CNT (09, R280). -/
def R.ING_DISC_CNT : Nat := 0x20054
/-- ING.MBX_CTRL (09, R280). -/
def R.ING_MBX_CTRL (i : Nat) : Nat := 0x20080 + i * 0x4
/-- FFC.CTRL (09, R280). -/
def R.FFC_CTRL : Nat := 0x24000
/-- FFC.SAT_CNT (09, R280). -/
def R.FFC_SAT_CNT : Nat := 0x24004
/-- RSH.CFG (09, R280). -/
def R.RSH_CFG : Nat := 0x28000
/-- RSH.PLANE (09, R280). -/
def R.RSH_PLANE (i : Nat) : Nat := 0x28010 + i * 0x4
/-- SLC.CFG (09, R280). -/
def R.SLC_CFG : Nat := 0x2A000
/-- SLC.NBR (09, R280). -/
def R.SLC_NBR : Nat := 0x2A004
/-- SLC.HALO (09, R280). -/
def R.SLC_HALO : Nat := 0x2A008
/-- STP.ENC_CFG (09, R280). -/
def R.STP_ENC_CFG : Nat := 0x2C000
/-- STP.POS_LO (09, R280). -/
def R.STP_POS_LO : Nat := 0x2C004
/-- STP.POS_HI (09, R280). -/
def R.STP_POS_HI : Nat := 0x2C008
/-- STP.ENC_ERR (09, R280). -/
def R.STP_ENC_ERR : Nat := 0x2C00C
/-- STP.STAMP_CFG (09, R280). -/
def R.STP_STAMP_CFG : Nat := 0x2C010
/-- STP.TRG_CFG (09, R280). -/
def R.STP_TRG_CFG (i : Nat) : Nat := 0x2C100 + i * 0x10
/-- STP.TRG_N (09, R280). -/
def R.STP_TRG_N (i : Nat) : Nat := 0x2C104 + i * 0x10
/-- STP.TRG_PER (09, R280). -/
def R.STP_TRG_PER (i : Nat) : Nat := 0x2C108 + i * 0x10
/-- STP.TRG_MIN (09, R280). -/
def R.STP_TRG_MIN (i : Nat) : Nat := 0x2C10C + i * 0x10
/-- STP.TRG_SUPP (09, R280). -/
def R.STP_TRG_SUPP : Nat := 0x2C180
/-- STP.MRK_CFG (09, R280). -/
def R.STP_MRK_CFG (i : Nat) : Nat := 0x2C200 + i * 0x10
/-- STP.MRK_COL (09, R280). -/
def R.STP_MRK_COL (i : Nat) : Nat := 0x2C204 + i * 0x10
/-- STP.MRK_DLY (09, R280). -/
def R.STP_MRK_DLY (i : Nat) : Nat := 0x2C208 + i * 0x10
/-- STP.MRK_WID (09, R280). -/
def R.STP_MRK_WID (i : Nat) : Nat := 0x2C20C + i * 0x10
/-- STP.MRK_LATE (09, R280). -/
def R.STP_MRK_LATE : Nat := 0x2C300
/-- STP.MRK_DROP (09, R280). -/
def R.STP_MRK_DROP : Nat := 0x2C304
/-- HUB.SS_R (10, R282). -/
def R.HUB_SS_R (i : Nat) : Nat := 0xA00 + i * 0x4
/-- VRD.REC_V (10, R296). -/
def R.VRD_REC_V (i : Nat) : Nat := 0x70004 + i * 0x100
/-- VRD.CROP_V (10, R296). -/
def R.VRD_CROP_V (i : Nat) : Nat := 0x70008 + i * 0x100
/-- VRD.CROP_OFS_V (10, R296). -/
def R.VRD_CROP_OFS_V (i : Nat) : Nat := 0x7000C + i * 0x100
/-- VRD.TAP_V (10, R296). -/
def R.VRD_TAP_V (i : Nat) : Nat := 0x70010 + i * 0x100
/-- VRD.CMAP_ADDR (10, R296). -/
def R.VRD_CMAP_ADDR : Nat := 0x70400
/-- VRD.CMAP_DATA (10, R296). -/
def R.VRD_CMAP_DATA : Nat := 0x70404
/-- VRD.RB_DROP (10, R296). -/
def R.VRD_RB_DROP : Nat := 0x78004
/-- VRD.STAT_SEL (10, R296). -/
def R.VRD_STAT_SEL : Nat := 0x78010
/-- VRD.STAT_DATA (10, R296). -/
def R.VRD_STAT_DATA : Nat := 0x78014
/-- STR.CH_CTRL (10, R307). -/
def R.STR_CH_CTRL (n : Nat) : Nat := 0x10000 + n * 0x100
/-- STR.CH_STATUS (10, R307). -/
def R.STR_CH_STATUS (n : Nat) : Nat := 0x10004 + n * 0x100
/-- STR.CH_RES0 (10, R307). -/
def R.STR_CH_RES0 (n : Nat) : Nat := 0x10008 + n * 0x100
/-- STR.CH_RES1 (10, R307). -/
def R.STR_CH_RES1 (n : Nat) : Nat := 0x1000C + n * 0x100
/-- STR.CH_BYTES (10, R307). -/
def R.STR_CH_BYTES (n : Nat) : Nat := 0x10010 + n * 0x100
/-- STR.CH_ERR (10, R307). -/
def R.STR_CH_ERR (n : Nat) : Nat := 0x10014 + n * 0x100
/-- STR.CH_RING (10, R307). -/
def R.STR_CH_RING (n : Nat) : Nat := 0x10018 + n * 0x100
/-- STR.CH_DESC (10, R307). -/
def R.STR_CH_DESC (n i : Nat) : Nat := 0x10040 + n * 0x100 + i * 0x4
/-- STR.SPLIT (10, R307). -/
def R.STR_SPLIT : Nat := 0x11000
/-- STR.PROG_ADDR (10, R307). -/
def R.STR_PROG_ADDR : Nat := 0x11004
/-- STR.PROG_DATA (10, R307). -/
def R.STR_PROG_DATA : Nat := 0x11008
/-- STR.PACE_A (10, R307). -/
def R.STR_PACE_A (i : Nat) : Nat := 0x11100 + i * 0x8
/-- STR.PACE_B (10, R307). -/
def R.STR_PACE_B (i : Nat) : Nat := 0x11104 + i * 0x8
/-- HUB.VIOL_ADDR (11, R316). -/
def R.HUB_VIOL_ADDR : Nat := 0x100
/-- HUB.VIOL_INFO (11, R316). -/
def R.HUB_VIOL_INFO : Nat := 0x104
/-- HUB.VIOL_COUNT (11, R316). -/
def R.HUB_VIOL_COUNT : Nat := 0x108
/-- PCI.BAR2_WIN (11, R316). -/
def R.PCI_BAR2_WIN : Nat := 0x8020
/-- PCI.RING_BASE_LO (11, R320). -/
def R.PCI_RING_BASE_LO (n : Nat) : Nat := 0x8100 + n * 0x20
/-- PCI.RING_BASE_HI (11, R320). -/
def R.PCI_RING_BASE_HI (n : Nat) : Nat := 0x8104 + n * 0x20
/-- PCI.RING_CFG (11, R320). -/
def R.PCI_RING_CFG (n : Nat) : Nat := 0x8108 + n * 0x20
/-- PCI.RING_PROD (11, R320). -/
def R.PCI_RING_PROD (n : Nat) : Nat := 0x810C + n * 0x20
/-- PCI.RING_CONS (11, R320). -/
def R.PCI_RING_CONS (n : Nat) : Nat := 0x8110 + n * 0x20
/-- PCI.RING_IRQ (11, R320). -/
def R.PCI_RING_IRQ (n : Nat) : Nat := 0x8114 + n * 0x20
/-- PCI.CP_STATUS (11, R320). -/
def R.PCI_CP_STATUS : Nat := 0x8024
/-- HUB.IRQ_STATUS (11, R323). -/
def R.HUB_IRQ_STATUS : Nat := 0x110
/-- HUB.IRQ_MASK (11, R323). -/
def R.HUB_IRQ_MASK : Nat := 0x114
/-- HRM.CTRL (12, R349). -/
def R.HRM_CTRL : Nat := 0x60000
/-- HRM.CAP (12, R349). -/
def R.HRM_CAP : Nat := 0x60004
/-- HRM.BSTORE (12, R349). -/
def R.HRM_BSTORE : Nat := 0x60008
/-- HRM.CROP_BASE (12, R349). -/
def R.HRM_CROP_BASE : Nat := 0x6000C
/-- HRM.CROP_SIZE (12, R349). -/
def R.HRM_CROP_SIZE : Nat := 0x60010
/-- HRM.SCRUB (12, R349). -/
def R.HRM_SCRUB : Nat := 0x60014
/-- HRM.ERR_ADDR (12, R349). -/
def R.HRM_ERR_ADDR : Nat := 0x60018
/-- HRM.ERR_INFO (12, R349). -/
def R.HRM_ERR_INFO : Nat := 0x6001C
/-- HRM.CH_CFG (12, R349). -/
def R.HRM_CH_CFG (n : Nat) : Nat := 0x60040 + n * 0x10
/-- HRM.CH_STATUS (12, R349). -/
def R.HRM_CH_STATUS (n : Nat) : Nat := 0x60044 + n * 0x10
/-- HRM.CH_ERR (12, R349). -/
def R.HRM_CH_ERR (n : Nat) : Nat := 0x60048 + n * 0x10
/-- TRL.CFG (13, R379). -/
def R.TRL_CFG : Nat := 0x50000
/-- TRL.CTRL (13, R379). -/
def R.TRL_CTRL : Nat := 0x50004
/-- TRL.STATUS (13, R379). -/
def R.TRL_STATUS : Nat := 0x50008
/-- TRL.PORT0_ERR (13, R379). -/
def R.TRL_PORT0_ERR : Nat := 0x50010
/-- TRL.PORT1_ERR (13, R379). -/
def R.TRL_PORT1_ERR : Nat := 0x50014
/-- TRL.TIME_LO (13, R379). -/
def R.TRL_TIME_LO : Nat := 0x50018
/-- TRL.TIME_HI (13, R379). -/
def R.TRL_TIME_HI : Nat := 0x5001C
/-- TRL.SKEW (13, R379). -/
def R.TRL_SKEW : Nat := 0x50020
/-- TRL.RETIRE (13, R379). -/
def R.TRL_RETIRE : Nat := 0x50024
/-- TRL.MAP_ADDR (13, R379). -/
def R.TRL_MAP_ADDR : Nat := 0x50028
/-- TRL.MAP_DATA (13, R379). -/
def R.TRL_MAP_DATA : Nat := 0x5002C
/-- TRL.EVENT (13, R379). -/
def R.TRL_EVENT : Nat := 0x50030
/-- TRL.ERR (13, R379). -/
def R.TRL_ERR : Nat := 0x50034
/-- TRL.RSE (13, R379). -/
def R.TRL_RSE (i : Nat) : Nat := 0x50100 + i * 0x8
/-- TRL.RSI (13, R379). -/
def R.TRL_RSI (i : Nat) : Nat := 0x50104 + i * 0x8
/-- PWR.STATE (14, R408). -/
def R.PWR_STATE : Nat := 0x30000
/-- PWR.FREQ (14, R408). -/
def R.PWR_FREQ : Nat := 0x30004
/-- PWR.FREQ_STATUS (14, R408). -/
def R.PWR_FREQ_STATUS : Nat := 0x30008
/-- PWR.CAP (14, R408). -/
def R.PWR_CAP : Nat := 0x3000C
/-- PWR.GOV (14, R408). -/
def R.PWR_GOV : Nat := 0x30010
/-- PWR.FALLBACK (14, R408). -/
def R.PWR_FALLBACK : Nat := 0x30014
/-- PWR.SUPPLY (14, R408). -/
def R.PWR_SUPPLY : Nat := 0x30018
/-- PWR.DROOP_CNT (14, R408). -/
def R.PWR_DROOP_CNT : Nat := 0x3001C
/-- PWR.SETTLE_AC (14, R408). -/
def R.PWR_SETTLE_AC : Nat := 0x30020
/-- PWR.TEMP (14, R408). -/
def R.PWR_TEMP : Nat := 0x30024
/-- PWR.THERM (14, R408). -/
def R.PWR_THERM : Nat := 0x30028
/-- PWR.LOAM (14, R408). -/
def R.PWR_LOAM : Nat := 0x3002C
/-- PWR.HINT_MV (14, R408). -/
def R.PWR_HINT_MV : Nat := 0x30030
/-- PWR.EVENT (14, R408). -/
def R.PWR_EVENT : Nat := 0x30034
/-- PWR.ERR (14, R408). -/
def R.PWR_ERR : Nat := 0x30038
/-- PWR.ENERGY_LO (14, R408). -/
def R.PWR_ENERGY_LO : Nat := 0x30040
/-- PWR.ENERGY_HI (14, R408). -/
def R.PWR_ENERGY_HI : Nat := 0x30044
/-- PWR.JOB_ENERGY_LO (14, R408). -/
def R.PWR_JOB_ENERGY_LO : Nat := 0x30048
/-- PWR.JOB_ENERGY_HI (14, R408). -/
def R.PWR_JOB_ENERGY_HI : Nat := 0x3004C
/-- PWR.TEL_SEL (14, R408). -/
def R.PWR_TEL_SEL : Nat := 0x30050
/-- PWR.TEL_DATA (14, R408). -/
def R.PWR_TEL_DATA : Nat := 0x30054
/-- PWR.REG (14, R408). -/
def R.PWR_REG (i : Nat) : Nat := 0x30060 + i * 0x4
/-- PWR.PD_ON_LO (14, R408). -/
def R.PWR_PD_ON_LO : Nat := 0x30080
/-- PWR.PD_ON_HI (14, R408). -/
def R.PWR_PD_ON_HI : Nat := 0x30084
/-- PWR.PD_RET_LO (14, R408). -/
def R.PWR_PD_RET_LO : Nat := 0x30088
/-- PWR.PD_RET_HI (14, R408). -/
def R.PWR_PD_RET_HI : Nat := 0x3008C
/-- PWR.CD_RUN_LO (14, R408). -/
def R.PWR_CD_RUN_LO : Nat := 0x30090
/-- PWR.CD_RUN_HI (14, R408). -/
def R.PWR_CD_RUN_HI : Nat := 0x30094
/-- HUB.RST_CTRL (15, R415). -/
def R.HUB_RST_CTRL : Nat := 0xB00
/-- HUB.RST_STATUS (15, R415). -/
def R.HUB_RST_STATUS : Nat := 0xB04
/-- HUB.CM_WDT (15, R415). -/
def R.HUB_CM_WDT : Nat := 0xB08
/-- HUB.CM_STATUS (15, R415). -/
def R.HUB_CM_STATUS : Nat := 0xB0C
/-- SEC.BOOT_STATUS (15, R424). -/
def R.SEC_BOOT_STATUS : Nat := 0x40008
/-- SEC.BOOT_CODE (15, R424). -/
def R.SEC_BOOT_CODE : Nat := 0x4000C
/-- SEC.FL_ADDR (15, R424). -/
def R.SEC_FL_ADDR : Nat := 0x40020
/-- SEC.FL_CTRL (15, R424). -/
def R.SEC_FL_CTRL : Nat := 0x40024
/-- SEC.LC_STATE (15, R428). -/
def R.SEC_LC_STATE : Nat := 0x40000
/-- SEC.LC_CTRL (15, R428). -/
def R.SEC_LC_CTRL : Nat := 0x40004
/-- SEC.KEY_CTRL (15, R428). -/
def R.SEC_KEY_CTRL : Nat := 0x40030
/-- SEC.DBG_CTRL (15, R434). -/
def R.SEC_DBG_CTRL : Nat := 0x40040
/-- SEC.ERR (15, R434). -/
def R.SEC_ERR : Nat := 0x40044
/-- HUB.ECC_CFG (16, R444). -/
def R.HUB_ECC_CFG : Nat := 0xC00
/-- HUB.ECC_ALERT (16, R444). -/
def R.HUB_ECC_ALERT : Nat := 0xC04
/-- HUB.ECC_SCRUB (16, R444). -/
def R.HUB_ECC_SCRUB : Nat := 0xC08
/-- HUB.ECC_ERR_ADDR (16, R444). -/
def R.HUB_ECC_ERR_ADDR : Nat := 0xC0C
/-- HUB.ECC_ERR_INFO (16, R444). -/
def R.HUB_ECC_ERR_INFO : Nat := 0xC10
/-- HUB.ECC_HUB (16, R444). -/
def R.HUB_ECC_HUB : Nat := 0xC14
/-- TER.ROW_ECC (16, R444). -/
def R.TER_ROW_ECC (n i : Nat) : Nat := 0x80000 + n * 0x20000 + 0xC0 + i * 0x4

/-! ## Fields -/
def F.HUB_PART_INFO_stepping : Fld := ⟨R.HUB_PART_INFO, 0, 4⟩
def F.HUB_PART_INFO_grade : Fld := ⟨R.HUB_PART_INFO, 4, 1⟩
def F.HUB_PART_INFO_good_rows : Fld := ⟨R.HUB_PART_INFO, 8, 6⟩
def F.HUB_PART_INFO_part_code : Fld := ⟨R.HUB_PART_INFO, 16, 16⟩
def F.TER_ROW_STATUS_row_good (n : Nat) : Fld := ⟨R.TER_ROW_STATUS n, 0, 9⟩
def F.TER_ROW_STATUS_row_retired (n : Nat) : Fld := ⟨R.TER_ROW_STATUS n, 16, 9⟩
def F.TER_ROW_MAP_V_lrow (n i j : Nat) : Fld := ⟨R.TER_ROW_MAP_V n i, 0 + 4 * j, 4⟩
def F.MX_SEQ_CTRL_use_v (b : Nat) : Fld := ⟨R.MX_SEQ_CTRL b, 0, 4⟩
def F.MX_SEQ_STATUS_pc (b : Nat) : Fld := ⟨R.MX_SEQ_STATUS b, 0, 6⟩
def F.MX_SEQ_STATUS_vintage (b : Nat) : Fld := ⟨R.MX_SEQ_STATUS b, 8, 2⟩
def F.MX_SEQ_STATUS_state (b : Nat) : Fld := ⟨R.MX_SEQ_STATUS b, 10, 3⟩
def F.MX_SEQ_STATUS_pend_line (b : Nat) : Fld := ⟨R.MX_SEQ_STATUS b, 16, 4⟩
def F.MX_SEQ_STATUS_pend_band (b : Nat) : Fld := ⟨R.MX_SEQ_STATUS b, 20, 2⟩
def F.MX_SEQ_CTR01_rem_c0 (b : Nat) : Fld := ⟨R.MX_SEQ_CTR01 b, 0, 16⟩
def F.MX_SEQ_CTR01_rem_c1 (b : Nat) : Fld := ⟨R.MX_SEQ_CTR01 b, 16, 16⟩
def F.MX_SEQ_CTR23_rem_c2 (b : Nat) : Fld := ⟨R.MX_SEQ_CTR23 b, 0, 16⟩
def F.MX_SEQ_CTR23_rem_c3 (b : Nat) : Fld := ⟨R.MX_SEQ_CTR23 b, 16, 16⟩
def F.MX_PARAM_ADDR_index (b : Nat) : Fld := ⟨R.MX_PARAM_ADDR b, 0, 10⟩
def F.MX_PARAM_ADDR_autoinc (b : Nat) : Fld := ⟨R.MX_PARAM_ADDR b, 31, 1⟩
def F.MX_PARAM_DATA_data (b : Nat) : Fld := ⟨R.MX_PARAM_DATA b, 0, 32⟩
def F.MX_DELAY_PAD_V_pad (b i j : Nat) : Fld := ⟨R.MX_DELAY_PAD_V b i, 0 + 3 * j, 3⟩
def F.MX_FAULT_code (b : Nat) : Fld := ⟨R.MX_FAULT b, 0, 16⟩
def F.MX_FAULT_pc (b : Nat) : Fld := ⟨R.MX_FAULT b, 16, 6⟩
def F.MX_FAULT_vintage (b : Nat) : Fld := ⟨R.MX_FAULT b, 22, 2⟩
def F.MX_FAULT_valid (b : Nat) : Fld := ⟨R.MX_FAULT b, 31, 1⟩
def F.MX_STALL_CNT_stall_ac (b : Nat) : Fld := ⟨R.MX_STALL_CNT b, 0, 32⟩
def F.MX_FBIN_bin (b : Nat) : Fld := ⟨R.MX_FBIN b, 0, 5⟩
def F.SF_PTAB_ADDR_index (b : Nat) : Fld := ⟨R.SF_PTAB_ADDR b, 0, 11⟩
def F.SF_PTAB_ADDR_autoinc (b : Nat) : Fld := ⟨R.SF_PTAB_ADDR b, 31, 1⟩
def F.SF_PTAB_DATA_data (b : Nat) : Fld := ⟨R.SF_PTAB_DATA b, 0, 32⟩
def F.TER_FAULT_LOC_code (n : Nat) : Fld := ⟨R.TER_FAULT_LOC n, 0, 16⟩
def F.TER_FAULT_LOC_phys_row (n : Nat) : Fld := ⟨R.TER_FAULT_LOC n, 16, 4⟩
def F.TER_FAULT_LOC_kind (n : Nat) : Fld := ⟨R.TER_FAULT_LOC n, 20, 3⟩
def F.TER_FAULT_LOC_index (n : Nat) : Fld := ⟨R.TER_FAULT_LOC n, 24, 4⟩
def F.TER_FAULT_LOC_vintage (n : Nat) : Fld := ⟨R.TER_FAULT_LOC n, 28, 2⟩
def F.TER_FAULT_LOC_valid (n : Nat) : Fld := ⟨R.TER_FAULT_LOC n, 31, 1⟩
def F.TER_FAULT_BAND_pc (n : Nat) : Fld := ⟨R.TER_FAULT_BAND n, 0, 6⟩
def F.TER_FAULT_BAND_band (n : Nat) : Fld := ⟨R.TER_FAULT_BAND n, 8, 24⟩
def F.TER_FAULT_COUNT_count (n : Nat) : Fld := ⟨R.TER_FAULT_COUNT n, 0, 32⟩
def F.MX_SAT_CNT_sat (b : Nat) : Fld := ⟨R.MX_SAT_CNT b, 0, 32⟩
def F.MX_GAIN_gain (b : Nat) : Fld := ⟨R.MX_GAIN b, 0, 16⟩
def F.MX_GAIN_tag (b : Nat) : Fld := ⟨R.MX_GAIN b, 16, 4⟩
def F.MX_GAIN_pending (b : Nat) : Fld := ⟨R.MX_GAIN b, 20, 1⟩
def F.MX_TAG_LOG_data_tag (b : Nat) : Fld := ⟨R.MX_TAG_LOG b, 0, 4⟩
def F.MX_TAG_LOG_entry_tag (b : Nat) : Fld := ⟨R.MX_TAG_LOG b, 4, 4⟩
def F.MX_TAG_LOG_cask (b : Nat) : Fld := ⟨R.MX_TAG_LOG b, 8, 4⟩
def F.MX_TAG_LOG_mm_tile (b : Nat) : Fld := ⟨R.MX_TAG_LOG b, 12, 3⟩
def F.MX_TAG_LOG_mm_row (b : Nat) : Fld := ⟨R.MX_TAG_LOG b, 15, 4⟩
def F.MX_TAG_LOG_poisoned (b : Nat) : Fld := ⟨R.MX_TAG_LOG b, 19, 1⟩
def F.MX_TAG_LOG_valid (b : Nat) : Fld := ⟨R.MX_TAG_LOG b, 31, 1⟩
def F.SF_TAG_LOG_data_tag (b : Nat) : Fld := ⟨R.SF_TAG_LOG b, 0, 4⟩
def F.SF_TAG_LOG_entry_tag (b : Nat) : Fld := ⟨R.SF_TAG_LOG b, 4, 4⟩
def F.SF_TAG_LOG_cask (b : Nat) : Fld := ⟨R.SF_TAG_LOG b, 8, 4⟩
def F.SF_TAG_LOG_mm_tile (b : Nat) : Fld := ⟨R.SF_TAG_LOG b, 12, 3⟩
def F.SF_TAG_LOG_mm_row (b : Nat) : Fld := ⟨R.SF_TAG_LOG b, 15, 4⟩
def F.SF_TAG_LOG_poisoned (b : Nat) : Fld := ⟨R.SF_TAG_LOG b, 19, 1⟩
def F.SF_TAG_LOG_layer_bad (b : Nat) : Fld := ⟨R.SF_TAG_LOG b, 20, 1⟩
def F.SF_TAG_LOG_valid (b : Nat) : Fld := ⟨R.SF_TAG_LOG b, 31, 1⟩
def F.SF_SAT_CNT_sat (b : Nat) : Fld := ⟨R.SF_SAT_CNT b, 0, 32⟩
def F.SF_COLL_SEL_lane (b : Nat) : Fld := ⟨R.SF_COLL_SEL b, 0, 5⟩
def F.SF_COLL_DATA_max (b : Nat) : Fld := ⟨R.SF_COLL_DATA b, 0, 15⟩
def F.SF_COLL_DATA_band (b : Nat) : Fld := ⟨R.SF_COLL_DATA b, 16, 16⟩
def F.SF_GAIN_gain (b : Nat) : Fld := ⟨R.SF_GAIN b, 0, 16⟩
def F.SF_GAIN_tag (b : Nat) : Fld := ⟨R.SF_GAIN b, 16, 4⟩
def F.SF_ADAPT_LAST_m_last (b : Nat) : Fld := ⟨R.SF_ADAPT_LAST b, 0, 15⟩
def F.SF_ADAPT_LAST_limited (b : Nat) : Fld := ⟨R.SF_ADAPT_LAST b, 16, 1⟩
def F.SF_ADAPT_LAST_clamped (b : Nat) : Fld := ⟨R.SF_ADAPT_LAST b, 17, 1⟩
def F.SP_FRAME_f_m1 (b j : Nat) : Fld := ⟨R.SP_FRAME b, 0 + 8 * j, 8⟩
def F.SP_SLOT_ADDR_word (b : Nat) : Fld := ⟨R.SP_SLOT_ADDR b, 0, 2⟩
def F.SP_SLOT_ADDR_slot (b : Nat) : Fld := ⟨R.SP_SLOT_ADDR b, 2, 8⟩
def F.SP_SLOT_ADDR_vintage (b : Nat) : Fld := ⟨R.SP_SLOT_ADDR b, 10, 2⟩
def F.SP_SLOT_ADDR_autoinc (b : Nat) : Fld := ⟨R.SP_SLOT_ADDR b, 31, 1⟩
def F.SP_SLOT_DATA_data (b : Nat) : Fld := ⟨R.SP_SLOT_DATA b, 0, 32⟩
def F.SP_STATUS_slot (b : Nat) : Fld := ⟨R.SP_STATUS b, 0, 8⟩
def F.SP_STATUS_vintage (b : Nat) : Fld := ⟨R.SP_STATUS b, 8, 2⟩
def F.MM_CASK_SEL_cask (b : Nat) : Fld := ⟨R.MM_CASK_SEL b, 0, 4⟩
def F.MM_CASK_DESC0_base (b : Nat) : Fld := ⟨R.MM_CASK_DESC0 b, 0, 15⟩
def F.MM_CASK_DESC0_bound (b : Nat) : Fld := ⟨R.MM_CASK_DESC0 b, 16, 15⟩
def F.MM_CASK_DESC0_en (b : Nat) : Fld := ⟨R.MM_CASK_DESC0 b, 31, 1⟩
def F.MM_CASK_DESC1_class (b : Nat) : Fld := ⟨R.MM_CASK_DESC1 b, 0, 3⟩
def F.MM_CASK_DESC1_pkt (b : Nat) : Fld := ⟨R.MM_CASK_DESC1 b, 3, 1⟩
def F.MM_CASK_DESC1_use_v (b : Nat) : Fld := ⟨R.MM_CASK_DESC1 b, 4, 4⟩
def F.MM_CASK_DESC1_pkt_len_m1 (b : Nat) : Fld := ⟨R.MM_CASK_DESC1 b, 8, 12⟩
def F.MM_CASK_DESC1_threshold_m1 (b : Nat) : Fld := ⟨R.MM_CASK_DESC1 b, 20, 12⟩
def F.MM_CASK_COUNT_count (b : Nat) : Fld := ⟨R.MM_CASK_COUNT b, 0, 15⟩
def F.MM_CASK_COUNT_r_wait (b : Nat) : Fld := ⟨R.MM_CASK_COUNT b, 16, 1⟩
def F.MM_CASK_COUNT_spilled (b : Nat) : Fld := ⟨R.MM_CASK_COUNT b, 17, 1⟩
def F.MM_CASK_HWM_hwm (b : Nat) : Fld := ⟨R.MM_CASK_HWM b, 0, 15⟩
def F.MM_CASK_SPILL_words (b : Nat) : Fld := ⟨R.MM_CASK_SPILL b, 0, 24⟩
def F.MM_CASK_FAULT_code (b : Nat) : Fld := ⟨R.MM_CASK_FAULT b, 0, 16⟩
def F.MM_CASK_FAULT_cask (b : Nat) : Fld := ⟨R.MM_CASK_FAULT b, 16, 4⟩
def F.MM_CASK_FAULT_valid (b : Nat) : Fld := ⟨R.MM_CASK_FAULT b, 31, 1⟩
def F.MM_CASK_PERR_count (b : Nat) : Fld := ⟨R.MM_CASK_PERR b, 0, 32⟩
def F.IO_BRIDGE_STATUS_aligned (b : Nat) : Fld := ⟨R.IO_BRIDGE_STATUS b, 0, 1⟩
def F.IO_BRIDGE_STATUS_corr (b : Nat) : Fld := ⟨R.IO_BRIDGE_STATUS b, 8, 8⟩
def F.IO_BRIDGE_STATUS_uncorr (b : Nat) : Fld := ⟨R.IO_BRIDGE_STATUS b, 16, 8⟩
def F.RK_UNIT_STATUS_tok (b j : Nat) : Fld := ⟨R.RK_UNIT_STATUS b, 0 + 2 * j, 1⟩
def F.RK_UNIT_STATUS_dat (b j : Nat) : Fld := ⟨R.RK_UNIT_STATUS b, 1 + 2 * j, 1⟩
def F.RK_WAIT_CNT_wait_ac (b : Nat) : Fld := ⟨R.RK_WAIT_CNT b, 0, 32⟩
def F.RK_SKEW_LOG_unit (b : Nat) : Fld := ⟨R.RK_SKEW_LOG b, 0, 2⟩
def F.RK_SKEW_LOG_skew (b : Nat) : Fld := ⟨R.RK_SKEW_LOG b, 16, 15⟩
def F.RK_SKEW_LOG_valid (b : Nat) : Fld := ⟨R.RK_SKEW_LOG b, 31, 1⟩
def F.HUB_DLD_STATUS_last_cycle : Fld := ⟨R.HUB_DLD_STATUS, 0, 5⟩
def F.HUB_DLD_STATUS_spilled : Fld := ⟨R.HUB_DLD_STATUS, 8, 1⟩
def F.HUB_DLD_STATUS_fail : Fld := ⟨R.HUB_DLD_STATUS, 16, 1⟩
def F.HUB_DLD_STATUS_valid : Fld := ⟨R.HUB_DLD_STATUS, 31, 1⟩
def F.HUB_DLD_COUNT_decants : Fld := ⟨R.HUB_DLD_COUNT, 0, 32⟩
def F.TER_FAULT_AUX_mm_tile (n : Nat) : Fld := ⟨R.TER_FAULT_AUX n, 0, 3⟩
def F.TER_FAULT_AUX_port (n : Nat) : Fld := ⟨R.TER_FAULT_AUX n, 4, 4⟩
def F.TER_FAULT_AUX_unit (n : Nat) : Fld := ⟨R.TER_FAULT_AUX n, 8, 2⟩
def F.TER_FAULT_AUX_terrace (n : Nat) : Fld := ⟨R.TER_FAULT_AUX n, 10, 2⟩
def F.HUB_ELAST_LO_count : Fld := ⟨R.HUB_ELAST_LO, 0, 32⟩
def F.HUB_ELAST_HI_count : Fld := ⟨R.HUB_ELAST_HI, 0, 32⟩
def F.HUB_RUN_AC_LO_count : Fld := ⟨R.HUB_RUN_AC_LO, 0, 32⟩
def F.HUB_RUN_AC_HI_count : Fld := ⟨R.HUB_RUN_AC_HI, 0, 32⟩
def F.HUB_HOLD_AC_LO_count : Fld := ⟨R.HUB_HOLD_AC_LO, 0, 32⟩
def F.HUB_HOLD_AC_HI_count : Fld := ⟨R.HUB_HOLD_AC_HI, 0, 32⟩
def F.HUB_HOLD_STATUS_remote : Fld := ⟨R.HUB_HOLD_STATUS, 0, 1⟩
def F.HUB_HOLD_STATUS_system : Fld := ⟨R.HUB_HOLD_STATUS, 1, 1⟩
def F.HUB_HOLD_STATUS_settle : Fld := ⟨R.HUB_HOLD_STATUS, 2, 1⟩
def F.HUB_HOLD_STATUS_freq : Fld := ⟨R.HUB_HOLD_STATUS, 3, 1⟩
def F.HUB_HOLD_STATUS_locator : Fld := ⟨R.HUB_HOLD_STATUS, 16, 16⟩
def F.HUB_HOLD_LIMIT_limit_us : Fld := ⟨R.HUB_HOLD_LIMIT, 0, 24⟩
def F.TER_UNT_ADDR_index (n : Nat) : Fld := ⟨R.TER_UNT_ADDR n, 0, 14⟩
def F.TER_UNT_ADDR_autoinc (n : Nat) : Fld := ⟨R.TER_UNT_ADDR n, 31, 1⟩
def F.TER_UNT_DATA_data (n : Nat) : Fld := ⟨R.TER_UNT_DATA n, 0, 32⟩
def F.TER_LDG_SEL_row (n : Nat) : Fld := ⟨R.TER_LDG_SEL n, 0, 4⟩
def F.TER_LDG_SEL_unit (n : Nat) : Fld := ⟨R.TER_LDG_SEL n, 4, 5⟩
def F.TER_LDG_SEL_what (n : Nat) : Fld := ⟨R.TER_LDG_SEL n, 9, 2⟩
def F.TER_LDG_OBS_value (n : Nat) : Fld := ⟨R.TER_LDG_OBS n, 0, 24⟩
def F.TER_LDG_OBS_band (n : Nat) : Fld := ⟨R.TER_LDG_OBS n, 24, 8⟩
def F.TER_LDG_STATUS_mismatches (n : Nat) : Fld := ⟨R.TER_LDG_STATUS n, 0, 16⟩
def F.TER_LDG_STATUS_bands (n : Nat) : Fld := ⟨R.TER_LDG_STATUS n, 16, 16⟩
def F.HUB_VNT_STATUS_placed : Fld := ⟨R.HUB_VNT_STATUS, 0, 4⟩
def F.HUB_VNT_STATUS_active : Fld := ⟨R.HUB_VNT_STATUS, 4, 2⟩
def F.HUB_VNT_STATUS_elastic : Fld := ⟨R.HUB_VNT_STATUS, 8, 4⟩
def F.HUB_VNT_STATUS_compat (j : Nat) : Fld := ⟨R.HUB_VNT_STATUS, 16 + 2 * j, 2⟩
def F.HUB_VNT_STATUS_in_job : Fld := ⟨R.HUB_VNT_STATUS, 24, 1⟩
def F.HUB_VNT_STATUS_switching : Fld := ⟨R.HUB_VNT_STATUS, 25, 1⟩
def F.HUB_VNT_SWITCH_target : Fld := ⟨R.HUB_VNT_SWITCH, 0, 2⟩
def F.HUB_VNT_SWITCH_armed : Fld := ⟨R.HUB_VNT_SWITCH, 2, 1⟩
def F.HUB_VNT_SWITCH_waiting : Fld := ⟨R.HUB_VNT_SWITCH, 3, 1⟩
def F.HUB_VNT_SWITCH_band : Fld := ⟨R.HUB_VNT_SWITCH, 8, 24⟩
def F.LC_STATUS_stage (b : Nat) : Fld := ⟨R.LC_STATUS b, 0, 2⟩
def F.LC_STATUS_vintage (b : Nat) : Fld := ⟨R.LC_STATUS b, 2, 2⟩
def F.LC_STATUS_corr (b : Nat) : Fld := ⟨R.LC_STATUS b, 16, 8⟩
def F.LC_IND_ADDR_index (b : Nat) : Fld := ⟨R.LC_IND_ADDR b, 0, 14⟩
def F.LC_IND_ADDR_space (b : Nat) : Fld := ⟨R.LC_IND_ADDR b, 16, 1⟩
def F.LC_IND_ADDR_vintage (b : Nat) : Fld := ⟨R.LC_IND_ADDR b, 17, 2⟩
def F.LC_IND_ADDR_autoinc (b : Nat) : Fld := ⟨R.LC_IND_ADDR b, 31, 1⟩
def F.LC_IND_DATA_data (b : Nat) : Fld := ⟨R.LC_IND_DATA b, 0, 32⟩
def F.TER_LC_TREE_V_src (n i j : Nat) : Fld := ⟨R.TER_LC_TREE_V n i, 0 + 8 * j, 3⟩
def F.TER_LC_TREE_V_rst (n i j : Nat) : Fld := ⟨R.TER_LC_TREE_V n i, 4 + 8 * j, 1⟩
def F.HUB_PRB_CTRL_arm : Fld := ⟨R.HUB_PRB_CTRL, 0, 1⟩
def F.HUB_PRB_CTRL_force : Fld := ⟨R.HUB_PRB_CTRL, 1, 1⟩
def F.HUB_PRB_CTRL_terrace : Fld := ⟨R.HUB_PRB_CTRL, 2, 2⟩
def F.HUB_PRB_CTRL_row : Fld := ⟨R.HUB_PRB_CTRL, 4, 4⟩
def F.HUB_PRB_CTRL_clk : Fld := ⟨R.HUB_PRB_CTRL, 8, 3⟩
def F.HUB_PRB_CTRL_post : Fld := ⟨R.HUB_PRB_CTRL, 16, 16⟩
def F.HUB_PRB_STATUS_armed : Fld := ⟨R.HUB_PRB_STATUS, 0, 1⟩
def F.HUB_PRB_STATUS_triggered : Fld := ⟨R.HUB_PRB_STATUS, 1, 1⟩
def F.HUB_PRB_STATUS_done : Fld := ⟨R.HUB_PRB_STATUS, 2, 1⟩
def F.HUB_PRB_STATUS_last : Fld := ⟨R.HUB_PRB_STATUS, 16, 16⟩
def F.HUB_PRB_MASK_LO_value : Fld := ⟨R.HUB_PRB_MASK_LO, 0, 32⟩
def F.HUB_PRB_MASK_HI_value : Fld := ⟨R.HUB_PRB_MASK_HI, 0, 32⟩
def F.HUB_PRB_MATCH_LO_value : Fld := ⟨R.HUB_PRB_MATCH_LO, 0, 32⟩
def F.HUB_PRB_MATCH_HI_value : Fld := ⟨R.HUB_PRB_MATCH_HI, 0, 32⟩
def F.HUB_PRB_ADDR_index : Fld := ⟨R.HUB_PRB_ADDR, 0, 16⟩
def F.HUB_PRB_ADDR_autoinc : Fld := ⟨R.HUB_PRB_ADDR, 31, 1⟩
def F.HUB_PRB_DATA_LO_value : Fld := ⟨R.HUB_PRB_DATA_LO, 0, 32⟩
def F.HUB_PRB_DATA_HI_value : Fld := ⟨R.HUB_PRB_DATA_HI, 0, 32⟩
def F.HUB_LDR_STATUS_code : Fld := ⟨R.HUB_LDR_STATUS, 0, 16⟩
def F.HUB_LDR_STATUS_slot : Fld := ⟨R.HUB_LDR_STATUS, 16, 2⟩
def F.HUB_LDR_STATUS_vintage : Fld := ⟨R.HUB_LDR_STATUS, 18, 2⟩
def F.HUB_LDR_STATUS_variant : Fld := ⟨R.HUB_LDR_STATUS, 20, 3⟩
def F.HUB_LDR_STATUS_op : Fld := ⟨R.HUB_LDR_STATUS, 24, 2⟩
def F.HUB_LDR_STATUS_busy : Fld := ⟨R.HUB_LDR_STATUS, 26, 1⟩
def F.HUB_LDR_STATUS_unsigned : Fld := ⟨R.HUB_LDR_STATUS, 27, 1⟩
def F.HUB_LDR_LOC_sect : Fld := ⟨R.HUB_LDR_LOC, 0, 16⟩
def F.HUB_LDR_LOC_rec : Fld := ⟨R.HUB_LDR_LOC, 16, 16⟩
def F.HUB_LDR_UNIT_terrace : Fld := ⟨R.HUB_LDR_UNIT, 0, 2⟩
def F.HUB_LDR_UNIT_lrow : Fld := ⟨R.HUB_LDR_UNIT, 2, 5⟩
def F.HUB_LDR_UNIT_phys_row : Fld := ⟨R.HUB_LDR_UNIT, 7, 4⟩
def F.HUB_LDR_UNIT_kind : Fld := ⟨R.HUB_LDR_UNIT, 11, 3⟩
def F.HUB_LDR_UNIT_index : Fld := ⟨R.HUB_LDR_UNIT, 14, 4⟩
def F.HUB_LDR_UNIT_port : Fld := ⟨R.HUB_LDR_UNIT, 18, 4⟩
def F.HUB_LDR_PROG_bytes : Fld := ⟨R.HUB_LDR_PROG, 0, 32⟩
def F.HUB_GRF_CTRL_en : Fld := ⟨R.HUB_GRF_CTRL, 0, 1⟩
def F.HUB_GRF_CTRL_capture : Fld := ⟨R.HUB_GRF_CTRL, 1, 1⟩
def F.HUB_GRF_STATUS_state : Fld := ⟨R.HUB_GRF_STATUS, 0, 3⟩
def F.HUB_GRF_STATUS_queue : Fld := ⟨R.HUB_GRF_STATUS, 4, 5⟩
def F.HUB_GRF_STATUS_bound : Fld := ⟨R.HUB_GRF_STATUS, 9, 1⟩
def F.HUB_GRF_STEP_step : Fld := ⟨R.HUB_GRF_STEP, 0, 32⟩
def F.HUB_GRF_POOL_count : Fld := ⟨R.HUB_GRF_POOL, 0, 17⟩
def F.HUB_GRF_GEN_gen : Fld := ⟨R.HUB_GRF_GEN, 0, 16⟩
def F.HUB_GRF_GEN_band : Fld := ⟨R.HUB_GRF_GEN, 16, 16⟩
def F.HUB_GRF_SAT_sat : Fld := ⟨R.HUB_GRF_SAT, 0, 32⟩
def F.HUB_GRF_DROP_drop : Fld := ⟨R.HUB_GRF_DROP, 0, 32⟩
def F.HUB_GRF_ERR_code : Fld := ⟨R.HUB_GRF_ERR, 0, 16⟩
def F.HUB_GRF_ERR_valid : Fld := ⟨R.HUB_GRF_ERR, 31, 1⟩
def F.ING_CAM_CFG_link_first (i : Nat) : Fld := ⟨R.ING_CAM_CFG i, 0, 3⟩
def F.ING_CAM_CFG_links (i : Nat) : Fld := ⟨R.ING_CAM_CFG i, 3, 4⟩
def F.ING_CAM_CFG_rate (i : Nat) : Fld := ⟨R.ING_CAM_CFG i, 7, 4⟩
def F.ING_CAM_CFG_fmt (i : Nat) : Fld := ⟨R.ING_CAM_CFG i, 11, 2⟩
def F.ING_CAM_CFG_frame (i : Nat) : Fld := ⟨R.ING_CAM_CFG i, 13, 1⟩
def F.ING_CAM_CFG_width_m1 (i : Nat) : Fld := ⟨R.ING_CAM_CFG i, 16, 15⟩
def F.ING_CAM_POS_x_first (i : Nat) : Fld := ⟨R.ING_CAM_POS i, 0, 15⟩
def F.ING_CAM_POS_flip (i : Nat) : Fld := ⟨R.ING_CAM_POS i, 15, 1⟩
def F.ING_CAM_POS_trig (i : Nat) : Fld := ⟨R.ING_CAM_POS i, 16, 4⟩
def F.ING_CAM_POS_trig_pkt (i : Nat) : Fld := ⟨R.ING_CAM_POS i, 20, 1⟩
def F.ING_LINE_CFG_timeout_us : Fld := ⟨R.ING_LINE_CFG, 0, 16⟩
def F.ING_LINK_STATUS_lock : Fld := ⟨R.ING_LINK_STATUS, 0, 8⟩
def F.ING_LINK_STATUS_lost : Fld := ⟨R.ING_LINK_STATUS, 8, 8⟩
def F.ING_LINK_STATUS_hb_late : Fld := ⟨R.ING_LINK_STATUS, 16, 4⟩
def F.ING_CRC_CNT_count : Fld := ⟨R.ING_CRC_CNT, 0, 32⟩
def F.ING_SUB_CNT_count : Fld := ⟨R.ING_SUB_CNT, 0, 32⟩
def F.ING_OVR_CNT_count : Fld := ⟨R.ING_OVR_CNT, 0, 32⟩
def F.ING_DISC_CNT_count : Fld := ⟨R.ING_DISC_CNT, 0, 32⟩
def F.ING_MBX_CTRL_tx_len (i : Nat) : Fld := ⟨R.ING_MBX_CTRL i, 0, 10⟩
def F.ING_MBX_CTRL_go (i : Nat) : Fld := ⟨R.ING_MBX_CTRL i, 10, 1⟩
def F.ING_MBX_CTRL_rx_len (i : Nat) : Fld := ⟨R.ING_MBX_CTRL i, 16, 10⟩
def F.ING_MBX_CTRL_rx_kind (i : Nat) : Fld := ⟨R.ING_MBX_CTRL i, 26, 1⟩
def F.ING_MBX_CTRL_rx_full (i : Nat) : Fld := ⟨R.ING_MBX_CTRL i, 27, 1⟩
def F.ING_MBX_CTRL_rx_lost (i : Nat) : Fld := ⟨R.ING_MBX_CTRL i, 28, 4⟩
def F.FFC_CTRL_en : Fld := ⟨R.FFC_CTRL, 0, 4⟩
def F.FFC_CTRL_per_phase : Fld := ⟨R.FFC_CTRL, 4, 4⟩
def F.FFC_CTRL_bank_next : Fld := ⟨R.FFC_CTRL, 8, 1⟩
def F.FFC_CTRL_bank_active : Fld := ⟨R.FFC_CTRL, 9, 1⟩
def F.FFC_SAT_CNT_sat : Fld := ⟨R.FFC_SAT_CNT, 0, 32⟩
def F.RSH_CFG_n_ill_m1 : Fld := ⟨R.RSH_CFG, 0, 2⟩
def F.RSH_CFG_phase : Fld := ⟨R.RSH_CFG, 2, 2⟩
def F.RSH_PLANE_en (i : Nat) : Fld := ⟨R.RSH_PLANE i, 0, 1⟩
def F.RSH_PLANE_ill (i : Nat) : Fld := ⟨R.RSH_PLANE i, 1, 2⟩
def F.RSH_PLANE_mode (i : Nat) : Fld := ⟨R.RSH_PLANE i, 3, 1⟩
def F.RSH_PLANE_sh (i : Nat) : Fld := ⟨R.RSH_PLANE i, 4, 4⟩
def F.RSH_PLANE_zp (i : Nat) : Fld := ⟨R.RSH_PLANE i, 8, 8⟩
def F.RSH_PLANE_ring_m1 (i : Nat) : Fld := ⟨R.RSH_PLANE i, 16, 4⟩
def F.SLC_CFG_own_first : Fld := ⟨R.SLC_CFG, 0, 15⟩
def F.SLC_CFG_own_width_m1 : Fld := ⟨R.SLC_CFG, 16, 15⟩
def F.SLC_NBR_left_dev : Fld := ⟨R.SLC_NBR, 0, 6⟩
def F.SLC_NBR_left : Fld := ⟨R.SLC_NBR, 6, 1⟩
def F.SLC_NBR_right_dev : Fld := ⟨R.SLC_NBR, 8, 6⟩
def F.SLC_NBR_right : Fld := ⟨R.SLC_NBR, 14, 1⟩
def F.SLC_NBR_halo_to_us : Fld := ⟨R.SLC_NBR, 16, 16⟩
def F.SLC_HALO_halo_l : Fld := ⟨R.SLC_HALO, 0, 9⟩
def F.SLC_HALO_halo_r : Fld := ⟨R.SLC_HALO, 16, 9⟩
def F.STP_ENC_CFG_decode : Fld := ⟨R.STP_ENC_CFG, 0, 2⟩
def F.STP_ENC_CFG_dir : Fld := ⟨R.STP_ENC_CFG, 2, 1⟩
def F.STP_ENC_CFG_filt : Fld := ⟨R.STP_ENC_CFG, 8, 8⟩
def F.STP_POS_LO_pos : Fld := ⟨R.STP_POS_LO, 0, 32⟩
def F.STP_POS_HI_pos : Fld := ⟨R.STP_POS_HI, 0, 16⟩
def F.STP_ENC_ERR_count : Fld := ⟨R.STP_ENC_ERR, 0, 32⟩
def F.STP_STAMP_CFG_pos_src : Fld := ⟨R.STP_STAMP_CFG, 0, 1⟩
def F.STP_STAMP_CFG_frm_step : Fld := ⟨R.STP_STAMP_CFG, 8, 8⟩
def F.STP_TRG_CFG_en (i : Nat) : Fld := ⟨R.STP_TRG_CFG i, 0, 1⟩
def F.STP_TRG_CFG_src (i : Nat) : Fld := ⟨R.STP_TRG_CFG i, 1, 2⟩
def F.STP_TRG_CFG_fwd_only (i : Nat) : Fld := ⟨R.STP_TRG_CFG i, 3, 1⟩
def F.STP_TRG_CFG_out_en (i : Nat) : Fld := ⟨R.STP_TRG_CFG i, 4, 1⟩
def F.STP_TRG_CFG_act_hi (i : Nat) : Fld := ⟨R.STP_TRG_CFG i, 5, 1⟩
def F.STP_TRG_CFG_sw (i : Nat) : Fld := ⟨R.STP_TRG_CFG i, 6, 1⟩
def F.STP_TRG_CFG_m_m1 (i : Nat) : Fld := ⟨R.STP_TRG_CFG i, 8, 4⟩
def F.STP_TRG_CFG_phi (i : Nat) : Fld := ⟨R.STP_TRG_CFG i, 12, 4⟩
def F.STP_TRG_CFG_width (i : Nat) : Fld := ⟨R.STP_TRG_CFG i, 16, 16⟩
def F.STP_TRG_N_n_m1 (i : Nat) : Fld := ⟨R.STP_TRG_N i, 0, 16⟩
def F.STP_TRG_PER_per (i : Nat) : Fld := ⟨R.STP_TRG_PER i, 0, 32⟩
def F.STP_TRG_MIN_min (i : Nat) : Fld := ⟨R.STP_TRG_MIN i, 0, 24⟩
def F.STP_TRG_SUPP_count : Fld := ⟨R.STP_TRG_SUPP, 0, 32⟩
def F.STP_MRK_CFG_en (i : Nat) : Fld := ⟨R.STP_MRK_CFG i, 0, 1⟩
def F.STP_MRK_CFG_mode (i : Nat) : Fld := ⟨R.STP_MRK_CFG i, 1, 1⟩
def F.STP_MRK_CFG_safe (i : Nat) : Fld := ⟨R.STP_MRK_CFG i, 2, 1⟩
def F.STP_MRK_CFG_act_hi (i : Nat) : Fld := ⟨R.STP_MRK_CFG i, 3, 1⟩
def F.STP_MRK_CFG_ind (i : Nat) : Fld := ⟨R.STP_MRK_CFG i, 4, 1⟩
def F.STP_MRK_CFG_lc (i : Nat) : Fld := ⟨R.STP_MRK_CFG i, 5, 1⟩
def F.STP_MRK_CFG_class_mask (i : Nat) : Fld := ⟨R.STP_MRK_CFG i, 16, 16⟩
def F.STP_MRK_COL_col_lo (i : Nat) : Fld := ⟨R.STP_MRK_COL i, 0, 9⟩
def F.STP_MRK_COL_col_hi (i : Nat) : Fld := ⟨R.STP_MRK_COL i, 16, 9⟩
def F.STP_MRK_DLY_delay (i : Nat) : Fld := ⟨R.STP_MRK_DLY i, 0, 32⟩
def F.STP_MRK_WID_width (i : Nat) : Fld := ⟨R.STP_MRK_WID i, 0, 24⟩
def F.STP_MRK_LATE_count : Fld := ⟨R.STP_MRK_LATE, 0, 32⟩
def F.STP_MRK_DROP_count : Fld := ⟨R.STP_MRK_DROP, 0, 32⟩
def F.HUB_SS_R_base (i : Nat) : Fld := ⟨R.HUB_SS_R i, 0, 8⟩
def F.HUB_SS_R_size (i : Nat) : Fld := ⟨R.HUB_SS_R i, 16, 8⟩
def F.VRD_REC_V_n_net_m1 (i : Nat) : Fld := ⟨R.VRD_REC_V i, 0, 8⟩
def F.VRD_REC_V_vr_mode (i : Nat) : Fld := ⟨R.VRD_REC_V i, 8, 2⟩
def F.VRD_REC_V_rec_ind (i : Nat) : Fld := ⟨R.VRD_REC_V i, 10, 1⟩
def F.VRD_REC_V_crop_en (i : Nat) : Fld := ⟨R.VRD_REC_V i, 11, 1⟩
def F.VRD_REC_V_crop_mask (i : Nat) : Fld := ⟨R.VRD_REC_V i, 16, 16⟩
def F.VRD_CROP_V_w_m1 (i : Nat) : Fld := ⟨R.VRD_CROP_V i, 0, 9⟩
def F.VRD_CROP_V_h_m1 (i : Nat) : Fld := ⟨R.VRD_CROP_V i, 9, 9⟩
def F.VRD_CROP_V_planes (i : Nat) : Fld := ⟨R.VRD_CROP_V i, 18, 8⟩
def F.VRD_CROP_OFS_V_ox (i : Nat) : Fld := ⟨R.VRD_CROP_OFS_V i, 0, 16⟩
def F.VRD_CROP_OFS_V_oy (i : Nat) : Fld := ⟨R.VRD_CROP_OFS_V i, 16, 16⟩
def F.VRD_TAP_V_en (i : Nat) : Fld := ⟨R.VRD_TAP_V i, 0, 1⟩
def F.VRD_TAP_V_flits_m1 (i : Nat) : Fld := ⟨R.VRD_TAP_V i, 8, 4⟩
def F.VRD_TAP_V_depth (i : Nat) : Fld := ⟨R.VRD_TAP_V i, 16, 16⟩
def F.VRD_CMAP_ADDR_index : Fld := ⟨R.VRD_CMAP_ADDR, 0, 9⟩
def F.VRD_CMAP_ADDR_vintage : Fld := ⟨R.VRD_CMAP_ADDR, 9, 2⟩
def F.VRD_CMAP_ADDR_autoinc : Fld := ⟨R.VRD_CMAP_ADDR, 31, 1⟩
def F.VRD_CMAP_DATA_data : Fld := ⟨R.VRD_CMAP_DATA, 0, 32⟩
def F.VRD_RB_DROP_rec : Fld := ⟨R.VRD_RB_DROP, 0, 16⟩
def F.VRD_RB_DROP_crop : Fld := ⟨R.VRD_RB_DROP, 16, 16⟩
def F.VRD_STAT_SEL_item : Fld := ⟨R.VRD_STAT_SEL, 0, 8⟩
def F.VRD_STAT_SEL_plane : Fld := ⟨R.VRD_STAT_SEL, 8, 3⟩
def F.VRD_STAT_SEL_what : Fld := ⟨R.VRD_STAT_SEL, 11, 2⟩
def F.VRD_STAT_DATA_value : Fld := ⟨R.VRD_STAT_DATA, 0, 32⟩
def F.STR_CH_CTRL_go (n : Nat) : Fld := ⟨R.STR_CH_CTRL n, 0, 1⟩
def F.STR_CH_CTRL_stop (n : Nat) : Fld := ⟨R.STR_CH_CTRL n, 1, 1⟩
def F.STR_CH_STATUS_state (n : Nat) : Fld := ⟨R.STR_CH_STATUS n, 0, 3⟩
def F.STR_CH_STATUS_shadow (n : Nat) : Fld := ⟨R.STR_CH_STATUS n, 3, 1⟩
def F.STR_CH_STATUS_half (n : Nat) : Fld := ⟨R.STR_CH_STATUS n, 4, 1⟩
def F.STR_CH_STATUS_full (n : Nat) : Fld := ⟨R.STR_CH_STATUS n, 5, 1⟩
def F.STR_CH_RES0_i0 (n : Nat) : Fld := ⟨R.STR_CH_RES0 n, 0, 16⟩
def F.STR_CH_RES0_i1 (n : Nat) : Fld := ⟨R.STR_CH_RES0 n, 16, 16⟩
def F.STR_CH_RES1_i2 (n : Nat) : Fld := ⟨R.STR_CH_RES1 n, 0, 16⟩
def F.STR_CH_RES1_run (n : Nat) : Fld := ⟨R.STR_CH_RES1 n, 16, 16⟩
def F.STR_CH_BYTES_bytes (n : Nat) : Fld := ⟨R.STR_CH_BYTES n, 0, 32⟩
def F.STR_CH_ERR_code (n : Nat) : Fld := ⟨R.STR_CH_ERR n, 0, 16⟩
def F.STR_CH_ERR_valid (n : Nat) : Fld := ⟨R.STR_CH_ERR n, 31, 1⟩
def F.STR_CH_RING_head (n : Nat) : Fld := ⟨R.STR_CH_RING n, 0, 8⟩
def F.STR_CH_RING_tail (n : Nat) : Fld := ⟨R.STR_CH_RING n, 8, 8⟩
def F.STR_CH_DESC_data (n i : Nat) : Fld := ⟨R.STR_CH_DESC n i, 0, 32⟩
def F.STR_SPLIT_rd : Fld := ⟨R.STR_SPLIT, 0, 4⟩
def F.STR_SPLIT_wr : Fld := ⟨R.STR_SPLIT, 4, 4⟩
def F.STR_PROG_ADDR_index : Fld := ⟨R.STR_PROG_ADDR, 0, 8⟩
def F.STR_PROG_ADDR_autoinc : Fld := ⟨R.STR_PROG_ADDR, 31, 1⟩
def F.STR_PROG_DATA_data : Fld := ⟨R.STR_PROG_DATA, 0, 32⟩
def F.STR_PACE_A_kind (i : Nat) : Fld := ⟨R.STR_PACE_A i, 0, 2⟩
def F.STR_PACE_A_loc (i : Nat) : Fld := ⟨R.STR_PACE_A i, 2, 16⟩
def F.STR_PACE_B_low (i : Nat) : Fld := ⟨R.STR_PACE_B i, 0, 16⟩
def F.STR_PACE_B_high (i : Nat) : Fld := ⟨R.STR_PACE_B i, 16, 16⟩
def F.HUB_VIOL_ADDR_addr : Fld := ⟨R.HUB_VIOL_ADDR, 0, 32⟩
def F.HUB_VIOL_INFO_addr_hi : Fld := ⟨R.HUB_VIOL_INFO, 0, 8⟩
def F.HUB_VIOL_INFO_source : Fld := ⟨R.HUB_VIOL_INFO, 8, 3⟩
def F.HUB_VIOL_INFO_write : Fld := ⟨R.HUB_VIOL_INFO, 11, 1⟩
def F.HUB_VIOL_INFO_reason : Fld := ⟨R.HUB_VIOL_INFO, 12, 4⟩
def F.HUB_VIOL_INFO_valid : Fld := ⟨R.HUB_VIOL_INFO, 31, 1⟩
def F.HUB_VIOL_COUNT_count : Fld := ⟨R.HUB_VIOL_COUNT, 0, 32⟩
def F.PCI_BAR2_WIN_base : Fld := ⟨R.PCI_BAR2_WIN, 0, 8⟩
def F.PCI_BAR2_WIN_size : Fld := ⟨R.PCI_BAR2_WIN, 16, 9⟩
def F.PCI_BAR2_WIN_en : Fld := ⟨R.PCI_BAR2_WIN, 31, 1⟩
def F.PCI_RING_BASE_LO_addr (n : Nat) : Fld := ⟨R.PCI_RING_BASE_LO n, 12, 20⟩
def F.PCI_RING_BASE_HI_addr (n : Nat) : Fld := ⟨R.PCI_RING_BASE_HI n, 0, 32⟩
def F.PCI_RING_CFG_log2size (n : Nat) : Fld := ⟨R.PCI_RING_CFG n, 0, 5⟩
def F.PCI_RING_CFG_en (n : Nat) : Fld := ⟨R.PCI_RING_CFG n, 8, 1⟩
def F.PCI_RING_PROD_index (n : Nat) : Fld := ⟨R.PCI_RING_PROD n, 0, 32⟩
def F.PCI_RING_CONS_index (n : Nat) : Fld := ⟨R.PCI_RING_CONS n, 0, 32⟩
def F.PCI_RING_IRQ_count (n : Nat) : Fld := ⟨R.PCI_RING_IRQ n, 0, 16⟩
def F.PCI_RING_IRQ_time_us (n : Nat) : Fld := ⟨R.PCI_RING_IRQ n, 16, 16⟩
def F.PCI_CP_STATUS_tag : Fld := ⟨R.PCI_CP_STATUS, 0, 16⟩
def F.PCI_CP_STATUS_owed : Fld := ⟨R.PCI_CP_STATUS, 16, 7⟩
def F.PCI_CP_STATUS_busy : Fld := ⟨R.PCI_CP_STATUS, 24, 1⟩
def F.PCI_CP_STATUS_held : Fld := ⟨R.PCI_CP_STATUS, 25, 1⟩
def F.HUB_IRQ_STATUS_err : Fld := ⟨R.HUB_IRQ_STATUS, 0, 1⟩
def F.HUB_IRQ_STATUS_pwr : Fld := ⟨R.HUB_IRQ_STATUS, 1, 1⟩
def F.HUB_IRQ_STATUS_graft : Fld := ⟨R.HUB_IRQ_STATUS, 2, 1⟩
def F.HUB_IRQ_STATUS_ingest : Fld := ⟨R.HUB_IRQ_STATUS, 3, 1⟩
def F.HUB_IRQ_STATUS_trellis : Fld := ⟨R.HUB_IRQ_STATUS, 4, 1⟩
def F.HUB_IRQ_STATUS_cm : Fld := ⟨R.HUB_IRQ_STATUS, 5, 1⟩
def F.HUB_IRQ_MASK_en : Fld := ⟨R.HUB_IRQ_MASK, 0, 6⟩
def F.HRM_CTRL_scrub_en : Fld := ⟨R.HRM_CTRL, 0, 1⟩
def F.HRM_CTRL_park_dpd : Fld := ⟨R.HRM_CTRL, 1, 1⟩
def F.HRM_CTRL_fixed_lat : Fld := ⟨R.HRM_CTRL, 2, 1⟩
def F.HRM_CAP_pages : Fld := ⟨R.HRM_CAP, 0, 17⟩
def F.HRM_BSTORE_base : Fld := ⟨R.HRM_BSTORE, 0, 9⟩
def F.HRM_BSTORE_slot_mib : Fld := ⟨R.HRM_BSTORE, 16, 7⟩
def F.HRM_CROP_BASE_pages : Fld := ⟨R.HRM_CROP_BASE, 0, 17⟩
def F.HRM_CROP_SIZE_pages : Fld := ⟨R.HRM_CROP_SIZE, 0, 17⟩
def F.HRM_SCRUB_passes : Fld := ⟨R.HRM_SCRUB, 0, 16⟩
def F.HRM_SCRUB_late : Fld := ⟨R.HRM_SCRUB, 16, 1⟩
def F.HRM_ERR_ADDR_offset : Fld := ⟨R.HRM_ERR_ADDR, 0, 32⟩
def F.HRM_ERR_INFO_code : Fld := ⟨R.HRM_ERR_INFO, 0, 16⟩
def F.HRM_ERR_INFO_channel : Fld := ⟨R.HRM_ERR_INFO, 16, 2⟩
def F.HRM_ERR_INFO_source : Fld := ⟨R.HRM_ERR_INFO, 18, 3⟩
def F.HRM_ERR_INFO_valid : Fld := ⟨R.HRM_ERR_INFO, 31, 1⟩
def F.HRM_CH_CFG_devices (n : Nat) : Fld := ⟨R.HRM_CH_CFG n, 0, 2⟩
def F.HRM_CH_CFG_density (n : Nat) : Fld := ⟨R.HRM_CH_CFG n, 2, 2⟩
def F.HRM_CH_CFG_lat (n : Nat) : Fld := ⟨R.HRM_CH_CFG n, 4, 3⟩
def F.HRM_CH_STATUS_state (n : Nat) : Fld := ⟨R.HRM_CH_STATUS n, 0, 3⟩
def F.HRM_CH_STATUS_cause (n : Nat) : Fld := ⟨R.HRM_CH_STATUS n, 4, 3⟩
def F.HRM_CH_STATUS_force_fail (n : Nat) : Fld := ⟨R.HRM_CH_STATUS n, 8, 1⟩
def F.HRM_CH_ERR_corr (n : Nat) : Fld := ⟨R.HRM_CH_ERR n, 0, 16⟩
def F.HRM_CH_ERR_uncorr (n : Nat) : Fld := ⟨R.HRM_CH_ERR n, 16, 16⟩
def F.TRL_CFG_dev : Fld := ⟨R.TRL_CFG, 0, 6⟩
def F.TRL_CFG_n_m1 : Fld := ⟨R.TRL_CFG, 8, 6⟩
def F.TRL_CFG_root : Fld := ⟨R.TRL_CFG, 16, 1⟩
def F.TRL_CFG_en : Fld := ⟨R.TRL_CFG, 17, 1⟩
def F.TRL_CTRL_sync : Fld := ⟨R.TRL_CTRL, 0, 1⟩
def F.TRL_CTRL_cal : Fld := ⟨R.TRL_CTRL, 1, 1⟩
def F.TRL_CTRL_sys_reset : Fld := ⟨R.TRL_CTRL, 2, 1⟩
def F.TRL_STATUS_state : Fld := ⟨R.TRL_STATUS, 0, 3⟩
def F.TRL_STATUS_port0_up : Fld := ⟨R.TRL_STATUS, 3, 1⟩
def F.TRL_STATUS_port1_up : Fld := ⟨R.TRL_STATUS, 4, 1⟩
def F.TRL_STATUS_hold : Fld := ⟨R.TRL_STATUS, 5, 1⟩
def F.TRL_STATUS_d : Fld := ⟨R.TRL_STATUS, 6, 6⟩
def F.TRL_STATUS_bin : Fld := ⟨R.TRL_STATUS, 16, 5⟩
def F.TRL_PORT0_ERR_corr : Fld := ⟨R.TRL_PORT0_ERR, 0, 16⟩
def F.TRL_PORT0_ERR_uncorr : Fld := ⟨R.TRL_PORT0_ERR, 16, 8⟩
def F.TRL_PORT0_ERR_resends : Fld := ⟨R.TRL_PORT0_ERR, 24, 8⟩
def F.TRL_PORT1_ERR_corr : Fld := ⟨R.TRL_PORT1_ERR, 0, 16⟩
def F.TRL_PORT1_ERR_uncorr : Fld := ⟨R.TRL_PORT1_ERR, 16, 8⟩
def F.TRL_PORT1_ERR_resends : Fld := ⟨R.TRL_PORT1_ERR, 24, 8⟩
def F.TRL_TIME_LO_time : Fld := ⟨R.TRL_TIME_LO, 0, 32⟩
def F.TRL_TIME_HI_time : Fld := ⟨R.TRL_TIME_HI, 0, 16⟩
def F.TRL_SKEW_offset : Fld := ⟨R.TRL_SKEW, 0, 8⟩
def F.TRL_SKEW_trim : Fld := ⟨R.TRL_SKEW, 8, 6⟩
def F.TRL_SKEW_valid : Fld := ⟨R.TRL_SKEW, 31, 1⟩
def F.TRL_RETIRE_port : Fld := ⟨R.TRL_RETIRE, 0, 1⟩
def F.TRL_RETIRE_go : Fld := ⟨R.TRL_RETIRE, 1, 1⟩
def F.TRL_RETIRE_band : Fld := ⟨R.TRL_RETIRE, 8, 24⟩
def F.TRL_MAP_ADDR_dev : Fld := ⟨R.TRL_MAP_ADDR, 0, 6⟩
def F.TRL_MAP_DATA_present : Fld := ⟨R.TRL_MAP_DATA, 0, 1⟩
def F.TRL_MAP_DATA_port : Fld := ⟨R.TRL_MAP_DATA, 1, 1⟩
def F.TRL_MAP_DATA_hops : Fld := ⟨R.TRL_MAP_DATA, 2, 6⟩
def F.TRL_EVENT_ev : Fld := ⟨R.TRL_EVENT, 0, 6⟩
def F.TRL_ERR_code : Fld := ⟨R.TRL_ERR, 0, 16⟩
def F.TRL_ERR_valid : Fld := ⟨R.TRL_ERR, 31, 1⟩
def F.TRL_RSE_dev (i : Nat) : Fld := ⟨R.TRL_RSE i, 0, 6⟩
def F.TRL_RSE_ingress (i : Nat) : Fld := ⟨R.TRL_RSE i, 8, 4⟩
def F.TRL_RSE_en (i : Nat) : Fld := ⟨R.TRL_RSE i, 16, 1⟩
def F.TRL_RSI_loc (i : Nat) : Fld := ⟨R.TRL_RSI i, 0, 16⟩
def F.TRL_RSI_en (i : Nat) : Fld := ⟨R.TRL_RSI i, 16, 1⟩
def F.PWR_STATE_state : Fld := ⟨R.PWR_STATE, 0, 2⟩
def F.PWR_STATE_wake : Fld := ⟨R.PWR_STATE, 2, 1⟩
def F.PWR_STATE_cause : Fld := ⟨R.PWR_STATE, 8, 2⟩
def F.PWR_FREQ_f_set : Fld := ⟨R.PWR_FREQ, 0, 5⟩
def F.PWR_FREQ_f_max : Fld := ⟨R.PWR_FREQ, 8, 5⟩
def F.PWR_FREQ_boost : Fld := ⟨R.PWR_FREQ, 16, 1⟩
def F.PWR_FREQ_STATUS_bin : Fld := ⟨R.PWR_FREQ_STATUS, 0, 5⟩
def F.PWR_FREQ_STATUS_wanted : Fld := ⟨R.PWR_FREQ_STATUS, 8, 5⟩
def F.PWR_FREQ_STATUS_floor : Fld := ⟨R.PWR_FREQ_STATUS, 16, 5⟩
def F.PWR_FREQ_STATUS_low_bin : Fld := ⟨R.PWR_FREQ_STATUS, 24, 5⟩
def F.PWR_FREQ_STATUS_pending : Fld := ⟨R.PWR_FREQ_STATUS, 29, 1⟩
def F.PWR_FREQ_STATUS_deferred : Fld := ⟨R.PWR_FREQ_STATUS, 30, 1⟩
def F.PWR_CAP_cap : Fld := ⟨R.PWR_CAP, 0, 9⟩
def F.PWR_CAP_hyst : Fld := ⟨R.PWR_CAP, 12, 4⟩
def F.PWR_GOV_p8 : Fld := ⟨R.PWR_GOV, 0, 16⟩
def F.PWR_GOV_level : Fld := ⟨R.PWR_GOV, 16, 2⟩
def F.PWR_GOV_b_cap : Fld := ⟨R.PWR_GOV, 18, 5⟩
def F.PWR_GOV_b_therm : Fld := ⟨R.PWR_GOV, 23, 5⟩
def F.PWR_FALLBACK_vintage : Fld := ⟨R.PWR_FALLBACK, 0, 2⟩
def F.PWR_FALLBACK_en : Fld := ⟨R.PWR_FALLBACK, 2, 1⟩
def F.PWR_SUPPLY_warn_mv : Fld := ⟨R.PWR_SUPPLY, 0, 8⟩
def F.PWR_SUPPLY_policy : Fld := ⟨R.PWR_SUPPLY, 8, 1⟩
def F.PWR_DROOP_CNT_count : Fld := ⟨R.PWR_DROOP_CNT, 0, 32⟩
def F.PWR_SETTLE_AC_count : Fld := ⟨R.PWR_SETTLE_AC, 0, 32⟩
def F.PWR_TEMP_t : Fld := ⟨R.PWR_TEMP, 0, 16⟩
def F.PWR_TEMP_t_peak : Fld := ⟨R.PWR_TEMP, 16, 16⟩
def F.PWR_THERM_target : Fld := ⟨R.PWR_THERM, 0, 9⟩
def F.PWR_LOAM_en : Fld := ⟨R.PWR_LOAM, 0, 1⟩
def F.PWR_LOAM_frac : Fld := ⟨R.PWR_LOAM, 1, 5⟩
def F.PWR_LOAM_hold : Fld := ⟨R.PWR_LOAM, 6, 1⟩
def F.PWR_LOAM_active : Fld := ⟨R.PWR_LOAM, 8, 1⟩
def F.PWR_HINT_MV_mv1 : Fld := ⟨R.PWR_HINT_MV, 0, 8⟩
def F.PWR_HINT_MV_mv2 : Fld := ⟨R.PWR_HINT_MV, 8, 8⟩
def F.PWR_EVENT_ev : Fld := ⟨R.PWR_EVENT, 0, 8⟩
def F.PWR_ERR_code : Fld := ⟨R.PWR_ERR, 0, 16⟩
def F.PWR_ERR_valid : Fld := ⟨R.PWR_ERR, 31, 1⟩
def F.PWR_ENERGY_LO_value : Fld := ⟨R.PWR_ENERGY_LO, 0, 32⟩
def F.PWR_ENERGY_HI_value : Fld := ⟨R.PWR_ENERGY_HI, 0, 32⟩
def F.PWR_JOB_ENERGY_LO_value : Fld := ⟨R.PWR_JOB_ENERGY_LO, 0, 32⟩
def F.PWR_JOB_ENERGY_HI_value : Fld := ⟨R.PWR_JOB_ENERGY_HI, 0, 32⟩
def F.PWR_TEL_SEL_reg : Fld := ⟨R.PWR_TEL_SEL, 0, 3⟩
def F.PWR_TEL_DATA_mv : Fld := ⟨R.PWR_TEL_DATA, 0, 16⟩
def F.PWR_TEL_DATA_ma10 : Fld := ⟨R.PWR_TEL_DATA, 16, 16⟩
def F.PWR_REG_addr (i : Nat) : Fld := ⟨R.PWR_REG i, 0, 7⟩
def F.PWR_REG_present (i : Nat) : Fld := ⟨R.PWR_REG i, 7, 1⟩
def F.PWR_REG_rail (i : Nat) : Fld := ⟨R.PWR_REG i, 8, 4⟩
def F.PWR_REG_avs (i : Nat) : Fld := ⟨R.PWR_REG i, 12, 1⟩
def F.PWR_PD_ON_LO_map : Fld := ⟨R.PWR_PD_ON_LO, 0, 32⟩
def F.PWR_PD_ON_HI_map : Fld := ⟨R.PWR_PD_ON_HI, 0, 18⟩
def F.PWR_PD_RET_LO_map : Fld := ⟨R.PWR_PD_RET_LO, 0, 32⟩
def F.PWR_PD_RET_HI_map : Fld := ⟨R.PWR_PD_RET_HI, 0, 18⟩
def F.PWR_CD_RUN_LO_map : Fld := ⟨R.PWR_CD_RUN_LO, 0, 32⟩
def F.PWR_CD_RUN_HI_map : Fld := ⟨R.PWR_CD_RUN_HI, 0, 8⟩
def F.HUB_RST_CTRL_array : Fld := ⟨R.HUB_RST_CTRL, 0, 1⟩
def F.HUB_RST_CTRL_cm : Fld := ⟨R.HUB_RST_CTRL, 1, 1⟩
def F.HUB_RST_CTRL_warm : Fld := ⟨R.HUB_RST_CTRL, 2, 1⟩
def F.HUB_RST_CTRL_cold : Fld := ⟨R.HUB_RST_CTRL, 3, 1⟩
def F.HUB_RST_STATUS_kind : Fld := ⟨R.HUB_RST_STATUS, 0, 3⟩
def F.HUB_RST_STATUS_cause : Fld := ⟨R.HUB_RST_STATUS, 4, 4⟩
def F.HUB_RST_STATUS_warm_cnt : Fld := ⟨R.HUB_RST_STATUS, 8, 8⟩
def F.HUB_CM_WDT_timeout_ms : Fld := ⟨R.HUB_CM_WDT, 0, 16⟩
def F.HUB_CM_STATUS_state : Fld := ⟨R.HUB_CM_STATUS, 0, 2⟩
def F.HUB_CM_STATUS_restarts : Fld := ⟨R.HUB_CM_STATUS, 8, 8⟩
def F.SEC_BOOT_STATUS_slot : Fld := ⟨R.SEC_BOOT_STATUS, 0, 2⟩
def F.SEC_BOOT_STATUS_svn : Fld := ⟨R.SEC_BOOT_STATUS, 8, 8⟩
def F.SEC_BOOT_STATUS_svn_floor : Fld := ⟨R.SEC_BOOT_STATUS, 16, 6⟩
def F.SEC_BOOT_CODE_code_a : Fld := ⟨R.SEC_BOOT_CODE, 0, 16⟩
def F.SEC_BOOT_CODE_code_b : Fld := ⟨R.SEC_BOOT_CODE, 16, 16⟩
def F.SEC_FL_ADDR_addr : Fld := ⟨R.SEC_FL_ADDR, 0, 32⟩
def F.SEC_FL_CTRL_op : Fld := ⟨R.SEC_FL_CTRL, 0, 2⟩
def F.SEC_FL_CTRL_busy : Fld := ⟨R.SEC_FL_CTRL, 2, 1⟩
def F.SEC_FL_CTRL_code : Fld := ⟨R.SEC_FL_CTRL, 16, 16⟩
def F.SEC_LC_STATE_state : Fld := ⟨R.SEC_LC_STATE, 0, 2⟩
def F.SEC_LC_STATE_banks : Fld := ⟨R.SEC_LC_STATE, 2, 2⟩
def F.SEC_LC_STATE_id_valid : Fld := ⟨R.SEC_LC_STATE, 4, 1⟩
def F.SEC_LC_CTRL_target : Fld := ⟨R.SEC_LC_CTRL, 0, 2⟩
def F.SEC_LC_CTRL_svn_up : Fld := ⟨R.SEC_LC_CTRL, 2, 1⟩
def F.SEC_LC_CTRL_confirm : Fld := ⟨R.SEC_LC_CTRL, 8, 8⟩
def F.SEC_LC_CTRL_busy : Fld := ⟨R.SEC_LC_CTRL, 16, 1⟩
def F.SEC_KEY_CTRL_slot : Fld := ⟨R.SEC_KEY_CTRL, 0, 3⟩
def F.SEC_KEY_CTRL_dbg : Fld := ⟨R.SEC_KEY_CTRL, 3, 1⟩
def F.SEC_KEY_CTRL_prog : Fld := ⟨R.SEC_KEY_CTRL, 4, 1⟩
def F.SEC_KEY_CTRL_revoke : Fld := ⟨R.SEC_KEY_CTRL, 5, 1⟩
def F.SEC_KEY_CTRL_written : Fld := ⟨R.SEC_KEY_CTRL, 8, 1⟩
def F.SEC_KEY_CTRL_is_dbg : Fld := ⟨R.SEC_KEY_CTRL, 9, 1⟩
def F.SEC_KEY_CTRL_revoked : Fld := ⟨R.SEC_KEY_CTRL, 10, 1⟩
def F.SEC_DBG_CTRL_scope : Fld := ⟨R.SEC_DBG_CTRL, 0, 4⟩
def F.SEC_DBG_CTRL_chal : Fld := ⟨R.SEC_DBG_CTRL, 4, 1⟩
def F.SEC_DBG_CTRL_submit : Fld := ⟨R.SEC_DBG_CTRL, 5, 1⟩
def F.SEC_DBG_CTRL_busy : Fld := ⟨R.SEC_DBG_CTRL, 6, 1⟩
def F.SEC_DBG_CTRL_unlocked : Fld := ⟨R.SEC_DBG_CTRL, 8, 4⟩
def F.SEC_ERR_code : Fld := ⟨R.SEC_ERR, 0, 16⟩
def F.SEC_ERR_valid : Fld := ⟨R.SEC_ERR, 31, 1⟩
def F.HUB_ECC_CFG_corr_limit : Fld := ⟨R.HUB_ECC_CFG, 0, 16⟩
def F.HUB_ECC_CFG_window_s : Fld := ⟨R.HUB_ECC_CFG, 16, 16⟩
def F.HUB_ECC_ALERT_terrace : Fld := ⟨R.HUB_ECC_ALERT, 0, 2⟩
def F.HUB_ECC_ALERT_row : Fld := ⟨R.HUB_ECC_ALERT, 2, 4⟩
def F.HUB_ECC_ALERT_cause : Fld := ⟨R.HUB_ECC_ALERT, 6, 2⟩
def F.HUB_ECC_ALERT_valid : Fld := ⟨R.HUB_ECC_ALERT, 31, 1⟩
def F.HUB_ECC_SCRUB_passes : Fld := ⟨R.HUB_ECC_SCRUB, 0, 16⟩
def F.HUB_ECC_SCRUB_late : Fld := ⟨R.HUB_ECC_SCRUB, 16, 1⟩
def F.HUB_ECC_ERR_ADDR_addr : Fld := ⟨R.HUB_ECC_ERR_ADDR, 0, 32⟩
def F.HUB_ECC_ERR_INFO_addr_hi : Fld := ⟨R.HUB_ECC_ERR_INFO, 0, 8⟩
def F.HUB_ECC_ERR_INFO_code : Fld := ⟨R.HUB_ECC_ERR_INFO, 8, 16⟩
def F.HUB_ECC_ERR_INFO_source : Fld := ⟨R.HUB_ECC_ERR_INFO, 24, 1⟩
def F.HUB_ECC_ERR_INFO_valid : Fld := ⟨R.HUB_ECC_ERR_INFO, 31, 1⟩
def F.HUB_ECC_HUB_corr : Fld := ⟨R.HUB_ECC_HUB, 0, 16⟩
def F.HUB_ECC_HUB_uncorr : Fld := ⟨R.HUB_ECC_HUB, 16, 16⟩
def F.TER_ROW_ECC_corr (n i : Nat) : Fld := ⟨R.TER_ROW_ECC n i, 0, 16⟩
def F.TER_ROW_ECC_win_corr (n i : Nat) : Fld := ⟨R.TER_ROW_ECC n i, 16, 8⟩
def F.TER_ROW_ECC_uncorr (n i : Nat) : Fld := ⟨R.TER_ROW_ECC n i, 24, 8⟩

/-! ## The tables -/
def regTabHUB0 : List RegDef := [
  -- HUB.PART_INFO
  ⟨0x0, 1, 0, 1, 0, [⟨0, 4, .ro, .F, 0⟩, ⟨4, 1, .ro, .F, 0⟩, ⟨8, 6, .ro, .F, 0⟩, ⟨16, 16, .ro, .F, 0⟩]⟩,
  -- HUB.DLD_STATUS
  ⟨0x600, 1, 0, 1, 0, [⟨0, 5, .ro, .S, 0⟩, ⟨8, 1, .ro, .V, 0⟩, ⟨16, 1, .ro, .S, 0⟩, ⟨31, 1, .w1c, .S, 0⟩]⟩,
  -- HUB.DLD_COUNT
  ⟨0x604, 1, 0, 1, 0, [⟨0, 32, .rc, .S, 0⟩]⟩,
  -- HUB.ELAST_LO
  ⟨0x610, 1, 0, 1, 0, [⟨0, 32, .ro, .S, 0⟩]⟩,
  -- HUB.ELAST_HI
  ⟨0x614, 1, 0, 1, 0, [⟨0, 32, .ro, .S, 0⟩]⟩,
  -- HUB.RUN_AC_LO
  ⟨0x618, 1, 0, 1, 0, [⟨0, 32, .ro, .V, 0⟩]⟩,
  -- HUB.RUN_AC_HI
  ⟨0x61C, 1, 0, 1, 0, [⟨0, 32, .ro, .V, 0⟩]⟩,
  -- HUB.HOLD_AC_LO
  ⟨0x620, 1, 0, 1, 0, [⟨0, 32, .ro, .V, 0⟩]⟩,
  -- HUB.HOLD_AC_HI
  ⟨0x624, 1, 0, 1, 0, [⟨0, 32, .ro, .V, 0⟩]⟩,
  -- HUB.HOLD_STATUS
  ⟨0x628, 1, 0, 1, 0, [⟨0, 1, .ro, .V, 0⟩, ⟨1, 1, .ro, .V, 0⟩, ⟨2, 1, .ro, .V, 0⟩, ⟨3, 1, .ro, .V, 0⟩, ⟨16, 16, .ro, .V, 0⟩]⟩,
  -- HUB.HOLD_LIMIT
  ⟨0x62C, 1, 0, 1, 0, [⟨0, 24, .rw, .S, 10000⟩]⟩,
  -- HUB.VNT_STATUS
  ⟨0x630, 1, 0, 1, 0, [⟨0, 4, .ro, .A, 0⟩, ⟨4, 2, .ro, .A, 0⟩, ⟨8, 4, .ro, .A, 0⟩, ⟨16, 2, .ro, .A, 0⟩, ⟨18, 2, .ro, .A, 0⟩, ⟨20, 2, .ro, .A, 0⟩, ⟨22, 2, .ro, .A, 0⟩, ⟨24, 1, .ro, .V, 0⟩, ⟨25, 1, .ro, .V, 0⟩]⟩,
  -- HUB.VNT_SWITCH
  ⟨0x634, 1, 0, 1, 0, [⟨0, 2, .ro, .V, 0⟩, ⟨2, 1, .ro, .V, 0⟩, ⟨3, 1, .ro, .V, 0⟩, ⟨8, 24, .ro, .V, 0⟩]⟩,
  -- HUB.PRB_CTRL
  ⟨0x700, 1, 0, 1, 0, [⟨0, 1, .rw, .V, 0⟩, ⟨1, 1, .wo, .V, 0⟩, ⟨2, 2, .rw, .V, 0⟩, ⟨4, 4, .rw, .V, 0⟩, ⟨8, 3, .rw, .V, 0⟩, ⟨16, 16, .rw, .V, 0⟩]⟩,
  -- HUB.PRB_STATUS
  ⟨0x704, 1, 0, 1, 0, [⟨0, 1, .ro, .V, 0⟩, ⟨1, 1, .ro, .V, 0⟩, ⟨2, 1, .ro, .V, 0⟩, ⟨16, 16, .ro, .V, 0⟩]⟩,
  -- HUB.PRB_MASK_LO
  ⟨0x708, 1, 0, 1, 0, [⟨0, 32, .rw, .V, 0⟩]⟩,
  -- HUB.PRB_MASK_HI
  ⟨0x70C, 1, 0, 1, 0, [⟨0, 32, .rw, .V, 0⟩]⟩,
  -- HUB.PRB_MATCH_LO
  ⟨0x710, 1, 0, 1, 0, [⟨0, 32, .rw, .V, 0⟩]⟩,
  -- HUB.PRB_MATCH_HI
  ⟨0x714, 1, 0, 1, 0, [⟨0, 32, .rw, .V, 0⟩]⟩,
  -- HUB.PRB_ADDR
  ⟨0x718, 1, 0, 1, 0, [⟨0, 16, .rw, .V, 0⟩, ⟨31, 1, .rw, .V, 0⟩]⟩]
def regTabHUB1 : List RegDef := [
  -- HUB.PRB_DATA_LO
  ⟨0x71C, 1, 0, 1, 0, [⟨0, 32, .ro, .V, 0⟩]⟩,
  -- HUB.PRB_DATA_HI
  ⟨0x720, 1, 0, 1, 0, [⟨0, 32, .ro, .V, 0⟩]⟩,
  -- HUB.LDR_STATUS
  ⟨0x800, 1, 0, 1, 0, [⟨0, 16, .ro, .S, 0⟩, ⟨16, 2, .ro, .S, 0⟩, ⟨18, 2, .ro, .S, 0⟩, ⟨20, 3, .ro, .S, 0⟩, ⟨24, 2, .ro, .S, 0⟩, ⟨26, 1, .ro, .V, 0⟩, ⟨27, 1, .ro, .S, 0⟩]⟩,
  -- HUB.LDR_LOC
  ⟨0x804, 1, 0, 1, 0, [⟨0, 16, .ro, .S, 0⟩, ⟨16, 16, .ro, .S, 0⟩]⟩,
  -- HUB.LDR_UNIT
  ⟨0x808, 1, 0, 1, 0, [⟨0, 2, .ro, .S, 0⟩, ⟨2, 5, .ro, .S, 0⟩, ⟨7, 4, .ro, .S, 0⟩, ⟨11, 3, .ro, .S, 0⟩, ⟨14, 4, .ro, .S, 0⟩, ⟨18, 4, .ro, .S, 0⟩]⟩,
  -- HUB.LDR_PROG
  ⟨0x80C, 1, 0, 1, 0, [⟨0, 32, .ro, .V, 0⟩]⟩,
  -- HUB.GRF_CTRL
  ⟨0x900, 1, 0, 1, 0, [⟨0, 1, .rw, .A, 0⟩, ⟨1, 1, .rw, .A, 0⟩]⟩,
  -- HUB.GRF_STATUS
  ⟨0x904, 1, 0, 1, 0, [⟨0, 3, .ro, .V, 0⟩, ⟨4, 5, .ro, .V, 0⟩, ⟨9, 1, .ro, .A, 0⟩]⟩,
  -- HUB.GRF_STEP
  ⟨0x908, 1, 0, 1, 0, [⟨0, 32, .ro, .V, 0⟩]⟩,
  -- HUB.GRF_POOL
  ⟨0x90C, 1, 0, 1, 0, [⟨0, 17, .ro, .V, 0⟩]⟩,
  -- HUB.GRF_GEN
  ⟨0x910, 1, 0, 1, 0, [⟨0, 16, .ro, .A, 0⟩, ⟨16, 16, .ro, .A, 0⟩]⟩,
  -- HUB.GRF_SAT
  ⟨0x914, 1, 0, 1, 0, [⟨0, 32, .rc, .V, 0⟩]⟩,
  -- HUB.GRF_DROP
  ⟨0x918, 1, 0, 1, 0, [⟨0, 32, .rc, .S, 0⟩]⟩,
  -- HUB.GRF_ERR
  ⟨0x91C, 1, 0, 1, 0, [⟨0, 16, .ro, .S, 0⟩, ⟨31, 1, .w1c, .S, 0⟩]⟩,
  -- HUB.SS_R
  ⟨0xA00, 8, 4, 1, 0, [⟨0, 8, .rw, .A, 0⟩, ⟨16, 8, .rw, .A, 0⟩]⟩,
  -- HUB.VIOL_ADDR
  ⟨0x100, 1, 0, 1, 0, [⟨0, 32, .ro, .S, 0⟩]⟩,
  -- HUB.VIOL_INFO
  ⟨0x104, 1, 0, 1, 0, [⟨0, 8, .ro, .S, 0⟩, ⟨8, 3, .ro, .S, 0⟩, ⟨11, 1, .ro, .S, 0⟩, ⟨12, 4, .ro, .S, 0⟩, ⟨31, 1, .w1c, .S, 0⟩]⟩,
  -- HUB.VIOL_COUNT
  ⟨0x108, 1, 0, 1, 0, [⟨0, 32, .rc, .S, 0⟩]⟩,
  -- HUB.IRQ_STATUS
  ⟨0x110, 1, 0, 1, 0, [⟨0, 1, .w1c, .A, 0⟩, ⟨1, 1, .w1c, .A, 0⟩, ⟨2, 1, .w1c, .A, 0⟩, ⟨3, 1, .w1c, .A, 0⟩, ⟨4, 1, .w1c, .A, 0⟩, ⟨5, 1, .w1c, .A, 0⟩]⟩,
  -- HUB.IRQ_MASK
  ⟨0x114, 1, 0, 1, 0, [⟨0, 6, .rw, .A, 0⟩]⟩]
def regTabHUB2 : List RegDef := [
  -- HUB.RST_CTRL
  ⟨0xB00, 1, 0, 1, 0, [⟨0, 1, .wo, .V, 0⟩, ⟨1, 1, .wo, .V, 0⟩, ⟨2, 1, .wo, .V, 0⟩, ⟨3, 1, .wo, .V, 0⟩]⟩,
  -- HUB.RST_STATUS
  ⟨0xB04, 1, 0, 1, 0, [⟨0, 3, .ro, .S, 0⟩, ⟨4, 4, .ro, .S, 0⟩, ⟨8, 8, .ro, .S, 0⟩]⟩,
  -- HUB.CM_WDT
  ⟨0xB08, 1, 0, 1, 0, [⟨0, 16, .rw, .S, 1000⟩]⟩,
  -- HUB.CM_STATUS
  ⟨0xB0C, 1, 0, 1, 0, [⟨0, 2, .ro, .V, 0⟩, ⟨8, 8, .rc, .S, 0⟩]⟩,
  -- HUB.ECC_CFG
  ⟨0xC00, 1, 0, 1, 0, [⟨0, 16, .rw, .S, 16⟩, ⟨16, 16, .rw, .S, 60⟩]⟩,
  -- HUB.ECC_ALERT
  ⟨0xC04, 1, 0, 1, 0, [⟨0, 2, .ro, .S, 0⟩, ⟨2, 4, .ro, .S, 0⟩, ⟨6, 2, .ro, .S, 0⟩, ⟨31, 1, .w1c, .S, 0⟩]⟩,
  -- HUB.ECC_SCRUB
  ⟨0xC08, 1, 0, 1, 0, [⟨0, 16, .ro, .V, 0⟩, ⟨16, 1, .w1c, .S, 0⟩]⟩,
  -- HUB.ECC_ERR_ADDR
  ⟨0xC0C, 1, 0, 1, 0, [⟨0, 32, .ro, .S, 0⟩]⟩,
  -- HUB.ECC_ERR_INFO
  ⟨0xC10, 1, 0, 1, 0, [⟨0, 8, .ro, .S, 0⟩, ⟨8, 16, .ro, .S, 0⟩, ⟨24, 1, .ro, .S, 0⟩, ⟨31, 1, .w1c, .S, 0⟩]⟩,
  -- HUB.ECC_HUB
  ⟨0xC14, 1, 0, 1, 0, [⟨0, 16, .rc, .S, 0⟩, ⟨16, 16, .rc, .S, 0⟩]⟩]
/-- The registers of the HUB part of BAR0. -/
def regTabHUB : List RegDef := regTabHUB0 ++ regTabHUB1 ++ regTabHUB2
def regTabPCI0 : List RegDef := [
  -- PCI.BAR2_WIN
  ⟨0x8020, 1, 0, 1, 0, [⟨0, 8, .rw, .A, 0⟩, ⟨16, 9, .rw, .A, 0⟩, ⟨31, 1, .rw, .A, 0⟩]⟩,
  -- PCI.RING_BASE_LO
  ⟨0x8100, 1, 0, 5, 32, [⟨12, 20, .rw, .A, 0⟩]⟩,
  -- PCI.RING_BASE_HI
  ⟨0x8104, 1, 0, 5, 32, [⟨0, 32, .rw, .A, 0⟩]⟩,
  -- PCI.RING_CFG
  ⟨0x8108, 1, 0, 5, 32, [⟨0, 5, .rw, .A, 0⟩, ⟨8, 1, .rw, .A, 0⟩]⟩,
  -- PCI.RING_PROD
  ⟨0x810C, 1, 0, 5, 32, [⟨0, 32, .ro, .A, 0⟩]⟩,
  -- PCI.RING_CONS
  ⟨0x8110, 1, 0, 5, 32, [⟨0, 32, .ro, .A, 0⟩]⟩,
  -- PCI.RING_IRQ
  ⟨0x8114, 1, 0, 5, 32, [⟨0, 16, .rw, .A, 0⟩, ⟨16, 16, .rw, .A, 0⟩]⟩,
  -- PCI.CP_STATUS
  ⟨0x8024, 1, 0, 1, 0, [⟨0, 16, .ro, .V, 0⟩, ⟨16, 7, .ro, .V, 0⟩, ⟨24, 1, .ro, .V, 0⟩, ⟨25, 1, .ro, .V, 0⟩]⟩]
/-- The registers of the PCI part of BAR0. -/
def regTabPCI : List RegDef := regTabPCI0
def regTabSTR0 : List RegDef := [
  -- STR.CH_CTRL
  ⟨0x10000, 1, 0, 16, 256, [⟨0, 1, .w1s, .V, 0⟩, ⟨1, 1, .w1s, .V, 0⟩]⟩,
  -- STR.CH_STATUS
  ⟨0x10004, 1, 0, 16, 256, [⟨0, 3, .ro, .A, 0⟩, ⟨3, 1, .ro, .A, 0⟩, ⟨4, 1, .w1c, .A, 0⟩, ⟨5, 1, .w1c, .A, 0⟩]⟩,
  -- STR.CH_RES0
  ⟨0x10008, 1, 0, 16, 256, [⟨0, 16, .ro, .A, 0⟩, ⟨16, 16, .ro, .A, 0⟩]⟩,
  -- STR.CH_RES1
  ⟨0x1000C, 1, 0, 16, 256, [⟨0, 16, .ro, .A, 0⟩, ⟨16, 16, .ro, .A, 0⟩]⟩,
  -- STR.CH_BYTES
  ⟨0x10010, 1, 0, 16, 256, [⟨0, 32, .ro, .A, 0⟩]⟩,
  -- STR.CH_ERR
  ⟨0x10014, 1, 0, 16, 256, [⟨0, 16, .ro, .S, 0⟩, ⟨31, 1, .w1c, .S, 0⟩]⟩,
  -- STR.CH_RING
  ⟨0x10018, 1, 0, 16, 256, [⟨0, 8, .rw, .A, 0⟩, ⟨8, 8, .rw, .A, 0⟩]⟩,
  -- STR.CH_DESC
  ⟨0x10040, 16, 4, 16, 256, [⟨0, 32, .rw, .A, 0⟩]⟩,
  -- STR.SPLIT
  ⟨0x11000, 1, 0, 1, 0, [⟨0, 4, .rw, .A, 4⟩, ⟨4, 4, .rw, .A, 3⟩]⟩,
  -- STR.PROG_ADDR
  ⟨0x11004, 1, 0, 1, 0, [⟨0, 8, .rw, .A, 0⟩, ⟨31, 1, .rw, .A, 0⟩]⟩,
  -- STR.PROG_DATA
  ⟨0x11008, 1, 0, 1, 0, [⟨0, 32, .rw, .A, 0⟩]⟩,
  -- STR.PACE_A
  ⟨0x11100, 16, 8, 1, 0, [⟨0, 2, .rw, .A, 0⟩, ⟨2, 16, .rw, .A, 0⟩]⟩,
  -- STR.PACE_B
  ⟨0x11104, 16, 8, 1, 0, [⟨0, 16, .rw, .A, 0⟩, ⟨16, 16, .rw, .A, 0⟩]⟩]
/-- The registers of the STR part of BAR0. -/
def regTabSTR : List RegDef := regTabSTR0
def regTabING0 : List RegDef := [
  -- ING.CAM_CFG
  ⟨0x20000, 4, 16, 1, 0, [⟨0, 3, .rw, .A, 0⟩, ⟨3, 4, .rw, .A, 0⟩, ⟨7, 4, .rw, .A, 0⟩, ⟨11, 2, .rw, .A, 0⟩, ⟨13, 1, .rw, .A, 0⟩, ⟨16, 15, .rw, .A, 0⟩]⟩,
  -- ING.CAM_POS
  ⟨0x20004, 4, 16, 1, 0, [⟨0, 15, .rw, .A, 0⟩, ⟨15, 1, .rw, .A, 0⟩, ⟨16, 4, .rw, .A, 15⟩, ⟨20, 1, .rw, .A, 0⟩]⟩,
  -- ING.LINE_CFG
  ⟨0x20040, 1, 0, 1, 0, [⟨0, 16, .rw, .A, 1000⟩]⟩,
  -- ING.LINK_STATUS
  ⟨0x20044, 1, 0, 1, 0, [⟨0, 8, .ro, .V, 0⟩, ⟨8, 8, .w1c, .S, 0⟩, ⟨16, 4, .w1c, .S, 0⟩]⟩,
  -- ING.CRC_CNT
  ⟨0x20048, 1, 0, 1, 0, [⟨0, 32, .rc, .S, 0⟩]⟩,
  -- ING.SUB_CNT
  ⟨0x2004C, 1, 0, 1, 0, [⟨0, 32, .rc, .S, 0⟩]⟩,
  -- ING.OVR_CNT
  ⟨0x20050, 1, 0, 1, 0, [⟨0, 32, .rc, .S, 0⟩]⟩,
  -- ING.DISC_CNT
  ⟨0x20054, 1, 0, 1, 0, [⟨0, 32, .rc, .S, 0⟩]⟩,
  -- ING.MBX_CTRL
  ⟨0x20080, 4, 4, 1, 0, [⟨0, 10, .rw, .A, 0⟩, ⟨10, 1, .w1s, .V, 0⟩, ⟨16, 10, .ro, .V, 0⟩, ⟨26, 1, .ro, .V, 0⟩, ⟨27, 1, .w1c, .V, 0⟩, ⟨28, 4, .rc, .V, 0⟩]⟩,
  -- FFC.CTRL
  ⟨0x24000, 1, 0, 1, 0, [⟨0, 4, .rw, .A, 0⟩, ⟨4, 4, .rw, .A, 0⟩, ⟨8, 1, .rw, .A, 0⟩, ⟨9, 1, .ro, .V, 0⟩]⟩,
  -- FFC.SAT_CNT
  ⟨0x24004, 1, 0, 1, 0, [⟨0, 32, .rc, .V, 0⟩]⟩,
  -- RSH.CFG
  ⟨0x28000, 1, 0, 1, 0, [⟨0, 2, .rw, .A, 0⟩, ⟨2, 2, .rw, .A, 0⟩]⟩,
  -- RSH.PLANE
  ⟨0x28010, 8, 4, 1, 0, [⟨0, 1, .rw, .A, 0⟩, ⟨1, 2, .rw, .A, 0⟩, ⟨3, 1, .rw, .A, 0⟩, ⟨4, 4, .rw, .A, 0⟩, ⟨8, 8, .rw, .A, 0⟩, ⟨16, 4, .rw, .A, 2⟩]⟩,
  -- SLC.CFG
  ⟨0x2A000, 1, 0, 1, 0, [⟨0, 15, .rw, .A, 0⟩, ⟨16, 15, .rw, .A, 0⟩]⟩,
  -- SLC.NBR
  ⟨0x2A004, 1, 0, 1, 0, [⟨0, 6, .rw, .A, 0⟩, ⟨6, 1, .rw, .A, 0⟩, ⟨8, 6, .rw, .A, 0⟩, ⟨14, 1, .rw, .A, 0⟩, ⟨16, 16, .rw, .A, 50⟩]⟩,
  -- SLC.HALO
  ⟨0x2A008, 1, 0, 1, 0, [⟨0, 9, .rw, .A, 0⟩, ⟨16, 9, .rw, .A, 0⟩]⟩,
  -- STP.ENC_CFG
  ⟨0x2C000, 1, 0, 1, 0, [⟨0, 2, .rw, .A, 0⟩, ⟨2, 1, .rw, .A, 1⟩, ⟨8, 8, .rw, .A, 0⟩]⟩,
  -- STP.POS_LO
  ⟨0x2C004, 1, 0, 1, 0, [⟨0, 32, .ro, .A, 0⟩]⟩,
  -- STP.POS_HI
  ⟨0x2C008, 1, 0, 1, 0, [⟨0, 16, .ro, .A, 0⟩]⟩,
  -- STP.ENC_ERR
  ⟨0x2C00C, 1, 0, 1, 0, [⟨0, 32, .rc, .S, 0⟩]⟩]
def regTabING1 : List RegDef := [
  -- STP.STAMP_CFG
  ⟨0x2C010, 1, 0, 1, 0, [⟨0, 1, .rw, .A, 0⟩, ⟨8, 8, .rw, .A, 0⟩]⟩,
  -- STP.TRG_CFG
  ⟨0x2C100, 8, 16, 1, 0, [⟨0, 1, .rw, .S, 0⟩, ⟨1, 2, .rw, .S, 0⟩, ⟨3, 1, .rw, .S, 0⟩, ⟨4, 1, .rw, .S, 0⟩, ⟨5, 1, .rw, .S, 0⟩, ⟨6, 1, .wo, .V, 0⟩, ⟨8, 4, .rw, .S, 0⟩, ⟨12, 4, .rw, .S, 0⟩, ⟨16, 16, .rw, .S, 0⟩]⟩,
  -- STP.TRG_N
  ⟨0x2C104, 8, 16, 1, 0, [⟨0, 16, .rw, .S, 0⟩]⟩,
  -- STP.TRG_PER
  ⟨0x2C108, 8, 16, 1, 0, [⟨0, 32, .rw, .S, 0⟩]⟩,
  -- STP.TRG_MIN
  ⟨0x2C10C, 8, 16, 1, 0, [⟨0, 24, .rw, .S, 0⟩]⟩,
  -- STP.TRG_SUPP
  ⟨0x2C180, 1, 0, 1, 0, [⟨0, 32, .rc, .S, 0⟩]⟩,
  -- STP.MRK_CFG
  ⟨0x2C200, 16, 16, 1, 0, [⟨0, 1, .rw, .S, 0⟩, ⟨1, 1, .rw, .S, 0⟩, ⟨2, 1, .rw, .S, 0⟩, ⟨3, 1, .rw, .S, 0⟩, ⟨4, 1, .rw, .S, 1⟩, ⟨5, 1, .rw, .S, 0⟩, ⟨16, 16, .rw, .S, 0⟩]⟩,
  -- STP.MRK_COL
  ⟨0x2C204, 16, 16, 1, 0, [⟨0, 9, .rw, .S, 0⟩, ⟨16, 9, .rw, .S, 0⟩]⟩,
  -- STP.MRK_DLY
  ⟨0x2C208, 16, 16, 1, 0, [⟨0, 32, .rw, .S, 0⟩]⟩,
  -- STP.MRK_WID
  ⟨0x2C20C, 16, 16, 1, 0, [⟨0, 24, .rw, .S, 0⟩]⟩,
  -- STP.MRK_LATE
  ⟨0x2C300, 1, 0, 1, 0, [⟨0, 32, .rc, .S, 0⟩]⟩,
  -- STP.MRK_DROP
  ⟨0x2C304, 1, 0, 1, 0, [⟨0, 32, .rc, .S, 0⟩]⟩]
/-- The registers of the ING part of BAR0. -/
def regTabING : List RegDef := regTabING0 ++ regTabING1
def regTabPWR0 : List RegDef := [
  -- PWR.STATE
  ⟨0x30000, 1, 0, 1, 0, [⟨0, 2, .ro, .V, 0⟩, ⟨2, 1, .w1s, .V, 0⟩, ⟨8, 2, .ro, .S, 0⟩]⟩,
  -- PWR.FREQ
  ⟨0x30004, 1, 0, 1, 0, [⟨0, 5, .rw, .S, 20⟩, ⟨8, 5, .rw, .S, 20⟩, ⟨16, 1, .rw, .S, 0⟩]⟩,
  -- PWR.FREQ_STATUS
  ⟨0x30008, 1, 0, 1, 0, [⟨0, 5, .ro, .V, 20⟩, ⟨8, 5, .ro, .V, 0⟩, ⟨16, 5, .ro, .V, 0⟩, ⟨24, 5, .ro, .V, 0⟩, ⟨29, 1, .ro, .V, 0⟩, ⟨30, 1, .ro, .V, 0⟩]⟩,
  -- PWR.CAP
  ⟨0x3000C, 1, 0, 1, 0, [⟨0, 9, .rw, .S, 300⟩, ⟨12, 4, .rw, .S, 4⟩]⟩,
  -- PWR.GOV
  ⟨0x30010, 1, 0, 1, 0, [⟨0, 16, .ro, .V, 0⟩, ⟨16, 2, .ro, .V, 0⟩, ⟨18, 5, .ro, .V, 0⟩, ⟨23, 5, .ro, .V, 0⟩]⟩,
  -- PWR.FALLBACK
  ⟨0x30014, 1, 0, 1, 0, [⟨0, 2, .rw, .A, 0⟩, ⟨2, 1, .rw, .A, 0⟩]⟩,
  -- PWR.SUPPLY
  ⟨0x30018, 1, 0, 1, 0, [⟨0, 8, .rw, .S, 40⟩, ⟨8, 1, .rw, .S, 0⟩]⟩,
  -- PWR.DROOP_CNT
  ⟨0x3001C, 1, 0, 1, 0, [⟨0, 32, .rc, .S, 0⟩]⟩,
  -- PWR.SETTLE_AC
  ⟨0x30020, 1, 0, 1, 0, [⟨0, 32, .rc, .S, 0⟩]⟩,
  -- PWR.TEMP
  ⟨0x30024, 1, 0, 1, 0, [⟨0, 16, .ro, .V, 0⟩, ⟨16, 16, .rc, .S, 0⟩]⟩,
  -- PWR.THERM
  ⟨0x30028, 1, 0, 1, 0, [⟨0, 9, .rw, .S, 400⟩]⟩,
  -- PWR.LOAM
  ⟨0x3002C, 1, 0, 1, 0, [⟨0, 1, .rw, .A, 0⟩, ⟨1, 5, .rw, .A, 0⟩, ⟨6, 1, .rw, .A, 0⟩, ⟨8, 1, .ro, .V, 0⟩]⟩,
  -- PWR.HINT_MV
  ⟨0x30030, 1, 0, 1, 0, [⟨0, 8, .rw, .S, 20⟩, ⟨8, 8, .rw, .S, 10⟩]⟩,
  -- PWR.EVENT
  ⟨0x30034, 1, 0, 1, 0, [⟨0, 8, .w1c, .A, 0⟩]⟩,
  -- PWR.ERR
  ⟨0x30038, 1, 0, 1, 0, [⟨0, 16, .ro, .S, 0⟩, ⟨31, 1, .w1c, .S, 0⟩]⟩,
  -- PWR.ENERGY_LO
  ⟨0x30040, 1, 0, 1, 0, [⟨0, 32, .ro, .S, 0⟩]⟩,
  -- PWR.ENERGY_HI
  ⟨0x30044, 1, 0, 1, 0, [⟨0, 32, .ro, .S, 0⟩]⟩,
  -- PWR.JOB_ENERGY_LO
  ⟨0x30048, 1, 0, 1, 0, [⟨0, 32, .ro, .V, 0⟩]⟩,
  -- PWR.JOB_ENERGY_HI
  ⟨0x3004C, 1, 0, 1, 0, [⟨0, 32, .ro, .V, 0⟩]⟩,
  -- PWR.TEL_SEL
  ⟨0x30050, 1, 0, 1, 0, [⟨0, 3, .rw, .V, 0⟩]⟩]
def regTabPWR1 : List RegDef := [
  -- PWR.TEL_DATA
  ⟨0x30054, 1, 0, 1, 0, [⟨0, 16, .ro, .V, 0⟩, ⟨16, 16, .ro, .V, 0⟩]⟩,
  -- PWR.REG
  ⟨0x30060, 8, 4, 1, 0, [⟨0, 7, .ro, .F, 0⟩, ⟨7, 1, .ro, .F, 0⟩, ⟨8, 4, .ro, .F, 0⟩, ⟨12, 1, .ro, .F, 0⟩]⟩,
  -- PWR.PD_ON_LO
  ⟨0x30080, 1, 0, 1, 0, [⟨0, 32, .ro, .V, 0⟩]⟩,
  -- PWR.PD_ON_HI
  ⟨0x30084, 1, 0, 1, 0, [⟨0, 18, .ro, .V, 0⟩]⟩,
  -- PWR.PD_RET_LO
  ⟨0x30088, 1, 0, 1, 0, [⟨0, 32, .ro, .V, 0⟩]⟩,
  -- PWR.PD_RET_HI
  ⟨0x3008C, 1, 0, 1, 0, [⟨0, 18, .ro, .V, 0⟩]⟩,
  -- PWR.CD_RUN_LO
  ⟨0x30090, 1, 0, 1, 0, [⟨0, 32, .ro, .V, 0⟩]⟩,
  -- PWR.CD_RUN_HI
  ⟨0x30094, 1, 0, 1, 0, [⟨0, 8, .ro, .V, 0⟩]⟩]
/-- The registers of the PWR part of BAR0. -/
def regTabPWR : List RegDef := regTabPWR0 ++ regTabPWR1
def regTabSEC0 : List RegDef := [
  -- SEC.BOOT_STATUS
  ⟨0x40008, 1, 0, 1, 0, [⟨0, 2, .ro, .A, 0⟩, ⟨8, 8, .ro, .A, 0⟩, ⟨16, 6, .ro, .F, 0⟩]⟩,
  -- SEC.BOOT_CODE
  ⟨0x4000C, 1, 0, 1, 0, [⟨0, 16, .ro, .A, 0⟩, ⟨16, 16, .ro, .A, 0⟩]⟩,
  -- SEC.FL_ADDR
  ⟨0x40020, 1, 0, 1, 0, [⟨0, 32, .rw, .V, 0⟩]⟩,
  -- SEC.FL_CTRL
  ⟨0x40024, 1, 0, 1, 0, [⟨0, 2, .wo, .V, 0⟩, ⟨2, 1, .ro, .V, 0⟩, ⟨16, 16, .ro, .V, 0⟩]⟩,
  -- SEC.LC_STATE
  ⟨0x40000, 1, 0, 1, 0, [⟨0, 2, .ro, .F, 0⟩, ⟨2, 2, .ro, .F, 0⟩, ⟨4, 1, .ro, .F, 0⟩]⟩,
  -- SEC.LC_CTRL
  ⟨0x40004, 1, 0, 1, 0, [⟨0, 2, .wo, .V, 0⟩, ⟨2, 1, .wo, .V, 0⟩, ⟨8, 8, .wo, .V, 0⟩, ⟨16, 1, .ro, .V, 0⟩]⟩,
  -- SEC.KEY_CTRL
  ⟨0x40030, 1, 0, 1, 0, [⟨0, 3, .rw, .V, 0⟩, ⟨3, 1, .rws, .V, 0⟩, ⟨4, 1, .rws, .V, 0⟩, ⟨5, 1, .w1s, .V, 0⟩, ⟨8, 1, .ro, .F, 0⟩, ⟨9, 1, .ro, .F, 0⟩, ⟨10, 1, .ro, .F, 0⟩]⟩,
  -- SEC.DBG_CTRL
  ⟨0x40040, 1, 0, 1, 0, [⟨0, 4, .rw, .V, 0⟩, ⟨4, 1, .wo, .V, 0⟩, ⟨5, 1, .wo, .V, 0⟩, ⟨6, 1, .ro, .V, 0⟩, ⟨8, 4, .ro, .V, 0⟩]⟩,
  -- SEC.ERR
  ⟨0x40044, 1, 0, 1, 0, [⟨0, 16, .ro, .S, 0⟩, ⟨31, 1, .w1c, .S, 0⟩]⟩]
/-- The registers of the SEC part of BAR0. -/
def regTabSEC : List RegDef := regTabSEC0
def regTabTRL0 : List RegDef := [
  -- TRL.CFG
  ⟨0x50000, 1, 0, 1, 0, [⟨0, 6, .rw, .A, 0⟩, ⟨8, 6, .rw, .A, 0⟩, ⟨16, 1, .rw, .A, 0⟩, ⟨17, 1, .rw, .A, 0⟩]⟩,
  -- TRL.CTRL
  ⟨0x50004, 1, 0, 1, 0, [⟨0, 1, .wo, .V, 0⟩, ⟨1, 1, .w1s, .V, 0⟩, ⟨2, 1, .wo, .V, 0⟩]⟩,
  -- TRL.STATUS
  ⟨0x50008, 1, 0, 1, 0, [⟨0, 3, .ro, .V, 0⟩, ⟨3, 1, .ro, .V, 0⟩, ⟨4, 1, .ro, .V, 0⟩, ⟨5, 1, .ro, .V, 0⟩, ⟨6, 6, .ro, .V, 0⟩, ⟨16, 5, .ro, .V, 0⟩]⟩,
  -- TRL.PORT0_ERR
  ⟨0x50010, 1, 0, 1, 0, [⟨0, 16, .rc, .S, 0⟩, ⟨16, 8, .rc, .S, 0⟩, ⟨24, 8, .rc, .S, 0⟩]⟩,
  -- TRL.PORT1_ERR
  ⟨0x50014, 1, 0, 1, 0, [⟨0, 16, .rc, .S, 0⟩, ⟨16, 8, .rc, .S, 0⟩, ⟨24, 8, .rc, .S, 0⟩]⟩,
  -- TRL.TIME_LO
  ⟨0x50018, 1, 0, 1, 0, [⟨0, 32, .ro, .V, 0⟩]⟩,
  -- TRL.TIME_HI
  ⟨0x5001C, 1, 0, 1, 0, [⟨0, 16, .ro, .V, 0⟩]⟩,
  -- TRL.SKEW
  ⟨0x50020, 1, 0, 1, 0, [⟨0, 8, .ro, .A, 0⟩, ⟨8, 6, .rw, .A, 0⟩, ⟨31, 1, .ro, .A, 0⟩]⟩,
  -- TRL.RETIRE
  ⟨0x50024, 1, 0, 1, 0, [⟨0, 1, .rw, .V, 0⟩, ⟨1, 1, .w1s, .V, 0⟩, ⟨8, 24, .rw, .V, 0⟩]⟩,
  -- TRL.MAP_ADDR
  ⟨0x50028, 1, 0, 1, 0, [⟨0, 6, .rw, .V, 0⟩]⟩,
  -- TRL.MAP_DATA
  ⟨0x5002C, 1, 0, 1, 0, [⟨0, 1, .ro, .V, 0⟩, ⟨1, 1, .ro, .V, 0⟩, ⟨2, 6, .ro, .V, 0⟩]⟩,
  -- TRL.EVENT
  ⟨0x50030, 1, 0, 1, 0, [⟨0, 6, .w1c, .A, 0⟩]⟩,
  -- TRL.ERR
  ⟨0x50034, 1, 0, 1, 0, [⟨0, 16, .ro, .S, 0⟩, ⟨31, 1, .w1c, .S, 0⟩]⟩,
  -- TRL.RSE
  ⟨0x50100, 16, 8, 1, 0, [⟨0, 6, .rw, .A, 0⟩, ⟨8, 4, .rw, .A, 0⟩, ⟨16, 1, .rw, .A, 0⟩]⟩,
  -- TRL.RSI
  ⟨0x50104, 16, 8, 1, 0, [⟨0, 16, .rw, .A, 0⟩, ⟨16, 1, .rw, .A, 0⟩]⟩]
/-- The registers of the TRL part of BAR0. -/
def regTabTRL : List RegDef := regTabTRL0
def regTabHRM0 : List RegDef := [
  -- HRM.CTRL
  ⟨0x60000, 1, 0, 1, 0, [⟨0, 1, .rw, .S, 1⟩, ⟨1, 1, .rw, .S, 1⟩, ⟨2, 1, .rw, .A, 0⟩]⟩,
  -- HRM.CAP
  ⟨0x60004, 1, 0, 1, 0, [⟨0, 17, .ro, .V, 0⟩]⟩,
  -- HRM.BSTORE
  ⟨0x60008, 1, 0, 1, 0, [⟨0, 9, .rw, .S, 0⟩, ⟨16, 7, .rw, .S, 0⟩]⟩,
  -- HRM.CROP_BASE
  ⟨0x6000C, 1, 0, 1, 0, [⟨0, 17, .rw, .A, 0⟩]⟩,
  -- HRM.CROP_SIZE
  ⟨0x60010, 1, 0, 1, 0, [⟨0, 17, .rw, .A, 0⟩]⟩,
  -- HRM.SCRUB
  ⟨0x60014, 1, 0, 1, 0, [⟨0, 16, .ro, .V, 0⟩, ⟨16, 1, .w1c, .S, 0⟩]⟩,
  -- HRM.ERR_ADDR
  ⟨0x60018, 1, 0, 1, 0, [⟨0, 32, .ro, .S, 0⟩]⟩,
  -- HRM.ERR_INFO
  ⟨0x6001C, 1, 0, 1, 0, [⟨0, 16, .ro, .S, 0⟩, ⟨16, 2, .ro, .S, 0⟩, ⟨18, 3, .ro, .S, 0⟩, ⟨31, 1, .w1c, .S, 0⟩]⟩,
  -- HRM.CH_CFG
  ⟨0x60040, 1, 0, 4, 16, [⟨0, 2, .ro, .F, 0⟩, ⟨2, 2, .ro, .F, 0⟩, ⟨4, 3, .ro, .F, 0⟩]⟩,
  -- HRM.CH_STATUS
  ⟨0x60044, 1, 0, 4, 16, [⟨0, 3, .ro, .V, 0⟩, ⟨4, 3, .ro, .S, 0⟩, ⟨8, 1, .w1s, .V, 0⟩]⟩,
  -- HRM.CH_ERR
  ⟨0x60048, 1, 0, 4, 16, [⟨0, 16, .rc, .S, 0⟩, ⟨16, 16, .rc, .S, 0⟩]⟩]
/-- The registers of the HRM part of BAR0. -/
def regTabHRM : List RegDef := regTabHRM0
def regTabVRD0 : List RegDef := [
  -- VRD.REC_V
  ⟨0x70004, 4, 256, 1, 0, [⟨0, 8, .rw, .A, 0⟩, ⟨8, 2, .rw, .A, 0⟩, ⟨10, 1, .rw, .A, 0⟩, ⟨11, 1, .rw, .A, 0⟩, ⟨16, 16, .rw, .A, 0⟩]⟩,
  -- VRD.CROP_V
  ⟨0x70008, 4, 256, 1, 0, [⟨0, 9, .rw, .A, 0⟩, ⟨9, 9, .rw, .A, 0⟩, ⟨18, 8, .rw, .A, 0⟩]⟩,
  -- VRD.CROP_OFS_V
  ⟨0x7000C, 4, 256, 1, 0, [⟨0, 16, .rw, .A, 0⟩, ⟨16, 16, .rw, .A, 0⟩]⟩,
  -- VRD.TAP_V
  ⟨0x70010, 4, 256, 1, 0, [⟨0, 1, .rw, .A, 0⟩, ⟨8, 4, .rw, .A, 0⟩, ⟨16, 16, .rw, .A, 0⟩]⟩,
  -- VRD.CMAP_ADDR
  ⟨0x70400, 1, 0, 1, 0, [⟨0, 9, .rw, .V, 0⟩, ⟨9, 2, .rw, .V, 0⟩, ⟨31, 1, .rw, .V, 0⟩]⟩,
  -- VRD.CMAP_DATA
  ⟨0x70404, 1, 0, 1, 0, [⟨0, 32, .rw, .A, 0⟩]⟩,
  -- VRD.RB_DROP
  ⟨0x78004, 1, 0, 1, 0, [⟨0, 16, .rc, .S, 0⟩, ⟨16, 16, .rc, .S, 0⟩]⟩,
  -- VRD.STAT_SEL
  ⟨0x78010, 1, 0, 1, 0, [⟨0, 8, .rw, .V, 0⟩, ⟨8, 3, .rw, .V, 0⟩, ⟨11, 2, .rw, .V, 0⟩]⟩,
  -- VRD.STAT_DATA
  ⟨0x78014, 1, 0, 1, 0, [⟨0, 32, .ro, .V, 0⟩]⟩]
/-- The registers of the VRD part of BAR0. -/
def regTabVRD : List RegDef := regTabVRD0
def regTabTER0 : List RegDef := [
  -- TER.ROW_STATUS
  ⟨0x0, 1, 0, 1, 0, [⟨0, 9, .ro, .F, 0⟩, ⟨16, 9, .w1s, .S, 0⟩]⟩,
  -- TER.ROW_MAP_V
  ⟨0x10, 4, 4, 1, 0, [⟨0, 4, .rw, .A, 0⟩, ⟨4, 4, .rw, .A, 1⟩, ⟨8, 4, .rw, .A, 2⟩, ⟨12, 4, .rw, .A, 3⟩, ⟨16, 4, .rw, .A, 4⟩, ⟨20, 4, .rw, .A, 5⟩, ⟨24, 4, .rw, .A, 6⟩, ⟨28, 4, .rw, .A, 7⟩]⟩,
  -- TER.FAULT_LOC
  ⟨0x40, 1, 0, 1, 0, [⟨0, 16, .ro, .S, 0⟩, ⟨16, 4, .ro, .S, 0⟩, ⟨20, 3, .ro, .S, 0⟩, ⟨24, 4, .ro, .S, 0⟩, ⟨28, 2, .ro, .S, 0⟩, ⟨31, 1, .w1c, .S, 0⟩]⟩,
  -- TER.FAULT_BAND
  ⟨0x44, 1, 0, 1, 0, [⟨0, 6, .ro, .S, 0⟩, ⟨8, 24, .ro, .S, 0⟩]⟩,
  -- TER.FAULT_COUNT
  ⟨0x48, 1, 0, 1, 0, [⟨0, 32, .rc, .S, 0⟩]⟩,
  -- TER.FAULT_AUX
  ⟨0x4C, 1, 0, 1, 0, [⟨0, 3, .ro, .S, 0⟩, ⟨4, 4, .ro, .S, 0⟩, ⟨8, 2, .ro, .S, 0⟩, ⟨10, 2, .ro, .S, 0⟩]⟩,
  -- TER.UNT_ADDR
  ⟨0x80, 1, 0, 1, 0, [⟨0, 14, .rw, .V, 0⟩, ⟨31, 1, .rw, .V, 0⟩]⟩,
  -- TER.UNT_DATA
  ⟨0x84, 1, 0, 1, 0, [⟨0, 32, .rw, .A, 0⟩]⟩,
  -- TER.LDG_SEL
  ⟨0x88, 1, 0, 1, 0, [⟨0, 4, .rw, .V, 0⟩, ⟨4, 5, .rw, .V, 0⟩, ⟨9, 2, .rw, .V, 0⟩]⟩,
  -- TER.LDG_OBS
  ⟨0x8C, 1, 0, 1, 0, [⟨0, 24, .ro, .V, 0⟩, ⟨24, 8, .ro, .V, 0⟩]⟩,
  -- TER.LDG_STATUS
  ⟨0x90, 1, 0, 1, 0, [⟨0, 16, .rc, .S, 0⟩, ⟨16, 16, .ro, .V, 0⟩]⟩,
  -- TER.LC_TREE_V
  ⟨0xA0, 4, 4, 1, 0, [⟨0, 3, .rw, .A, 0⟩, ⟨8, 3, .rw, .A, 0⟩, ⟨16, 3, .rw, .A, 0⟩, ⟨24, 3, .rw, .A, 0⟩, ⟨4, 1, .rw, .A, 0⟩, ⟨12, 1, .rw, .A, 0⟩, ⟨20, 1, .rw, .A, 0⟩, ⟨28, 1, .rw, .A, 0⟩]⟩,
  -- TER.ROW_ECC
  ⟨0xC0, 9, 4, 1, 0, [⟨0, 16, .rc, .S, 0⟩, ⟨16, 8, .ro, .S, 0⟩, ⟨24, 8, .rc, .S, 0⟩]⟩]
/-- The registers of the TER part of BAR0. -/
def regTabTER : List RegDef := regTabTER0
def regTabHDR0 : List RegDef := [
  -- MX.SEQ_CTRL
  ⟨0x0, 1, 0, 1, 0, [⟨0, 4, .rw, .A, 0⟩]⟩,
  -- MX.SEQ_STATUS
  ⟨0x4, 1, 0, 1, 0, [⟨0, 6, .ro, .V, 0⟩, ⟨8, 2, .ro, .V, 0⟩, ⟨10, 3, .ro, .V, 0⟩, ⟨16, 4, .ro, .V, 0⟩, ⟨20, 2, .ro, .V, 0⟩]⟩,
  -- MX.SEQ_CTR01
  ⟨0x8, 1, 0, 1, 0, [⟨0, 16, .ro, .V, 0⟩, ⟨16, 16, .ro, .V, 0⟩]⟩,
  -- MX.SEQ_CTR23
  ⟨0xC, 1, 0, 1, 0, [⟨0, 16, .ro, .V, 0⟩, ⟨16, 16, .ro, .V, 0⟩]⟩,
  -- MX.PARAM_ADDR
  ⟨0x10, 1, 0, 1, 0, [⟨0, 10, .rw, .V, 0⟩, ⟨31, 1, .rw, .V, 0⟩]⟩,
  -- MX.PARAM_DATA
  ⟨0x14, 1, 0, 1, 0, [⟨0, 32, .rw, .A, 0⟩]⟩,
  -- MX.DELAY_PAD_V
  ⟨0x18, 4, 4, 1, 0, [⟨0, 3, .rw, .A, 0⟩, ⟨3, 3, .rw, .A, 0⟩, ⟨6, 3, .rw, .A, 0⟩, ⟨9, 3, .rw, .A, 0⟩, ⟨12, 3, .rw, .A, 0⟩]⟩,
  -- MX.FAULT
  ⟨0x28, 1, 0, 1, 0, [⟨0, 16, .ro, .S, 0⟩, ⟨16, 6, .ro, .S, 0⟩, ⟨22, 2, .ro, .S, 0⟩, ⟨31, 1, .w1c, .S, 0⟩]⟩,
  -- MX.STALL_CNT
  ⟨0x2C, 1, 0, 1, 0, [⟨0, 32, .rc, .V, 0⟩]⟩]
/-- The registers of the HDR part of BAR0. -/
def regTabHDR : List RegDef := regTabHDR0
def regTabMX0 : List RegDef := [
  -- MX.FBIN
  ⟨0x40, 1, 0, 1, 0, [⟨0, 5, .ro, .F, 0⟩]⟩,
  -- MX.SAT_CNT
  ⟨0x44, 1, 0, 1, 0, [⟨0, 32, .rc, .V, 0⟩]⟩,
  -- MX.GAIN
  ⟨0x48, 1, 0, 1, 0, [⟨0, 16, .ro, .V, 16384⟩, ⟨16, 4, .ro, .V, 0⟩, ⟨20, 1, .ro, .V, 0⟩]⟩,
  -- MX.TAG_LOG
  ⟨0x4C, 1, 0, 1, 0, [⟨0, 4, .ro, .S, 0⟩, ⟨4, 4, .ro, .S, 0⟩, ⟨8, 4, .ro, .S, 0⟩, ⟨12, 3, .ro, .S, 0⟩, ⟨15, 4, .ro, .S, 0⟩, ⟨19, 1, .ro, .S, 0⟩, ⟨31, 1, .w1c, .S, 0⟩]⟩]
/-- The registers of the MX part of BAR0. -/
def regTabMX : List RegDef := regTabMX0
def regTabMM0 : List RegDef := [
  -- MM.CASK_SEL
  ⟨0x40, 1, 0, 1, 0, [⟨0, 4, .rw, .V, 0⟩]⟩,
  -- MM.CASK_DESC0
  ⟨0x44, 1, 0, 1, 0, [⟨0, 15, .rw, .A, 0⟩, ⟨16, 15, .rw, .A, 0⟩, ⟨31, 1, .rw, .A, 0⟩]⟩,
  -- MM.CASK_DESC1
  ⟨0x48, 1, 0, 1, 0, [⟨0, 3, .rw, .A, 0⟩, ⟨3, 1, .rw, .A, 0⟩, ⟨4, 4, .rw, .A, 0⟩, ⟨8, 12, .rw, .A, 0⟩, ⟨20, 12, .rw, .A, 0⟩]⟩,
  -- MM.CASK_COUNT
  ⟨0x4C, 1, 0, 1, 0, [⟨0, 15, .ro, .V, 0⟩, ⟨16, 1, .ro, .V, 0⟩, ⟨17, 1, .ro, .V, 0⟩]⟩,
  -- MM.CASK_HWM
  ⟨0x50, 1, 0, 1, 0, [⟨0, 15, .rc, .V, 0⟩]⟩,
  -- MM.CASK_SPILL
  ⟨0x54, 1, 0, 1, 0, [⟨0, 24, .ro, .V, 0⟩]⟩,
  -- MM.CASK_FAULT
  ⟨0x58, 1, 0, 1, 0, [⟨0, 16, .ro, .S, 0⟩, ⟨16, 4, .ro, .S, 0⟩, ⟨31, 1, .w1c, .S, 0⟩]⟩,
  -- MM.CASK_PERR
  ⟨0x5C, 1, 0, 1, 0, [⟨0, 32, .rc, .S, 0⟩]⟩]
/-- The registers of the MM part of BAR0. -/
def regTabMM : List RegDef := regTabMM0
def regTabSF0 : List RegDef := [
  -- SF.PTAB_ADDR
  ⟨0x40, 1, 0, 1, 0, [⟨0, 11, .rw, .V, 0⟩, ⟨31, 1, .rw, .V, 0⟩]⟩,
  -- SF.PTAB_DATA
  ⟨0x44, 1, 0, 1, 0, [⟨0, 32, .rw, .A, 0⟩]⟩,
  -- SF.SAT_CNT
  ⟨0x48, 1, 0, 1, 0, [⟨0, 32, .rc, .V, 0⟩]⟩,
  -- SF.COLL_SEL
  ⟨0x4C, 1, 0, 1, 0, [⟨0, 5, .rw, .V, 0⟩]⟩,
  -- SF.COLL_DATA
  ⟨0x50, 1, 0, 1, 0, [⟨0, 15, .ro, .V, 0⟩, ⟨16, 16, .ro, .V, 0⟩]⟩,
  -- SF.GAIN
  ⟨0x54, 1, 0, 1, 0, [⟨0, 16, .ro, .V, 16384⟩, ⟨16, 4, .ro, .V, 0⟩]⟩,
  -- SF.TAG_LOG
  ⟨0x58, 1, 0, 1, 0, [⟨0, 4, .ro, .S, 0⟩, ⟨4, 4, .ro, .S, 0⟩, ⟨8, 4, .ro, .S, 0⟩, ⟨12, 3, .ro, .S, 0⟩, ⟨15, 4, .ro, .S, 0⟩, ⟨19, 1, .ro, .S, 0⟩, ⟨20, 1, .ro, .S, 0⟩, ⟨31, 1, .w1c, .S, 0⟩]⟩,
  -- SF.ADAPT_LAST
  ⟨0x5C, 1, 0, 1, 0, [⟨0, 15, .ro, .V, 0⟩, ⟨16, 1, .ro, .V, 0⟩, ⟨17, 1, .ro, .V, 0⟩]⟩]
/-- The registers of the SF part of BAR0. -/
def regTabSF : List RegDef := regTabSF0
def regTabRK0 : List RegDef := [
  -- RK.UNIT_STATUS
  ⟨0x40, 1, 0, 1, 0, [⟨0, 1, .ro, .V, 0⟩, ⟨2, 1, .ro, .V, 0⟩, ⟨4, 1, .ro, .V, 0⟩, ⟨6, 1, .ro, .V, 0⟩, ⟨1, 1, .ro, .V, 0⟩, ⟨3, 1, .ro, .V, 0⟩, ⟨5, 1, .ro, .V, 0⟩, ⟨7, 1, .ro, .V, 0⟩]⟩,
  -- RK.WAIT_CNT
  ⟨0x44, 1, 0, 1, 0, [⟨0, 32, .rc, .V, 0⟩]⟩,
  -- RK.SKEW_LOG
  ⟨0x48, 1, 0, 1, 0, [⟨0, 2, .ro, .S, 0⟩, ⟨16, 15, .ro, .S, 0⟩, ⟨31, 1, .w1c, .S, 0⟩]⟩]
/-- The registers of the RK part of BAR0. -/
def regTabRK : List RegDef := regTabRK0
def regTabIO0 : List RegDef := [
  -- IO.BRIDGE_STATUS
  ⟨0x40, 1, 0, 1, 0, [⟨0, 1, .ro, .V, 0⟩, ⟨8, 8, .rc, .S, 0⟩, ⟨16, 8, .rc, .S, 0⟩]⟩]
/-- The registers of the IO part of BAR0. -/
def regTabIO : List RegDef := regTabIO0
def regTabSP0 : List RegDef := [
  -- SP.FRAME
  ⟨0x0, 1, 0, 1, 0, [⟨0, 8, .rw, .A, 0⟩, ⟨8, 8, .rw, .A, 0⟩, ⟨16, 8, .rw, .A, 0⟩, ⟨24, 8, .rw, .A, 0⟩]⟩,
  -- SP.SLOT_ADDR
  ⟨0x4, 1, 0, 1, 0, [⟨0, 2, .rw, .V, 0⟩, ⟨2, 8, .rw, .V, 0⟩, ⟨10, 2, .rw, .V, 0⟩, ⟨31, 1, .rw, .V, 0⟩]⟩,
  -- SP.SLOT_DATA
  ⟨0x8, 1, 0, 1, 0, [⟨0, 32, .rw, .A, 0⟩]⟩,
  -- SP.STATUS
  ⟨0xC, 1, 0, 1, 0, [⟨0, 8, .ro, .V, 0⟩, ⟨8, 2, .ro, .V, 0⟩]⟩]
/-- The registers of the SP part of BAR0. -/
def regTabSP : List RegDef := regTabSP0
def regTabLC0 : List RegDef := [
  -- LC.STATUS
  ⟨0x0, 1, 0, 1, 0, [⟨0, 2, .ro, .V, 0⟩, ⟨2, 2, .ro, .V, 0⟩, ⟨16, 8, .rc, .S, 0⟩]⟩,
  -- LC.IND_ADDR
  ⟨0x4, 1, 0, 1, 0, [⟨0, 14, .rw, .V, 0⟩, ⟨16, 1, .rw, .V, 0⟩, ⟨17, 2, .rw, .V, 0⟩, ⟨31, 1, .rw, .V, 0⟩]⟩,
  -- LC.IND_DATA
  ⟨0x8, 1, 0, 1, 0, [⟨0, 32, .rw, .A, 0⟩]⟩]
/-- The registers of the LC part of BAR0. -/
def regTabLC : List RegDef := regTabLC0

/-! ## Windows (R38, R39, R41, R42) -/

/-- The register window of tile `k` of a Row (Table 2.1). -/
def tileOfs (k : Nat) : Nat :=
  if k < 16 then k * 0x100 else if k < 24 then 0x1000 + (k - 16) * 0x100
  else if k < 28 then 0x1800 + (k - 24) * 0x100 else 0x1C00 + (k - 28) * 0x100

/-- BAR0 base of a Row window (R39). -/
def rowBase (t row : Nat) : Nat := 0x80000 + t * 0x20000 + 0x2000 + row * 0x3000
/-- BAR0 base of a tile window (R41). -/
def tileBase (t row k : Nat) : Nat := rowBase t row + tileOfs k
/-- BAR0 base of IO tile `i` (R42). -/
def ioBase (t i : Nat) : Nat := 0x80000 + t * 0x20000 + 0x1000 + i * 0x100
/-- BAR0 base of the logic-cell window of a Row (Table 2.1). -/
def lcBase (t row : Nat) : Nat := rowBase t row + 0x2500
/-- BAR0 base of a switch point (R42, Table 2.1). -/
def pointBase : PointRef → Nat
  | .row t r j => rowBase t r + 0x1E00 + j * 0x80
  | .bridge t j => 0x80000 + t * 0x20000 + 0x1800 + j * 0x80

/-- Does a register definition hold window offset `o`? -/
def RegDef.has (d : RegDef) (o : Nat) : Bool :=
  d.base ≤ o &&
  (let r := o - d.base
   if d.n2 > 1 then
     let q := r / d.s2
     let m := r % d.s2
     q < d.n2 && (if d.n1 > 1 then m % d.s1 == 0 && m / d.s1 < d.n1 else m == 0)
   else if d.n1 > 1 then r % d.s1 == 0 && r / d.s1 < d.n1 else r == 0)

/-- The first definition that holds an offset. -/
def findReg : List RegDef → Nat → Option RegDef
  | [], _ => none
  | d :: ds, o => if d.has o then some d else findReg ds o

/-- What stands at a BAR0 offset. -/
inductive Place where
  /-- Outside every block (R314). -/
  | unmapped
  /-- A mapped offset without a register (R10). -/
  | empty
  | hub
  | ter (n o : Nat)
  | tile (t row k o : Nat)
  | point (p : PointRef) (o : Nat)
  | io (t i o : Nat)
  | lc (t row o : Nat)
deriving DecidableEq, Repr

/-- Is a BAR0 offset inside a block below the TERn windows? (Table 1.7) -/
def inHubBlocks (o : Nat) : Bool := o < 0x80000

/-- Which window an offset of a Row window lies in (Table 2.1). -/
def rowPlace (t : Fin 4) (row : Fin 9) (o : Nat) : Place :=
  if o < 0x1000 then .tile t row (o / 0x100) (o % 0x100)
  else if o < 0x1800 then .tile t row (16 + (o - 0x1000) / 0x100) (o % 0x100)
  else if o < 0x1C00 then .tile t row (24 + (o - 0x1800) / 0x100) (o % 0x100)
  else if o < 0x1E00 then .tile t row (28 + (o - 0x1C00) / 0x100) (o % 0x100)
  else if o < 0x2480 then
    .point (.row t row (Fin.ofNat 13 ((o - 0x1E00) / 0x80))) ((o - 0x1E00) % 0x80)
  else if o < 0x2500 then .empty
  else .lc t row (o - 0x2500)

/-- Where a BAR0 offset lies, before the Row map of good Rows is looked at (R38, R39, R42). -/
def placeOf (o : Nat) : Place :=
  if inHubBlocks o then .hub
  else if o < 0x100000 then
    let t : Fin 4 := Fin.ofNat 4 ((o - 0x80000) / 0x20000)
    let r := (o - 0x80000) % 0x20000
    if r < 0x1000 then .ter t r
    else if r < 0x1800 then .io t ((r - 0x1000) / 0x100) ((r - 0x1000) % 0x100)
    else if r < 0x1980 then .point (.bridge t (Fin.ofNat 3 ((r - 0x1800) / 0x80))) ((r - 0x1800) % 0x80)
    else if r < 0x2000 then .empty
    else if r < 0x1D000 then rowPlace t (Fin.ofNat 9 ((r - 0x2000) / 0x3000)) ((r - 0x2000) % 0x3000)
    else .empty
  else .unmapped

/-- The registers of the blocks below the TERn windows (Table 1.7). -/
def hubReg (o : Nat) : Option RegDef :=
  if o < 0x8000 then findReg regTabHUB o
  else if o < 0x10000 then findReg regTabPCI o
  else if o < 0x20000 then findReg regTabSTR o
  else if o < 0x30000 then findReg regTabING o
  else if o < 0x40000 then findReg regTabPWR o
  else if o < 0x50000 then findReg regTabSEC o
  else if o < 0x60000 then findReg regTabTRL o
  else if o < 0x70000 then findReg regTabHRM o
  else findReg regTabVRD o

/-- The registers of a tile window: the common header, then those of its kind (R41). -/
def tileReg (k o : Nat) : Option RegDef :=
  if o < 0x40 then findReg regTabHDR o
  else if k < 16 then findReg regTabMX o
  else if k < 24 then findReg regTabMM o
  else if k < 28 then findReg regTabSF o
  else findReg regTabRK o

/-- The register definition at a BAR0 offset. -/
def regAt (o : Nat) : Option RegDef :=
  match placeOf o with
  | .unmapped => none
  | .empty => none
  | .hub => hubReg o
  | .ter _ r => findReg regTabTER r
  | .tile _ _ k r => tileReg k r
  | .point _ r => findReg regTabSP r
  | .io _ _ r => if r = 0x18 ∨ r = 0x1C ∨ r = 0x20 ∨ r = 0x24 then findReg regTabHDR r else findReg regTabIO r
  | .lc _ _ r => findReg regTabLC r

/-- The mask of a field. -/
def FieldDef.mask (f : FieldDef) : Word := BitVec.ofNat 32 ((2 ^ f.w - 1) <<< f.lo)
/-- The mask of the fields of a register that satisfy `p`. -/
def maskWhere (p : FieldDef → Bool) : List FieldDef → Word
  | [] => 0
  | f :: fs => (if p f then f.mask else 0) ||| maskWhere p fs
/-- The reset word of a field list. -/
def resetWord : List FieldDef → Word
  | [] => 0
  | f :: fs => (BitVec.ofNat 32 (f.rst <<< f.lo)) ||| resetWord fs

/-- What the register at a BAR0 offset holds after a cold reset (R11); offsets without a register read 0 (R10). -/
def regDefault (o : Nat) : Word :=
  match regAt o with
  | some d => resetWord d.fields
  | none => 0

/-- The bits of a register that belong to a persistence class for which `p` holds. -/
def clsMask (p : Cls → Bool) (o : Nat) : Word :=
  match regAt o with
  | some d => maskWhere (fun f => p f.cls) d.fields
  | none => 0

/-- The bits of a register with an access code for which `p` holds. -/
def accMask (p : Acc → Bool) (o : Nat) : Word :=
  match regAt o with
  | some d => maskWhere (fun f => p f.acc) d.fields
  | none => 0

/-! ## Stored registers and their fields -/

/-- The stored value of a register. -/
def State.reg (s : State) (o : Nat) : Word := sget regDefault s.regs o
/-- Store a register. -/
def State.setReg (s : State) (o : Nat) (v : Word) : State := { s with regs := sset regDefault s.regs o v }

/-- Bits of a field in place. -/
def Fld.mask (f : Fld) : Word := BitVec.ofNat 32 ((2 ^ f.w - 1) <<< f.lo)
/-- Read a field of a word. -/
def Fld.of (f : Fld) (x : Word) : Nat := bitsN x.toNat f.lo f.w
/-- Write a field of a word. -/
def Fld.put (f : Fld) (x : Word) (v : Nat) : Word :=
  (x &&& ~~~ f.mask) ||| BitVec.ofNat 32 ((v % 2 ^ f.w) <<< f.lo)

/-- Read a stored field. -/
def State.fget (s : State) (f : Fld) : Nat := f.of (s.reg f.off)
/-- Write a stored field. -/
def State.fset (s : State) (f : Fld) (v : Nat) : State := s.setReg f.off (f.put (s.reg f.off) v)
/-- Is a one-bit field set? -/
def State.fbit (s : State) (f : Fld) : Bool := s.fget f == 1
/-- Read a field as a signed number. -/
def State.fgetS (s : State) (f : Fld) : Int := signed f.w (s.fget f)
/-- Add to a counting field that saturates at its width (R8). -/
def State.fcount (s : State) (f : Fld) (n : Nat) : State := s.fset f (satAdd f.w (s.fget f) n)

end Sys2Proof.Machine
end

