-- ==== Sys2Proof/Machine/Rs.lean ====
section
/-!
DEFINITION. Machine/Rs.lean: the Reed–Solomon code of HyperRAM blocks (R340) and of on-chip codewords (R437). The code is
linear and every stored word is a codeword, so the syndromes of a read are those of the error pattern alone; the pattern
is what the store keeps.
-/
namespace Sys2Proof.Machine

/-- Multiply by x in GF(2^8) with x^8 + x^4 + x^3 + x^2 + 1 (R340). -/
def gfX (a : Nat) : Nat := if a < 128 then 2 * a else Nat.xor (2 * a) 0x11D

/-- Multiply by the low `n` bits of `b`, Horner from the top bit. -/
def gfMulN : Nat → Nat → Nat → Nat
  | 0, _, _ => 0
  | n + 1, a, b => Nat.xor (if b % 2 = 1 then a else 0) (gfMulN n (gfX a) (b / 2))

/-- Product in GF(2^8). -/
def gfMul (a b : Nat) : Nat := gfMulN 8 a b

/-- α^p with α = 0x02. -/
def gfPow : Nat → Nat
  | 0 => 1
  | p + 1 => gfX (gfPow p)

/-- Evaluate the polynomial whose highest coefficient is the first of `n` symbols of `pat` (byte 0 lowest) at `x`. -/
def synd (x : Nat) : Nat → Nat → Nat → Nat
  | 0, _, acc => acc
  | n + 1, pat, acc => synd x n (pat / 256) (Nat.xor (gfMul acc x) (pat % 256))

/-- What a decode of an error pattern finds: good, corrected, or uncorrectable; `res` is the pattern left in the data
delivered. -/
inductive RsOut where
  | good (res : Nat)
  | corrected (res : Nat)
  | bad
deriving DecidableEq, Repr

/-- The exponent `p < n` with S1 = S0 · α^p. -/
def findPos (s0 s1 : Nat) : Nat → Option Nat
  | 0 => none
  | n + 1 => if gfMul s0 (gfPow n) = s1 then some n else findPos s0 s1 n

/-- Decode a pattern of an `n`-byte codeword (R340).
(DESIGN CHOICE, log 159) -/
def rsDecode (n pat : Nat) : RsOut :=
  let s0 := synd 1 n pat 0
  let s1 := synd 2 n pat 0
  let s2 := synd 4 n pat 0
  if s0 = 0 ∧ s1 = 0 ∧ s2 = 0 then .good pat
  else if s0 ≠ 0 ∧ gfMul s1 s1 = gfMul s0 s2 then
    match findPos s0 s1 n with
    | some p => .corrected (Nat.xor pat (s0 <<< (8 * (n - 1 - p))))
    | none => .bad
  else .bad

/-! ## The code of Trellis frames (13 R355) -/

/-- The inverse of a nonzero element: its 254th power. -/
def gfInv (a : Nat) : Nat := (List.range 253).foldl (fun acc _ => gfMul acc a) a

/-- Does the error pattern with values `es` at exponents `ps` give the syndromes `ss` at 1, α, α^2, α^3? -/
def frameErrs (ss : List Nat) (es : List (Nat × Nat)) : Bool :=
  (List.range 4).all fun j =>
    es.foldl (fun acc e => Nat.xor acc (gfMul e.1 (gfPow (j * e.2)))) 0 == nth 0 ss j

/-- The pattern of errors as a number, symbol 0 (coefficient of x^63) lowest. -/
def framePat (es : List (Nat × Nat)) : Nat := es.foldl (fun acc e => Nat.xor acc (e.1 <<< (8 * (63 - e.2)))) 0

/-- Two errors at exponents p and q that fit the first two syndromes. -/
def frameTwo (s0 s1 : Nat) (p q : Nat) : List (Nat × Nat) :=
  let a := gfPow p
  let b := gfPow q
  let e2 := gfMul (Nat.xor s1 (gfMul s0 a)) (gfInv (Nat.xor a b))
  [(Nat.xor s0 e2, p), (e2, q)]

/-- Decode the error pattern of one of a frame's codewords: up to two symbol errors are corrected. -/
def frameDecode (pat : Nat) : RsOut :=
  let ss := (List.range 4).map fun j => synd (gfPow j) 64 pat 0
  if ss.all (· == 0) then .good pat
  else
    let s0 := nth 0 ss 0
    let s1 := nth 0 ss 1
    match (List.range 64).find? fun p => frameErrs ss [(s0, p)] with
    | some p => .corrected (Nat.xor pat (framePat [(s0, p)]))
    | none =>
      match (List.range 64).findSome? fun p => (List.range p).findSome? fun q =>
          let es := frameTwo s0 s1 p q
          if frameErrs ss es then some es else none with
      | some es => .corrected (Nat.xor pat (framePat es))
      | none => .bad

/-- Coefficients, highest first, of (x + 1)(x + α)(x + α^2)(x + α^3). -/
def frameGen : List Nat :=
  (List.range 4).foldl (fun c j =>
    (List.range (c.length + 1)).map fun i =>
      Nat.xor (if i < c.length then nth 0 c i else 0) (if i = 0 then 0 else gfMul (nth 0 c (i - 1)) (gfPow j))) [1]
/-- The four check symbols of a codeword from its other symbols, highest coefficient first: the remainder of the division by the generator. -/
def frameCheck (sym : List Nat) : List Nat :=
  sym.foldl (fun st x =>
    let fb := Nat.xor x (nth 0 st 0)
    (List.range 4).map fun i => Nat.xor (if i < 3 then nth 0 st (i + 1) else 0) (gfMul fb (nth 0 frameGen (i + 1)))) [0, 0, 0, 0]

end Sys2Proof.Machine
end

