-- ==== Sys2Proof/Machine/Ops.lean ====
section
/-!
DEFINITION. Machine/Ops.lean: the named operations over registers, indirect words, memories, tiles and error logs that
every meaning is built from.
-/
namespace Sys2Proof.Machine

/-! ## Open values -/

/-- Take the next open value below `n` (Config.freeNat).
(DESIGN CHOICE, log 5) -/
def State.freshBelow (s : State) (n : Nat) : Nat × State :=
  (Config.freeNat s.free % n, { s with free := s.free + 1 })

/-! ## Indirect words: spaces reached through an address and a data register -/

/-- The spaces of indirect words. -/
inductive Space where
  | param | ptab | slot | unit | lcCfg | probe | cmap | prog | desc | cycle
deriving DecidableEq, Repr

/-- The number of a space. -/
def Space.num : Space → Nat
  | .param => 0 | .ptab => 1 | .slot => 2 | .unit => 3 | .lcCfg => 4 | .probe => 5 | .cmap => 6 | .prog => 7 | .desc => 8
  | .cycle => 9

/-- The key of word `i` of unit `u` of a space. -/
def wordKey (sp : Space) (u i : Nat) : Nat := sp.num * 2 ^ 32 + u * 2 ^ 16 + i

/-- Read an indirect word. -/
def State.word (s : State) (sp : Space) (u i : Nat) : Word := sget zeroW s.words (wordKey sp u i)
/-- Write an indirect word. -/
def State.setWord (s : State) (sp : Space) (u i : Nat) (v : Word) : State :=
  { s with words := sset zeroW s.words (wordKey sp u i) v }

/-- Tile number 30·(9t + row) + k. -/
def tileKey (r : TileRef) : Nat := (r.t * 9 + r.row) * 30 + r.k
/-- Cask number 128·(9t + row) + 16m + c. -/
def caskKey (c : CaskRef) : Nat := (c.t * 9 + c.row) * 128 + c.m * 16 + c.c
/-- Switch-point number 120t + 13row + j, bridge points last. -/
def pointKey : PointRef → Nat
  | .row t r j => t * 120 + r * 13 + j
  | .bridge t j => t * 120 + 117 + j
/-- The kind of a tile number of R185. -/
def kindOf (k : Nat) : TileKind := if k < 16 then .mx else if k < 24 then .mm else if k < 28 then .sf else .rk
/-- The index of a tile within its kind. -/
def idxOf (k : Nat) : Nat := if k < 16 then k else if k < 24 then k - 16 else if k < 28 then k - 24 else k - 28
/-- Register window base of a tile. -/
def tb (r : TileRef) : Nat := tileBase r.t r.row r.k

/-- Read a tile's dynamic state. -/
def State.tile (s : State) (r : TileRef) : TileSt := sget (fun _ => TileSt.init) s.arr.tiles (tileKey r)
/-- Write a tile's dynamic state. -/
def State.setTile (s : State) (r : TileRef) (v : TileSt) : State :=
  { s with arr := { s.arr with tiles := sset (fun _ => TileSt.init) s.arr.tiles (tileKey r) v } }
/-- The tile of a tile number. -/
def tileOfKey (n : Nat) : TileRef := ⟨Fin.ofNat 4 (n / 270), Fin.ofNat 9 (n / 30), Fin.ofNat 30 n⟩
/-- Read a cask's state. -/
def State.cask (s : State) (c : CaskRef) : CaskSt := sget (fun _ => CaskSt.init) s.arr.casks (caskKey c)
/-- Write a cask's state. -/
def State.setCask (s : State) (c : CaskRef) (v : CaskSt) : State :=
  { s with arr := { s.arr with casks := sset (fun _ => CaskSt.init) s.arr.casks (caskKey c) v } }
/-- Update the array part. -/
def State.mapArr (s : State) (f : ArraySt → ArraySt) : State := { s with arr := f s.arr }
/-- Update the job part. -/
def State.mapJob (s : State) (f : JobSt → JobSt) : State := { s with job := f s.job }

/-! ## The active Vintage and the part -/

/-- The active Vintage (HUB.VNT_STATUS.active). -/
def State.activeV (s : State) : Nat := s.fget F.HUB_VNT_STATUS_active
/-- Is Vintage `v` placed? -/
def State.isPlaced (s : State) (v : Nat) : Bool := bitN (s.fget F.HUB_VNT_STATUS_placed) v
/-- Is Vintage `v` compiled for Elastic execution? -/
def State.isElastic (s : State) (v : Nat) : Bool := bitN (s.fget F.HUB_VNT_STATUS_elastic) v
/-- Does the active Vintage run in Elastic mode? (R173) -/
def State.elastic (s : State) : Bool := s.isElastic s.activeV
/-- Does a tile serve Vintage `v`? -/
def State.usesTile (s : State) (r : TileRef) (v : Nat) : Bool := bitN (s.fget (F.MX_SEQ_CTRL_use_v (tb r))) v
/-- Set or clear one bit of a field. -/
def State.fsetBit (s : State) (f : Fld) (i : Nat) (b : Bool) : State :=
  let x := s.fget f
  s.fset f (if b then Nat.lor x (2 ^ i) else x - (if bitN x i then 2 ^ i else 0))
/-- Does an internal address lie in Terrace memory? -/
def inTerrace (a : Nat) : Bool := 0x40000000 ≤ a && a < 0x80000000
/-- Terrace of a Terrace memory address. -/
def terOf (a : Nat) : Nat := (a - 0x40000000) / 0x10000000
/-- Physical Row of a Terrace memory address. -/
def rowOf (a : Nat) : Nat := (a % 0x10000000) / 0x01000000
/-- Does a Vintage use Row `n` (9·Terrace + physical Row)? -/
def State.vUsesRow (s : State) (n v : Nat) : Bool := (List.range 30).any fun k => s.usesTile (tileOfKey (30 * n + k)) v
/-- Is Row `n` powered in Run and Idle: the active Vintage has a use_v bit in it, a PLACE writes into it (R385), or a switch in hand whose
target uses it has powered it up (R386)? -/
def State.rowDriven (s : State) (n : Nat) : Bool :=
  s.vUsesRow n s.activeV ||
    (match s.hrm.placing with | some p => p.rows.any fun x => 9 * x.1 + x.2.2 == n | none => false) ||
    (match s.sw with | some w => s.pwr.rowsReady && s.vUsesRow n w.target | none => false)
/-- Does Row `n` keep its contents: it is powered, or a placed Vintage uses it (R385)? -/
def State.rowKept (s : State) (n : Nat) : Bool := s.rowDriven n || (List.range 4).any fun v => s.isPlaced v && s.vUsesRow n v
/-- Is Row `n` powered (R385)? In Park no Row is. -/
def State.rowOn (s : State) (n : Nat) : Bool := !s.pwr.park && s.rowDriven n
/-- What Rows without power lose: the bytes of their memories and the words of their tiles' parameter spaces and tables (R385, R383).
(DESIGN CHOICE, log 48) -/
def State.loseRows (s : State) (lost : Nat → Bool) : State :=
  let inRow (a : Nat) : Bool := inTerrace a && lost (9 * terOf a + rowOf a)
  let inKey (k : Nat) : Bool := decide (k / 2 ^ 32 ≤ 1) && lost (k / 2 ^ 16 % 2 ^ 16 / 30)
  let gone (a : Nat) : Bool := if a < 2 ^ 42 then inRow a else inKey (2 * (a - 2 ^ 42))
  { s with mem := s.mem.filter fun x => !inRow x.1, words := s.words.filter fun x => !inKey x.1,
           poison := s.poison.filter fun x => !gone x.1, upset := s.upset.filter fun x => !gone x.1 }
/-- From `s` to `t`: the Rows that kept their contents and do so no longer are off (R385). -/
def State.settleRows (s t : State) : State :=
  let off := (List.range 36).filter fun n => s.rowKept n && !t.rowKept n
  if off.isEmpty then t else t.loseRows fun n => off.contains n
/-- Mark a Vintage unplaced (R472). -/
def State.unplace (s : State) (v : Nat) : State :=
  s.settleRows ((s.fsetBit F.HUB_VNT_STATUS_placed v false).fset (F.HUB_VNT_STATUS_compat v) 0)
/-- Is a Vintage the active one or the target of an armed switch while a job runs? (R188, R472)
(DEDUCED, log 115) -/
def State.vLocked (s : State) (v : Nat) : Bool :=
  s.job.running &&
    (v == s.activeV || (match s.sw with | some w => w.armed && w.target == v | none => false))
/-- Is physical Row `p` of Terrace `t` good? -/
def State.rowGood (s : State) (t p : Nat) : Bool := bitN (nth 0 s.fuse.rowGood t) p

/-! ## Interrupts and first-error captures -/

/-- The vector of bit `k` of HUB.IRQ_STATUS (Table 11.5). -/
def irqVector (k : Nat) : Nat := nth 0 [0, 5, 6, 7, 8, 9] k
/-- Key under which a BAR4 word is stored, above every BAR0 offset. -/
def bar4Key (o : Nat) : Nat := 0x100000 + o
/-- First BAR4 offset of the MSI-X table (Table 11.4).
(PRESUMED, log 113) -/
def msixTab : Nat := 0x8000
/-- What a word of the MSI-X table holds after a reset: every entry is masked. -/
def bar4Def (o : Nat) : Word := if o % 16 = 12 then 1 else 0
/-- Read a word of the MSI-X table. -/
def State.bar4Word (s : State) (o : Nat) : Word := s.reg (bar4Key o) ^^^ bar4Def o
/-- Write a word of the MSI-X table. -/
def State.setBar4 (s : State) (o : Nat) (v : Word) : State := s.setReg (bar4Key o) (v ^^^ bar4Def o)

/-- The message that carries vector `v` with the enables as they stand: with MSI-X, that of table entry v; with MSI for n messages, message
v mod n; none with neither enabled (R321). -/
def State.msgFor (s : State) (v : Nat) : Option IrqMsg :=
  if s.pci.msixEn then
    let e := msixTab + 16 * v
    some ⟨v, (s.bar4Word e).toNat + 2 ^ 32 * (s.bar4Word (e + 4)).toNat, (s.bar4Word (e + 8)).toNat, s.cp.out.length⟩
  else if s.pci.msiEn then
    let n := 2 ^ s.pci.msiLog2
    some ⟨v % n, s.pci.msiAddr, s.pci.msiData / n * n + v % n, s.cp.out.length⟩
  else none
/-- Is the message of vector `v` masked? -/
def State.masked (s : State) (v : Nat) : Bool :=
  if s.pci.msixEn then s.pci.msixMask || (s.bar4Word (msixTab + 16 * v + 12)).getLsbD 0 else bitN s.pci.msiMask (v % 2 ^ s.pci.msiLog2)
/-- Send a message. -/
def State.sendIrq (s : State) (m : IrqMsg) : State := { s with irqOut := s.irqOut ++ [m] }
/-- Set the pending bits. -/
def State.setPend (s : State) (n : Nat) : State := { s with pci := { s.pci with pend := n } }
/-- Raise vector `v` to the host (R321): a masked message stays pending.
(PRESUMED, log 113; DESIGN CHOICE, log 158) -/
def State.raiseVec (s : State) (v : Nat) : State :=
  match s.msgFor v with
  | some m => if s.masked v then s.setPend (Nat.lor s.pci.pend (2 ^ m.msg)) else s.sendIrq m
  | none => s
/-- Messages that were pending under a mask leave once it is lifted. -/
def State.unpend (s : State) : State :=
  (List.range 32).foldl (fun s v =>
    match s.msgFor v with
    | some m => if bitN s.pci.pend v && !s.masked v then (s.setPend (s.pci.pend - 2 ^ v)).sendIrq m else s
    | none => s) s
/-- The bits of HUB.IRQ_STATUS. -/
def irqBits : Fld := ⟨R.HUB_IRQ_STATUS, 0, 6⟩
/-- Set bit `k` of HUB.IRQ_STATUS; a rise with its mask bit set raises the vector (R322). -/
def State.irq (s : State) (k : Nat) : State :=
  if bitN (s.fget irqBits) k then s
  else
    let s1 := s.fsetBit irqBits k true
    if bitN (s.fget F.HUB_IRQ_MASK_en) k then s1.raiseVec (irqVector k) else s1

/-- Record an error code raised in the device: the first during a job is the job's code (R330).
(DEDUCED, log 82) -/
def State.note (s : State) (code : Nat) : State :=
  if (s.job.running || s.job.filling) && s.job.firstErr == 0 then s.mapJob fun j => { j with firstErr := code } else s

/-- Capture a code in a first-error register unless one is held; a capture that becomes valid sets IRQ_STATUS bit `k`. -/
def State.capture (s : State) (k : Nat) (fCode fValid : Fld) (code : Nat) : State :=
  if s.fbit fValid then s else ((s.fset fCode code).fset fValid 1).irq k

/-- Ask the job to stop at the next band boundary (R194). -/
def State.stopJob (s : State) : State :=
  if s.job.running then s.mapJob fun j => { j with stopFault := true } else s

/-- Add to the elasticity counter (R175). -/
def State.addElast (s : State) (n : Nat) : State := s.mapArr fun a => { a with elast := (a.elast + n) % 2 ^ 64 }

/-! ## Terrace faults (R73, R171) -/

/-- The location of a fault beside its code: Terrace that captures, Row (15 for IO tiles and bridge points), kind, index, pc,
band, and the auxiliary fields of TERn.FAULT_AUX. -/
structure FaultLoc where
  n : Nat
  row : Nat
  kind : Nat
  index : Nat
  pc : Nat
  band : Nat
  auxMm : Nat
  auxPort : Nat
  auxUnit : Nat
  auxTer : Nat
deriving DecidableEq, Repr

/-- Capture a fault in the Terrace registers: count it, and record it when none is held (R73, R171). -/
def State.terFault (s : State) (l : FaultLoc) (code : Nat) : State :=
  let s := (s.note code).fcount (F.TER_FAULT_COUNT_count l.n) 1
  if s.fbit (F.TER_FAULT_LOC_valid l.n) then s
  else
    let s := s.fset (F.TER_FAULT_LOC_code l.n) code
    let s := s.fset (F.TER_FAULT_LOC_phys_row l.n) l.row
    let s := s.fset (F.TER_FAULT_LOC_kind l.n) l.kind
    let s := s.fset (F.TER_FAULT_LOC_index l.n) l.index
    let s := s.fset (F.TER_FAULT_LOC_vintage l.n) s.activeV
    let s := s.fset (F.TER_FAULT_LOC_valid l.n) 1
    let s := s.fset (F.TER_FAULT_BAND_pc l.n) l.pc
    let s := s.fset (F.TER_FAULT_BAND_band l.n) l.band
    let s := s.fset (F.TER_FAULT_AUX_mm_tile l.n) l.auxMm
    let s := s.fset (F.TER_FAULT_AUX_port l.n) l.auxPort
    let s := s.fset (F.TER_FAULT_AUX_unit l.n) l.auxUnit
    let s := s.fset (F.TER_FAULT_AUX_terrace l.n) l.auxTer
    s.irq 0

/-- The number of a tile kind in TERn.FAULT_LOC. -/
def kindNum (k : Nat) : Nat := match kindOf k with | .mx => 0 | .mm => 1 | .sf => 2 | .rk => 3

/-- The location of a tile. -/
def tileLoc (s : State) (r : TileRef) (port unit : Nat) : FaultLoc :=
  let x := s.tile r
  { n := r.t, row := r.row, kind := kindNum r.k, index := idxOf r.k, pc := x.pc, band := x.band, auxMm := 0, auxPort := port,
    auxUnit := unit, auxTer := r.t }

/-- A tile raises a fault (R73): its FAULT register takes the first, the Terrace counts and captures.
(DEDUCED, log 153) -/
def State.tileFaultAt (s : State) (r : TileRef) (code port unit : Nat) : State :=
  let x := s.tile r
  let b := tb r
  let s := if s.fbit (F.MX_FAULT_valid b) then s
    else
      let s := (s.fset (F.MX_FAULT_code b) code).fset (F.MX_FAULT_pc b) x.pc
      ((s.fset (F.MX_FAULT_vintage b) x.vint).fset (F.MX_FAULT_valid b) 1).irq 0
  s.terFault (tileLoc s r port unit) code

/-- A tile fault with no port or unit to name. -/
def State.tileFault (s : State) (r : TileRef) (code : Nat) : State := s.tileFaultAt r code 0 0

/-- A fault after which the tile no longer fires and the job stops at the next band boundary (R74, R75). -/
def State.tileDead (s : State) (r : TileRef) (code : Nat) : State :=
  let s := s.tileFault r code
  let x := s.tile r
  (s.setTile r { x with st := .faulted, fire := none }).stopJob

/-! ## Memories: on-chip codewords of 8 data bytes (R437–R443), HyperRAM blocks of 32 (R339–R341) -/

/-- The first HyperRAM address (Table 1.5). -/
def hyperBase : Nat := 0x0100000000
/-- Does an internal address lie in HyperRAM space? -/
def inHyper (a : Nat) : Bool := hyperBase ≤ a && a < 0x0120000000
/-- First byte of MM tile `m` of a Row (Table 1.6). -/
def mmBase (t row m : Nat) : Nat := 0x40000000 + t * 0x10000000 + row * 0x01000000 + m * 0x00100000
/-- First byte of the weight store of MX tile `x` of a Row. -/
def wsBase (t row x : Nat) : Nat := 0x40000000 + t * 0x10000000 + row * 0x01000000 + 0x00800000 + x * 0x00010000

/-- A stored byte.
(DESIGN CHOICE, log 8) -/
def State.byte (s : State) (a : Nat) : Byte := sget zeroB s.mem a
/-- Store a byte. -/
def State.setByte (s : State) (a : Nat) (b : Byte) : State := { s with mem := sset zeroB s.mem a b }
/-- `n` stored bytes from `a`. -/
def State.bytesAt (s : State) : Nat → Nat → List Byte
  | _, 0 => []
  | a, n + 1 => s.byte a :: s.bytesAt (a + 1) n
/-- Store bytes from `a`. -/
def State.putBytes (s : State) : Nat → List Byte → State
  | _, [] => s
  | a, b :: bs => (s.setByte a b).putBytes (a + 1) bs

/-- Of an error pattern the part that lies on the bytes of a HyperRAM block or an on-chip codeword. -/
def onBytes (a x : Nat) : Nat := if inHyper a then x else x % 2 ^ 88
/-- Of an error pattern the part that lies on the three copies of an on-chip codeword's poison bit (R439). -/
def onCopies (a x : Nat) : Nat := if inHyper a then 0 else x / 2 ^ 88 % 8
/-- The copies of a codeword's poison bit that have been struck. -/
def State.copiesAt (s : State) (a : Nat) : Nat := onCopies a (sget zeroN s.upset a)
/-- The poison mark of a codeword or block; of an on-chip codeword the majority of its three copies (R439). -/
def State.poisoned (s : State) (a : Nat) : Bool := sget zeroF s.poison a != [3, 5, 6, 7].contains (s.copiesAt a)
/-- Set the poison mark of a codeword or block. -/
def State.setPoison (s : State) (a : Nat) (b : Bool) : State := { s with poison := sset zeroF s.poison a b }
/-- The error pattern standing in the bytes of a codeword or block. -/
def State.upsetAt (s : State) (a : Nat) : Nat := onBytes a (sget zeroN s.upset a)
/-- Replace the error pattern. -/
def State.setUpset (s : State) (a pat : Nat) : State := { s with upset := sset zeroN s.upset a pat }
/-- A rewritten codeword holds its poison mark in all three copies and no error (R439, R441). -/
def State.mend (s : State) (a : Nat) : State := (s.setPoison a (s.poisoned a)).setUpset a 0
/-- Bit errors strike stored codewords.
(DESIGN CHOICE, log 159; DESIGN CHOICE, log 160) -/
def State.strike (s : State) : List Upset → State
  | [] => s
  | u :: us => (s.setUpset u.addr (Nat.xor (sget zeroN s.upset u.addr) u.pat)).strike us

/-- XOR a pattern, byte 0 lowest, into bytes. -/
def xorBytes : List Byte → Nat → List Byte
  | [], _ => []
  | b :: bs, p => (b ^^^ BitVec.ofNat 8 p) :: xorBytes bs (p / 256)

/-- A corrected codeword of a Row, or of the Hub, is counted (R443); a Row's count in the window does not saturate where
TERn.ROW_ECC shows it (R444). -/
def State.countCorrRow (s : State) : Option (Nat × Nat) → State
  | some (t, p) =>
    let s := { s with eccWin := setNth s.eccWin (9 * t + p) (nth 0 s.eccWin (9 * t + p) + 1) }
    (s.fcount (F.TER_ROW_ECC_corr t p) 1).fcount (F.TER_ROW_ECC_win_corr t p) 1
  | none => s.fcount F.HUB_ECC_HUB_corr 1
/-- Count a corrected on-chip codeword (R443). -/
def State.countCorr (s : State) (a : Nat) : State :=
  s.countCorrRow (if inTerrace a then some (terOf a, rowOf a) else none)

/-- Do the power supply, a ball, a JTAG instruction or TEST_EN hold the device in reset (R382, R411, R434, R455)? -/
def State.rstHeld (s : State) : Bool :=
  s.sec.off || s.sec.heldCold || s.sec.heldWarm || s.sec.heldPerst || s.sec.heldJtag || s.sec.testEn
/-- Does the Cellarmaster run?
(DEDUCED, log 74) -/
def State.cmRuns (s : State) : Bool := s.sec.cm == 2
/-- The Cellarmaster moves on, and HUB.CM_STATUS shows it. -/
def State.setCm (s : State) (n : Nat) : State := { s with sec := { s.sec with cm := n } }.fset F.HUB_CM_STATUS_state n

/-- An alert for a Row: captured unless one is held. -/
def State.eccAlert (s : State) (t row cause : Nat) : State :=
  if s.fbit F.HUB_ECC_ALERT_valid then s
  else
    let s := ((s.fset F.HUB_ECC_ALERT_terrace t).fset F.HUB_ECC_ALERT_row row).fset F.HUB_ECC_ALERT_cause cause
    (s.fset F.HUB_ECC_ALERT_valid 1).irq 0

/-- The Rows that wait for the Cellarmaster with an uncorrectable codeword raise their alerts (R444).
(DEDUCED, log 81) -/
def State.eccDrain (s : State) : State := s.eccUnc.foldl (fun s x => s.eccAlert x.1 x.2 2) { s with eccUnc := [] }

/-- An uncorrectable codeword of a Row's memory, none outside Rows, is counted (R443) and raises the alert (R444); while the Cellarmaster
does not run, its Row waits for it.
(DEDUCED, log 81) -/
def State.countUncRow (s : State) : Option (Nat × Nat) → State
  | some (t, p) =>
    let s := s.fcount (F.TER_ROW_ECC_uncorr t p) 1
    if s.cmRuns then s.eccAlert t p 2 else if s.eccUnc.contains (t, p) then s else { s with eccUnc := s.eccUnc ++ [(t, p)] }
  | none => s.fcount F.HUB_ECC_HUB_uncorr 1

/-- Count an uncorrectable on-chip codeword (R443), with the alert of its Row (R444). -/
def State.countUnc (s : State) (a : Nat) : State :=
  s.countUncRow (if inTerrace a then some (terOf a, rowOf a) else none)

/-- Raise an on-chip memory error at codeword `a` and capture the first (R439).
(DESIGN CHOICE, log 25) -/
def State.raiseEcc (s : State) (a code : Nat) (scrub : Bool) : State :=
  let s := (s.note code).countUnc a
  if s.fbit F.HUB_ECC_ERR_INFO_valid then s
  else
    let s := s.fset F.HUB_ECC_ERR_ADDR_addr (a % 2 ^ 32)
    let s := s.fset F.HUB_ECC_ERR_INFO_addr_hi (a / 2 ^ 32)
    let s := s.fset F.HUB_ECC_ERR_INFO_code code
    let s := s.fset F.HUB_ECC_ERR_INFO_source (if scrub then 1 else 0)
    (s.fset F.HUB_ECC_ERR_INFO_valid 1).irq 0

/-- A control word that cannot be corrected (Table 16.1). It lies in no internal address range, so the address captured is open.
(DESIGN CHOICE, log 25) -/
def State.ctlEcc (s : State) (row : Option (Nat × Nat)) (code : Nat) (scrub : Bool) : State :=
  let (a, s) := s.freshBelow (2 ^ 40)
  let s := s.countUncRow row
  if s.fbit F.HUB_ECC_ERR_INFO_valid then s
  else
    let s := (s.fset F.HUB_ECC_ERR_ADDR_addr (a / 8 * 8 % 2 ^ 32)).fset F.HUB_ECC_ERR_INFO_addr_hi (a / 2 ^ 32)
    let s := (s.fset F.HUB_ECC_ERR_INFO_code code).fset F.HUB_ECC_ERR_INFO_source (if scrub then 1 else 0)
    (s.fset F.HUB_ECC_ERR_INFO_valid 1).irq 0

/-- Bytes read, whether any is poisoned, and the state with what the read counted and raised. -/
abbrev Rd := List Byte × Bool × State

/-- Read the on-chip codeword whose first data byte is at `a` (R437–R439).
(DESIGN CHOICE, log 159) -/
def readCw (s : State) (a : Nat) : Rd :=
  let bs := s.bytesAt a 8
  if s.upsetAt a = 0 then (bs, s.poisoned a, s)
  else
    match rsDecode 11 (s.upsetAt a) with
    | .good r => (xorBytes bs r, s.poisoned a, s)
    | .corrected r => (xorBytes bs r, s.poisoned a, s.countCorr a)
    | .bad => (xorBytes bs (s.upsetAt a), true, s.raiseEcc a 0x0801 false)

/-- Read codewords one after the other, lowest first. -/
def readCws (s : State) : Nat → Nat → Rd
  | _, 0 => ([], false, s)
  | a, n + 1 =>
    let (b1, p1, s1) := readCw s a
    let (b2, p2, s2) := readCws s1 (a + 8) n
    (b1 ++ b2, p1 || p2, s2)

/-- Read `n` on-chip bytes from any address: every codeword they touch is read. -/
def readChip (s : State) (a n : Nat) : Rd :=
  if n = 0 then ([], false, s)
  else
    let lo := a / 8 * 8
    let (bs, p, s) := readCws s lo ((a + n - 1) / 8 - a / 8 + 1)
    ((bs.drop (a - lo)).take n, p, s)

/-- Read `n` granules of 32 on-chip bytes, each byte with its granule's poison (R307). -/
def readGranules (s : State) : Nat → Nat → List (Byte × Bool) × State
  | _, 0 => ([], s)
  | a, n + 1 =>
    let (bs, p, s) := readChip s a 32
    let (xs, s) := readGranules s (a + 32) n
    (bs.map (fun b => (b, p)) ++ xs, s)

/-- Write the part of codeword `a` that starts at byte `o` (R439).
(DESIGN CHOICE, log 159) -/
def writeCw (s : State) (a o : Nat) (bs : List Byte) (poison : Bool) : State :=
  if bs.length = 8 then ((s.putBytes a bs).setPoison a poison).setUpset a 0
  else
    let (old, p, s) := readCw s a
    let new := old.take o ++ bs ++ old.drop (o + bs.length)
    ((s.putBytes a new).setPoison a (p || poison)).setUpset a 0

/-- Write bytes over successive codewords; `n` bounds the codewords touched. -/
def writeCws (s : State) : Nat → Nat → List Byte → Bool → State
  | 0, _, _, _ => s
  | n + 1, a, bs, poison =>
    if bs.isEmpty then s
    else
      let o := a % 8
      writeCws (writeCw s (a - o) o (bs.take (8 - o)) poison) n (a - o + 8) (bs.drop (8 - o)) poison

/-- Write on-chip bytes from any address. -/
def writeChip (s : State) (a : Nat) (bs : List Byte) (poison : Bool) : State :=
  writeCws s (bs.length / 8 + 2) a bs poison

/-- Read one 32-byte word of a tile memory. -/
def readWord (s : State) (a : Nat) : Data × Bool × State :=
  let (bs, p, s) := readChip s a 32
  (dataOf bs, p, s)

/-- Is the array running in this ACLK period: a job has it clocked and no hold cause is active? (R180) -/
def State.holdFld : Fld := ⟨R.HUB_HOLD_STATUS, 0, 4⟩
/-- The hold causes active: remote, system, settle, frequency window (HUB.HOLD_STATUS 3:0). -/
def State.held (s : State) : Bool := s.fget State.holdFld != 0

end Sys2Proof.Machine
end

