-- ==== Sys2Proof/Machine/Operands.lean ====
section
/-!
DEFINITION. Machine/Operands.lean: the operand forms of the array: parameter words (Table 2.2), micro-instruction and
descriptor fields (Tables 2.3, 2.7, 3.3–3.6, 4.2, 4.5, 5.6), latency classes with their pads (Table 2.9, R72), and
address generation (R53).
-/
namespace Sys2Proof.Machine

/-! ## Latency classes (Table 2.9) -/

inductive LatClass where
  | mx1 | mx2 | mx3 | mx4 | mx5 | sf1 | sf2 | sf3 | mm1 | mm2 | mm3 | mm4 | rk1 | io1 | io2
deriving DecidableEq, Repr

/-- Latency of a class on A1 (level 1). -/
def latA1 : LatClass → Nat
  | .mx1 => 6 | .mx2 => 9 | .mx3 => 12 | .mx4 => 3 | .mx5 => 2 | .sf1 => 7 | .sf2 => 5 | .sf3 => 38
  | .mm1 => 3 | .mm2 => 6 | .mm3 => 2 | .mm4 => 5 | .rk1 => 2 | .io1 => 16 | .io2 => 12
/-- Latency of a class on B0 (level 2). -/
def latB0 : LatClass → Nat
  | .mx1 => 5 | .mx2 => 8 | .mx3 => 10 | .mx4 => 3 | .mx5 => 2 | .sf1 => 6 | .sf2 => 5 | .sf3 => 34
  | .mm1 => 3 | .mm2 => 5 | .mm3 => 2 | .mm4 => 4 | .rk1 => 2 | .io1 => 16 | .io2 => 12
/-- Latency at a compatibility level (R71). -/
def latLevel (level : Nat) (c : LatClass) : Nat := if level = 1 then latA1 c else latB0 c
/-- The pad index of a class: its number minus 1 within the kind (R70). -/
def padIdx : LatClass → Nat
  | .mx1 => 0 | .mx2 => 1 | .mx3 => 2 | .mx4 => 3 | .mx5 => 4 | .sf1 => 0 | .sf2 => 1 | .sf3 => 2
  | .mm1 => 0 | .mm2 => 1 | .mm3 => 2 | .mm4 => 3 | .rk1 => 0 | .io1 => 0 | .io2 => 1
/-- The part's own latency of a class. -/
def State.partLat (s : State) (c : LatClass) : Nat := if s.fuse.stepping = 1 then latA1 c else latB0 c
/-- Latency of a class at the window base `b` of a tile while Vintage `v` runs (R72). -/
def State.lat (s : State) (b v : Nat) (c : LatClass) : Nat :=
  s.partLat c + s.fget (F.MX_DELAY_PAD_V_pad b v (padIdx c))

/-! ## Parameter words (Table 2.2) -/

/-- The word-space codeword that holds an indirect word: two words make one codeword of 8 bytes (R437). Its key in the
poison and upset maps lies above every internal address. -/
def wordCw (sp : Space) (u i : Nat) : Nat := 2 ^ 42 + wordKey sp u i / 2
/-- The half of a codeword's pattern that lies on word `i`. -/
def halfOf (pat i : Nat) : Word := BitVec.ofNat 32 (pat / 2 ^ (32 * (i % 2)))
/-- What a read of a codeword finds (R437). -/
def State.cwRs (s : State) (cw : Nat) : RsOut := if s.upsetAt cw = 0 then .good 0 else rsDecode 11 (s.upsetAt cw)
/-- The pattern that decoding leaves on the data of a codeword. -/
def State.residue (s : State) (cw : Nat) : Nat :=
  match s.cwRs cw with | .good r => r | .corrected r => r | .bad => s.upsetAt cw
/-- An indirect word as a read delivers it (R437). -/
def State.ctl (s : State) (sp : Space) (u i : Nat) : Word := s.word sp u i ^^^ halfOf (s.residue (wordCw sp u i)) i

/-- Parameter word `i` of a tile. -/
def State.param (s : State) (r : TileRef) (i : Nat) : Word := s.ctl .param (tileKey r) i
/-- Program word at `pc` of Vintage `v`. -/
def State.progWord (s : State) (r : TileRef) (v pc : Nat) : Word := s.param r (v * 0x40 + pc % 64)
/-- Loop-count register CNT[v][c]. -/
def State.cnt (s : State) (r : TileRef) (v c : Nat) : Nat := bitsW (s.param r (0x100 + v * 4 + c)) 0 16
/-- Generator word `w` of generator `g`. -/
def State.agw (s : State) (r : TileRef) (v g w : Nat) : Word := s.param r (0x110 + v * 0x10 + g * 4 + w)
/-- Operation descriptor OPD[v][d]. -/
def State.opd (s : State) (r : TileRef) (v d : Nat) : Word := s.param r (0x150 + v * 0x10 + d)
/-- MX auxiliary word AUX[v][d] (R84). -/
def State.aux (s : State) (r : TileRef) (v d : Nat) : Word := s.param r (0x1A0 + v * 0x10 + d)
/-- Partition low word of a generator. -/
def State.partLo (s : State) (r : TileRef) (v g : Nat) : Nat := bitsW (s.param r (0x190 + v * 4 + g)) 0 16
/-- Partition high word of a generator, inclusive. -/
def State.partHi (s : State) (r : TileRef) (v g : Nat) : Nat := bitsW (s.param r (0x190 + v * 4 + g)) 16 16

/-! ## Address generation (R47, R53) -/

/-- idx[c]: completed trips of the open loop on counter `c`, 0 when none holds it. -/
def idxOfCtr : List LoopSt → Nat → Nat
  | [], _ => 0
  | l :: ls, c => if l.ctr = c then l.trips - l.rem else idxOfCtr ls c
/-- Trips of the open loop on counter `c`; a counter no loop holds counts as one trip (R49). -/
def tripsOfCtr : List LoopSt → Nat → Nat
  | [], _ => 1
  | l :: ls, c => if l.ctr = c then l.trips else tripsOfCtr ls c

/-- `off mod wrap` with a non-negative result; `wrap = 0` leaves it. -/
def wrapI (off : Int) (wrap : Nat) : Int := if wrap = 0 then off else off % (wrap : Int)

/-- The value generator `g` forms at firing number `b`, before its partition is looked at (R53). -/
def genValue (s : State) (r : TileRef) (x : TileSt) (g b : Nat) : Int :=
  let w0 := (s.agw r x.vint g 0).toNat
  let w1 := (s.agw r x.vint g 1).toNat
  let w2 := (s.agw r x.vint g 2).toNat
  let w3 := (s.agw r x.vint g 3).toNat
  let off := nth 0 x.rot g
    + signed 16 w1 * idxOfCtr x.loops 0 + signed 16 (w1 >>> 16) * idxOfCtr x.loops 1
    + signed 16 w2 * idxOfCtr x.loops 2 + signed 16 (w2 >>> 16) * idxOfCtr x.loops 3
    + signed 16 w3 * b
  (w0 % 65536 : Nat) + wrapI off (w3 >>> 16)

/-- The address generator `g` issues, none where it lies outside its partition (E-0711). -/
def genAddr (s : State) (r : TileRef) (x : TileSt) (g b : Nat) : Option Nat :=
  let a := genValue s r x g b
  if a < s.partLo r x.vint g ∨ a > s.partHi r x.vint g then none else some a.toNat

/-- rot after ROT g (R53). -/
def rotNext (s : State) (r : TileRef) (x : TileSt) (g : Nat) : Int :=
  wrapI (nth 0 x.rot g + signed 16 ((s.agw r x.vint g 0).toNat >>> 16)) ((s.agw r x.vint g 3).toNat >>> 16)

/-! ## Weight sets (R80, R117) -/

/-- Words per weight set in an MX mode; 384 for a Winograd block. -/
def setWords (mode : Nat) : Nat := if mode = 2 then 8 else if mode = 3 then 12 else if mode = 5 then 384 else 16
/-- Index bits of a codebook mode. -/
def cbBits (mode : Nat) : Nat := if mode = 2 then 2 else if mode = 3 then 3 else 4
/-- Is a mode a codebook mode? -/
def isCb (mode : Nat) : Bool := mode == 2 || mode == 3 || mode == 4

/-! ## SF tables (R89, R93, R99) -/

/-- Requantisation word of channel `ch` of Vintage `v`; a channel above 511 stays in the Vintage's own bank.
(DEDUCED, log 16) -/
def State.rqWord (s : State) (r : TileRef) (v ch : Nat) : Word := s.ctl .ptab (tileKey r) (v * 512 + ch % 512)
/-- Multiplier of a requantisation word. -/
def rqMult (w : Word) : Int := signed 16 w.toNat
/-- Shift of a requantisation word; 48–63 act as 47. -/
def rqShift (w : Word) : Nat := Nat.min (bitsW w 16 6) 47
/-- Zero point of a requantisation word. -/
def rqZp (w : Word) : Int := signed 8 (bitsW w 22 8)
/-- Segment table of Vintage `v` (R93). -/
def State.segTab (s : State) (r : TileRef) (v i : Nat) : Seg :=
  let w0 := (s.param r (0x1A0 + v * 0x80 + 2 * i)).toNat
  let w1 := (s.param r (0x1A0 + v * 0x80 + 2 * i + 1)).toNat
  ⟨signed 16 w0, signed 16 (w0 >>> 16), signed 16 w1⟩
/-- Adaptation word `w` of Vintage `v` (R99). -/
def State.adapt (s : State) (r : TileRef) (v w : Nat) : Word := s.param r (0x3A0 + v * 0x10 + w)

/-! ## Unit table (R185) -/

/-- Word `w` of a tile's unit-table entry for Vintage `v`. -/
def State.unitWord (s : State) (r : TileRef) (v w : Nat) : Word :=
  s.ctl .unit r.t (8 * ((v * 9 + r.row) * 30 + r.k) + w)
/-- Event port of a tile (R177). -/
def State.evPort (s : State) (r : TileRef) (v : Nat) : Nat := bitsW (s.unitWord r v 0) 0 4
/-- Broadcast lag of a tile. -/
def State.bcLag (s : State) (r : TileRef) (v : Nat) : Nat := bitsW (s.unitWord r v 0) 4 20
/-- Reported peak of a cask for Vintage `v`. -/
def State.caskPeak (s : State) (c : CaskRef) (v : Nat) : Nat :=
  let w := s.ctl .unit c.t (0x2200 + (v * 9 + c.row) * 64 + c.m * 8 + c.c / 2)
  if c.c.val % 2 = 0 then bitsW w 0 15 else bitsW w 16 15

/-! ## Cask descriptors (R149) -/

/-- DESC0 of a cask. -/
def State.desc0 (s : State) (c : CaskRef) : Word := s.word .desc (caskKey c) 0
/-- DESC1 of a cask. -/
def State.desc1 (s : State) (c : CaskRef) : Word := s.word .desc (caskKey c) 1
def State.caskBase (s : State) (c : CaskRef) : Nat := bitsW (s.desc0 c) 0 15
def State.caskBound (s : State) (c : CaskRef) : Nat := bitsW (s.desc0 c) 16 15
def State.caskEn (s : State) (c : CaskRef) : Bool := bitW (s.desc0 c) 31
def State.caskClass (s : State) (c : CaskRef) : Nat := bitsW (s.desc1 c) 0 3
def State.caskPkt (s : State) (c : CaskRef) : Bool := bitW (s.desc1 c) 3
def State.caskUse (s : State) (c : CaskRef) (v : Nat) : Bool := bitW (s.desc1 c) (4 + v)
def State.caskLenM1 (s : State) (c : CaskRef) : Nat := bitsW (s.desc1 c) 8 12
def State.caskThrM1 (s : State) (c : CaskRef) : Nat := bitsW (s.desc1 c) 20 12
/-- Classes 1–4 are privileged. -/
def State.caskPriv (s : State) (c : CaskRef) : Bool := 1 ≤ s.caskClass c && s.caskClass c ≤ 4
/-- The locator of a cask (Table 5.7). -/
def caskLoc (c : CaskRef) : Nat := c.t + 4 * c.row + 64 * c.m + 512 * c.c
/-- The cask a locator names. -/
def ofLoc (l : Nat) : CaskRef := ⟨Fin.ofNat 4 l, Fin.ofNat 9 (bitsN l 2 4), Fin.ofNat 8 (l / 64), Fin.ofNat 16 (l / 512)⟩
/-- MM tile number of a cask. -/
def caskTile (c : CaskRef) : TileRef := ⟨c.t, c.row, ⟨16 + c.m.val, by omega⟩⟩
/-- Byte address of word `i` of a cask's region. -/
def State.caskAddr (s : State) (c : CaskRef) (i : Nat) : Nat := mmBase c.t c.row c.m + 32 * (s.caskBase c + i)

/-! ## Reserved bits of stored words (R10) -/

/-- The bits an SF descriptor of a function uses (Tables 3.5, 4.5). -/
def sfBits (fn : Nat) : Word :=
  if fn < 5 then 0x01FFFFFF else nth 0xFFFFFFFF [0x000003FF, 0x0007FBFF, 0x7FFFF87F, 0x0007F9FF, 0x000007FF, 0x000003FF] (fn - 5)
/-- The bits of a tile's parameter word that takes the value `v`; the others are reserved in Tables 2.2, 2.7, 3.3, 3.5, 3.6, 4.2, 4.5 and
5.6, R93 and R475. -/
def paramBits (k : TileKind) (i : Nat) (v : Word) : Word :=
  if 0x100 ≤ i ∧ i < 0x110 then 0xFFFF
  else if 0x150 ≤ i ∧ i < 0x190 then
    let d := (i - 0x150) % 16
    match k with
    | .mx => 0x3FFF
    | .mm => if d < 4 then 0x1F else if d = 4 then 0xFFFFFFFF else 0
    | .sf => sfBits (bitsW v 0 5)
    | .rk => if d < 4 then 0x0FFFFFFF else 0
  else if i < 0x1A0 then 0xFFFFFFFF
  else match k with
    | .mx => 0x0F7FFFFF
    | .mm => if i % 2 = 0 then 0xFFFF7FFF else 0x3FF
    | .sf =>
      if i < 0x3A0 then (if i % 2 = 0 then 0xFFFFFFFF else 0xFFFF)
      else if i % 16 = 0 then 0x3FFFFFFF else if i % 16 = 3 then 0 else 0xFFFFFFFF
    | .rk => 0
/-- The bits of a stored word of value `v` that are not reserved (Tables 3.4, 5.3, 6.1, 7.9 and 10.3, and those of `paramBits`). -/
def wordBits (sp : Space) (u i : Nat) (v : Word) : Word :=
  match sp with
  | .param => paramBits (kindOf (Fin.ofNat 30 u)) i v
  | .ptab => 0x3FFFFFFF
  | .slot => 0x0FFFFFFF
  | .unit => if 0x2200 ≤ i then 0x7FFF7FFF else if i % 8 < 5 then 0x00FFFFFF else 0
  | .lcCfg =>
    let j := i % 0x3000
    if j < 8192 then (if j % 4 < 2 then 0xFFFFFFFF else if j % 4 = 2 then 0x3FFFFFFF else 0x001FFFFF)
    else if j % 64 < 32 then 0x7FFF else 0x3F
  | .cmap => if i < 256 then 0xF else if i < 272 then 0xFF else 0x000FFFFF
  | _ => 0xFFFFFFFF

/-! ## Slot Tables (R137–R139) -/

/-- Frame length of Vintage `v` at a point. -/
def State.frameLen (s : State) (p : PointRef) (v : Nat) : Nat := s.fget (F.SP_FRAME_f_m1 (pointBase p) v) + 1
/-- Connection C`c` of slot `sl` of Vintage `v`. -/
def State.conn (s : State) (p : PointRef) (v sl c : Nat) : Word := s.ctl .slot (pointKey p) (v * 1024 + sl * 4 + c)
def connMask (w : Word) : Nat := bitsW w 0 16
def connIn (w : Word) : Nat := bitsW w 16 4
def connEn (w : Word) : Bool := bitW w 20
def connReg (w : Word) : Nat := bitsW w 21 2
def connSel (w : Word) : Nat := bitsW w 23 5

/-! ## The placed Vintages -/

/-- The loader's record of Vintage `v`. -/
def State.placedRec (s : State) (v : Nat) : PlacedSt := nth PlacedSt.init s.hrm.placed v
/-- A little-endian field of a byte list. -/
def leAt (bs : List Byte) (o n : Nat) : Nat := ofBytes ((bs.drop o).take n)
/-- A field of a Vintage's REPORT header (Table 7.10). -/
def State.report (s : State) (v o n : Nat) : Nat := leAt (s.placedRec v).report o n
/-- b_min and b_max with 0 standing for 256. -/
def bandByte (x : Nat) : Nat := if x = 0 then 256 else x

/-! ## The head of a Vintage with a GRAFT section (Tables 8.1, 8.2) -/

/-- Bytes rounded up to 32. -/
def pad32 (n : Nat) : Nat := (n + 31) / 32 * 32
/-- The header of a GRAFT section. -/
structure GHdr where
  D : Nat
  L : Nat
  r : Nat
  N1 : Nat
  N2 : Nat
  K : Nat
  n : Nat
  poolCap : Nat
  featCap : Nat
  b1 : Nat
  b2 : Nat
  eps : Nat
  lrM : Nat
  lrE : Nat
  sba1 : Nat
  sba2 : Nat
  nHead : Nat
  nGraft : Nat
deriving DecidableEq, Repr

/-- Parse a GRAFT header (Table 8.1). -/
def gHdr (b : List Byte) : GHdr :=
  { D := leAt b 0 2, L := leAt b 2 1, r := leAt b 3 1, N1 := leAt b 4 2, N2 := leAt b 6 2, K := leAt b 8 2, n := leAt b 10 2,
    poolCap := leAt b 12 4, featCap := leAt b 16 4, b1 := leAt b 20 1, b2 := leAt b 21 1, eps := leAt b 22 2, lrM := leAt b 24 2,
    lrE := leAt b 26 1, sba1 := leAt b 27 1, sba2 := leAt b 28 1, nHead := leAt b 29 1, nGraft := leAt b 30 1 }

/-- Width N_l: l = 0 is D, hidden layers, then K. -/
def GHdr.width (h : GHdr) (l : Nat) : Nat :=
  if l = 0 then h.D else if l = h.L + 1 then h.K else if l = 1 then h.N1 else h.N2

/-- Sum over the layers 1 to n. -/
def sumTo (n : Nat) (f : Nat → Nat) : Nat := ((List.range n).map fun i => f (i + 1)).foldl (· + ·) 0

/-- Lengths of the blocks of Table 8.2 in order: Forward, Backward, Softmax, Frozen, Bias, Masters, Head tiles, Graft tiles. -/
def GHdr.blocks (h : GHdr) : List Nat :=
  [ pad32 (4 * sumTo (h.L + 1) fun l => 1 + h.width l),
    pad32 (12 * (h.L + 1)),
    pad32 512,
    pad32 (sumTo h.L fun l => h.width l * h.width (l - 1)),
    pad32 (4 * sumTo (h.L + 1) h.width),
    pad32 (2 * (h.K * h.width h.L + sumTo h.L fun l => h.r * (h.width (l - 1) + h.width l))),
    pad32 (24 * h.nHead),
    pad32 (4 * h.nGraft) ]

/-- Offset of block `i`; the header takes 64 bytes. -/
def GHdr.off (h : GHdr) (i : Nat) : Nat := 64 + (h.blocks.take i).foldl (· + ·) 0

/-- A head-tile record (Table 8.2). -/
structure HeadRec where
  target : Nat
  layer : Nat
  d : Nat
  chFirst : Nat
  inFirst : Nat
  nSets : Nat
  base0 : Nat
  base1 : Nat
  bias0 : Nat
  bias1 : Nat
deriving DecidableEq, Repr

/-- Head-tile record `i`. -/
def headRec (b : List Byte) (i : Nat) : HeadRec :=
  let o := (gHdr b).off 6 + 24 * i
  { target := leAt b o 4, layer := leAt b (o + 4) 1, d := leAt b (o + 5) 1, chFirst := leAt b (o + 6) 2, inFirst := leAt b (o + 8) 2,
    nSets := leAt b (o + 10) 2, base0 := leAt b (o + 12) 2, base1 := leAt b (o + 14) 2, bias0 := leAt b (o + 16) 2,
    bias1 := leAt b (o + 18) 2 }

/-- The physical Row of local logical Row `k` of Terrace `t` in Vintage `v`'s map. -/
def State.physRow (s : State) (t v k : Nat) : Nat := s.fget (F.TER_ROW_MAP_V_lrow t v k)

/-- The tile a section target names under a Vintage's map (Table 7.5). -/
def State.targetTile (s : State) (v target : Nat) : TileRef :=
  let kind := bitsN target 10 3
  let i := bitsN target 5 5
  ⟨Fin.ofNat 4 target, Fin.ofNat 9 (s.physRow (target % 4) v (bitsN target 2 3)),
   Fin.ofNat 30 (if kind = 0 then i else if kind = 1 then 16 + i else if kind = 2 then 24 + i else 28 + i)⟩

/-- The head-tile records of a Vintage. -/
def State.headRecs (s : State) (v : Nat) : List HeadRec :=
  let g := (s.placedRec v).graft
  if g.isEmpty then [] else (List.range (gHdr g).nHead).map (headRec g)

/-- Is a tile a Graft tile of a Vintage: one that the Graft-tile block of its section lists (R234)? -/
def State.graftTile (s : State) (r : TileRef) (v : Nat) : Bool :=
  let g := (s.placedRec v).graft
  !g.isEmpty && (List.range (gHdr g).nGraft).any fun i => s.targetTile v (leAt g ((gHdr g).off 7 + 4 * i) 4) == r
/-- Does a tile run under R67: in Elastic mode, and a Graft tile in both disciplines (R238)? -/
def State.lenient (s : State) (r : TileRef) (v : Nat) : Bool := s.isElastic v || s.graftTile r v
/-- Elasticity of a tile: a Graft tile adds none (R238). -/
def State.elastOf (s : State) (r : TileRef) (v n : Nat) : State := if s.isElastic v && !s.graftTile r v then s.addElast n else s
/-- Is a flit of a source for a sink, carried by the tables of Vintage `v`, a Graft flit: does either stand at a Graft tile, or is a cask of
one (R238)? -/
def State.graftFlow (s : State) (v : Nat) (src : SrcRef) (k : SnkRef) : Bool :=
  (match src with | .tile r _ => s.graftTile r v | .cask c => s.graftTile (caskTile c) v | _ => false) ||
    (match k with | .tile r _ => s.graftTile r v | .cask c => s.graftTile (caskTile c) v | _ => false)

end Sys2Proof.Machine
end

