-- ==== Sys2Proof/Machine/Fabric.lean ====
section
/-!
DEFINITION. Machine/Fabric.lean: switch points, links, circuits, flits, credits and input stages (05 R134–R148), with the two
tables read during a switch (R190).
-/
namespace Sys2Proof.Machine

/-! ## When the array runs (R180, R181) -/

/-- Does the array run in this ACLK period? (R180) -/
def State.arrayRuns (s : State) : Bool := s.arr.clocked && !s.held
/-- Is the array held by the remote cause and no other?
(DEDUCED, log 168) -/
def State.remoteOnly (s : State) : Bool := s.arr.clocked && s.fget State.holdFld == 1
/-- Is a source one of the Hub's? -/
def fromHub : SrcRef → Bool
  | .hub _ _ _ => true
  | _ => false
/-- Does a circuit bring the late input from outside that holds the array and has not come: the word of a Trellis-remote cask (R181), or
a flit for the tile that waits (R66)? -/
def State.awaits (s : State) (c : Circuit) : Bool :=
  fromHub c.src && s.remoteOnly &&
    ((match s.arr.holdRemote with | some (k, _) => decide ((s.cask k).cnt = 0) && c.sinks.any (fun q => q.1 == .cask k) | none => false) ||
     (match s.arr.holdTile with
      | some r => c.sinks.any (fun q => match q.1 with | .tile x _ => x == r | _ => false)
      | none => false))
/-- Do a circuit's flits and credits move in this period? Nothing advances in a held ac (R180) but, so that it can come, the input that
the array waits for.
(DEDUCED, log 168) -/
def State.moves (s : State) (c : Circuit) : Bool := s.arrayRuns || s.awaits c
/-- The ac in which a source emits now. -/
def State.srcAc (s : State) (src : SrcRef) : Nat := s.arr.runAc + (if fromHub src then s.arr.remAc else 0)
/-- Is something due in ac `due` that has moved in `skip` held ac due by now? -/
def State.dueBy (s : State) (due skip : Nat) : Bool := decide (due ≤ s.arr.runAc + skip)
/-- The run ac of an arrival due in ac `due`; one while the array is held lies before the ac that waits for it. -/
def State.arrAc (s : State) (due skip : Nat) : Nat :=
  if s.arrayRuns then due - skip else Nat.min (due - skip) (s.arr.runAc - 2)

/-! ## The wires (Table 5.1, Table 5.2) -/

/-- The table a flit is carried by: the switch target's for a tag in b to b + 7 while a switch is armed or in transition, the
active Vintage's otherwise (R138, R190). -/
def State.carryV (s : State) (tag : Nat) : Nat :=
  match s.sw with
  | some w => if w.armed && decide ((tag + 16 - w.band % 16) % 16 < 8) then w.target else s.activeV
  | none => s.activeV

/-- The point and input ports at which a source enters the fabric, and the ac from emission to that input (R134–R136). -/
def srcEntry (s : State) (v : Nat) : SrcRef → PointRef × List Nat × Nat
  | .tile r p =>
    let j := idxOf r.k
    match kindOf r.k with
    | .mx => (.row r.t r.row (Fin.ofNat 13 (j / 2)), [j % 2], 1)
    | .mm => (.row r.t r.row (Fin.ofNat 13 j), [2 + p % 2], 1)
    | .sf => (.row r.t r.row (Fin.ofNat 13 (8 + j / 2)), [2 * (j % 2) + p % 2], 1)
    | .rk => (.row r.t r.row 10, [4 * j + p], 1)
  | .cask c => (.row c.t c.row (Fin.ofNat 13 c.m), [2, 3], 1)
  | .logic t r j => (.row t r (Fin.ofNat 13 j), [if j = 10 then 11 else 8], 3)
  | .hub t io _ =>
    (.bridge t (if io.val < 2 then 0 else 1), [9 + io % 2], s.lat (ioBase t io) v .io1 + 1)

/-- The value of `sel` by which a connection at a source's point names that source; none where sel plays no part (Table 5.3). -/
def srcSel : SrcRef → Option Nat
  | .tile r _ => if kindOf r.k = .mm then some 0 else none
  | .cask c => some (c.c + 1)
  | _ => none

/-- Where an output port of a point leads: the next stop, the link time, and the IO tile whose crossing it makes. -/
def nextOf (s : State) (v : Nat) (p : PointRef) (o sel : Nat) : Option (Stop × Nat × Option (Nat × Nat)) :=
  let mw (t : Fin 4) (r : Fin 9) (j port : Nat) : Stop :=
    if sel = 0 then .sink (.tile ⟨t, r, Fin.ofNat 30 (16 + j)⟩ (Fin.ofNat 5 port))
    else .sink (.cask ⟨t, r, Fin.ofNat 8 j, Fin.ofNat 16 (sel - 1)⟩)
  match p with
  | .row t r j =>
    let pt (i inp link : Nat) : Option (Stop × Nat × Option (Nat × Nat)) :=
      some (.point (.row t r (Fin.ofNat 13 i)) inp, link, none)
    let tl (k port : Nat) : Option (Stop × Nat × Option (Nat × Nat)) :=
      some (.sink (.tile ⟨t, r, Fin.ofNat 30 k⟩ (Fin.ofNat 5 port)), 1, none)
    let lc : Option (Stop × Nat × Option (Nat × Nat)) := some (.sink (.logic t r (Fin.ofNat 11 j)), 3, none)
    if j.val < 8 then
      if o < 6 then tl (2 * j + o / 3) (o % 3)
      else if o = 6 then some (mw t r j 0, 1, none)
      else if o = 7 then some (mw t r j 1, 1, none)
      else if o = 8 then (if j.val = 0 then none else pt (j - 1) 5 1)
      else if o = 9 then pt (j + 1) 4 1
      else if o = 10 then pt 11 j 2
      else if o = 11 then pt 12 j 2
      else if o = 12 then lc
      else none
    else if j.val < 10 then
      let sf := 24 + 2 * (j.val - 8)
      if o < 3 then tl sf o
      else if o < 6 then tl (sf + 1) (o - 3)
      else if o = 6 then pt (j - 1) 5 1
      else if o = 7 then (if j.val = 8 then pt 9 4 1 else pt 10 8 1)
      else if o = 8 then pt 11 j 2
      else if o = 9 then pt 12 j 2
      else if o = 10 then lc
      else none
    else if j.val = 10 then
      if o < 5 then tl 28 o
      else if o < 10 then tl 29 (o - 5)
      else if o = 10 then pt 9 5 1
      else if o = 11 then pt 11 10 2
      else if o = 12 then pt 12 10 2
      else if o = 13 then lc
      else none
    else
      if o < 10 then pt o (if j.val = 11 then 6 else 7) 2
      else if o = 10 then pt 10 (if j.val = 11 then 9 else 10) 2
      else if o = 11 then some (.point (.bridge t (Fin.ofNat 3 (j - 11))) r, 6, none)
      else none
  | .bridge t j =>
    if j.val = 2 then
      if o < 2 then some (.point (.bridge t (Fin.ofNat 3 o)) 13, 2, none) else none
    else if o < 9 then some (.point (.row t (Fin.ofNat 9 o) (Fin.ofNat 13 (11 + j))) 11, 6, none)
    else if o < 11 then
      let io := 2 * j.val + (o - 9)
      some (.sink (.hub t (Fin.ofNat 4 io)), 1 + s.lat (ioBase t io) v .io1, some (t, io))
    else if o = 11 then
      let t' : Fin 4 := Fin.ofNat 4 (t + 1)
      some (.point (.bridge t' j) 12, 2 + s.lat (ioBase t' (6 + j)) v .io2, some (t'.val, 6 + j.val))
    else if o = 12 then
      let t' : Fin 4 := Fin.ofNat 4 (t + 3)
      some (.point (.bridge t' j) 11, 2 + s.lat (ioBase t' (4 + j)) v .io2, some (t'.val, 4 + j.val))
    else if o = 13 then some (.point (.bridge t 2) j, 2, none)
    else none

/-! ## Slot Tables in use -/

/-- Is a stored indirect codeword unreadable: an uncorrectable pattern or a poison mark? (R439, R440)
(DEDUCED, log 26) -/
def State.wordBad (s : State) (sp : Space) (u i : Nat) : Bool :=
  s.poisoned (wordCw sp u i) || s.cwRs (wordCw sp u i) == .bad

/-- The array reads codewords of control words of a Row, or of a bridge switch point: each is judged and counted once (R439, R443), and an
uncorrectable one is captured with E-0804 where `cap` says so. The answer says whether one is unreadable.
(DEDUCED, log 26) -/
def State.seeCws (s : State) (row : Option (Nat × Nat)) (cap : Bool) : List Nat → Bool × State
  | [] => (false, s)
  | cw :: cws =>
    match s.cwRs cw with
    | .good _ =>
      let (b, t) := s.seeCws row cap cws
      (s.poisoned cw || b, t)
    | .corrected _ => (s.countCorrRow row).seeCws row cap cws
    | .bad => (true, ((if cap then s.ctlEcc row 0x0804 false else s.countUncRow row).seeCws row cap cws).2)

/-- Does a Slot Table entry read as all zeros for an uncorrectable word? (Table 16.1)
(DEDUCED, log 26) -/
def State.slotBad (s : State) (p : PointRef) (v sl : Nat) : Bool :=
  s.wordBad .slot (pointKey p) (v * 1024 + sl * 4) || s.wordBad .slot (pointKey p) (v * 1024 + sl * 4 + 2)

/-- Is an input port of a point an MM MR port? -/
def isMR : PointRef → Nat → Bool
  | .row _ _ j, i => decide (j.val < 8) && (i == 2 || i == 3)
  | .bridge _ _, _ => false

/-- The codewords of a Slot Table entry. -/
def slotCws (p : PointRef) (v sl : Nat) : List Nat := [0, 2].map fun c => wordCw .slot (pointKey p) (v * 1024 + sl * 4 + c)

/-- The connection in force in a slot that takes an input port; at a source's own MR port the one whose sel names it (R139).
(DEDUCED, log 26) -/
def State.connAt (s : State) (p : PointRef) (v a inp : Nat) (sel : Option Nat) : Option Word :=
  let sl := a % s.frameLen p v
  if s.slotBad p v sl then none
  else
    ((List.range 4).map (s.conn p v sl)).find? fun w =>
      connEn w && connIn w == inp &&
        (match sel with | some x => !isMR p inp || connSel w == x | none => true)

/-- The output ports a connection drives. -/
def outsOf (w : Word) : List Nat := (List.range 16).filter fun o => bitN (connMask w) o

/-- What a trace finds: the hops and the sinks with their arrival ac; none where the route breaks (R141). -/
def traceFrom (s : State) (v : Nat) : Nat → PointRef → Nat → Nat → Option Nat → Option (List Hop × List (SnkRef × Nat))
  | 0, _, _, _, _ => none
  | fuel + 1, p, inp, a, sel =>
    match s.connAt p v a inp sel with
    | none => none
    | some w =>
      (outsOf w).foldl
        (fun acc o =>
          match acc, nextOf s v p o (connSel w) with
          | some (hs, ks), some (.sink k, link, _) => some (hs, ks ++ [(k, a + 1 + connReg w + link)])
          | some (hs, ks), some (.point q i, link, _) =>
            match traceFrom s v fuel q i (a + 1 + connReg w + link) none with
            | some (hs', ks') => some (hs ++ hs', ks ++ ks')
            | none => none
          | _, _ => none)
        (some ([⟨p, inp, w⟩], []))

/-- The first point, with the ac, whose Slot Table entry a route from a port would need and cannot read (R440). -/
def badOn (s : State) (v : Nat) : Nat → PointRef → Nat → Nat → Option Nat → Option (PointRef × Nat)
  | 0, _, _, _, _ => none
  | fuel + 1, p, inp, a, sel =>
    if s.slotBad p v (a % s.frameLen p v) then some (p, a)
    else match s.connAt p v a inp sel with
      | none => none
      | some w => (outsOf w).findSome? fun o =>
        match nextOf s v p o (connSel w) with
        | some (.point q i, link, _) => badOn s v fuel q i (a + 1 + connReg w + link) none
        | _ => none

/-- The source as its circuits name it: the streams of an IO port share its connections, circuits and credits (R135, R145). -/
def hubPort : SrcRef → SrcRef
  | .hub t io _ => .hub t io (.plane 0)
  | src => src
/-- The circuit a source's flit takes when it is emitted in ac `a` (R140, R141). -/
def circuitAt (s : State) (v : Nat) (src : SrcRef) (a : Nat) : Option Circuit :=
  let (p, ins, pre) := srcEntry s v src
  ins.findSome? fun i =>
    match traceFrom s v 200 p i (a + pre) (srcSel src) with
    | some (hs, ks) => some ⟨hubPort src, hs, ks.map fun (k, t) => (k, t - a)⟩
    | none => none

/-! ## Credits (R145) -/

/-- The capacity a sink grants.
(DEDUCED, log 22) -/
def sinkCap (s : State) : SnkRef → Nat
  | .tile _ _ => 8
  | .cask c => s.caskBound c
  | .logic _ _ _ => 8
  | .hub _ _ => 64

/-- Does a counter belong to this circuit and sink? -/
def CreditCtr.is (x : CreditCtr) (c : Circuit) (k : SnkRef) : Bool := x.circ == c && x.snk == k

/-- Is a circuit one that Vintage `v`'s tables make? -/
def State.circuitIn (s : State) (v : Nat) (c : Circuit) : Bool := (List.range 256).any fun a => circuitAt s v c.src a == some c
/-- The counter of an outgoing circuit that a target circuit takes over: it joins the same source and sink (R145). -/
def State.outgoing (s : State) (c : Circuit) (k : SnkRef) : Option CreditCtr :=
  match s.sw with
  | some w =>
    if w.armed && !s.circuitIn w.old c then
      s.arr.credits.find? fun x => x.circ.src == c.src && x.snk == k && x.circ != c && !s.circuitIn w.target x.circ
    else none
  | none => none

/-- The credit counter of a circuit for a sink. -/
def State.credit (s : State) (c : Circuit) (k : SnkRef) : Nat :=
  match s.arr.credits.find? (·.is c k) with
  | some x => x.n
  | none => match s.outgoing c k with | some x => x.n | none => sinkCap s k

/-- Set a credit counter; a counter at its sink's capacity is not listed. -/
def State.setCredit (s : State) (c : Circuit) (k : SnkRef) (n : Nat) : State :=
  let gone : Option CreditCtr := if s.arr.credits.any (·.is c k) then none else s.outgoing c k
  let keep := s.arr.credits.filter fun x => !(x.is c k) && some x != gone
  s.mapArr fun a => { a with credits := if n = sinkCap s k then keep else keep ++ [⟨c, k, n⟩] }

/-- The circuit that joins a source to a sink in Vintage `v`'s tables. -/
def State.joins (s : State) (v : Nat) (src : SrcRef) (k : SnkRef) : Option Circuit :=
  (List.range 256).findSome? fun a => (circuitAt s v src a).filter fun c => c.sinks.any fun q => q.1 == k
/-- The counters once a switch has completed: those of the target's circuits, with the values they take over; no other (R145). -/
def State.creditsFor (s : State) (v : Nat) : List CreditCtr :=
  s.arr.credits.foldl (fun acc x =>
    if s.circuitIn v x.circ then acc ++ [x]
    else match s.joins v x.circ.src x.snk with
      | some c => if (s.arr.credits ++ acc).any (·.is c x.snk) then acc else acc ++ [{ x with circ := c }]
      | none => acc) []
/-- Take one credit of every counter of a circuit. -/
def State.spend (s : State) (c : Circuit) : List (SnkRef × Nat) → State
  | [] => s
  | (k, _) :: ks => (s.setCredit c k (s.credit c k - 1)).spend c ks

/-- The latency of a circuit to a sink. -/
def Circuit.latTo (c : Circuit) (k : SnkRef) : Nat := ((c.sinks.find? fun x => x.1 == k).map (·.2)).getD 0

/-- A sink frees an entry in ac `f`: the credit reaches the source L ac later (R145). -/
def State.freeEntry (s : State) (k : SnkRef) (c : Circuit) (f : Nat) : State :=
  s.mapArr fun a => { a with creditFlights := a.creditFlights ++ [⟨c, k, f + c.latTo k, 0⟩] }

/-- The effect of CREDIT_ARRIVAL: the first due credit of a source and sink increments its counter. -/
def creditArrive (s : State) (src : SrcRef) (k : SnkRef) : State :=
  let hit := fun (x : CreditFlight) => x.circ.src == hubPort src && x.snk == k && s.dueBy x.due x.skip && s.moves x.circ
  match s.arr.creditFlights.find? hit with
  | none => s
  | some x =>
    let s := s.mapArr fun a => { a with creditFlights := eraseFirst hit a.creditFlights }
    match s.arr.credits.find? (·.is x.circ k) with
    | some y => s.setCredit x.circ k (y.n + 1)
    | none =>
      match s.arr.credits.find? (fun y => y.circ.src == hubPort src && y.snk == k) with
      | some y => s.setCredit y.circ k (y.n + 1)
      | none => s

/-! ## Emission (R145, R147) -/

/-- What an attempt to emit finds. -/
inductive EmitRes where
  /-- No connection takes the source's port in this slot, the flit is bound to another circuit, or a flit has left in this ac. -/
  | noSlot
  | noCredit (c : Circuit) (k : SnkRef)
  | sent (s : State) (c : Circuit)

/-- Emit a flit of a source in the present ac on the circuit of this slot, if every counter of the circuit is above 0. -/
def emitVia (s : State) (src : SrcRef) (f : Flit) (bound : Option Circuit) : EmitRes :=
  let v := s.carryV f.tag
  let a := s.srcAc src
  match circuitAt s v src a with
  | none => .noSlot
  | some c =>
    if s.arr.emitted.contains (hubPort src) || !s.moves c || (match bound with | some b => b != c | none => false) then .noSlot
    else
      match c.sinks.find? (fun x => s.credit c x.1 == 0) with
      | some (k, _) => .noCredit c k
      | none =>
        let s := s.spend c c.sinks
        let (p, _, pre) := srcEntry s v src
        let i := ((c.route.head?).map (·.inPort)).getD 0
        let cross := match src with | .hub t io _ => some (t.val, io.val) | _ => none
        .sent (s.mapArr fun x => { x with
          flights := x.flights ++ [⟨.point p i, a + pre, f, c, cross, a - x.runAc⟩]
          emitted := hubPort src :: x.emitted }) c

/-- The location of a sink for E-0601 (R171): a cask by kind 6, a tile's input stage by its port.
(DESIGN CHOICE, log 201) -/
def sinkLoc (s : State) (srcT : Nat) (pc band : Nat) : SnkRef → FaultLoc
  | .cask c => { n := srcT, row := c.row, kind := 6, index := c.c, pc := pc, band := band, auxMm := c.m, auxPort := 0,
                 auxUnit := 0, auxTer := c.t }
  | .tile r p => { n := srcT, row := r.row, kind := kindNum r.k, index := idxOf r.k, pc := pc, band := band, auxMm := 0,
                   auxPort := p, auxUnit := 0, auxTer := r.t }
  | .logic t r j => { n := srcT, row := r, kind := 7, index := j, pc := pc, band := band, auxMm := 0, auxPort := 0,
                      auxUnit := 0, auxTer := t }
  | .hub t io => { n := srcT, row := 15, kind := 4, index := io, pc := pc, band := s.job.bandsClosed, auxMm := 0, auxPort := 0,
                   auxUnit := 0, auxTer := t }

/-- The Terrace of a source. -/
def srcTer : SrcRef → Nat
  | .tile r _ => r.t | .cask c => c.t | .logic t _ _ => t | .hub t _ _ => t

/-- A flit carried by the tables of Vintage `v` is presented without credit (R148): E-0601 naming the sink in Locked mode, and the job
stops at the next band boundary; in Elastic mode a stall episode (R67). A Graft source just waits (R238). -/
def State.noCreditFault (s : State) (v : Nat) (src : SrcRef) (k : SnkRef) (pc band : Nat) : State :=
  if s.graftFlow v src k then s
  else if s.elastic then s.addElast 1 else (s.terFault (sinkLoc s (srcTer src) pc band k) 0x0601).stopJob

/-! ## Input stages (R144, R146) -/

/-- The flits of an input stage. -/
def TileSt.stage (x : TileSt) (p : Nat) : List StageEntry := nth [] x.stages p
/-- Replace an input stage. -/
def TileSt.setStage (x : TileSt) (p : Nat) (q : List StageEntry) : TileSt := { x with stages := setNth x.stages p q }
/-- The flits waiting at an output port. -/
def TileSt.out (x : TileSt) (p : Nat) : List OutEntry := nth [] x.outq p
/-- Replace an output queue. -/
def TileSt.setOut (x : TileSt) (p : Nat) (q : List OutEntry) : TileSt := { x with outq := setNth x.outq p q }

/-- The head of an input stage a firing in ac `a` may take: it arrived before `a` (R146). -/
def TileSt.headAt (x : TileSt) (p a : Nat) : Option StageEntry :=
  match x.stage p with
  | e :: _ => if e.arr < a then some e else none
  | [] => none

/-- Are the first `n` flits of a stage takeable in ac `a`? -/
def TileSt.hasN (x : TileSt) (p n a : Nat) : Bool :=
  decide (n ≤ (x.stage p).length) && ((x.stage p).take n).all fun e => decide (e.arr < a)

/-- Take the head of an input stage in ac `a` and send its credit. -/
def State.takeStage (s : State) (r : TileRef) (p a : Nat) : State :=
  let x := s.tile r
  match x.stage p with
  | e :: q => (s.setTile r (x.setStage p q)).freeEntry (.tile r (Fin.ofNat 5 p)) e.circ a
  | [] => s

/-- Take the first `n` flits of a stage. -/
def State.takeStageN (s : State) (r : TileRef) (p a : Nat) : Nat → State
  | 0 => s
  | n + 1 => (s.takeStage r p a).takeStageN r p a n

/-- Offer flits at an output port: the first presents itself from ac `due`, the next ones on the ac after (one flit per ac). -/
def TileSt.offer (x : TileSt) (p due : Nat) : List Flit → TileSt
  | [] => x
  | f :: fs =>
    let q := x.out p
    let d := match q.getLast? with | some e => Nat.max due (e.due + 1) | none => due
    (x.setOut p (q ++ [⟨d, f, none, false⟩])).offer p (d + 1) fs

/-- Does the Hub feed an input port of a tile in Vintage `v`? (R66) -/
def State.hubFed (s : State) (r : TileRef) (v p : Nat) : Bool :=
  (List.range 4).any fun t => (List.range 4).any fun io => (List.range 256).any fun a =>
    match circuitAt s v (.hub (Fin.ofNat 4 t) (Fin.ofNat 4 io) (.plane 0)) a with
    | some c => c.sinks.any fun q => q.1 == .tile r (Fin.ofNat 5 p)
    | none => false

/-- Is an output held by a flit that found no credit? (R147, R148) -/
def TileSt.outHeld (x : TileSt) (p : Nat) : Bool := match x.out p with | e :: _ => e.logged | [] => false

end Sys2Proof.Machine
end

