-- ==== Sys2Proof/Machine/Seq.lean ====
section
/-!
DEFINITION. Machine/Seq.lean: the local sequencer (02 R45–R53, R65–R68): events and latches, loops, waits, the Vintage change
at a tile, the cycle ledger at a band close (06 R183, R184) and the take of gain entries (03 R104, R105).
-/
namespace Sys2Proof.Machine

/-! ## Readiness -/

/-- Does a Winograd drain lack the P-in flit that it reads in the present ac? The sequencer then stalls (R119). -/
def State.drainLate (s : State) (r : TileRef) : Bool :=
  match (s.tile r).drain with
  | some d => !d.wait.isEmpty && decide (d.nextRead ≤ s.arr.runAc)
  | none => false

/-- An ac in which a drain stalls the sequencer is one spent in state 3 (R66, R183).
(DEDUCED, log 169) -/
def State.drainStall (s : State) (r : TileRef) : State :=
  let x := s.tile r
  if x.st == .firing || x.st == .waiting then
    (s.setTile r { x with next := if x.next ≤ s.arr.runAc then x.next + 1 else x.next, led := { x.led with stall := x.led.stall + 1 } }).fcount
      (F.MX_STALL_CNT_stall_ac (tb r)) 1
  else s

/-- May the current instruction of a tile act in the present ac? (R65)
(DEDUCED, log 3) -/
def State.seqReady (s : State) (r : TileRef) : Bool :=
  let x := s.tile r
  s.arrayRuns && x.started && decide (x.next ≤ s.arr.runAc) && !s.drainLate r &&
    (x.st == .firing || x.st == .waiting || x.st == .stalled)

/-- The micro-instruction a tile stands at. -/
def State.curWord (s : State) (r : TileRef) : Nat := (s.progWord r (s.tile r).vint (s.tile r).pc).toNat
/-- Opcode of a micro-instruction word (Table 2.3). -/
def uOp (w : Nat) : Nat := bitsN w 28 4

/-- A tile reads its control words before it acts: where one is unreadable, E-0804, the tile enters state 5 and the job stops (Table 16.1).
(DEDUCED, log 26) -/
def State.withCtl (s : State) (r : TileRef) (cws : List Nat) (f : State → State) : State :=
  let (bad, s) := s.seeCws (some (r.t, r.row)) true cws
  if bad then s.tileDead r 0x0804 else f s

/-- The codeword of the current program word. -/
def State.progCw (s : State) (r : TileRef) : Nat := wordCw .param (tileKey r) ((s.tile r).vint * 0x40 + (s.tile r).pc % 64)
/-- Is the current program word unreadable? -/
def State.progBad (s : State) (r : TileRef) : Bool :=
  s.wordBad .param (tileKey r) ((s.tile r).vint * 0x40 + (s.tile r).pc % 64)
/-- The codewords of a generator: its four words and its partition. -/
def genCws (r : TileRef) (v g : Nat) : List Nat :=
  [0x110 + v * 0x10 + g * 4, 0x112 + v * 0x10 + g * 4, 0x190 + v * 4 + g].map (wordCw .param (tileKey r))
/-- The codeword of a descriptor. -/
def State.opdCw (_ : State) (r : TileRef) (v d : Nat) : Nat := wordCw .param (tileKey r) (0x150 + v * 0x10 + d)
/-- The codewords of a tile's adaptation words 0–2. -/
def adaptCws (r : TileRef) (v : Nat) : List Nat := [0x3A0 + v * 0x10, 0x3A2 + v * 0x10].map (wordCw .param (tileKey r))
/-- The codewords an instruction reads beside its firings: its own word, once, a loop count and a generator it rotates. -/
def State.instrCws (s : State) (r : TileRef) (w : Nat) : List Nat :=
  let v := (s.tile r).vint
  (if (s.tile r).st == .waiting then [] else [s.progCw r]) ++
    (if uOp w = 1 ∧ bitN w 25 then [wordCw .param (tileKey r) (0x100 + v * 4 + bitsN w 16 2)]
     else if uOp w = 5 then (genCws r v (bitsN w 26 2)).take 2 else [])
/-- Codewords of the unit-table entry of a tile are read: an unreadable one takes the tile to state 5 with E-0804 (Table 16.1). -/
def State.unitSee (s : State) (r : TileRef) (v k n : Nat) : State :=
  s.withCtl r ((List.range n).map fun i => wordCw .unit r.t (8 * ((v * 9 + r.row) * 30 + r.k) + 2 * (k + i))) id

/-- Run `f` when the tile stands, ready, at a micro-instruction of opcode `op` for which `p` holds; otherwise the event is not
enabled and nothing changes.
(DEDUCED, log 3; DESIGN CHOICE, log 4) -/
def State.atInstr (s : State) (r : TileRef) (op : Nat) (p : Nat → Bool) (f : State → Nat → State) : State :=
  if s.seqReady r && (s.tile r).fire.isNone then
    if s.progBad r then s.withCtl r [s.progCw r] id
    else if uOp (s.curWord r) == op && p (s.curWord r) then s.withCtl r (s.instrCws r (s.curWord r)) fun t => f t (s.curWord r) else s
  else s

/-! ## Loops (R46) -/

/-- What the loop-end test finds. -/
inductive LoopEnd where
  | fault
  | goto (pc : Nat) (ls : List LoopSt)
deriving DecidableEq, Repr

/-- The test when the instruction at `pc` completes, innermost open loop first. -/
def loopEnd (pc : Nat) : List LoopSt → LoopEnd
  | [] => .goto (pc + 1) []
  | l :: ls =>
    if l.endPc = pc then
      if l.rem > 1 then .goto l.start ({ l with rem := l.rem - 1 } :: ls)
      else if l.rem = 1 then loopEnd pc ls
      else .fault
    else .goto (pc + 1) (l :: ls)

/-- The current instruction completes in ac `a`: loop-end test, then the next instruction may act from `a + 1`.
(DEDUCED, log 3) -/
def State.seqDone (s : State) (r : TileRef) (a : Nat) : State :=
  let x := s.tile r
  match loopEnd x.pc x.loops with
  | .fault => s.tileDead r 0x0710
  | .goto pc ls =>
    s.setTile r { x with pc := pc % 64, loops := ls, next := a + 1, st := .firing, why := .none, fire := none }

/-! ## The Winograd input stage (R116) -/

/-- The innermost loop ends after one more trip. -/
def onceMore : List LoopSt → List LoopSt
  | [] => []
  | l :: ls => { l with rem := 1 } :: ls
/-- The next FIRE in program order from `pc` with loops `ls` open: its descriptor and length. A body is gone through once more at most, since
a body that has been gone through holds no FIRE. -/
def State.nextFire (s : State) (r : TileRef) (v : Nat) : Nat → Nat → List LoopSt → Option (Nat × Nat)
  | 0, _, _ => none
  | n + 1, pc, ls =>
    let w := (s.progWord r v pc).toNat
    let op := uOp w
    if op = 2 then some (bitsN w 24 4, bitsN w 0 16 + 1)
    else if op = 6 then none
    else if op = 4 then s.nextFire r v n (bitsN w 0 6) ls
    else if op = 1 then
      let trips := Nat.min 1 (if bitN w 25 then s.cnt r v (bitsN w 16 2) else bitsN w 0 16)
      s.nextFire r v n ((pc + 1) % 64) ({ ctr := bitsN w 26 2, start := (pc + 1) % 64, endPc := bitsN w 18 6, trips := trips, rem := trips } :: ls)
    else
      match loopEnd pc ls with
      | .fault => none
      | .goto q ls' => s.nextFire r v n (q % 64) (if q ≤ pc then onceMore ls' else ls')

/-- The raw flits that the buffer not in use takes: the group of the next FIRE, when it is a Winograd FIRE; the one that runs while its
first firing has not been made.
(DEDUCED, log 18) -/
def State.winoNeed (s : State) (r : TileRef) : Nat :=
  let x := s.tile r
  let wino (d : Nat) : Bool := bitsW (s.opd r x.vint d) 0 4 == 5
  let after (pc : Nat) (ls : List LoopSt) : Nat :=
    match s.nextFire r x.vint 512 pc ls with | some (d, len) => if wino d then len else 0 | none => 0
  if !x.started then 0
  else match x.fire with
    | none => after x.pc x.loops
    | some f =>
      if !wino f.d then 0
      else if f.b = 0 then f.len
      else match loopEnd x.pc x.loops with | .goto pc ls => after (pc % 64) ls | .fault => 0

/-- Move raw flits from A-in into the Winograd buffer that is not in use (R116); a flit stays in its stage in the ac it arrives.
(DEDUCED, log 18) -/
def winoPull (s : State) (r : TileRef) (a need : Nat) : Nat → State
  | 0 => s
  | fuel + 1 =>
    let x := s.tile r
    match x.stage 0 with
    | e :: q =>
      if x.winoFill.length < need then
        winoPull ((s.setTile r { x.setStage 0 q with winoFill := x.winoFill ++ [e] }).freeEntry (.tile r 0) e.circ
          (Nat.max a (e.arr + 1))) r a need fuel
      else s
    | [] => s
/-- The transform stage of an MX tile takes what it has room for. -/
def State.winoPump (s : State) (r : TileRef) : State :=
  if kindOf r.k == .mx then winoPull s r s.arr.runAc (s.winoNeed r) 8 else s

/-- IDLE (R45): n + 1 ac with the datapath doing nothing; it completes in its last ac. -/
def idleEff (s : State) (r : TileRef) : State :=
  s.atInstr r 0 (fun w => decide ((s.tile r).next + bitsN w 0 16 ≤ s.arr.runAc)) fun s w =>
    let x := s.tile r
    (s.setTile r { x with led := { x.led with idle := x.led.idle + (bitsN w 0 16 + 1) } }).seqDone r
      (x.next + bitsN w 0 16)

/-- LOOP (R46, R47): opens a loop on its counter and takes no ac. -/
def loopEff (s : State) (r : TileRef) : State :=
  s.atInstr r 1 (fun _ => true) fun s w =>
    let x := s.tile r
    let trips := if bitN w 25 then s.cnt r x.vint (bitsN w 16 2) else bitsN w 0 16
    let l : LoopSt := { ctr := bitsN w 26 2, start := (x.pc + 1) % 64, endPc := bitsN w 18 6, trips := trips, rem := trips }
    s.setTile r { x with loops := l :: x.loops, pc := (x.pc + 1) % 64, st := .firing }

/-- JUMP (R45): control moves to the target and no ac passes. -/
def jumpEff (s : State) (r : TileRef) : State :=
  s.atInstr r 4 (fun _ => true) fun s w =>
    let x := s.tile r
    s.setTile r { x with pc := bitsN w 0 6, st := .firing }

/-- ROT (R53): advances a generator's rot by rot_step, wrapped. -/
def rotEff (s : State) (r : TileRef) : State :=
  s.atInstr r 5 (fun _ => true) fun s w =>
    let x := s.tile r
    let g := bitsN w 26 2
    match loopEnd x.pc x.loops with
    | .fault => s.tileDead r 0x0710
    | .goto pc ls => s.setTile r { x with rot := setNth x.rot g (rotNext s r x g), pc := pc % 64, loops := ls, st := .firing }

/-- HALT (R45): halted until the next START_JOB or a Vintage change at this tile. -/
def haltEff (s : State) (r : TileRef) : State :=
  s.atInstr r 6 (fun _ => true) fun s _ => s.setTile r { s.tile r with st := .halted }

/-- FIRE (R49): opens the firings of a descriptor; the first falls due in the same ac. -/
def fireEff (s : State) (r : TileRef) : State :=
  s.atInstr r 2 (fun _ => true) fun s w =>
    let x := s.tile r
    s.setTile r { x with
      st := .firing
      fire := some { d := bitsN w 24 4, e := bitsN w 22 2, clrFirst := bitN w 21, swapLast := bitN w 20,
                     len := bitsN w 0 16 + 1, b := 0, ag0 := 0, ag2 := 0, wset := [], wPoison := false } }

/-! ## Events (R50, R177) -/

/-- Line events latched. -/
def lineCount (l : List LatchEv) : Nat := (l.filter fun e => e == .line).length
/-- Band events latched. -/
def bandCount (l : List LatchEv) : Nat := (l.filter fun e => e != .line).length
/-- The tag of the oldest band event latched. -/
def headBand (l : List LatchEv) : Option Nat :=
  l.findSome? fun e => match e with | .band t => some t | .line => none
/-- Drop the line events before the oldest band event (R51). -/
def dropLinesBefore : List LatchEv → List LatchEv
  | .line :: es => dropLinesBefore es
  | es => es

/-- Is a switch armed whose band-b event carries this tag? (R51, R188) -/
def State.switchAt (s : State) (tag : Nat) : Option SwitchSt :=
  match s.sw with
  | some w => if w.armed && w.band % 16 == tag then some w else none
  | none => none

/-- The output ports on which a tile marks events; RK units pass both bits unchanged (R178). -/
def outPorts (k : Nat) : List Nat :=
  match kindOf k with | .mx => [0] | .mm => [0, 1] | .sf => [0, 1] | .rk => []

/-- A tile starts at pc 0 of Vintage `v` with its loops closed and rot 0 (R51, R52). -/
def TileSt.enter (x : TileSt) (v a : Nat) : TileSt :=
  { x with pc := 0, vint := v, loops := [], rot := [0, 0, 0, 0], fire := none, next := a, st := .firing, why := .none,
           started := true, latch := dropLinesBefore x.latch, fresh := true, begun := true }

/-- A tile that a Vintage does not use stands idle in it, at pc 0 with its loops closed and rot 0 (R51, R191).
(DEDUCED, log 171) -/
def TileSt.leave (x : TileSt) (v : Nat) : TileSt :=
  { x with pc := 0, vint := v, loops := [], rot := [0, 0, 0, 0], fire := none, st := .idle, why := .none, started := false, inBand := false,
           led := ⟨0, 0, 0⟩ }

/-- After a completed switch a tile that the active Vintage does not use is held idle (MX.SEQ_CTRL, R191).
(DEDUCED, log 147) -/
def State.retire (s : State) (r : TileRef) : State :=
  if s.sw.isNone && !s.usesTile r s.activeV then s.setTile r ((s.tile r).leave s.activeV) else s

/-- A FIRE completes; one that ran when its tile's Vintage went out of use ran to its end (Table 2.4).
(DEDUCED, log 147) -/
def State.fireDone (s : State) (r : TileRef) (a : Nat) : State := ((s.seqDone r a).retire r).winoPump r

/-- Does a tile start at the band event of this tag? The target of the switch armed for it, or completed before it came, uses the tile,
which is idle, halted or faulted or which the outgoing Vintage does not use (R51, R189). -/
def State.startsAt (s : State) (r : TileRef) (tag : Nat) : Option SwitchSt :=
  match (match s.switchAt tag with | some w => some w | none => s.arr.lastSw.filter fun w => w.band % 16 == tag && w.target == s.activeV) with
  | none => none
  | some w =>
    let x := s.tile r
    if s.usesTile r w.target && (x.vint != w.target || !x.started) &&
        (x.st == .idle || x.st == .halted || x.st == .faulted || !s.usesTile r w.old) then some w
    else none

/-- A tile starts at its band-b event: its WAIT BAND there starts band b, so that event is the one its latch holds (R144, R189).
(DEDUCED, log 170) -/
def State.resumeAt (s : State) (r : TileRef) (w : SwitchSt) (tag : Nat) : State :=
  (s.setTile r { (s.tile r).enter w.target (s.arr.runAc + 1) with band := w.band - 1, latch := [.band tag] }).winoPump r

/-- Latch an event at a tile (R50); an event at a full latch is lost with E-0713, silently in state 5 (R74). -/
def State.latchOne (s : State) (r : TileRef) (e : LatchEv) : State :=
  let x := s.tile r
  let full := match e with | .line => decide (lineCount x.latch ≥ 15) | .band _ => decide (bandCount x.latch ≥ 3)
  if full then (if x.st == .faulted then s else s.tileDead r 0x0713)
  else s.setTile r { x with latch := x.latch ++ [e] }

/-- The events of a flit or of the broadcast reach a tile; a band event goes before the line event that comes with it.
(DEDUCED, log 12; DEDUCED, log 13) -/
def State.latchEvents (s : State) (r : TileRef) (line band : Bool) (tag : Nat) : State :=
  let s := if band then (match s.startsAt r tag with | some w => s.resumeAt r w tag | none => s.latchOne r (.band tag)) else s
  if line then s.latchOne r .line else s

/-- WAIT LINE (R50): completes in the first ac its latch is above 0. -/
def waitLineEff (s : State) (r : TileRef) : State :=
  s.atInstr r 3 (fun w => bitsN w 24 4 == 1) fun s _ =>
    let x := s.tile r
    if lineCount x.latch = 0 then s.setTile r { x with st := .waiting }
    else
      (s.setTile r { x with latch := eraseFirst (fun e => e == .line) x.latch, markLine := outPorts r.k }).seqDone r
        s.arr.runAc

/-! ## The ledger (R183–R185) -/

/-- Raise E-0720 against a cask (R184). -/
def State.ledgerBad (s : State) (l : FaultLoc) : State :=
  ((s.terFault l 0x0720).fcount (F.TER_LDG_STATUS_mismatches l.n) 1).stopJob
/-- Raise E-0720 against a tile, captured as in R73 (R184).
(DEDUCED, log 153) -/
def State.ledgerTile (s : State) (r : TileRef) : State :=
  ((s.tileFault r 0x0720).fcount (F.TER_LDG_STATUS_mismatches r.t) 1).stopJob

/-- The tile's counts against the unit-table entry of the Vintage in which it started the band. -/
def ledgerOk (s : State) (r : TileRef) (x : TileSt) : Bool :=
  let f := bitsW (s.unitWord r x.ledV (if x.firstBand then 1 else 3)) 0 24
  let i := bitsW (s.unitWord r x.ledV (if x.firstBand then 2 else 4)) 0 24
  x.led.fire == f && x.led.idle == i && x.led.stall == 0

/-- The cask peaks an MM tile checks at its band close: every enabled cask of the Vintage. -/
def State.closePeaks (s : State) (r : TileRef) (v band : Nat) : State :=
  if kindOf r.k = .mm then
    (List.range 16).foldl
      (fun s i =>
        let c : CaskRef := ⟨r.t, r.row, Fin.ofNat 8 (idxOf r.k), Fin.ofNat 16 i⟩
        let k := s.cask c
        let s' := if s.caskEn c && s.caskUse c v && decide (k.peak > s.caskPeak c v) && !s.lenient r v then
          s.ledgerBad { n := r.t, row := r.row, kind := 6, index := i, pc := 0, band := band, auxMm := idxOf r.k, auxPort := 0,
                        auxUnit := 0, auxTer := r.t }
          else s
        if k.peak = k.cnt then s' else s'.setCask c { k with peak := k.cnt }) s
  else s

/-- The unit-table codewords that a band close reads: the counts of a first or a later band, and an MM tile's cask peaks. -/
def closeCws (r : TileRef) (x : TileSt) : List Nat :=
  let b := 8 * ((x.ledV * 9 + r.row) * 30 + r.k)
  ((if x.firstBand then [b, b + 2] else [b + 2, b + 4]) ++
    (if kindOf r.k = .mm then (List.range 4).map fun i => 0x2200 + (x.ledV * 9 + r.row) * 64 + idxOf r.k * 8 + 2 * i else [])).map (wordCw .unit r.t)

/-- Close band `x.band` at a tile: keep the counts for LDG_OBS and compare them in Locked mode (R183, R184).
(DEDUCED, log 11) -/
def State.closeBand (s : State) (r : TileRef) : State :=
  let x := s.tile r
  let bad := !s.lenient r x.ledV && !ledgerOk s r x
  let sat (n : Nat) : Nat := Nat.min n (2 ^ 24 - 1)
  let s := s.setTile r { x with obs := ⟨sat x.led.fire, sat x.led.idle, sat x.led.stall⟩, obsBand := x.band,
                                led := ⟨0, 0, 0⟩, bandsClosed := x.bandsClosed + 1, inBand := false }
  let s := if bad then s.ledgerTile r else s
  let (t, s) := s.seeCws (some (r.t, r.row)) true (closeCws r x)
  let s := if t then s.tileDead r 0x0804 else s
  s.closePeaks r x.ledV x.band

/-! ## Gain entries (R102–R105) -/

/-- Read a scale-stream entry from its flit (Table 3.7). -/
def entryOf (f : Flit) (src : SrcRef) : ScaleEntry :=
  let d := f.data.toNat
  { value := bitsN d 0 16, tag := bitsN d 16 4, kind := bitsN d 20 2, layer := bitsN d 22 8, rcp := bitsN d 32 16,
    poison := f.poison, src := some src }

/-- The flit of a scale-stream entry. -/
def flitOfEntry (e : ScaleEntry) : Flit :=
  { data := BitVec.ofNat 256 (e.value + 2 ^ 16 * e.tag + 2 ^ 20 * e.kind + 2 ^ 22 * e.layer + 2 ^ 32 * e.rcp),
    poison := e.poison, tag := 0, last := false, evLine := false, evBand := false, smk := true }

/-- Does a tile take gain entries in Vintage `v`? SF with adapt 1 or 2, MX with scaled_bias (R104).
(DESIGN CHOICE, log 179) -/
def State.wantsGain (s : State) (r : TileRef) (v : Nat) : Bool :=
  match kindOf r.k with
  | .sf => (List.range 16).any fun d => let a := bitsW (s.opd r v d) 7 2
                                       decide (bitsW (s.opd r v d) 0 5 ≤ 4) && (a == 1 || a == 2)
  | .mx => (List.range 16).any fun d => bitW (s.aux r v d) 11
  | _ => false

/-- Is an SF tile the lead of its layer, or first in its chain? (R99) -/
def State.isLead (s : State) (r : TileRef) (v : Nat) : Bool := kindOf r.k == .sf && bitW (s.adapt r v 0) 28
def State.isFirst (s : State) (r : TileRef) (v : Nat) : Bool := bitW (s.adapt r v 0) 29
def State.layerOf (s : State) (r : TileRef) (v : Nat) : Nat := bitsW (s.adapt r v 0) 20 8
/-- Does an SF tile collect for adaptation: lead, or a chain member that collects? -/
def State.collects (s : State) (r : TileRef) (v : Nat) : Bool :=
  kindOf r.k == .sf && (List.range 16).any fun d =>
    let w := s.opd r v d
    decide (bitsW w 0 5 ≤ 4) && (bitW w 6 || bitsW w 0 5 == 4)

/-- Record a scale mismatch in TAG_LOG, the first since it was cleared (R105). -/
def State.tagLog (s : State) (r : TileRef) (e : ScaleEntry) (dataTag : Nat) (layerBad : Bool) : State :=
  let b := tb r
  let sf := kindOf r.k == .sf
  let v := if sf then F.SF_TAG_LOG_valid b else F.MX_TAG_LOG_valid b
  if s.fbit v then s
  else
    let pick (fs fm : Fld) : Fld := if sf then fs else fm
    let (cask, mm, row) := match e.src with
      | some (.cask c) => (c.c.val, c.m.val, c.row.val)
      | _ => (0, 0, 0)
    let s := s.fset (pick (F.SF_TAG_LOG_data_tag b) (F.MX_TAG_LOG_data_tag b)) dataTag
    let s := s.fset (pick (F.SF_TAG_LOG_entry_tag b) (F.MX_TAG_LOG_entry_tag b)) e.tag
    let s := s.fset (pick (F.SF_TAG_LOG_cask b) (F.MX_TAG_LOG_cask b)) cask
    let s := s.fset (pick (F.SF_TAG_LOG_mm_tile b) (F.MX_TAG_LOG_mm_tile b)) mm
    let s := s.fset (pick (F.SF_TAG_LOG_mm_row b) (F.MX_TAG_LOG_mm_row b)) row
    let s := s.fset (pick (F.SF_TAG_LOG_poisoned b) (F.MX_TAG_LOG_poisoned b)) (if e.poison then 1 else 0)
    let s := if sf then s.fset (F.SF_TAG_LOG_layer_bad b) (if layerBad then 1 else 0) else s
    s.fset v 1

/-- E-0520 at a tile (R105, R106). -/
def State.scaleBad (s : State) (r : TileRef) (e : ScaleEntry) (dataTag : Nat) (layerBad : Bool) : State :=
  (s.tileFault r 0x0520).tagLog r e dataTag layerBad

/-- Apply a gain entry to the band a tile runs (R104, R105). The answer says whether the entry is consumed: an entry that is
sound but for a tag 1–7 bands ahead stays for the band it names. -/
def State.applyGain (s : State) (r : TileRef) (e : ScaleEntry) : State × Bool :=
  let x := s.tile r
  let sf := kindOf r.k == .sf
  let dt := x.band % 16
  let layerBad := sf && e.layer != s.layerOf r x.vint
  let diff := (e.tag + 16 - dt) % 16
  if !e.poison && !layerBad && diff == 0 then
    (s.setTile r { x with gain := e.value, rcp := e.rcp, gainTag := e.tag, gainNeed := false }, true)
  else
    let s1 := s.scaleBad r e dt layerBad
    let s1 := if s.isElastic x.vint then s1 else s1.stopJob
    let ahead := !e.poison && !layerBad && decide (1 ≤ diff) && decide (diff ≤ 7)
    let x1 := s1.tile r
    let x2 := { x1 with bandPoison := true, gainNeed := false }
    let x3 := if !sf && !e.poison && !ahead then { x2 with gain := e.value, gainTag := e.tag } else x2
    (s1.setTile r x3, !ahead)

/-- Move a waiting scale flit of W-in into the empty pending register of an MX tile (R104). -/
def State.pullPending (s : State) (r : TileRef) (a : Nat) : State :=
  let x := s.tile r
  match x.gainPend, x.stage 2 with
  | none, e :: q =>
    if e.flit.smk then
      ((s.setTile r { x.setStage 2 q with gainPend := some (entryOf e.flit e.circ.src) })).freeEntry
        (.tile r 2) e.circ a
    else s
  | _, _ => s

/-- W-in words are taken as they arrive (R56, R104): a scale flit goes to the empty pending register, a weight word to the word
AG1 forms; it is readable MX5 ac later. -/
def winPull (s : State) (r : TileRef) (a : Nat) : Nat → State
  | 0 => s
  | fuel + 1 =>
    let x := s.tile r
    match x.stage 2 with
    | [] => s
    | e :: q =>
      if e.flit.smk then
        if x.gainPend.isNone then winPull (s.pullPending r a) r a fuel else s
      else if x.st == .faulted then s
      else
        let (bad, s) := s.seeCws (some (r.t, r.row)) true (genCws r x.vint 1)
        if bad then s.tileDead r 0x0804 else
        match genAddr s r x 1 (match x.fire with | some f => f.b | none => 0) with
        | none => s.tileDead r 0x0711
        | some w =>
          let due := a + s.lat (tb r) x.vint .mx5
          let s := (s.setTile r (x.setStage 2 q)).freeEntry (.tile r 2) e.circ (a + 1)
          winPull (s.mapArr fun y => { y with delayed := y.delayed ++
            [⟨due, wsBase r.t r.row r.k + 32 * w, dataBytes e.flit.data, e.flit.poison⟩] }) r a fuel

/-- A tile takes the band's gain entry when one is there and it still needs one (R104).
(DESIGN CHOICE, log 198) -/
def State.tryGain (s : State) (r : TileRef) : State :=
  let x := s.tile r
  let a := s.arr.runAc
  if !x.gainNeed then s
  else
    match kindOf r.k with
    | .mx =>
      match x.gainPend with
      | some e =>
        let (s1, used) := s.applyGain r e
        if used then winPull (s1.setTile r { s1.tile r with gainPend := none }) r a 8 else s1
      | none => s
    | .sf =>
      if s.isLead r x.vint then s
      else
        match x.headAt 2 a with
        | some e =>
          let en := entryOf e.flit e.circ.src
          if en.kind = 1 then
            let (s1, used) := s.applyGain r en
            if used then s1.takeStage r 2 a else s1
          else s
        | none => s
    | _ => s

/-! ## WAIT BAND (R50, R51, R179) -/

/-- The maxima an SF tile hands over at a band event (R98). -/
def TileSt.handOver (x : TileSt) : TileSt :=
  { x with collObs := x.coll, collBand := x.band, coll := List.replicate 32 0, mOwn := maxN x.coll }

/-- WAIT BAND finds a Vintage change (R51): nothing is consumed; the tile continues at pc 0 of the target's bank, or goes idle when the
target does not use it. The WAIT BAND that starts band b closes the band that ends (R183) and hands its maxima over (R98); a tile that
goes idle has none: its maxima go over as it does.
(DEDUCED, log 171) -/
def State.changeVintage (s : State) (r : TileRef) (w : SwitchSt) : State :=
  let x := s.tile r
  if s.usesTile r w.target then (s.setTile r (x.enter w.target (s.arr.runAc + 1))).winoPump r
  else
    let x := if kindOf r.k == .sf then x.handOver else x
    s.setTile r { x.leave w.target with latch := dropLinesBefore x.latch }

/-- WAIT BAND consumes its band event and starts a band (R98, R144, R179). `copy` is what a Graft commit changes at a head tile at
that moment (R252). An SF tile that leads still needs its own gain only while an entry of its own is to come.
(DEDUCED, log 11; DESIGN CHOICE, log 195) -/
def State.startBand (s : State) (r : TileRef) (copy : State → State) : State :=
  let s := if (s.tile r).inBand then s.closeBand r else s
  let x := s.tile r
  let x := if kindOf r.k == .sf then x.handOver else x
  let nb := if x.begun then x.band + 1 else x.band
  let lead := s.isLead r x.vint
  let newV := x.fresh && x.begun
  let chainAt := if lead then (if x.begun then some s.arr.runAc else x.chain)
    else if s.collects r x.vint && !x.fresh then some s.arr.runAc else none
  let x := { x with latch := eraseFirst (fun e => e != .line) x.latch, band := nb, begun := true, inBand := true,
                    firstBand := x.fresh, fresh := false, markBand := outPorts r.k, outNo := [0, 0, 0, 0], ledV := x.vint,
                    gainNeed := s.wantsGain r x.vint && (!lead || chainAt.isSome),
                    bandPoison := false, chain := chainAt, adInit := x.adInit || newV }
  let s := copy (s.setTile r x)
  (s.seqDone r s.arr.runAc).tryGain r

/-- WAIT BAND.
(DEDUCED, log 11) -/
def waitBandEff (s : State) (r : TileRef) (copy : State → State) : State :=
  s.atInstr r 3 (fun w => bitsN w 24 4 == 0) fun s _ =>
    let x := s.tile r
    match headBand x.latch with
    | none => s.setTile r { x with st := .waiting }
    | some tag =>
      match s.switchAt tag with
      | some w => if x.vint = w.target then s.startBand r copy else s.changeVintage r w
      | none => s.startBand r copy

end Sys2Proof.Machine
end

