-- ==== Sys2Proof/Machine/Fire.lean ====
section
/-!
DEFINITION. Machine/Fire.lean: one datapath firing of each tile kind (02 R49, R55–R64, R475; 03 R80–R98; 04 R115–R132;
05 R163), bank hand-over and drain (R59, R119), and what a stall does in each discipline (R66, R67).
-/
namespace Sys2Proof.Machine

/-- What a firing finds when it falls due. -/
inductive FireRes where
  | ok (s : State)
  /-- Inputs, named by port, are empty, or an output is full. -/
  | wait (why : StallWhy) (ports : List Nat)
  /-- A generator value outside its partition (E-0711). -/
  | outside

/-! ## MX: inputs of one firing -/

/-- Does clr_first apply to this FIRE? (R49) -/
def clrApplies (x : TileSt) (f : FireSt) : Bool := f.clrFirst && idxOfCtr x.loops f.e == 0
/-- Does swap_last apply to this FIRE? (R49) -/
def swapApplies (x : TileSt) (f : FireSt) : Bool := f.swapLast && idxOfCtr x.loops f.e + 1 == tripsOfCtr x.loops f.e

/-- The 32-bit values of a block of bytes. -/
def blockVals (bs : List Byte) (n : Nat) : List Int := (List.range n).map fun k => signed 32 (ofBytes ((bs.drop (4 * k)).take 4))

/-- Bias values of block `j` for `n` channels (R84): words, poison, state. -/
def biasVals (s : State) (r : TileRef) (x : TileSt) (d j n : Nat) : List Int × Bool × State :=
  let aux := s.aux r x.vint d
  let sb := bitW aux 11
  let bw := n / 8 * (if sb then 2 else 1)
  let base := wsBase r.t r.row r.k + 32 * (bitsW aux 0 11 + bw * j)
  let (bs, p, s) := readChip s base (32 * bw)
  let vs := blockVals bs (8 * bw)
  if sb then
    ((List.range n).map fun c => scaledBias (nth 0 vs c) (nth 0 vs (n + c)) x.gain, p, s)
  else (vs, p, s)

/-- The initial values P-in supplies, `n` flits of eight (R49). -/
def pinVals (x : TileSt) (n : Nat) : List Int × Bool :=
  let es := (x.stage 1).take n
  (es.flatMap fun e => (List.range 8).map (dataS32 e.flit.data), es.any fun e => e.flit.poison)

/-- Column sums of one firing with, per column, whether a codebook index was out of its group (R83, R87). -/
def colSums (mode : Nat) (a : Data) (ws book : List Byte) : List (Int × Bool) :=
  if mode = 1 then (List.range 32).map fun c => (dot (actI4 a) (colI4 ws c), false)
  else if isCb mode then (List.range 64).map fun c => cbCol ws book (cbBits mode) c (actI8 a)
  else (List.range 32).map fun c => (dot (actI8 a) (colI8 ws c), false)

/-- Key of accumulator `c` of set `st` of a bank. -/
def accKey (bank st c : Nat) : Nat := bank * 2048 + st * 32 + c % 32

/-- Add sums into accumulators from column `c` on, saturating each (R83). -/
def accumulate (bank st : Nat) (first : Bool) : SMap Int → Nat → Nat → List Int → List Int → SMap Int × Nat
  | acc, sat, _, [], _ => (acc, sat)
  | acc, sat, c, y :: ys, iv =>
    let k := accKey bank (if c < 32 then st else st + 32) c
    let old := if first then nth 0 iv 0 else sget zeroI acc k
    let (v, b) := sat32c (old + y)
    accumulate bank st first (sset zeroI acc k v) (if b then sat + 1 else sat) (c + 1) ys (iv.drop 1)

/-- Set the poison of an accumulator set: a first firing replaces it, a later one adds to it. -/
def poisonSet (m : SMap Bool) (bank st : Nat) (first p : Bool) : SMap Bool :=
  let k := bank * 64 + st
  sset zeroF m k (if first then p else p || sget zeroF m k)

/-- One INT8, INT4 or codebook firing (R83, R87, R88).
(DESIGN CHOICE, log 184; DESIGN CHOICE, log 193) -/
def mxFire (s : State) (r : TileRef) (x : TileSt) (f : FireSt) : FireRes :=
  let a := s.arr.runAc
  let w := s.opd r x.vint f.d
  let mode := bitsW w 0 4
  let init := bitsW w 4 2
  let aux := s.aux r x.vint f.d
  let first := clrApplies x f
  let cb := isCb mode
  let n := if cb then 64 else 32
  let nP := n / 8
  match genAddr s r x 0 f.b, genAddr s r x 2 f.b with
  | some g0, some st =>
    let pin := if first && init == 2 && !x.hasN 1 nP a then [1] else []
    match x.headAt 0 a with
    | none => .wait .input (0 :: pin)
    | some e =>
      if !pin.isEmpty then .wait .input pin
      else
        let S := setWords mode
        let (ws, wp, s) := readChip s (wsBase r.t r.row r.k + 32 * S * g0) (32 * S)
        let j := (g0 - s.partLo r x.vint 0) >>> bitsW aux 24 4
        let (book, bp, s) := if cb then readChip s (wsBase r.t r.row r.k + 32 * (bitsW aux 12 11 + 5 * j)) 160
          else ([], false, s)
        let (iv, ip, s) :=
          if !first then ([], false, s)
          else if init = 1 then biasVals s r x f.d j n
          else if init = 2 then let (vs, p) := pinVals x nP; (vs, p, s)
          else (List.replicate n 0, false, s)
        let cols := colSums mode e.flit.data ws book
        let bad := cols.any (·.2)
        let (acc, sat) := accumulate x.bank st first x.acc 0 0 (cols.map (·.1)) iv
        let p := e.flit.poison || wp || bp || ip || bad
        let ap := poisonSet x.accPoison x.bank st first p
        let ap := if cb then poisonSet ap x.bank (st + 32) first p else ap
        let s := s.setTile r { s.tile r with acc := acc, accPoison := ap }
        let s := s.fcount (F.MX_SAT_CNT_sat (tb r)) sat
        let s := s.takeStage r 0 a
        let s := if first && init == 2 then s.takeStageN r 1 a nP else s
        let s := if bad then (let s := s.tileFault r 0x0531; if s.isElastic x.vint then s else s.stopJob) else s
        .ok s
  | _, _ => .outside

/-- The first firing of a Winograd FIRE takes its group and fixes its addresses (R116, R118); the other buffer fills on. -/
def winoOpen (s : State) (r : TileRef) (x : TileSt) (f : FireSt) (n : Nat) : State :=
  let f' := { f with ag0 := genValue s r x 0 0, ag2 := genValue s r x 2 0 }
  let x' := { x with winoGroup := (x.winoFill.take (16 * n)).map (·.flit), winoFill := x.winoFill.drop (16 * n), fire := some f',
                     biasJ := if clrApplies x f then
                       ((f'.ag0 - s.partLo r x.vint 0).toNat >>> bitsW (s.aux r x.vint f.d) 24 4) else x.biasJ }
  s.setTile r x'

/-- Add the products of block `j` at position `xi` with the set that the FIRE holds (R118). -/
def winoAdd (s : State) (r : TileRef) (f : FireSt) (xi j : Nat) : State :=
  let x := s.tile r
  let blk := (x.winoGroup.drop (16 * j)).take 16
  let ds := blk.map (·.data)
  let vs := (List.range 16).map fun r => winoV ds r xi
  let st := f.ag2.toNat + 16 * j + xi
  let first := clrApplies x f
  let sums := (List.range 32).map fun c => dot vs (colWino f.wset c)
  let (acc, sat) := accumulate x.bank st first x.acc 0 0 sums (List.replicate 32 0)
  let ap := poisonSet x.accPoison x.bank st first (f.wPoison || blk.any (·.poison))
  (s.setTile r { x with acc := acc, accPoison := ap }).fcount (F.MX_SAT_CNT_sat (tb r)) sat

/-- Read half `h` of the set of 24 words at position `xi` onto what the FIRE holds of it. -/
def winoRead (s : State) (r : TileRef) (f : FireSt) (xi h : Nat) : FireSt × State :=
  let (ws, wp, s) := readChip s (wsBase r.t r.row r.k + 32 * (384 * f.ag0.toNat + 24 * xi + 12 * h)) 384
  ({ f with wset := (if h = 0 then [] else f.wset) ++ ws, wPoison := (h != 0 && f.wPoison) || wp }, s)

/-- One Winograd firing of an opened FIRE: a set is read over the ac of the first of its n firings and the ac after, and held for all of
them (R117), so the products of the first firing are added in the ac of the second.
(DESIGN CHOICE, log 204) -/
def winoStep (s : State) (r : TileRef) (n : Nat) : State :=
  match (s.tile r).fire with
  | none => s
  | some f =>
    let xi := f.b / n
    let j := f.b % n
    let keep (s : State) (f : FireSt) : State := s.setTile r { s.tile r with fire := some f }
    if j = 0 then
      let (f, s) := winoRead s r f xi 0
      if n < 2 then
        let (f, s) := winoRead s r f xi 1
        winoAdd (keep s f) r f xi 0
      else keep s f
    else if j = 1 then
      let (f, s) := winoRead s r f xi 1
      winoAdd (winoAdd (keep s f) r f xi 0) r f xi 1
    else winoAdd s r f xi j

/-- A Winograd firing (R116–R118). -/
def winoFire (s : State) (r : TileRef) (x : TileSt) (f : FireSt) : FireRes :=
  let n := f.len / 16
  if f.b = 0 then
    match genAddr s r x 0 0, genAddr s r x 2 0 with
    | some _, some _ =>
      if x.winoFill.length < 16 * n || (x.winoFill.take (16 * n)).any (fun e => decide (s.arr.runAc ≤ e.arr)) then .wait .input [0]
      else .ok (winoStep (winoOpen s r x f n) r n)
    | _, _ => .outside
  else .ok (winoStep s r n)

/-! ## Bank hand-over and drain (R59, R119) -/

/-- The flits of a handed-over bank in INT8, INT4 and codebook modes: set by set, eight accumulators each. -/
def drainFlits (x : TileSt) : List Flit :=
  (List.range 256).map fun i =>
    { Flit.zero with
      data := dataOfI32 ((List.range 8).map fun k => sget zeroI x.acc (accKey x.bank (i / 4) (8 * (i % 4) + k)))
      poison := sget zeroF x.accPoison (x.bank * 64 + i / 4) || x.bandPoison }

/-- Drained Winograd outputs before the initial value: per output flit, eight values and poison (R119). -/
def winoOut (x : TileSt) (base n : Nat) : List (List Int × Bool) :=
  (List.range (16 * n)).map fun i =>
    let j := i / 16
    let uv := i % 16 / 4
    let cg := i % 4
    ((List.range 8).map fun k =>
      winoY (fun q => sget zeroI x.acc (accKey x.bank (base + 16 * j + q) (8 * cg + k))) (uv / 2) (uv % 2),
     x.bandPoison || (List.range 16).any fun q => sget zeroF x.accPoison (x.bank * 64 + base + 16 * j + q))

/-- Add initial values to one drained flit and saturate; counts saturations (R115). -/
def winoFinish (ys iv : List Int) : List Int × Nat :=
  let vs := (List.range 8).map fun k => sat32c (nth 0 ys k + nth 0 iv k)
  (vs.map (·.1), (vs.filter (·.2)).length)

/-- Pair Winograd outputs that wait for P-in values with the flits that arrived, in flit order (R119); a late one was an empty input,
and the ac of its arrival is one of the stall. -/
def drainPump (s : State) (r : TileRef) : Nat → State
  | 0 => s
  | fuel + 1 =>
    let x := s.tile r
    match x.drain, x.stage 1 with
    | some dr, e :: q =>
      match dr.wait with
      | [] => s
      | (ys, p) :: rest =>
        let ra := Nat.max dr.nextRead (e.arr + 1)
        let late := ra - dr.nextRead
        let (vs, sat) := winoFinish ys ((List.range 8).map (dataS32 e.flit.data))
        let fl : Flit := { Flit.zero with data := dataOfI32 vs, poison := p || e.flit.poison }
        let x := (x.setStage 1 q).offer 0 (ra + s.lat (tb r) x.vint .mx4 - 1) [fl]
        let x := { x with drain := some { lastRead := dr.lastRead + late, wait := rest, nextRead := ra + 1 } }
        let s := ((s.setTile r x).freeEntry (.tile r 1) e.circ ra).fcount (F.MX_SAT_CNT_sat (tb r)) sat
        let s := if late = 0 then s else if s.lenient r x.vint then (s.drainStall r).elastOf r x.vint 1 else ((s.drainStall r).tileFault r 0x0712).stopJob
        drainPump s r fuel
    | _, _ => s

/-- Start the drain of the active bank in ac `a` after `k` empty ac; the other bank accumulates from now on.
(DEDUCED, log 19; DESIGN CHOICE, log 182) -/
def startDrain (s : State) (r : TileRef) (f : FireSt) (a k : Nat) : State :=
  let x := s.tile r
  let w := s.opd r x.vint f.d
  let l := s.lat (tb r) x.vint .mx4
  if bitsW w 0 4 = 5 then
    let n := f.len / 16
    let outs := winoOut x f.ag2.toNat n
    if bitsW w 4 2 = 2 then
      let x := { x with bank := 1 - x.bank,
                        drain := some { lastRead := a + k + 16 * n, wait := outs, nextRead := a + k + 1 } }
      drainPump (s.setTile r x) r 64
    else
      let (iv, ip, s) := if bitsW w 4 2 = 1 then biasVals s r x f.d x.biasJ 32 else (List.replicate 32 0, false, s)
      let res := (List.range (16 * n)).map fun i =>
        let (ys, p) := nth ([], false) outs i
        let (vs, sat) := winoFinish ys ((iv.drop (8 * (i % 4))).take 8)
        (({ Flit.zero with data := dataOfI32 vs, poison := p || ip } : Flit), sat)
      let x := { s.tile r with bank := 1 - x.bank, drain := some { lastRead := a + k + 16 * n, wait := [], nextRead := 0 } }
      (s.setTile r (x.offer 0 (a + k + l) (res.map (·.1)))).fcount (F.MX_SAT_CNT_sat (tb r))
        ((res.map (·.2)).foldl (· + ·) 0)
  else
    let fl := drainFlits x
    let x := { x with bank := 1 - x.bank, drain := some { lastRead := a + k + 256, wait := [], nextRead := 0 } }
    s.setTile r (x.offer 0 (a + k + l) fl)

/-- The flits of the old bank not yet read in ac `a` are replaced by poisoned zeros (R59); the answer is their number.
(DEDUCED, log 19) -/
def flushDrain (s : State) (r : TileRef) (a : Nat) : State × Nat :=
  let x := s.tile r
  let l := s.lat (tb r) x.vint .mx4
  let unread := fun (e : OutEntry) => decide (a + l ≤ e.due + 1)
  let waiting := match x.drain with | some d => d.wait.length | none => 0
  let k := ((x.out 0).filter unread).length + waiting
  let x := { (x.setOut 0 ((x.out 0).filter fun e => !unread e)) with drain := none }
  (s.setTile r (x.offer 0 (a + l) (List.replicate k { Flit.zero with poison := true })), k)

/-- Is the drain still reading the other bank in ac `a`?
(DEDUCED, log 19) -/
def TileSt.drainBusy (x : TileSt) (a : Nat) : Bool :=
  match x.drain with | some d => decide (a < d.lastRead) || !d.wait.isEmpty | none => false

/-! ## SF (R91–R98, R121–R126) -/

/-- The low and high code of an output format. -/
def fmtLo (int4 : Bool) : Int := if int4 then -8 else -128
def fmtHi (int4 : Bool) : Int := if int4 then 7 else 127

/-- Pack up to 32 elements into a flit (R91); a flit carries poison when an element does.
(DESIGN CHOICE, log 178) -/
def packFlit (int4 : Bool) (es : List Elem) (bp : Bool) : Flit :=
  { Flit.zero with
    data := BitVec.ofNat 256 (packI (if int4 then 4 else 8) (es.map (·.v)))
    poison := bp || es.any (·.poison) }

/-- Cut elements into full flits; the rest stays. -/
def packAll (int4 bp : Bool) : Nat → List Elem → List Flit × List Elem
  | 0, es => ([], es)
  | n + 1, es =>
    if es.length < 32 then ([], es)
    else
      let (fs, rest) := packAll int4 bp n (es.drop 32)
      (packFlit int4 (es.take 32) bp :: fs, rest)

/-- The effective multiplier of a requantisation word (R104). -/
def effMult (x : TileSt) (adapt : Nat) (mult : Int) : Int :=
  if adapt = 1 then scaleMult mult x.gain else if adapt = 2 then scaleMult mult x.rcp else mult

/-- One element of functions 0x00–0x02 and 0x04: output code, collected magnitude, and whether it counts in SAT_CNT. -/
def sfElem (s : State) (r : TileRef) (x : TileSt) (w : Word) (ch : Nat) (e : Int) : Int × Int × Bool :=
  let fn := bitsW w 0 5
  let int4 := bitW w 5
  let zpIn := signed 8 (bitsW w 9 8)
  if fn = 4 then (e, ((e - zpIn).natAbs : Int), false)
  else
    let q := s.rqWord r x.vint ch
    let (t, cl) := rqT (if fn = 2 then e - zpIn else e) (effMult x (bitsW w 7 2) (rqMult q)) (rqShift q)
    let y := if fn = 1 then segEval (s.segTab r x.vint) t else t
    let (o, st) := outQ y (rqZp q) (fmtLo int4) (fmtHi int4)
    (o, (y.natAbs : Int), cl || st)

/-- Feed a collector (R98). -/
def collect (coll : List Nat) (ch : Nat) (v : Int) : List Nat :=
  setNth coll (ch % 32) (Nat.max (nth 0 coll (ch % 32)) (Nat.min v.toNat 32767))

/-- The lanes of a flit as INT8 elements. -/
def lanesOf (f : Flit) : List Elem := (List.range 32).map fun k => ⟨dataS8 f.data k, f.poison⟩

/-- Functions 0x00, 0x01, 0x02, 0x04 on one flit.
(DEDUCED, log 17) -/
def sfElementwise (s : State) (r : TileRef) (x : TileSt) (f : FireSt) (w : Word) (fl : Flit) (ch : Nat) : State :=
  let a := s.arr.runAc
  let fn := bitsW w 0 5
  let ins := if fn ≤ 1 then (List.range 8).map (dataS32 fl.data) else (List.range 32).map (dataS8 fl.data)
  let res := (List.range ins.length).map fun k => sfElem s r x w (ch + k) (nth 0 ins k)
  let coll := if (bitW w 6 || fn == 4) && !fl.poison then
    (List.range res.length).foldl (fun c k => collect c (ch + k) (nth (0, 0, false) res k).2.1) x.coll else x.coll
  let es := x.pack ++ res.map fun q => ⟨q.1, fl.poison⟩
  let (fs, rest) := packAll (bitW w 5) x.bandPoison 2 es
  let endF := f.b + 1 == f.len && !rest.isEmpty
  let fs := if endF then fs ++ [packFlit (bitW w 5) rest x.bandPoison] else fs
  let x := { x with coll := coll, pack := if endF then [] else rest }
  let x := x.offer 0 (a + s.lat (tb r) x.vint .sf1) fs
  (s.setTile r x).fcount (F.SF_SAT_CNT_sat (tb r)) (res.filter fun q => q.2.2).length

/-- Function 0x03 on one flit of logits (R91, R96, R97): a vector's probabilities are packed on behind the last one's, and the end of
the FIRE sends a part-filled flit.
(DESIGN CHOICE, log 177; DESIGN CHOICE, log 181; DESIGN CHOICE, log 197) -/
def sfSoftmax (s : State) (r : TileRef) (x : TileSt) (f : FireSt) (w : Word) (fl : Flit) : State :=
  let a := s.arr.runAc
  let n := bitsW w 17 8 + 1
  let int4 := bitW w 5
  let ls := x.logits ++ (lanesOf fl).take (n - x.logits.length)
  let full := decide (n ≤ ls.length)
  let pz := ls.any (·.poison)
  let es : List Elem := if full then (softmax (s.segTab r x.vint) (ls.map (·.v))).map fun p => ⟨if int4 then satI 4 p else p, pz⟩ else []
  let (fs, rest) := packAll int4 x.bandPoison 10 (x.pack ++ es)
  let endF := f.b + 1 == f.len && !rest.isEmpty
  let fs := if endF then fs ++ [packFlit int4 rest x.bandPoison] else fs
  s.setTile r ({ x with logits := if full then [] else ls, pack := if endF then [] else rest }.offer 0 (a + s.lat (tb r) x.vint .sf3) fs)

/-- Lane `k` of the flits of a window. -/
def laneOf (win : List (List Elem)) (k : Nat) : List Elem := win.map fun f => nth ⟨0, false⟩ f k

/-- Functions 0x05–0x07 on one flit (R124, R126).
(DEDUCED, log 15) -/
def sfWindow (s : State) (r : TileRef) (x : TileSt) (f : FireSt) (w : Word) (fl : Flit) (ch : Nat) : State :=
  let a := s.arr.runAc
  let fn := bitsW w 0 5
  let W := if fn = 7 then (let t := bitsW w 5 2; if t = 0 then 1 else if t = 1 then 2 else 4) else bitsW w 5 5 + 1
  let zpIn := signed 8 (bitsW w 11 8)
  let win := (if f.b % W = 0 then [] else x.win) ++ [lanesOf fl]
  if f.b % W + 1 = W then
    let ws : List Int := [16 - bitsW w 19 4 - bitsW w 23 4 - bitsW w 27 4, bitsW w 19 4, bitsW w 23 4, bitsW w 27 4]
    let res : List (Int × Bool) := (List.range 32).map fun k =>
      let vs := (laneOf win k).map (·.v)
      if fn = 5 then (poolMax vs, false)
      else if fn = 6 then
        let q := s.rqWord r x.vint (ch + k)
        let (t, cl) := rqT (poolSum zpIn vs) (rqMult q) (rqShift q)
        let (o, st) := outQ t (rqZp q) (-128) 127
        (o, cl || st)
      else (resample ws zpIn vs, false)
    let es : List Elem := (List.range 32).map fun k => ⟨(nth (0, false) res k).1, (laneOf win k).any (·.poison)⟩
    let x := { x with win := [] }.offer 0 (a + s.lat (tb r) x.vint .sf2) [packFlit false es x.bandPoison]
    (s.setTile r x).fcount (F.SF_SAT_CNT_sat (tb r)) (res.filter (·.2)).length
  else s.setTile r { x with win := win }

/-- Space-to-depth outputs of a group of `f` input flits, position by position (R121). -/
def s2dElems (f C : Nat) (g : List (List Elem)) : List Elem :=
  (List.range (32 / C / f)).flatMap fun X =>
    (List.range (f * f * C)).map fun o =>
      nth ⟨0, false⟩ (nth [] g (o / C / f)) ((f * X + o / C % f) * C + o % C)

/-- Depth-to-space outputs: row dy after row dy (R121). -/
def d2sElems (f C : Nat) (g : List (List Elem)) : List Elem :=
  (List.range f).flatMap fun dy => (List.range 32).map fun i =>
    let pos := i / C
    let c := i % C
    let X := pos / f
    let o := (dy * f + pos % f) * C + c
    let per := 32 / (f * f * C)
    nth ⟨0, false⟩ (nth [] g (X / per)) (X % per * (f * f * C) + o)

/-- Output flits of a regrouping, `n` elements of a flit at a time. -/
def chunkFlits (bp : Bool) (n : Nat) : Nat → List Elem → List Flit
  | 0, _ => []
  | k + 1, es => if es.isEmpty then [] else packFlit false (es.take n) bp :: chunkFlits bp n k (es.drop n)

/-- The group length of functions 0x09 and 0x0A in firings (R122), the factor f and C. -/
def s2dParams (w : Word) : Nat × Nat × Nat × Nat :=
  let f := 2 ^ (bitsW w 5 2 + 1)
  let C := 2 ^ bitsW w 7 3
  let per := if bitW w 10 then 16 else 32
  let nOut := if bitsW w 0 5 = 9 then cdiv (32 / C / f * (f * f * C)) per else f
  (f, C, per, Nat.max f nOut)

/-- Functions 0x09 and 0x0A on one firing (R121, R122). -/
def sfRegroup (s : State) (r : TileRef) (x : TileSt) (f : FireSt) (w : Word) (fl : Option Flit) : State :=
  let a := s.arr.runAc
  let (ff, C, per, L) := s2dParams w
  match fl with
  | none => s
  | some fl =>
    let g := (if f.b % L = 0 then [] else x.group) ++ [lanesOf fl]
    if g.length = ff then
      let es := if bitsW w 0 5 = 9 then s2dElems ff C g else d2sElems ff C g
      let fs := chunkFlits x.bandPoison per 64 es
      s.setTile r ({ x with group := [] }.offer 0 (a + s.lat (tb r) x.vint .sf2) fs)
    else s.setTile r { x with group := g }

/-- Does an SF firing take an input flit? (R122, R125) -/
def sfTakes (w : Word) (b : Nat) : Bool :=
  let fn := bitsW w 0 5
  if fn = 8 then !bitW w 8 && b % (bitsW w 5 3 + 1) == 0
  else if fn = 9 ∨ fn = 10 then (let (f, _, _, L) := s2dParams w; decide (b % L < f))
  else decide (fn ≤ 10)

/-- One SF firing.
(DEDUCED, log 14) -/
def sfFire (s : State) (r : TileRef) (x : TileSt) (f : FireSt) : FireRes :=
  let a := s.arr.runAc
  let w := s.opd r x.vint f.d
  let fn := bitsW w 0 5
  let takes := sfTakes w f.b
  match (if takes then x.headAt 0 a else none), takes with
  | none, true => .wait .input [0]
  | e, _ =>
    if x.outHeld 0 then .wait .output []
    else
      let usesCh := fn ≤ 4 ∨ fn = 6
      match (if usesCh then genAddr s r x 0 f.b else some 0) with
      | none => .outside
      | some ch =>
        let s1 := match e with | some _ => s.takeStage r 0 a | none => s
        let x1 := s1.tile r
        let fl := (e.map (·.flit)).getD Flit.zero
        let s2 :=
          if fn ≤ 2 ∨ fn = 4 then sfElementwise s1 r x1 f w fl ch
          else if fn = 3 then sfSoftmax s1 r x1 f w fl
          else if fn ≤ 7 then sfWindow s1 r x1 f w fl ch
          else if fn = 8 then
            let zp := signed 8 (bitsW w 11 8)
            let o : Flit := match e with
              | some e => { Flit.zero with data := e.flit.data, poison := e.flit.poison || x.bandPoison }
              | none => packFlit false (List.replicate 32 ⟨zp, false⟩) false
            s1.setTile r (x1.offer 0 (a + s1.lat (tb r) x1.vint .sf2) [o])
          else if fn ≤ 10 then sfRegroup s1 r x1 f w (e.map (·.flit))
          else s1
        .ok s2

/-! ## MM (R63, R127–R132, R475) -/

/-- Byte address and length of the access of port `g` at generator value `v` (R129). -/
def mmAccess (s : State) (r : TileRef) (x : TileSt) (g v : Nat) : Nat × Nat :=
  let w := s.opd r x.vint g
  let base := mmBase r.t r.row (idxOf r.k)
  if bitsW w 0 3 = 0 then (base + 32 * v, 32)
  else
    let n := 2 * siltBytes (bitsW w 3 2)
    let lo := s.partLo r x.vint g
    (base + 32 * lo + n * (v - lo), n)

/-- Does a FIRE mask name port `g`? -/
def maskHas (d g : Nat) : Bool := bitN d g

/-- One read port of an MM firing. -/
def mmRead (s : State) (r : TileRef) (x : TileSt) (g v : Nat) : State :=
  let a := s.arr.runAc
  let w := s.opd r x.vint g
  let (ad, n) := mmAccess s r x g v
  let (bs, p, s) := readChip s ad n
  let silt := bitsW w 0 3 = 1
  let d := if silt then siltDec (bitsW w 3 2) bs else dataOf bs
  let lat := s.lat (tb r) x.vint (if silt then .mm2 else .mm1)
  s.setTile r ((s.tile r).offer g (a + lat) [{ Flit.zero with data := d, poison := p }])

/-- One write port of an MM firing: the flit at the head of its stage; the word is readable MM3 or MM4 ac later. -/
def mmWrite (s : State) (r : TileRef) (x : TileSt) (g v : Nat) (f : Flit) : State :=
  let a := s.arr.runAc
  let w := s.opd r x.vint g
  let (ad, _) := mmAccess s r x g v
  let silt := bitsW w 0 3 = 2
  let bs := if silt then siltEnc (bitsW w 3 2) f.data else dataBytes f.data
  let lat := s.lat (tb r) x.vint (if silt then .mm4 else .mm3)
  (s.mapArr fun q => { q with delayed := q.delayed ++ [⟨a + lat, ad, bs, f.poison⟩] }).takeStage r (g - 2) a

/-- One MM firing: one access on every port of the mask (R475). -/
def mmFire (s : State) (r : TileRef) (x : TileSt) (f : FireSt) : FireRes :=
  let a := s.arr.runAc
  let gs := (List.range 4).filter (maskHas f.d)
  let addrs := gs.map fun g => (g, genAddr s r x g f.b)
  let miss := (gs.filter fun g => decide (g ≥ 2) && (x.headAt (g - 2) a).isNone).map (· - 2)
  if addrs.any fun q => q.2.isNone then .outside
  else if !miss.isEmpty then .wait .input miss
  else if gs.any fun g => decide (g < 2) && x.outHeld g then .wait .output []
  else
    .ok (addrs.foldl
      (fun s q =>
        let v := q.2.getD 0
        if q.1 < 2 then mmRead s r x q.1 v
        else match x.headAt (q.1 - 2) a with | some e => mmWrite s r x q.1 v e.flit | none => s) s)

/-! ## RK units fired by the sequencer: Repeat and Decimate (R163) -/

/-- One RK firing under FIRE d = u. -/
def rkFire (s : State) (r : TileRef) (x : TileSt) (f : FireSt) : FireRes :=
  let a := s.arr.runAc
  let u := f.d % 4
  let w := s.opd r x.vint u
  let kind := bitsW w 0 3
  let factor := bitsW w 20 4 + 1
  let due := a + s.lat (tb r) x.vint .rk1
  if kind = 4 then
    if f.b % factor = 0 then
      match x.headAt u a with
      | none => .wait .input [u]
      | some e =>
        if x.outHeld u then .wait .output [] else
        let s := s.takeStage r u a
        let x := s.tile r
        .ok (s.setTile r ({ x with lastTaken := setNth x.lastTaken u (some e.flit) }.offer u due [e.flit]))
    else if x.outHeld u then .wait .output []
    else
      match nth none x.lastTaken u with
      | some fl => .ok (s.setTile r (x.offer u due [fl]))
      | none => .ok s
  else if kind = 5 then
    match x.headAt u a with
    | none => .wait .input [u]
    | some e =>
      if f.b % factor = bitsW w 24 4 then
        if x.outHeld u then .wait .output []
        else
          let s := s.takeStage r u a
          .ok (s.setTile r ((s.tile r).offer u due [e.flit]))
      else .ok (s.takeStage r u a)
  else .ok s

/-! ## The firing as a whole -/

/-- One firing of a tile's kind, after its gain entry is taken (R104). -/
def kindFire (s : State) (r : TileRef) (f : FireSt) : FireRes :=
  let s := s.tryGain r
  let x := s.tile r
  let res := match kindOf r.k with
    | .mx => if bitsW (s.opd r x.vint f.d) 0 4 = 5 then winoFire s r x f else mxFire s r x f
    | .mm => mmFire s r x f
    | .sf => sfFire s r x f
    | .rk => rkFire s r x f
  if x.gainNeed then .wait .input (match res with | .wait .input ps => 2 :: ps | _ => [2]) else res

/-- A firing that cannot complete (R66, R67): the sequencer is in state 3 until it can. Each new episode counts in Elastic mode; the
presentation of the flit that fills an output has counted its own (R148). -/
def State.stall (s : State) (r : TileRef) (why : StallWhy) : State :=
  let x := s.tile r
  if x.st == .stalled then s
  else
    let s := s.setTile r { x with st := .stalled, why := why }
    if why != .output then s.elastOf r x.vint 1 else s

/-- An input from the Hub is late at a tile in Locked mode: the array stalls as one unit (R66, R181). -/
def State.holdFor (s : State) (r : TileRef) : State :=
  (s.mapArr fun a => { a with holdTile := some r }).fset F.HUB_HOLD_STATUS_remote 1

/-- A firing waits for inputs: the array is held when the Hub feeds one of the empty ones in Locked mode; else the tile stalls (R66, R67). -/
def State.firingWaits (s : State) (r : TileRef) (why : StallWhy) (ports : List Nat) : State :=
  let v := (s.tile r).vint
  if why == .input && !s.lenient r v && (s.tile r).st != .stalled && ports.any (s.hubFed r v) then s.holdFor r else s.stall r why

/-- A firing that had found an internal input empty completes late in Locked mode (R66): E-0712. -/
def State.lateFault (s : State) (r : TileRef) (was : TileSt) : State :=
  if was.st == .stalled && was.why == .input && !s.lenient r was.vint then (s.tileFault r 0x0712).stopJob else s

/-- Complete a FIRE after its last firing: hand the bank over when swap_last applies.
(DEDUCED, log 14) -/
def finishFire (s : State) (r : TileRef) (f : FireSt) : State :=
  let a := s.arr.runAc
  let x := s.tile r
  if kindOf r.k == .mx && swapApplies x f then
    if x.drainBusy a then
      if s.lenient r x.vint then s.stall r .drain
      else
        let s := (s.tileFault r 0x0714).stopJob
        let (s, k) := flushDrain s r a
        (startDrain s r f a k).fireDone r a
    else (startDrain s r f a 0).fireDone r a
  else s.fireDone r a

/-- The codewords of control words that one firing reads: descriptors, auxiliary words, generators with their partitions, requantisation words
and the segment table.
(DEDUCED, log 26) -/
def State.fireCws (s : State) (r : TileRef) (f : FireSt) : List Nat :=
  let x := s.tile r
  let v := x.vint
  match kindOf r.k with
  | .mx => s.opdCw r v f.d :: wordCw .param (tileKey r) (0x1A0 + v * 0x10 + f.d) :: (genCws r v 0 ++ genCws r v 2)
  | .mm => ((List.range 4).filter (maskHas f.d)).flatMap fun g => s.opdCw r v g :: genCws r v g
  | .rk => [s.opdCw r v (f.d % 4)]
  | .sf =>
    let fn := bitsW (s.opd r v f.d) 0 5
    let lanes := if fn ≤ 1 then 8 else 32
    let ch := (genAddr s r x 0 f.b).getD 0
    s.opdCw r v f.d :: ((if fn ≤ 4 ∨ fn = 6 then genCws r v 0 else []) ++
      (if fn ≤ 2 ∨ fn = 6 then ((List.range lanes).map fun k => wordCw .ptab (tileKey r) (v * 512 + (ch + k) % 512)).eraseDups else []) ++
      (if fn = 1 ∨ fn = 3 then (List.range 64).map fun i => wordCw .param (tileKey r) (0x1A0 + v * 0x80 + 2 * i) else []))

/-- FIRING (R65–R68): one firing, whole, in the present ac. -/
def firingEff (s : State) (r : TileRef) (hits : List Upset) : State :=
  let s := s.strike hits
  let x := s.tile r
  match x.fire with
  | none => s
  | some f =>
    if s.seqReady r && decide (f.b < f.len) then
      let (bad, sc) := s.seeCws (some (r.t, r.row)) true (s.fireCws r f)
      if bad then sc.tileDead r 0x0804
      else
        match kindFire sc r f with
        | .wait why ports => (s.tryGain r).firingWaits r why ports
        | .outside => sc.tileDead r 0x0711
        | .ok s1 =>
          let s1 := s1.lateFault r x
          let y := s1.tile r
          let f1 := (y.fire.getD f)
          let f2 := { f1 with b := f1.b + 1 }
          let s2 := s1.setTile r { y with fire := some f2, st := .firing, why := .none, next := s1.arr.runAc + 1,
                                          led := { y.led with fire := y.led.fire + 1 } }
          if f2.b = f2.len then finishFire s2 r f2 else if f2.b = 1 then s2.winoPump r else s2
    else s

/-- Does a drain lack a flit that the Hub brings in Locked mode (R66, R119)? -/
def State.drainWaits (s : State) (r : TileRef) : Bool := s.drainLate r && !s.lenient r (s.tile r).vint && s.hubFed r (s.tile r).vint 1
/-- Does the tile that holds the array still wait for an input from the Hub? -/
def State.stillWaits (s : State) (r : TileRef) : Bool :=
  s.drainWaits r ||
    (match (s.tile r).fire with
     | some f => (match kindFire s r f with | .wait .input ps => ps.any (s.hubFed r (s.tile r).vint) | _ => false)
     | none => false)

/-- The array is held before an ac in which a drain lacks a flit that the Hub brings in Locked mode (R66, R119). -/
def State.drainHolds (s : State) : State :=
  match s.arr.tiles.find? (fun x => s.drainWaits (tileOfKey x.1)) with
  | some x => s.holdFor (tileOfKey x.1)
  | none => s

/-- The hold for a tile ends once its firing or drain has what it waited for (R66, R180), unless another drain waits. -/
def State.releaseTile (s : State) : State :=
  match s.arr.holdTile with
  | some r =>
    if s.stillWaits r then s
    else ((s.mapArr fun a => { a with holdTile := none, remAc := 0 }).fset F.HUB_HOLD_STATUS_remote 0).drainHolds
  | none => s

/-- DRAIN_DONE (R59): the drain makes its last read; a hand-over that waited for it proceeds in the same ac. -/
def drainDoneEff (s : State) (r : TileRef) : State :=
  let x := s.tile r
  match x.drain with
  | some d =>
    if s.arrayRuns && decide (d.lastRead ≤ s.arr.runAc) && d.wait.isEmpty then
      let s := s.setTile r { x with drain := none }
      match x.fire with
      | some f => if x.st == .stalled && x.why == .drain then (startDrain s r f s.arr.runAc 0).fireDone r s.arr.runAc else s
      | none => s
    else s
  | none => s

end Sys2Proof.Machine
end

