-- ==== Sys2Proof/Machine/Array.lean ====
section
/-!
DEFINITION. Machine/Array.lean: what the fabric does with flits: emission, arrival, casks (05 R149–R158), racking joins
(R160–R164), broadcast events (R177) and the scale stream (03 R100–R106).
-/
namespace Sys2Proof.Machine

/-! ## Emission -/

/-- The location of a switch point (kind 5); bridge points have Row 15. -/
def pointLoc (s : State) (p : PointRef) (port : Nat) : FaultLoc :=
  match p with
  | .row t r j => { n := t, row := r, kind := 5, index := j, pc := 0, band := s.job.bandsClosed, auxMm := 0, auxPort := port,
                    auxUnit := 0, auxTer := t }
  | .bridge t j => { n := t, row := 15, kind := 5, index := j, pc := 0, band := s.job.bandsClosed, auxMm := 0,
                     auxPort := port, auxUnit := 0, auxTer := t }

/-- A point reads the entry of its Slot Table for ac `a`: where it cannot be corrected it acts as all zeros, with E-0804, and the job stops at
the next band boundary (Table 16.1). -/
def State.slotRead (s : State) (p : PointRef) (v a : Nat) : State :=
  let row := match p with | .row t r _ => some (t.val, r.val) | .bridge _ _ => none
  let (bad, s) := s.seeCws row true (slotCws p v (a % s.frameLen p v))
  if bad then ((s.note 0x0804).terFault (pointLoc s p 0) 0x0804).stopJob else s

/-- A source holds a flit and no connection takes its port in the present ac: an entry on its way that cannot be read is found (R440).
(DEDUCED, log 26) -/
def State.slotNone (s : State) (v : Nat) (src : SrcRef) : State :=
  let (p, ins, pre) := srcEntry s v src
  match ins.findSome? fun i => badOn s v 200 p i (s.srcAc src + pre) (srcSel src) with
  | some (q, a) => s.slotRead q v a
  | none => s

/-- The flit a tile emits carries its current band's tag and the marks of its last WAITs (R144, R178); RK units pass all side
fields. Which flit of a tile ends a packet the spec leaves open: `last` is an open value there, the same in every run (R448).
(DEDUCED, log 10; DESIGN CHOICE, log 141) -/
def State.dress (s : State) (r : TileRef) (p : Nat) (f : Flit) : Flit :=
  let x := s.tile r
  if kindOf r.k == .rk then f
  else if f.smk then { f with tag := x.band % 16 }
  else { f with tag := x.band % 16, last := Config.tileLast (tileKey r) p x.vint x.band (nth 0 x.outNo p), evLine := x.markLine.contains p,
                evBand := x.markBand.contains p }

/-- A tile's output port emits its head flit (R145, R147, R148).
(DEDUCED, log 10; DESIGN CHOICE, log 141) -/
def tileEmit (s : State) (r : TileRef) (p : Nat) : State :=
  let x := s.tile r
  match x.out p with
  | [] => s
  | e :: q =>
    if e.due ≤ s.arr.runAc then
      let f := s.dress r p e.flit
      match emitVia s (.tile r (Fin.ofNat 4 p)) f e.bound with
      | .noSlot => s.slotNone (s.carryV f.tag) (.tile r (Fin.ofNat 4 p))
      | .noCredit c k =>
        if e.logged then s
        else (s.setTile r (x.setOut p ({ e with bound := some c, logged := true } :: q))).noCreditFault
          (s.carryV f.tag) (.tile r (Fin.ofNat 4 p)) k x.pc x.band
      | .sent s2 _ =>
        let y := s2.tile r
        let y := y.setOut p q
        let y := if f.smk then y
          else { y with markLine := y.markLine.filter (· != p), markBand := y.markBand.filter (· != p),
                        outNo := setNth y.outNo p (nth 0 y.outNo p + 1) }
        s2.setTile r y
    else s

/-- Read a Row's logic cells. -/
def State.lcRow (s : State) (t row : Nat) : LcRow := sget (fun _ => LcRow.init) s.lcRows (t * 9 + row)
/-- Write a Row's logic cells. -/
def State.setLcRow (s : State) (t row : Nat) (x : LcRow) : State :=
  { s with lcRows := sset (fun _ => LcRow.init) s.lcRows (t * 9 + row) x }

/-- A logic-cell port emits its head flit (R136, R199).
(DEDUCED, log 20) -/
def logicEmit (s : State) (t : Fin 4) (row : Fin 9) (j : Fin 11) : State :=
  let x := s.lcRow t row
  match x.outq.find? (fun e => e.1 == j.val) with
  | none => s
  | some (_, e) =>
    if decide (e.due ≤ s.arr.runAc) && decide (1 ≤ x.stage) then
      match emitVia s (.logic t row j) e.flit e.bound with
      | .noSlot => s.slotNone (s.carryV e.flit.tag) (.logic t row j)
      | .noCredit c k =>
        if e.logged then s
        else
          let q := x.outq.map fun y => if y == (j.val, e) then (j.val, { e with bound := some c, logged := true }) else y
          (s.setLcRow t row { x with outq := q }).noCreditFault (s.carryV e.flit.tag) (.logic t row j) k 0 s.job.bandsClosed
      | .sent s2 _ => s2.setLcRow t row { x with outq := eraseFirst (fun y => y.1 == j.val) x.outq }
    else s

/-! ## Arrival at tiles -/

/-- Tokens of a TI flit (R161). -/
def tokensOf (f : Flit) (arr : Nat) : List (Nat × Token) :=
  (List.range 4).filterMap fun u =>
    let b := (dataByte f.data u).toNat
    if bitN b 7 then some (u, { v := bitN b 0, poison := f.poison, arr := arr }) else none

/-- Deliver held tokens to the empty token registers of their units (R161). A TI flit keeps its place in the input stage until every
token of it is delivered. -/
def tiPump (s : State) (r : TileRef) (a : Nat) : Nat → State
  | 0 => s
  | fuel + 1 =>
    let x := s.tile r
    match x.stage 4 with
    | [] => s
    | e :: q =>
      let held := if x.tiOpen then x.tiHeld else tokensOf e.flit e.arr
      let put := held.foldl
        (fun (acc : List (Option Token) × List (Nat × Token)) t =>
          match nth none acc.1 t.1 with
          | none => (setNth acc.1 t.1 (some t.2), acc.2)
          | some _ => (acc.1, acc.2 ++ [t]))
        (x.tokens, [])
      if put.2.isEmpty then
        tiPump ((s.setTile r { x.setStage 4 q with tokens := put.1, tiHeld := [], tiOpen := false }).freeEntry (.tile r 4) e.circ
          (Nat.max a (e.arr + 1))) r a fuel
      else s.setTile r { x with tokens := put.1, tiHeld := put.2, tiOpen := true }

/-- What a port does at once with what stands in its stage. -/
def portPump (s : State) (r : TileRef) (p a : Nat) : State :=
  match kindOf r.k with
  | .mx =>
    if p = 0 then s.winoPump r
    else if p = 1 then drainPump s r 8
    else winPull s r a 8
  | .rk => if p = 4 then tiPump s r a 20 else s
  | _ => s

/-- The Vintage whose unit table names a tile's event port for an event of this tag (R177, R189): the switch target's from its band on, but
the outgoing one's at a tile that only it uses and that still runs. -/
def State.evVint (s : State) (r : TileRef) (tag : Nat) : Nat :=
  let v := s.carryV tag
  match s.sw with
  | some w => if w.armed && !s.usesTile r v && s.usesTile r w.old && (s.tile r).started then w.old else v
  | none => v

/-- A flit arrives at a tile's input stage in ac `a` (R144–R146, R177): with no free entry it is lost; events of the event port
latch.
(DEDUCED, log 13) -/
def deliverTile (s : State) (r : TileRef) (p a : Nat) (f : Flit) (c : Circuit) : State :=
  let x := s.tile r
  let v := s.evVint r f.tag
  if (x.stage p).length ≥ 8 then s
  else
    let s := s.setTile r (x.setStage p (x.stage p ++ [⟨f, a, c⟩]))
    let s := if s.usesTile r v && (f.evLine || f.evBand) then
        let s := s.unitSee r v 0 1
        if s.evPort r v == p then s.latchEvents r f.evLine f.evBand f.tag else s
      else s
    (portPump s r p a).releaseTile

/-! ## Arrival at switch points (R140, R190) -/

/-- The flights a connection makes of a flit that stood at its input port in ac `a`. -/
def hopFlights (s : State) (v : Nat) (p : PointRef) (a : Nat) (w : Word) (f : Flit) (c : Circuit) (skip : Nat) : List Flight :=
  (outsOf w).filterMap fun o =>
    (nextOf s v p o (connSel w)).map fun (st, link, cross) => ⟨st, a + 1 + connReg w + link, f, c, cross, skip⟩

/-- Terrace of a point. -/
def pointTer : PointRef → Nat
  | .row t _ _ => t
  | .bridge t _ => t

/-- A fault that stops a Locked job at the next band boundary. -/
def State.lockedStop (s : State) : State := if s.elastic then s else s.stopJob

/-- A flit stands at an input port of a switch point in ac `a`. -/
def arrivePoint (s : State) (p : PointRef) (inp a : Nat) (f : Flit) (c : Circuit) (skip : Nat) : State :=
  let sel : Option Nat := if c.route.head?.map (fun h => h.pt == p && h.inPort == inp) == some true then srcSel c.src else none
  let go (s : State) (v : Nat) (w : Word) : State :=
    s.mapArr fun y => { y with flights := y.flights ++ hopFlights s v p a w f c skip }
  match s.sw with
  | some sw =>
    if sw.armed then
      let v := s.carryV f.tag
      match s.connAt p v a inp sel with
      | none => s
      | some w =>
        if v = sw.target then
          let theirs : List Nat := s.arr.flights.flatMap fun y =>
            match y.stop with
            | .point q i =>
              if y.due == a && q == p && s.carryV y.flit.tag != sw.target then
                (match s.connAt p (s.carryV y.flit.tag) a i none with | some w' => outsOf w' | none => [])
              else []
            | _ => []
          match (outsOf w).find? fun o => theirs.contains o || s.arr.driven.contains (pointKey p, o, a) with
          | some o => (s.terFault (pointLoc s p o) 0x0645).lockedStop
          | none => go s v w
        else
          let s := s.mapArr fun y => { y with driven := y.driven ++ (outsOf w).map fun o => (pointKey p, o, a) }
          go s v w
    else
      match s.connAt p s.activeV a inp sel with
      | some w => go s s.activeV w
      | none => (s.terFault (pointLoc s p inp) 0x0644).lockedStop
  | none =>
    match s.connAt p s.activeV a inp sel with
    | some w => go s s.activeV w
    | none => (s.terFault (pointLoc s p inp) 0x0644).lockedStop

/-- A crossing of a die boundary is decoded at its receiving end (R159). -/
def crossCheck (s : State) (cross : Option (Nat × Nat)) (code : BridgeCode) (f : Flit) : State × Flit :=
  match cross, code with
  | some (t, io), .corrected => (s.fcount (F.IO_BRIDGE_STATUS_corr (ioBase t io)) 1, f)
  | some (t, io), .uncorrectable =>
    let s := s.fcount (F.IO_BRIDGE_STATUS_uncorr (ioBase t io)) 1
    (s.terFault { n := t, row := 15, kind := 4, index := io, pc := 0, band := s.job.bandsClosed, auxMm := 0, auxPort := 0,
                  auxUnit := 0, auxTer := t } 0x0650, { f with poison := true })
  | _, _ => (s, f)

/-- FLIT_ARRIVAL of flight `n`: it is due, and its stop is a point, a tile's input stage, a logic-cell port or the Hub. A flit due
at a cask waits for CASK_WORD_WRITE.
(DESIGN CHOICE, log 4) -/
def flitArrivalEff (s : State) (n : Nat) (code : BridgeCode) : State :=
  match s.arr.flights[n]? with
  | none => s
  | some y =>
    if s.moves y.circ && s.dueBy y.due y.skip then
      match y.stop with
      | .sink (.cask _) => s
      | st =>
        let s := s.mapArr fun q => { q with flights := dropNth q.flights n }
        let (s, f) := crossCheck s y.cross code y.flit
        let arr := s.arrAc y.due y.skip
        match st with
        | .point p i => arrivePoint (s.slotRead p (s.carryV f.tag) y.due) p i y.due f y.circ y.skip
        | .sink (.tile r p) => deliverTile s r p arr f y.circ
        | .sink (.logic t row j) =>
          let x := s.lcRow t row
          if x.stage = 0 ∨ (x.inq.filter fun e => e.1 == j.val).length ≥ 8 then s
          else s.setLcRow t row { x with inq := x.inq ++ [(j.val, ⟨f, arr, y.circ⟩)] }
        | .sink (.hub t io) => s.mapArr fun q => { q with hubIn := q.hubIn ++ [(t.val, io.val, ⟨f, arr, y.circ⟩)] }
        | .sink (.cask _) => s
    else s

/-! ## Casks (R149–R158) -/

/-- Parity over the data bits and side fields of a cask word (R156). -/
def parityOf (d : Data) (poison last evLine evBand smk : Bool) (tag : Nat) : Bool :=
  let ones := (dataBytes d).foldl (fun n b => n + ((List.range 8).filter fun i => b.getLsbD i).length) 0
  let side := (([poison, last, evLine, evBand, smk].filter id).length) + ((List.range 4).filter fun i => bitN tag i).length
  (ones + side) % 2 == 1

/-- The next pointer within a cask's region. -/
def nextPtr (bound p : Nat) : Nat := if p + 1 ≥ bound then 0 else p + 1

/-- Mark movement in every waiting cycle a cask is a member of (R166). -/
def State.moved (s : State) (c : CaskRef) : State :=
  let v := s.activeV
  if s.isElastic v then
    (List.range 32).foldl
      (fun s i =>
        let w0 := s.word .cycle v (i * 8)
        let n := bitsW w0 16 4
        let mem := (List.range n).any fun k =>
          bitsW (s.word .cycle v (i * 8 + 1 + k / 2)) (16 * (k % 2)) 16 == caskLoc c
        if mem then s.mapArr fun a => { a with cycles := sset (fun _ => ⟨0, false⟩) a.cycles i ⟨0, true⟩ } else s) s
  else s

/-- Fault of a cask: captured as kind 6 and in MM.CASK_FAULT (R156, R158). -/
def State.caskFault (s : State) (c : CaskRef) (code : Nat) : State :=
  let b := tb (caskTile c)
  let s := s.terFault { n := c.t, row := c.row, kind := 6, index := c.c, pc := 0, band := s.job.bandsClosed, auxMm := c.m,
                        auxPort := 0, auxUnit := 0, auxTer := c.t } code
  if s.fbit (F.MM_CASK_FAULT_valid b) then s
  else ((s.fset (F.MM_CASK_FAULT_code b) code).fset (F.MM_CASK_FAULT_cask b) c.c).fset (F.MM_CASK_FAULT_valid b) 1

/-- A cask's spill ring or refill buffer holds words (R168). -/
def CaskSt.spilled (k : CaskSt) : Bool := decide (k.ringWords > 0) || !k.refill.isEmpty

/-- Words of the packet at the head that are held, and whether its last word is (R152). -/
def pktHeld (len : Nat) : Nat → List SideRec → Nat × Bool
  | n, [] => (n, false)
  | n, x :: xs => if x.last || n + 1 == len then (n + 1, true) else pktHeld len (n + 1) xs

/-- Is the head word of the region offered in ac `a`? It is readable 2 ac after its write (Table 5.5); words written in earlier ac are held
(R151, R152).
(DEDUCED, log 156) -/
def caskOffers (s : State) (c : CaskRef) (k : CaskSt) (a : Nat) : Bool :=
  match k.side with
  | [] => false
  | x :: _ =>
    decide (x.wr + 2 ≤ a) &&
      (!s.caskPkt c || decide (k.pktRead > 0) ||
        (let (n, done) := pktHeld (s.caskLenM1 c + 1) 0 (k.side.filter fun y => decide (y.wr < a))
         done || decide (n ≥ s.caskThrM1 c + 1)))

/-- pktRead after a word that is or is not the last of its packet. -/
def pktStep (s : State) (c : CaskRef) (k : CaskSt) (last : Bool) : Nat :=
  if !s.caskPkt c || last || k.pktRead + 1 == s.caskLenM1 c + 1 then 0 else k.pktRead + 1

/-- The remote hold cause (R181): a Trellis-remote cask read that falls due without its word. -/
def State.raiseRemote (s : State) (c : CaskRef) (w : Option Nat) : State :=
  let s := s.mapArr fun a => { a with holdRemote := some (c, w) }
  (s.fset F.HUB_HOLD_STATUS_remote 1).fset F.HUB_HOLD_STATUS_locator (caskLoc c)

/-- The tag of the word that a cask's read side offers next. -/
def CaskSt.headTag (k : CaskSt) : Option Nat :=
  if k.spilled then k.refill.head?.map (·.tag) else k.side.head?.map (·.tag)

/-- The circuit that a cask's next word takes in the present ac (R140, R190). -/
def State.caskCircuit (s : State) (c : CaskRef) : Option Circuit :=
  if s.arr.emitted.contains (.cask c) then none
  else circuitAt s (match (s.cask c).headTag with | some t => s.carryV t | none => s.activeV) (.cask c) s.arr.runAc

/-- Can a word of the region still be read in the present ac? -/
def State.caskReadable (s : State) (c : CaskRef) : Bool :=
  !(s.cask c).spilled && caskOffers s c (s.cask c) s.arr.runAc &&
    (match s.caskCircuit c with | some ci => ci.sinks.all fun q => s.credit ci q.1 != 0 | none => false)

/-- CASK_WORD_WRITE (R151, R155): the first flit due at the cask is written with its side record and parity; with no free entry it is
lost, unless a read of the same ac frees one: the write then follows the read. -/
def caskWordWriteEff (s : State) (c : CaskRef) : State :=
  let hit := fun (y : Flight) => y.stop == .sink (.cask c) && s.moves y.circ && s.dueBy y.due y.skip
  match s.arr.flights.find? hit with
  | none => s
  | some y =>
    let k := s.cask c
    let bound := s.caskBound c
    let arr := s.arrAc y.due y.skip
    if s.caskEn c && decide (bound ≤ k.cnt) && arr == s.arr.runAc && s.caskReadable c then s
    else
      let s := s.mapArr fun a => { a with flights := eraseFirst hit a.flights }
      if !s.caskEn c || decide (k.cnt ≥ bound) then s
      else
        let f := y.flit
        let s := writeChip s (s.caskAddr c k.wp) (dataBytes f.data) f.poison
        let rec1 : SideRec :=
          { poison := f.poison, tag := f.tag, last := f.last, evLine := f.evLine, evBand := f.evBand, smk := f.smk,
            parity := parityOf f.data f.poison f.last f.evLine f.evBand f.smk f.tag, wr := arr, circ := y.circ }
        let k' := { k with wp := nextPtr bound k.wp, cnt := k.cnt + 1, wp2 := nextPtr bound k.wp2, cnt2 := k.cnt2 + 1,
                           side := k.side ++ [rec1], hwm := Nat.max k.hwm (k.cnt + 1), peak := Nat.max k.peak (k.cnt + 1),
                           wrPeriod := k.wrPeriod ++ [s.arr.period] }
        (s.setCask c k').moved c

/-- CASK_WORD_READ (R151, R156, R168, R181): the read side offers its oldest word and the consumer has credit. `flip` is an upset
of the stored parity path of that word.
(DEDUCED, log 156; DESIGN CHOICE, log 186; DESIGN CHOICE, log 194) -/
def caskWordReadEff (s : State) (c : CaskRef) (flip : Bool) (hits : List Upset) : State :=
  let s := s.strike hits
  let a := s.arr.runAc
  let k := s.cask c
  if !s.arrayRuns then s
  else
    match s.caskCircuit c with
    | none =>
      match k.headTag with
      | some t => if s.arr.emitted.contains (.cask c) then s else s.slotNone (s.carryV t) (.cask c)
      | none => s
    | some c0 =>
      if (c0.sinks.any fun q => s.credit c0 q.1 == 0) then s
      else if k.spilled then
        match k.refill with
        | [] => s.setCask c { k with rWait := true }
        | f :: fs =>
          match emitVia s (.cask c) f none with
          | .sent s1 _ =>
            (s1.setCask c { k with refill := fs, rWait := false, pktRead := pktStep s c k f.last }).moved c
          | _ => s
      else
        let remote := s.caskClass c == 2 && !s.elastic
        let due := caskOffers s c k a
        let fresh := match k.wrPeriod with | w :: _ => decide (w + 24 ≤ s.arr.period) | [] => false
        if remote && !(due && fresh) then s.raiseRemote c k.wrPeriod.head?
        else if !due then s.setCask c { k with rWait := true }
        else
          match k.side with
          | [] => s
          | x :: xs =>
            let (d, mp, s) := readWord s (s.caskAddr c k.rp)
            let bad := (parityOf d x.poison x.last x.evLine x.evBand x.smk x.tag != x.parity) != flip
            let f : Flit := { data := d, poison := x.poison || mp || bad, tag := x.tag, last := x.last, evLine := x.evLine,
                              evBand := x.evBand, smk := x.smk }
            match emitVia s (.cask c) f none with
            | .sent s1 _ =>
              let bound := s.caskBound c
              let s1 := s1.setCask c { k with rp := nextPtr bound k.rp, cnt := k.cnt - 1, rp2 := nextPtr bound k.rp2,
                                              cnt2 := k.cnt2 - 1, side := xs, wrPeriod := k.wrPeriod.drop 1, rWait := false,
                                              pktRead := pktStep s c k x.last, decant := k.decant - 1,
                                              moving := k.moving && decide (1 < k.decant) }
              let s1 := s1.freeEntry (.cask c) x.circ a
              let s1 := if bad then (s1.fcount (F.MM_CASK_PERR_count (tb (caskTile c))) 1).caskFault c 0x0602 else s1
              s1.moved c
            | _ => s

/-- Send the writers' credits for discarded cask words at once (R158). -/
def State.freeAll (s : State) (c : CaskRef) : List SideRec → State
  | [] => s
  | x :: xs => (s.freeEntry (.cask c) x.circ s.arr.runAc).freeAll c xs

/-- A read of this ac does not complete when the pointers differ in it (R155): its flit is not sent and its credits stay. -/
def State.unread (s : State) (c : CaskRef) : State :=
  let hit := fun (y : Flight) => y.circ.src == .cask c && y.due == s.arr.runAc + 1 && s.arr.emitted.contains (.cask c)
  match s.arr.flights.find? hit with
  | some y =>
    y.circ.sinks.foldl (fun s q => s.setCredit y.circ q.1 (s.credit y.circ q.1 + 1))
      (s.mapArr fun a => { a with flights := eraseFirst hit a.flights })
  | none => s

/-- CASK_POINTER_MISMATCH (R157, R158): the second copies are struck; when they differ from the first the cask resets. -/
def caskPointerMismatchEff (s : State) (c : CaskRef) (rp wp cnt : Nat) : State :=
  let k := s.cask c
  if s.caskPriv c && s.caskEn c && !(rp == k.rp && wp == k.wp && cnt == k.cnt) then
    let s := (s.freeAll c k.side).unread c
    let s := s.setCask c { CaskSt.init with hwm := k.hwm, peak := k.peak }
    s.caskFault c 0x0603
  else s

/-! ## Racking (R160–R164) -/

/-- Record the first skew outside its window (R162). -/
def State.skewLog (s : State) (r : TileRef) (u : Nat) (skew : Int) : State :=
  let b := tb r
  if s.fbit (F.RK_SKEW_LOG_valid b) then s
  else ((s.fset (F.RK_SKEW_LOG_unit b) u).fset (F.RK_SKEW_LOG_skew b) (unsigned 15 (clampI (-16383) 16383 skew))).fset
    (F.RK_SKEW_LOG_valid b) 1

/-- Judge the skew of a join (R162).
(DESIGN CHOICE, log 185) -/
def State.judgeSkew (s : State) (r : TileRef) (u early late : Nat) (skew : Int) : State :=
  let beyond : Int := if skew > late then skew - late else if skew < -(early : Int) then -(early : Int) - skew else 0
  if beyond = 0 then s
  else if s.elastic then (s.addElast 1).fcount (F.RK_WAIT_CNT_wait_ac (tb r)) beyond.toNat
  else ((s.tileFaultAt r 0x0640 0 u).skewLog r u skew).stopJob

/-- JOIN (R162–R164): an arrival-fired unit joins its token with its data and steers the data. The token leaves its register; with
pkt = 1 it governs the flits up to last = 1, for which no further token is needed. -/
def joinEff (s : State) (r : TileRef) (u : Nat) : State :=
  let x := s.tile r
  let a := s.arr.runAc
  let w := s.opd r x.vint u
  let kind := bitsW w 0 3
  if !(s.arrayRuns && kindOf r.k == .rk && x.started && x.st != .faulted && (kind == 1 || kind == 2 || kind == 3)) then s
  else
    let gov := nth none x.govern u
    match (match gov with | some t => some t | none => (nth none x.tokens u).filter fun t => decide (t.arr < a)) with
    | none => s
    | some tk =>
      let sel := if tk.poison then (kind == 3) else tk.v
      let inp := if kind = 2 && sel then u + 1 else u
      match x.headAt inp a with
      | none => s
      | some e =>
        let outp : Option Nat := if kind = 1 then some (if sel then u + 1 else u)
          else if kind = 2 then some u else if sel then some u else none
        if (match outp with | some o => x.outHeld o | none => false) then s
        else s.withCtl r [s.opdCw r x.vint u] fun s =>
          let s := if gov.isSome then s
            else s.judgeSkew r u (bitsW w 4 8) (bitsW w 12 8) ((e.arr : Int) - (tk.arr : Int))
          let both := kind == 2 && (x.headAt u a).isSome && (x.headAt (u + 1) a).isSome
          let s := if both && s.elastic && gov.isNone then s.addElast 1 else s
          let s := s.takeStage r inp a
          let y := s.tile r
          let y := { y with govern := setNth y.govern u (if bitW w 3 && !e.flit.last then some tk else none),
                            tokens := if gov.isSome then y.tokens else setNth y.tokens u none }
          let f := { e.flit with poison := e.flit.poison || tk.poison }
          let y := match outp with | some o => y.offer o (a + s.lat (tb r) y.vint .rk1) [f] | none => y
          tiPump (s.setTile r y) r a 20

/-! ## The Terrace broadcast (R177) -/

/-- BROADCAST_EVENT: an event due at a tile latches. -/
def broadcastEventEff (s : State) (r : TileRef) : State :=
  let hit := fun (b : Bcast) => b.tile == tileKey r && decide (b.due ≤ s.arr.runAc)
  if s.arrayRuns then
    match s.arr.bcast.find? hit with
    | none => s
    | some b =>
      let s := s.mapArr fun a => { a with bcast := eraseFirst hit a.bcast }
      if s.usesTile r (s.evVint r b.tag) then (s.unitSee r (s.evVint r b.tag) 0 1).latchEvents r true b.band b.tag else s
  else s

/-! ## The scale stream (R98–R106) -/

/-- Take the partial entry that waits at a chain member's scale-in stage. -/
def State.takePartial (s : State) (r : TileRef) : State :=
  let x := s.tile r
  match x.partIn, x.headAt 2 s.arr.runAc with
  | none, some e =>
    let en := entryOf e.flit e.circ.src
    if en.kind = 0 then
      let s := s.takeStage r 2 s.arr.runAc
      s.setTile r { s.tile r with partIn := some (en, e.arr) }
    else s
  | _, _ => s

/-- Is a partial entry wrong for the band a tile has just closed? (R106) -/
def partialBad (s : State) (r : TileRef) (x : TileSt) (e : ScaleEntry) : Bool :=
  e.poison || e.layer != s.layerOf r x.vint || e.tag != (x.band + 15) % 16

/-- PARTIAL_ENTRY_SEND (R100): a collecting member sends its band maximum 4 ac after it holds its band event and its
predecessor's partial.
(DESIGN CHOICE, log 180) -/
def partialEntrySendEff (s : State) (r : TileRef) : State :=
  let s := if s.isFirst r (s.tile r).vint || (s.tile r).chain.isNone then s else s.takePartial r
  let x := s.tile r
  let v := x.vint
  match x.chain with
  | none => s
  | some h =>
    if !s.arrayRuns || s.isLead r v || !s.collects r v then s
    else
      let send (s : State) (m : Nat) (poison : Bool) : State :=
        let x := s.tile r
        let e : ScaleEntry := { value := m, tag := (x.band + 15) % 16, kind := 0, layer := s.layerOf r v, rcp := 0,
                                poison := poison, src := none }
        s.withCtl r ((adaptCws r v).take 1) fun s => s.setTile r ({ x with chain := none, partIn := none }.offer 1 s.arr.runAc [flitOfEntry e])
      if s.isFirst r v then (if h + 4 ≤ s.arr.runAc then send s x.mOwn false else s)
      else
        match x.partIn with
        | none => s
        | some (e, arr) =>
          if Nat.max h arr + 4 ≤ s.arr.runAc then
            if partialBad s r x e then
              send (s.scaleBad r e ((x.band + 15) % 16) (e.layer != s.layerOf r v)) (Nat.max x.mOwn e.value) true
            else send s (Nat.max x.mOwn e.value) false
          else s

/-- Send a gain entry from the lead and apply it there (R101). -/
def sendGain (s : State) (r : TileRef) (g : Nat) : State :=
  let x := s.tile r
  let e : ScaleEntry := { value := g, tag := x.band % 16, kind := 1, layer := s.layerOf r x.vint, rcp := rcpOf g,
                          poison := false, src := none }
  s.setTile r ({ x with chain := none, partIn := none, adInit := false, adLead := g, gain := g, rcp := rcpOf g,
                        gainTag := x.band % 16, gainNeed := false }.offer 1 s.arr.runAc [flitOfEntry e])

/-- GAIN_ENTRY_SEND (R100–R103, R106): the lead forms the next band's gain 20 ac after it holds its band event and the incoming
partial; the first band of a job or of a Vintage takes g_init.
(DESIGN CHOICE, log 196) -/
def gainEntrySendEff (s : State) (r : TileRef) : State :=
  let v := (s.tile r).vint
  let s := if s.isFirst r v || (s.tile r).adInit || (s.tile r).chain.isNone then s else s.takePartial r
  let x := s.tile r
  let w0 := s.adapt r v 0
  let w1 := s.adapt r v 1
  let w2 := s.adapt r v 2
  match x.chain with
  | none => s
  | some h =>
    if !s.arrayRuns || !s.isLead r v then s
    else if x.adInit then s.withCtl r (adaptCws r v) fun s => sendGain s r (bitsW w2 0 16)
    else
      let compute (s : State) (m : Nat) : State := s.withCtl r (adaptCws r v) fun s =>
        let (g, lim, cl) := nextGain x.adLead m (bitsW w0 0 16) (bitsW w2 16 16) (bitsW w0 16 4) (bitsW w1 0 16) (bitsW w1 16 16)
        sendGain (s.setTile r { s.tile r with mLast := m, limited := lim, clamped := cl }) r g
      if s.isFirst r v then (if h + 20 ≤ s.arr.runAc then compute s x.mOwn else s)
      else
        match x.partIn with
        | none => s
        | some (e, arr) =>
          if Nat.max h arr + 20 ≤ s.arr.runAc then
            if partialBad s r x e then
              sendGain (s.scaleBad r e ((x.band + 15) % 16) (e.layer != s.layerOf r v)) r x.adLead
            else compute s (Nat.max x.mOwn e.value)
          else s

end Sys2Proof.Machine
end

