-- ==== Sys2Proof/Machine/HubOps.lean ====
section
/-!
DEFINITION. Machine/HubOps.lean: the operations the Hub's blocks share: error logs and events, violations (R316), completions
(R325, R329), HyperRAM blocks (R336–R348), the internal address map (R36), and the end of a job (R194, R195, R330).
-/
namespace Sys2Proof.Machine

/-! ## Error logs and events -/

/-- Log a 0Cxx error (SEC.ERR). -/
def State.secErr (s : State) (code : Nat) : State := (s.note code).capture 0 F.SEC_ERR_code F.SEC_ERR_valid code
/-- Log a power or thermal error (PWR.ERR). -/
def State.pwrErr (s : State) (code : Nat) : State := (s.note code).capture 0 F.PWR_ERR_code F.PWR_ERR_valid code
/-- Log a Trellis error (TRL.ERR). -/
def State.trlErr (s : State) (code : Nat) : State := (s.note code).capture 0 F.TRL_ERR_code F.TRL_ERR_valid code
/-- Log a Graft error (HUB.GRF_ERR); the log becoming valid sets both the err and the graft bit. -/
def State.grfErr (s : State) (code : Nat) : State :=
  let s := s.note code
  if s.fbit F.HUB_GRF_ERR_valid then s else (s.capture 0 F.HUB_GRF_ERR_code F.HUB_GRF_ERR_valid code).irq 2
/-- Log a channel error (STR.CHn_ERR). -/
def State.strErr (s : State) (n code : Nat) : State :=
  (s.note code).capture 0 (F.STR_CH_ERR_code n) (F.STR_CH_ERR_valid n) code
/-- Set an event bit of PWR.EVENT (14.9). -/
def State.pwrEvent (s : State) (i : Nat) : State := (s.fsetBit F.PWR_EVENT_ev i true).irq 1
/-- Set an event bit of TRL.EVENT (13.8). -/
def State.trlEvent (s : State) (i : Nat) : State := (s.fsetBit F.TRL_EVENT_ev i true).irq 4

/-- The number of an access source (HUB.VIOL_INFO.source). -/
def srcNum : AccSrc → Nat
  | .bar0 => 0 | .bar2 => 1 | .bar4 => 2 | .cellarmaster => 3 | .trellis => 4 | .stream => 5 | .jtag => 6 | .config => 7

/-- The address a violation captures: the BAR offset of a host access; the internal address of another source, whose register accesses
name a BAR0 offset (Table 1.5). -/
def violAddr (src : AccSrc) (addr : Nat) : Nat :=
  if (src == .cellarmaster || src == .stream || src == .jtag) && decide (addr < 0x100000) then 0x800000000 + addr else addr

/-- A violation (R316): E-0105, or E-0104 for a doorbell; counted, and captured when capture is armed.
(DESIGN CHOICE, log 109) -/
def State.violate (s : State) (src : AccSrc) (addr : Nat) (write : Bool) (reason : Nat) : State :=
  let s := (s.note (if reason = 6 then 0x0104 else 0x0105)).fcount F.HUB_VIOL_COUNT_count 1
  if s.fbit F.HUB_VIOL_INFO_valid then s
  else
    let s := s.fset F.HUB_VIOL_ADDR_addr (violAddr src addr % 2 ^ 32)
    let s := s.fset F.HUB_VIOL_INFO_addr_hi (violAddr src addr / 2 ^ 32)
    let s := s.fset F.HUB_VIOL_INFO_source (srcNum src)
    let s := s.fset F.HUB_VIOL_INFO_write (if write then 1 else 0)
    let s := s.fset F.HUB_VIOL_INFO_reason reason
    (s.fset F.HUB_VIOL_INFO_valid 1).irq 0

/-- A violation whose reason code no rule names: R297, the lock of a ring's base and size, a flash operation while one runs.
(DESIGN CHOICE, log 109) -/
def State.violateOpen (s : State) (src : AccSrc) (addr : Nat) (write : Bool) : State :=
  let (r, s) := s.freshBelow 6
  s.violate src addr write r

/-- A violating read completes with Completer Abort, which AER records (R314): bit 15 of the uncorrectable errors.
(PRESUMED, log 173) -/
def State.readAbort (s : State) (src : AccSrc) : State :=
  { s with cp := { s.cp with resp := .abort }, pci := { s.pci with aer := if srcNum src < 3 then Nat.lor s.pci.aer 0x8000 else s.pci.aer } }

/-! ## Updates of the parts -/

def State.mapCp (s : State) (f : CpSt → CpSt) : State := { s with cp := f s.cp }
def State.mapIng (s : State) (f : IngSt → IngSt) : State := { s with ing := f s.ing }
def State.mapLin (s : State) (f : LinSt → LinSt) : State := { s with lin := f s.lin }
def State.mapVrd (s : State) (f : VrdSt → VrdSt) : State := { s with vrd := f s.vrd }
def State.mapStr (s : State) (f : StrSt → StrSt) : State := { s with str := f s.str }
def State.mapHrm (s : State) (f : HrmSt → HrmSt) : State := { s with hrm := f s.hrm }
def State.mapTrl (s : State) (f : TrlSt → TrlSt) : State := { s with trl := f s.trl }
def State.mapPwr (s : State) (f : PwrSt → PwrSt) : State := { s with pwr := f s.pwr }
def State.mapGrf (s : State) (f : GrfSt → GrfSt) : State := { s with grf := f s.grf }
def State.mapSec (s : State) (f : SecSt → SecSt) : State := { s with sec := f s.sec }

/-! ## Completions and posted writes -/

/-- A code is raised; the codes of Table 15.8 are logged in SEC.ERR (R436). -/
def State.raise (s : State) (code : Nat) : State := if code / 256 = 0x0C then s.secErr code else s.note code
/-- A completion joins the queue of R320; its code counts as raised in the device (R326, R330). The result of a command that ends in an
error is an open value where no rule states it: a `result` of 0 beside an error code asks for one.
(DESIGN CHOICE, log 101) -/
def State.complete (s : State) (tag op code result : Nat) (irq : Bool) : State :=
  let (res, s) := if code ≠ 0 ∧ result = 0 then s.freshBelow (2 ^ 64) else (result, s)
  (s.raise code).mapCp fun c => { c with comps := c.comps ++ [{ kind := 1, tag := tag, op := op, code := code, result := res, irq := irq }] }

/-- The serial command in hand completes. -/
def State.serialDone (s : State) (code result : Nat) : State :=
  match s.cp.serial with
  | some c => (s.mapCp fun x => { x with serial := none }).complete c.e.tag.toNat c.op code result (c.e.flags.getLsbD 0)
  | none => s

/-- The tag under which the governor's own switch to the fall-back Vintage runs: no command carries it, so no completion entry
answers it (R399). -/
def govTag : Nat := 65536
/-- A switch ends: SWITCH_VINTAGE completes; a refused switch of the governor raises E-0B06, and the fall-back is not entered.
(DESIGN CHOICE, log 101) -/
def State.switchDone (s : State) (tag code result : Nat) (irq : Bool) : State :=
  if tag = govTag then (if code = 0 then s else (s.mapPwr fun p => { p with fallback := false }).pwrErr 0x0B06) else s.complete tag 5 code result irq

/-- Cut a posted write into write TLPs of at most `k` bytes. -/
def tlps (k : Nat) : Nat → Nat → List Byte → List HostWr
  | 0, a, bs => [⟨a, bs⟩]
  | n + 1, a, bs => if bs.length ≤ k then [⟨a, bs⟩] else ⟨a, bs.take k⟩ :: tlps k n (a + k) (bs.drop k)
/-- The largest payload of a write TLP: the smaller of 256 B and Max_Payload_Size, which is 128 B or more (R310). -/
def State.tlpMax (s : State) : Nat := Nat.min 256 (Nat.max 128 s.pci.mps)
/-- A posted write to host memory.
(DESIGN CHOICE, log 157) -/
def State.post (s : State) (addr : Nat) (bs : List Byte) : State :=
  s.mapCp fun c => { c with out := c.out ++ tlps s.tlpMax bs.length addr bs }

/-! ## Entries of the device's rings (R317–R320, R323) -/

/-- Bytes of an entry of a ring (Table 11.3). -/
def entrySize (r : Nat) : Nat := if r = 1 then 16 else if r = 2 then 32 else if r = 3 then 64 else 4096
/-- Is a ring enabled? -/
def State.ringOn (s : State) (r : Nat) : Bool := s.fbit (F.PCI_RING_CFG_en r)
/-- Entries a ring holds (R318). -/
def State.ringHeld (s : State) (r : Nat) : Nat := (s.reg (R.PCI_RING_PROD r) - s.reg (R.PCI_RING_CONS r)).toNat
/-- Has a device ring a free slot? -/
def State.ringFree (s : State) (r : Nat) : Bool :=
  s.ringOn r && decide (s.ringHeld r < 2 ^ s.fget (F.PCI_RING_CFG_log2size r))
/-- The phase bit of the next entry. -/
def State.phaseBit (s : State) (r : Nat) : Nat :=
  if (s.reg (R.PCI_RING_PROD r)).toNat / 2 ^ s.fget (F.PCI_RING_CFG_log2size r) % 2 = 0 then 1 else 0
/-- Raise a ring's vector: its count of unsignalled entries starts again. -/
def State.ringVec (s : State) (r : Nat) : State := (s.mapCp fun c => { c with unsig := setNth c.unsig r 0 }).raiseVec r
/-- The slot the next entry of a ring takes. -/
def State.slotAddr (s : State) (r : Nat) : Nat :=
  (s.reg (R.PCI_RING_BASE_LO r)).toNat + 2 ^ 32 * (s.reg (R.PCI_RING_BASE_HI r)).toNat +
    (s.reg (R.PCI_RING_PROD r)).toNat % 2 ^ s.fget (F.PCI_RING_CFG_log2size r) * entrySize r
/-- Write an entry into the next slot of a ring: first the payload of a crop chunk, then `bs`, whose byte 1 takes the phase bit in bit 0
(R319); `now` says that its vector is raised for it at once (R323). -/
def State.writeEntry (s : State) (r : Nat) (bs payload : List Byte) (now : Bool) : State :=
  let a := s.slotAddr r
  let bs := setNth bs 1 (nth 0 bs 1 ||| BitVec.ofNat 8 (s.phaseBit r))
  let s := if payload.isEmpty then s else s.post (a + bs.length) payload
  let s := (s.post a bs).setReg (R.PCI_RING_PROD r) (s.reg (R.PCI_RING_PROD r) + 1)
  let n := nth 0 s.cp.unsig r + 1
  let cnt := s.fget (F.PCI_RING_IRQ_count r)
  let s := s.mapCp fun c => { c with unsig := setNth c.unsig r n }
  if now || (cnt != 0 && decide (cnt ≤ n)) then s.ringVec r else s
/-- A completion or job-end entry (Table 11.9). -/
def compEntry (c : Comp) : List Byte :=
  bytesOf 1 c.kind ++ bytesOf 1 0 ++ bytesOf 2 c.tag ++ bytesOf 1 c.op ++ bytesOf 1 0 ++ bytesOf 2 c.code ++ bytesOf 8 c.result
/-- Ring 1 takes the oldest completion. -/
def State.compOut (s : State) : State :=
  match s.cp.comps with
  | [] => s
  | c :: cs =>
    if !s.ringFree 1 then s
    else (s.mapCp fun x => { x with comps := cs }).writeEntry 1 (compEntry c) [] (c.kind == 2 || c.code != 0 || c.irq)
/-- Ring 1 takes every completion it has room for. -/
def State.compsOut (s : State) : Nat → State
  | 0 => s
  | n + 1 => s.compOut.compsOut n

/-! ## HyperRAM (12.1, 12.2) -/

/-- Usable bytes of a device by its density code (Table 12.1). -/
def usableOf (density : Nat) : Nat := nth 0 [7454720, 14909440, 29822976, 59650048] density
/-- Usable bytes of channel `c` (R338). -/
def State.chanCap (s : State) (c : Nat) : Nat :=
  Nat.min (s.fget (F.HRM_CH_CFG_devices c)) 2 * usableOf (s.fget (F.HRM_CH_CFG_density c))
/-- First usable offset of channel `c`. -/
def State.chanStart (s : State) (c : Nat) : Nat := ((List.range c).map s.chanCap).foldl (· + ·) 0
/-- Installed usable capacity. -/
def State.hyperCap (s : State) : Nat := s.chanStart 4
/-- The channel that holds a usable offset. -/
def State.chanOf (s : State) (off : Nat) : Option Nat :=
  (List.range 4).find? fun c => decide (s.chanStart c ≤ off) && decide (off < s.chanStart c + s.chanCap c)
/-- Where a channel stands (HRM.CHn_STATUS.state). -/
def State.chanAt (s : State) (c : Nat) : Nat := nth 0 s.hrm.chan c
/-- A channel moves on, and HRM.CHn_STATUS shows it. -/
def State.setHyper (s : State) (c n : Nat) : State :=
  (s.mapHrm fun h => { h with chan := setNth h.chan c n }).fset (F.HRM_CH_STATUS_state c) n
/-- Has a channel failed? -/
def State.chanFailed (s : State) (c : Nat) : Bool := s.chanAt c == 3
/-- Is a channel ready? -/
def State.chanReady (s : State) (c : Nat) : Bool := s.chanAt c == 2
/-- Do all the bytes of a usable range lie on channels that have not failed? -/
def State.rangeGood (s : State) (off n : Nat) : Bool :=
  n == 0 || (decide (off + n ≤ s.hyperCap) &&
    (List.range 4).all fun c =>
      !(s.chanFailed c && rangesMeet off (off + n - 1) (s.chanStart c) (s.chanStart c + s.chanCap c - 1)))

/-- Does channel `c` initialise? Accesses to it wait (R349). -/
def State.chanInit (s : State) (c : Nat) : Bool := s.chanAt c == 1
/-- Does a usable range meet channel `c`? -/
def State.meetsChan (s : State) (c off n : Nat) : Bool :=
  decide (0 < n) && decide (0 < s.chanCap c) && rangesMeet off (off + n - 1) (s.chanStart c) (s.chanStart c + s.chanCap c - 1)
/-- Does a range of internal addresses touch a failed channel? -/
def State.onFailed (s : State) (a n : Nat) : Bool :=
  (List.range 4).any fun c => s.chanFailed c && inHyper a && s.meetsChan c (a - hyperBase) n
/-- Must an access to a range of internal addresses wait for a channel that initialises? (R349) -/
def State.waitsInit (s : State) (a n : Nat) : Bool :=
  (List.range 4).any fun c => s.chanInit c && inHyper a && s.meetsChan c (a - hyperBase) n

/-- First usable offset and length of Blend slot `i` (R343). -/
def State.slotPlace (s : State) (i : Nat) : Nat × Nat :=
  let n := s.fget F.HRM_BSTORE_slot_mib * 2 ^ 20
  (s.fget F.HRM_BSTORE_base * 2 ^ 20 + i * n, n)
/-- Does a range of internal addresses touch the Blend store? -/
def State.hitsBstore (s : State) (a n : Nat) : Bool :=
  let (o, len) := s.slotPlace 0
  decide (0 < n) && decide (0 < len) && inHyper a && rangesMeet (a - hyperBase) (a - hyperBase + n - 1) o (o + 4 * len - 1)

/-- The address check of the block at a usable offset: it folds the block's index in its device and the device's select (R341). -/
def State.addrCheck (s : State) (off : Nat) : Nat :=
  match s.chanOf off with
  | some c =>
    let cap := Nat.max (usableOf (s.fget (F.HRM_CH_CFG_density c))) 1
    let o := off - s.chanStart c
    let x := Nat.lor (o % cap / 32) (o / cap * 2 ^ 21)
    Nat.xor (Nat.xor x (x / 2 ^ 7)) (Nat.xor (x / 2 ^ 14) (x / 2 ^ 21)) % 128
  | none => 0

/-- Capture a HyperRAM error (HRM.ERR_ADDR, HRM.ERR_INFO) with its source. -/
def State.hrmErr (s : State) (code ch src off : Nat) : State :=
  let s := s.note code
  if s.fbit F.HRM_ERR_INFO_valid then s
  else
    let s := s.fset F.HRM_ERR_ADDR_offset off
    let s := ((s.fset F.HRM_ERR_INFO_code code).fset F.HRM_ERR_INFO_channel ch).fset F.HRM_ERR_INFO_source src
    (s.fset F.HRM_ERR_INFO_valid 1).irq 0

/-- A block whose codeword is read with what `r` left in error: its tag must hold the address check of the block, and its poison bit
(R341). -/
def checkBlock (s : State) (a src r : Nat) : Rd :=
  let bs := s.bytesAt a 32
  let off := a - hyperBase
  let chk := s.addrCheck off
  let tag := Nat.xor (2 * chk + (if s.poisoned a then 1 else 0)) (bitsN r 256 8)
  if tag / 2 = chk then (xorBytes bs r, bitN tag 0, s)
  else (xorBytes bs r, true, s.hrmErr 0x0811 ((s.chanOf off).getD 0) src off)

/-- Read the block at internal address `a` (a multiple of 32) for a user (R340, R341). -/
def readBlock (s : State) (a src : Nat) : Rd :=
  let off := a - hyperBase
  let ch := (s.chanOf off).getD 0
  if s.upsetAt a = 0 then (s.bytesAt a 32, s.poisoned a, s)
  else
    match rsDecode 36 (s.upsetAt a) with
    | .good r => checkBlock s a src r
    | .corrected r => checkBlock (s.fcount (F.HRM_CH_ERR_corr ch) 1) a src r
    | .bad => (xorBytes (s.bytesAt a 32) (s.upsetAt a), true, (s.fcount (F.HRM_CH_ERR_uncorr ch) 1).hrmErr 0x0810 ch src off)

/-- Read successive blocks. -/
def readBlocks (s : State) (src : Nat) : Nat → Nat → Rd
  | _, 0 => ([], false, s)
  | a, n + 1 =>
    let (b1, p1, s1) := readBlock s a src
    let (b2, p2, s2) := readBlocks s1 src (a + 32) n
    (b1 ++ b2, p1 || p2, s2)

/-- Read `n` HyperRAM bytes from internal address `a`.
(DEDUCED, log 127) -/
def readHyper (s : State) (a n src : Nat) : Rd :=
  if n = 0 then ([], false, s)
  else
    let lo := a / 32 * 32
    let (bs, p, s) := readBlocks s src lo ((a + n - 1) / 32 - a / 32 + 1)
    ((bs.drop (a - lo)).take n, p, s)

/-- Write part of the block at `a` from byte `o` (R344). -/
def writeBlock (s : State) (a o : Nat) (bs : List Byte) (poison : Bool) (src : Nat) : State :=
  if bs.length = 32 then ((s.putBytes a bs).setPoison a poison).setUpset a 0
  else
    let (old, p, s) := readBlock s a src
    ((s.putBytes a (old.take o ++ bs ++ old.drop (o + bs.length))).setPoison a (p || poison)).setUpset a 0

/-- Write bytes over successive blocks; `n` bounds the blocks touched. Only the loader (source 5) writes the Blend store: another write of
its bytes is dropped (R343). -/
def writeBlocks (s : State) (poison : Bool) (src : Nat) : Nat → Nat → List Byte → State
  | 0, _, _ => s
  | n + 1, a, bs =>
    if bs.isEmpty then s
    else
      let o := a % 32
      let s := if src != 5 && s.hitsBstore (a - o) 32 then s else writeBlock s (a - o) o (bs.take (32 - o)) poison src
      writeBlocks s poison src n (a - o + 32) (bs.drop (32 - o))

/-- Write HyperRAM bytes from internal address `a`. -/
def writeHyper (s : State) (a : Nat) (bs : List Byte) (poison : Bool) (src : Nat) : State :=
  writeBlocks s poison src (bs.length / 32 + 2) a bs

/-! ## The internal address map (R36, Table 1.5, Table 1.6) -/

/-- Does a byte address name Terrace memory of a good Row? -/
def State.terraceOk (s : State) (a : Nat) : Bool :=
  inTerrace a && decide (rowOf a < 9) && s.rowGood (terOf a) (rowOf a) &&
    (let o := a % 0x01000000
     if o < 0x00800000 then decide (o % 0x00100000 < 0xC0000) else decide (o < 0x00900000))

/-- Is a byte of on-chip SRAM or HyperRAM reachable? -/
def State.addrOk (s : State) (a : Nat) : Bool :=
  decide (a < 0x01000000) || s.terraceOk a ||
    (inHyper a && (match s.chanOf (a - hyperBase) with | some c => !s.chanFailed c | none => false))

/-- Are all bytes of a range reachable? The ends of each memory lie at multiples of 32 KiB or of a block, so the first and the last
byte and each block's first byte decide. -/
def State.spanOk (s : State) (a n : Nat) : Bool :=
  n == 0 || (s.addrOk a && s.addrOk (a + n - 1) &&
    (List.range (n / 4096 + 1)).all fun i => decide (n ≤ 4096 * i) || s.addrOk (a + 4096 * i))

/-- Read bytes of on-chip SRAM or HyperRAM. -/
def readInt (s : State) (a n src : Nat) : Rd := if inHyper a then readHyper s a n src else readChip s a n
/-- Write bytes of on-chip SRAM or HyperRAM. -/
def writeInt (s : State) (a : Nat) (bs : List Byte) (poison : Bool) (src : Nat) : State :=
  if inHyper a then writeHyper s a bs poison src else writeChip s a bs poison

/-! ## Writes under way (R303, R344) -/

/-- The FENCE in hand completes once every write it waits for has been accepted.
(DESIGN CHOICE, log 105) -/
def State.fenceCheck (s : State) : State :=
  match s.str.fenceTo with
  | some n =>
    if s.str.writes.any fun w => decide (w.no < n) then s
    else (s.mapStr fun x => { x with fenceTo := none }).serialDone 0 0
  | none => s
/-- A HyperRAM write has been accepted: fences and barriers no longer wait for it. -/
def State.writeDone (s : State) (no : Nat) : State :=
  (s.mapStr fun x => { x with chans := x.chans.map fun c => { c with
    fence := c.fence.filter (· != no), shadowFence := c.shadowFence.filter (· != no), waitAll := c.waitAll.filter (· != no) } }).fenceCheck

/-- Source of an error met by a write of a Stream-engine channel (HRM.ERR_INFO): crops, Graft entries, or the engine itself. -/
def wrSource (ch : Nat) : Nat := if ch = 3 then 4 else if ch = 4 then 3 else 0
/-- The controller finishes a write transaction: an access to a failed channel is not made (R348).
(DEDUCED, log 127) -/
def State.acceptWrite (s : State) (w : HyperWr) : State :=
  let s := s.mapStr fun x => { x with writes := x.writes.filter fun y => y.no != w.no }
  let s := if s.spanOk w.addr w.bytes.length then writeHyper s w.addr w.bytes w.poison (wrSource w.chan) else s
  s.writeDone w.no

/-- Does an access to internal address `a` share a channel with a write under way? -/
def State.sameChan (s : State) (a n : Nat) (w : HyperWr) : Bool :=
  inHyper a && (List.range 4).any fun c => s.meetsChan c (a - hyperBase) n && s.meetsChan c (w.addr - hyperBase) w.bytes.length
/-- A channel runs its transactions in the order of their issue: the writes issued to it come before an access to a range (R344).
(DEDUCED, log 127) -/
def State.inOrder (s : State) (a n : Nat) : State :=
  (s.str.writes.filter (s.sameChan a n)).foldl (fun s w => s.acceptWrite w) s

/-- The HyperRAM range that a channel writes: that of its active descriptor, or of a captured snapshot. -/
def State.writeRange (s : State) (m : Nat) : Option (Nat × Nat) :=
  if m = 6 then
    match s.cp.snap with
    | some q => q.block.map fun b => (q.dst, q.dst + b.length - 1)
    | none => none
  else
    let c := nth ChanSt.init s.str.chans m
    if c.active.isSome then c.wrange else none
/-- Channel `n`, whose transfer is number `ord` in the order of arming, reads HyperRAM bytes `lo` to `hi` without a fence: E-0A21 when they
meet a range that another channel's earlier descriptor writes (R303). -/
def State.readCheck (s : State) (n ord lo hi : Nat) : State :=
  if (List.range 16).any fun m =>
    m != n && decide ((nth ChanSt.init s.str.chans m).order < ord) &&
      (match s.writeRange m with | some (x, y) => rangesMeet lo hi x y | none => false)
  then s.strErr n 0x0A21
  else s

/-! ## Shared-store regions (R282) -/

/-- First byte of region `r`. -/
def State.regionBase (s : State) (r : Nat) : Nat := s.fget (F.HUB_SS_R_base r) * 65536
/-- Size of region `r` in bytes. -/
def State.regionSize (s : State) (r : Nat) : Nat := s.fget (F.HUB_SS_R_size r) * 65536
/-- Does a range lie in region `r`? -/
def State.inRegion (s : State) (r a n : Nat) : Bool :=
  decide (s.regionBase r ≤ a) && decide (a + n ≤ s.regionBase r + s.regionSize r)


end Sys2Proof.Machine
end

