-- ==== Sys2Proof/Machine/GraftQ.lean ====
section
/-!
DEFINITION. Machine/GraftQ.lean: the Graft state, the feature store and the pool, one training step, and the Graft queue (08 R234–R253).
-/
namespace Sys2Proof.Machine

/-! ## The section's tables (Table 8.2) -/

/-- Word `i` of block `k` of a section. -/
def gWord (g : List Byte) (k i : Nat) : Word := BitVec.ofNat 32 (leAt g ((gHdr g).off k + 4 * i) 4)
/-- Words of the forward block before layer `l`. -/
def fwdBase (h : GHdr) (l : Nat) : Nat := sumTo (l - 1) fun j => 1 + h.width j
/-- Input zero point z_{l−1} of layer `l`. -/
def gZp (g : List Byte) (l : Nat) : Int := signed 8 (gWord g 0 (fwdBase (gHdr g) l)).toNat
/-- Requantisation word of channel `c` of layer `l`. -/
def gFwd (g : List Byte) (l c : Nat) : Word := gWord g 0 (fwdBase (gHdr g) l + 1 + c)
/-- Backward word of layer `l`: 0 a, 1 u, 2 e. -/
def gBwd (g : List Byte) (l k : Nat) : Word := gWord g 1 (3 * (l - 1) + k)
/-- The section's segment table (R93). -/
def gSeg (g : List Byte) (i : Nat) : Seg :=
  let w0 := (gWord g 2 (2 * i)).toNat
  let w1 := (gWord g 2 (2 * i + 1)).toNat
  ⟨signed 16 w0, signed 16 (w0 >>> 16), signed 16 w1⟩
/-- Frozen weight W0 of hidden layer `l`. -/
def gFrozen (g : List Byte) (l c i : Nat) : Int :=
  let h := gHdr g
  signed 8 (leAt g (h.off 3 + (sumTo (l - 1) fun j => h.width j * h.width (j - 1)) + c * h.width (l - 1) + i) 1)
/-- Real bias of channel `c` of layer `l`. -/
def gBias (g : List Byte) (l c : Nat) : Int :=
  let h := gHdr g
  signed 32 (leAt g (h.off 4 + 4 * (sumTo (l - 1) h.width + c)) 4)

/-- The trainable matrices in the order of the masters: pid, rows, columns (R245). -/
def gMats (h : GHdr) : List (Nat × Nat × Nat) :=
  (0, h.K, h.width h.L) :: (List.range h.L).flatMap fun i =>
    [(2 * i + 1, h.r, h.width i), (2 * i + 2, h.width (i + 1), h.r)]

/-- Key of an element of a trainable matrix. -/
def gKey (pid row col : Nat) : Nat := 2 ^ 20 * pid + 2 ^ 10 * row + col

/-- The masters a section starts with. -/
def gMasters (g : List Byte) : SMap Int :=
  let o := (gHdr g).off 5
  let all := (gMats (gHdr g)).flatMap fun (pid, rows, cols) =>
    (List.range rows).flatMap fun r => (List.range cols).map fun c => gKey pid r c
  ((List.range all.length).map fun i => (nth 0 all i, signed 16 (leAt g (o + 2 * i) 2))).filter fun x => x.2 != 0

/-! ## The deployed head (R243) -/

/-- Sum of counts. -/
def sumN (xs : List Nat) : Nat := xs.foldl (· + ·) 0
/-- Saturate to `w` bits: the value and 1 when it saturated. -/
def satC (w : Nat) (x : Int) : Int × Nat := (satI w x, if satI w x = x then 0 else 1)

/-- One row of the deployed weights of layer `l`: codes and saturations. -/
def deployRow (g : List Byte) (w : SMap Int) (l c : Nat) : List Int × Nat :=
  let h := gHdr g
  let m := fun pid r k => sget zeroI w (gKey pid r k)
  let xs := (List.range (h.width (l - 1))).map fun i =>
    if l = h.L + 1 then satC 8 (asr (m 0 c i + 128) 8)
    else
      let sum := sumI ((List.range h.r).map fun k => m (2 * l) c k * m (2 * l - 1) k i)
      let sh := 16 + (if l = 1 then h.sba1 else h.sba2)
      satC 8 (gFrozen g l c i + asr (sum + (2 ^ (sh - 1) : Nat)) sh)
  (xs.map (·.1), sumN (xs.map (·.2)))

/-- The deployed weights of layer `l`. -/
def deployLayer (g : List Byte) (w : SMap Int) (l : Nat) : List (List Int) × Nat :=
  let rows := (List.range ((gHdr g).width l)).map (deployRow g w l)
  (rows.map (·.1), sumN (rows.map (·.2)))

/-- Bias words bq of layer `l` from its deployed weights. -/
def deployBias (g : List Byte) (l : Nat) (wd : List (List Int)) : List Int × Nat :=
  let xs := (List.range wd.length).map fun c =>
    let t := gBias g l c - gZp g l * sumI (nth [] wd c)
    let q := clampI (-(2 ^ 30 : Nat)) ((2 ^ 30 : Nat) - 1) t
    (q, if q = t then 0 else 1)
  (xs.map (·.1), sumN (xs.map (·.2)))

/-- One layer as deployed: number, weights, bias words. -/
structure GLayer where
  l : Nat
  wd : List (List Int)
  bq : List Int
deriving DecidableEq, Repr

/-- The deployed head and the saturations that forming it made. -/
def deployHead (g : List Byte) (w : SMap Int) : List GLayer × Nat :=
  let ls := (List.range ((gHdr g).L + 1)).map fun i =>
    let (wd, n) := deployLayer g w (i + 1)
    let (bq, k) := deployBias g (i + 1) wd
    ((⟨i + 1, wd, bq⟩ : GLayer), n + k)
  (ls.map (·.1), sumN (ls.map (·.2)))

/-! ## One sample (R244) -/

/-- Element-wise product sum of two lists. -/
def dotI : List Int → List Int → Int
  | a :: as, b :: bs => a * b + dotI as bs
  | _, _ => 0

/-- The forward pass of one layer. -/
def fwdLayer (g : List Byte) (last : Bool) (y : GLayer) (x : List Int) : List Int × Nat :=
  let xs := (List.range y.wd.length).map fun c =>
    let a := nth 0 y.bq c + dotI (nth [] y.wd c) x
    let w := gFwd g y.l c
    let (t, cl) := rqT (signed 32 (unsigned 32 a)) (rqMult w) (rqShift w)
    let (q, st) := outQ (if last then t else max t 0) (rqZp w) (-128) 127
    (q, (if cl then 1 else 0) + (if st then 1 else 0))
  (xs.map (·.1), sumN (xs.map (·.2)))

/-- The forward pass: the codes of every layer, x[0] first. -/
def fwdPass (g : List Byte) (head : List GLayer) (x0 : List Int) : List (List Int) × Nat :=
  head.foldl (fun (acc : List (List Int) × Nat) y =>
    let (q, n) := fwdLayer g (y.l == (gHdr g).L + 1) y (nth [] acc.1 (acc.1.length - 1))
    (acc.1 ++ [q], acc.2 + n)) ([x0], 0)

/-- Outer product added to a gradient sum. -/
def addOuter (acc : List (List Int)) (d x : List Int) : List (List Int) :=
  (List.range d.length).map fun c => (List.range x.length).map fun i => nth 0 (nth [] acc c) i + nth 0 d c * nth 0 x i

/-- sat8(rq_t(sat32(s), m, sh)) with its clamps. -/
def rq8 (s : Int) (w : Word) : Int × Nat :=
  let (a, n1) := satC 32 s
  let (t, cl) := rqT a (rqMult w) (rqShift w)
  let (q, n2) := satC 8 t
  (q, n1 + (if cl then 1 else 0) + n2)

/-- Gradient sums by matrix number. -/
abbrev Grads := List (Nat × List (List Int))
/-- The sum of a matrix. -/
def Grads.at (gs : Grads) (pid : Nat) : List (List Int) := ((gs.find? fun x => x.1 == pid).map (·.2)).getD []
/-- Replace the sum of a matrix. -/
def Grads.put (gs : Grads) (pid : Nat) (m : List (List Int)) : Grads := (pid, m) :: gs.filter fun x => x.1 != pid

/-- The backward pass from layer `l` down, with error codes `d`; `xs` are the codes of every layer. -/
def bwdPass (g : List Byte) (w : SMap Int) (head : List GLayer) (xs : List (List Int)) : Nat → List Int → Grads → Grads × Nat
  | 0, _, gs => (gs, 0)
  | l + 1, d, gs =>
    let h := gHdr g
    let lay := l + 1
    let x := (nth [] xs l).map fun v => v - gZp g lay
    let (gs, n1) :=
      if lay = h.L + 1 then (gs.put 0 (addOuter (gs.at 0) d x), 0)
      else
        let aRow := fun k => (List.range (h.width l)).map fun i => sget zeroI w (gKey (2 * lay - 1) k i)
        let bCol := fun k => (List.range (h.width lay)).map fun c => sget zeroI w (gKey (2 * lay) c k)
        let a8 := (List.range h.r).map fun k => rq8 (dotI (aRow k) x) (gBwd g lay 0)
        let u8 := (List.range h.r).map fun k => rq8 (dotI (bCol k) d) (gBwd g lay 1)
        let gs := gs.put (2 * lay) (addOuter (gs.at (2 * lay)) d (a8.map (·.1)))
        let gs := gs.put (2 * lay - 1) (addOuter (gs.at (2 * lay - 1)) (u8.map (·.1)) x)
        (gs, sumN (a8.map (·.2)) + sumN (u8.map (·.2)))
    if lay > 1 then
      let wd := (nth ⟨0, [], []⟩ head l).wd
      let dp := (List.range (h.width l)).map fun i =>
        if nth 0 x i > 0 then rq8 (dotI (wd.map fun row => nth 0 row i) d) (gBwd g lay 2) else (0, 0)
      let (gs, n2) := bwdPass g w head xs l (dp.map (·.1)) gs
      (gs, n1 + sumN (dp.map (·.2)) + n2)
    else (gs, n1)

/-- One sample: its gradient sums join those of the step. -/
def samplePass (g : List Byte) (w : SMap Int) (head : List GLayer) (acc : Grads × Nat) (e : List Byte) : Grads × Nat :=
  let h := gHdr g
  let x0 := ((e.drop 32).take h.D).map fun b => b.toInt
  let y := leAt e 11 1
  let (xs, n) := fwdPass g head x0
  let p := softmax (gSeg g) (nth [] xs (h.L + 1))
  let d := (List.range h.K).map fun c => nth 0 p c + 128 - (if c = y then 255 else 0)
  let (gs, k) := bwdPass g w head xs (h.L + 1) d acc.1
  (gs, acc.2 + n + k)

/-! ## Stochastic rounding and the update (R245, R246) -/

/-- The counter-keyed generator. -/
def srg (s ch el q : Nat) : Nat :=
  let m := 2 ^ 32
  let x := s * 0x9E3779B1 % m
  let x := Nat.xor x (ch * 0x85EBCA77 % m)
  let x := Nat.xor x (Nat.lor (el * 16 % m) q * 0xC2B2AE3D % m)
  let x := Nat.xor x (x >>> 16) * 0x7FEB352D % m
  let x := Nat.xor x (x >>> 15) * 0x846CA68B % m
  Nat.xor x (x >>> 16)
/-- 64 bits of it. -/
def rr (s ch el q : Nat) : Nat := srg s ch el (Nat.lor q 8) * 2 ^ 32 + srg s ch el q
/-- Stochastic rounding of v / 2^k. -/
def sround (v : Int) (k r : Nat) : Int := if k = 0 then v else asr (v + (r % 2 ^ k : Nat)) k
/-- The smallest fitting exponent, at most `lim`. -/
def exOf (mx lim : Nat) : Nat := ((List.range lim).find? fun e => decide (cdiv mx (2 ^ e) ≤ 127)).getD lim
/-- Exact floor square root below 2^64, from bit 31 down. -/
def isqrt (n : Nat) : Nat :=
  (List.range 32).foldl (fun r i => let t := r + 2 ^ (31 - i); if t * t ≤ n then t else r) 0

/-- The masters and the optimiser state of a bank. -/
structure GBank where
  w16 : SMap Int
  m8 : SMap Int
  v8 : SMap Int
  em : SMap Nat
  ev : SMap Nat
deriving DecidableEq, Repr

/-- The update of row `c` of a matrix from its saturated gradient sums (R246): the bank and the saturations. -/
def gradRow (h : GHdr) (step pid c : Nat) (gs : List Int) (acc : GBank × Nat) : GBank × Nat :=
  let (b, n0) := acc
  let ch := 1024 * pid + c
  let eg := exOf (maxN (gs.map Int.natAbs)) 24
  let rk := 1024 * pid + c
  let em := sget zeroN b.em rk
  let ev := sget zeroN b.ev rk
  let els := (List.range gs.length).map fun i =>
    let k := gKey pid c i
    let (q, n1) := satC 8 (sround (nth 0 gs i) eg (rr step ch i 0))
    let G := q * (2 ^ eg : Nat)
    let M := sget zeroI b.m8 k * (2 ^ em : Nat)
    let V := sget zeroI b.v8 k * (2 ^ ev : Nat)
    let Mn := M + asr (G - M) h.b1
    let Vn := V + asr (G * G - V) h.b2
    let t := Int.tdiv (Mn * 4096) ((isqrt Vn.toNat : Nat) + h.eps)
    let qd := clampI (-65535) 65535 t
    let (w, n2) := satC 16 (sget zeroI b.w16 k - sround (qd * h.lrM) (12 + h.lrE) (rr step ch i 3))
    (w, Mn, Vn, n1 + n2 + (if qd = t then 0 else 1))
  let em' := exOf (maxN (els.map fun e => e.2.1.natAbs)) 24
  let ev' := exOf (maxN (els.map fun e => e.2.2.1.toNat)) 55
  (List.range els.length).foldl (fun (a : GBank × Nat) i =>
    let (w, Mn, Vn, n) := nth (0, 0, 0, 0) els i
    let k := gKey pid c i
    let (m, n3) := satC 8 (sround Mn em' (rr step ch i 1))
    let (v, n4) := satC 8 (sround Vn ev' (rr step ch i 2))
    ({ a.1 with w16 := sset zeroI a.1.w16 k w, m8 := sset zeroI a.1.m8 k m, v8 := sset zeroI a.1.v8 k v }, a.2 + n + n3 + n4))
    ({ b with em := sset zeroN b.em rk em', ev := sset zeroN b.ev rk ev' }, n0)

/-- One whole step over its samples: the new bank and every saturation and clamp. -/
def graftStep (g : List Byte) (step : Nat) (b : GBank) (samples : List (List Byte)) : GBank × Nat :=
  let h := gHdr g
  let (head, n0) := deployHead g b.w16
  let (gs, n1) := samples.foldl (samplePass g b.w16 head) (([] : Grads), 0)
  (gMats h).foldl (fun acc (pid, rows, cols) =>
    (List.range rows).foldl (fun acc c =>
      let xs := (List.range cols).map fun i => satC 32 (nth 0 (nth [] (gs.at pid) c) i)
      let (b, n) := gradRow h step pid c (xs.map (·.1)) acc
      (b, n + sumN (xs.map (·.2)))) acc) (b, n0 + n1)

/-! ## The state in region 5 (R237) -/

/-- n_w and n_rows of a head, and S_g (R237). -/
def GHdr.stateSize (h : GHdr) : Nat :=
  let nw := h.K * h.width h.L + sumTo h.L fun l => h.r * (h.width (l - 1) + h.width l)
  let nr := h.K + sumTo h.L fun l => h.r + h.width l
  16 * nw + 8 * nr + 65536

/-- Bytes of region 5 that hold the Graft state. -/
def State.graftLen (s : State) : Nat := Nat.min (gHdr s.grf.sect).stateSize (s.regionSize 5)
/-- The Graft state has been written: the bytes of region 5 hold it in an order that R237 does not give, so they are open.
(DESIGN CHOICE, log 131) -/
def State.graftPut (s : State) : State :=
  let (x, s) := s.freshBelow (256 ^ s.graftLen)
  writeChip s (s.regionBase 5) (bytesOf s.graftLen x) false
/-- The Graft state is read: is any of it poisoned (R249)? -/
def State.graftRead (s : State) : Bool × State :=
  let (_, p, s) := readChip s (s.regionBase 5) s.graftLen
  (p, s)

/-! ## The feature store and the pool (R239–R242) -/

/-- Bytes of a feature or pool entry (Table 8.3). -/
def GHdr.entry (h : GHdr) : Nat := 32 + pad32 h.D
/-- The free bytes of the region beside store and pool. -/
def State.graftSlack (s : State) : Nat :=
  let h := gHdr s.grf.sect
  s.grf.len - h.entry * (h.featCap + h.poolCap)
/-- First byte of the feature store: where in the region it lies is open; the pool lies above it (R239).
(DESIGN CHOICE, log 40) -/
def State.storeBase (s : State) : Nat := hyperBase + s.grf.base + Config.graftOff 0 % (s.graftSlack + 1)
/-- First byte of the pool.
(DESIGN CHOICE, log 40) -/
def State.poolBase (s : State) : Nat :=
  let h := gHdr s.grf.sect
  s.storeBase + h.entry * h.featCap + Config.graftOff 1 % (s.graftSlack - Config.graftOff 0 % (s.graftSlack + 1) + 1)
/-- Can the feature store and pool be reached (R241, Table 12.4)?
(DESIGN CHOICE, log 40) -/
def State.graftReach (s : State) : Bool :=
  let h := gHdr s.grf.sect
  s.rangeGood (s.storeBase - hyperBase) (h.entry * h.featCap) && s.rangeGood (s.poolBase - hyperBase) (h.entry * h.poolCap)
/-- Must an access to the store or the pool wait for a channel that initialises? (R349) -/
def State.graftWaits (s : State) : Bool :=
  let h := gHdr s.grf.sect
  s.waitsInit s.storeBase (h.entry * h.featCap) || s.waitsInit s.poolBase (h.entry * h.poolCap)
/-- Count a feature entry lost. -/
def State.grfDrop (s : State) (n : Nat) : State := s.fcount F.HUB_GRF_DROP_drop n
/-- The slot of the entry of a sequence number, and its first byte. -/
def State.featSlot (s : State) (seq : Nat) : Nat × Nat :=
  let k := seq % Nat.max (gHdr s.grf.sect).featCap 1
  (k, s.storeBase + (gHdr s.grf.sect).entry * k)
/-- The waiting entries are lost (R240, Table 12.4). -/
def State.featsDropped (s : State) : State := (s.grfDrop s.grf.wait.length).mapGrf fun g => { g with wait := [], featSent := 0 }
/-- Channel 4 reads an entry of the store or of the pool (R297, R303). -/
def State.readEntry (s : State) (a : Nat) : Rd :=
  let n := (gHdr s.grf.sect).entry
  readHyper ((s.readCheck 4 s.str.nextOrder a (a + n - 1)).inOrder a n) a n 3
/-- The store entry of a sequence number, with its poison; none when it is absent or another's. -/
def State.featOf (s : State) (seq : Nat) : Option (List Byte × Bool) × State :=
  let (k, a) := s.featSlot seq
  if !sget zeroF s.grf.feats k then (none, s)
  else
    let (bs, p, s) := s.readEntry a
    (if leAt bs 0 4 = seq then some (bs, p) else none, s)
/-- First byte of pool entry `i`; the pool fills its slots in a circle. -/
def State.poolSlot (s : State) (i : Nat) : Nat :=
  s.poolBase + (gHdr s.grf.sect).entry * ((s.grf.poolHead + i) % Nat.max (gHdr s.grf.sect).poolCap 1)
/-- The addresses of the entries that the store and the pool hold. -/
def State.graftAddrs (s : State) : List Nat :=
  (s.grf.feats.map fun x => s.storeBase + (gHdr s.grf.sect).entry * x.1) ++ (List.range s.grf.poolLen).map s.poolSlot
/-- The store and the pool take another place with their entries (R236, R239). -/
def State.moveGraft (s : State) (base len : Nat) : State :=
  let n := (gHdr s.grf.sect).entry
  let (es, s) := s.graftAddrs.foldl (fun (acc : List (List Byte × Bool) × State) a =>
    let (bs, p, s) := readHyper (acc.2.inOrder a n) a n 3
    (acc.1 ++ [(bs, p)], s)) ([], s)
  let s := s.mapGrf fun g => { g with base := base, len := len, featSent := 0 }
  (List.range es.length).foldl (fun s i =>
    let (bs, p) := nth ([], false) es i
    let a := nth 0 s.graftAddrs i
    writeHyper (s.inOrder a n) a bs p 3) s
/-- Append an entry to the pool, the oldest leaving when it is full (R242). -/
def State.appendPool (s : State) (e : List Byte) (poison : Bool) : State :=
  let full := decide ((gHdr s.grf.sect).poolCap ≤ s.grf.poolLen)
  let s := if full then s.mapGrf fun g => { g with poolHead := (g.poolHead + 1) % Nat.max (gHdr g.sect).poolCap 1, poolLen := g.poolLen - 1 } else s
  let a := s.poolSlot s.grf.poolLen
  (writeHyper (s.inOrder a e.length) a e poison 3).mapGrf fun g => { g with poolLen := g.poolLen + 1 }
/-- The entries of the pool, oldest first, each with its poison. -/
def State.poolEntries (s : State) : List (List Byte × Bool) × State :=
  let n := (gHdr s.grf.sect).entry
  ((List.range s.grf.poolLen).map s.poolSlot).foldl (fun acc a =>
    let (bs, p, s) := readHyper (acc.2.inOrder a n) a n 3
    (acc.1 ++ [(bs, p)], s)) ([], s)
/-- The samples of step `k`: pool entries in order from ((k − 1) × n) mod c (R242); and whether one arrived poisoned. -/
def State.stepSamples (s : State) (k : Nat) : List (List Byte) × Bool × State :=
  let h := gHdr s.grf.sect
  (List.range h.n).foldl (fun (acc : List (List Byte) × Bool × State) i =>
    let s := acc.2.2
    let a := s.poolSlot (((k - 1) * h.n + i) % Nat.max s.grf.poolLen 1)
    let (bs, p, s) := s.readEntry a
    (acc.1 ++ [bs], acc.2.1 || p, s)) ([], false, s)

/-! ## The queue (R241, R250, R251) -/

/-- The Graft state starts from the bound section; false, with the state as it was, when its slot no longer holds the measured image (R250).
(DESIGN CHOICE, log 202) -/
def State.graftInit (s : State) : Bool × State :=
  let sl := nth SlotSt.init s.hrm.slots s.grf.slot
  if sl.valid && sl.meas == s.grf.meas then
    (true, (s.mapGrf fun g => { g with mode := .ready, w16 := gMasters g.sect, m8 := [], v8 := [], em := [], ev := [], step := 0 }).graftPut)
  else (false, s)

/-- Position in the queue of the command that runs: a commit that stages or waits for its band lets the next go on (R251, Table 8.4). -/
def State.grfAt (s : State) : Nat :=
  match s.grf.queue with
  | q :: _ => if q.commit && q.staging then 1 else 0
  | [] => 0
/-- The command that runs. -/
def State.grfCur (s : State) : Option GraftCmd := s.grf.queue[s.grfAt]?
/-- Replace it. -/
def State.setCur (s : State) (q : GraftCmd) : State := s.mapGrf fun g => { g with queue := setNth g.queue s.grfAt q }
/-- It completes and leaves the queue. -/
def State.grfDone (s : State) (q : GraftCmd) (code result : Nat) : State :=
  (s.mapGrf fun g => { g with queue := dropNth g.queue s.grfAt }).complete q.tag (if q.commit then 0x0A else 9) code result q.irq
/-- Result of a GRAFT_SUBMIT: step number and pool count. -/
def State.submitResult (s : State) : Nat := s.grf.step % 2 ^ 32 + 2 ^ 32 * s.grf.poolLen

/-- Check a list of sample descriptors (R241): the code with which it is refused, 0 when all pass, and the entries to append, each with its
label. -/
def State.samples (s : State) (K : Nat) : Nat → List Byte → Nat × List (List Byte) × State
  | 0, _ => (0, [], s)
  | n + 1, bs =>
    if bs.isEmpty then (0, [], s)
    else if leAt bs 4 1 ≥ K ∨ leAt bs 5 3 ≠ 0 then (0x0D0A, [], s)
    else
      match s.featOf (leAt bs 0 4) with
      | (none, s) => (0x0D02, [], s)
      | (some (e, p), s) =>
        if p || bitN (leAt e 10 1) 0 then (0x0D03, [], s)
        else
          let (code, es, s) := s.samples K n (bs.drop 8)
          (code, (e.take 11 ++ bytesOf 1 (leAt bs 4 1) ++ e.drop 12) :: es, s)

/-- The first two stages of a GRAFT_SUBMIT: reset, check and append.
(DEDUCED, log 65) -/
def State.submitStart (s : State) (q : GraftCmd) : State :=
  if s.grf.bound.isNone then s.grfDone q 0x0D01 0
  else if q.bad ≠ 0 then s.grfDone q q.bad 0
  else
    let (ok, s) := if q.reset then s.graftInit else (s.grf.mode == .ready, s)
    if !ok then s.grfDone q (if s.grf.mode == .damaged && !q.reset then 0x0D06 else 0x0D08) 0
    else
      let reach := s.graftReach
      let (code, es, s) := if reach then s.samples (gHdr s.grf.sect).K 257 q.list else (0x0D0B, [], s)
      let code := if code = 0 ∧ q.steps ≠ 0 ∧ es.isEmpty = true ∧ s.grf.poolLen = 0 then 0x0D0A else code
      if code ≠ 0 then s.grfDone q code 0
      else
        let s := es.foldl (fun s e => s.appendPool e false) s
        if q.steps = 0 then s.grfDone q 0 s.submitResult else s.setCur { q with appended := true }

/-- The copy of its weights that a head tile uses: the one its AG0 base names (R252). -/
def State.headCopy (s : State) (v : Nat) (h : HeadRec) : Nat :=
  if (s.param (s.targetTile v h.target) (0x110 + v * 0x10)).toNat % 65536 = h.base1 then 1 else 0
/-- What a commit writes into the idle copy: the weight sets and bias words of each head tile (R81, R84, R252). -/
def State.commitWrites (s : State) (target : Nat) (head : List GLayer) : List (Nat × List Byte) :=
  (s.headRecs target).flatMap fun h =>
    let copy := 1 - s.headCopy target h
    let r := s.targetTile target h.target
    let ws := wsBase r.t r.row r.k
    let y := nth ⟨0, [], []⟩ head (h.layer - 1)
    let base := if copy = 0 then h.base0 else h.base1
    let bias := if copy = 0 then h.bias0 else h.bias1
    let sets := (List.range h.nSets).map fun j =>
      (ws + 512 * (base + j), (List.range 512).map fun i =>
        BitVec.ofInt 8 (nth 0 (nth [] y.wd (h.chFirst + i % 32)) (h.inFirst + 16 * j + i / 32)))
    if bias = 0xFFFF then sets
    else sets ++ [(ws + 32 * bias, (List.range 32).flatMap fun c => bytesOf 4 (unsigned 32 (nth 0 y.bq (h.chFirst + c))))]

/-- The Graft-commit casks that a Vintage's Blend provides (R252). -/
def State.commitCasks (s : State) (v : Nat) : List CaskRef :=
  ((List.range 4608).map fun n => (⟨Fin.ofNat 4 (n / 1152), Fin.ofNat 9 (n / 128), Fin.ofNat 8 (n / 16), Fin.ofNat 16 n⟩ : CaskRef)).filter fun c =>
    s.caskEn c && s.caskClass c == 3 && s.caskUse c v
/-- A staged flit is written into a Graft-commit cask and leaves it over the maintenance path (R252). Which cask takes it, and how many words
the cask then holds, are open.
(DESIGN CHOICE, log 66) -/
def State.viaCask (s : State) (cs : List CaskRef) (bs : List Byte) : State :=
  match cs with
  | [] => s
  | c0 :: _ =>
    let (i, s) := s.freshBelow cs.length
    let c := nth c0 cs i
    let bound := s.caskBound c
    let (n, s) := s.freshBelow bound
    let k := s.cask c
    let s := writeChip s (s.caskAddr c k.wp) bs false
    s.setCask c { k with wp := nextPtr bound k.wp, rp := nextPtr bound k.rp, wp2 := nextPtr bound k.wp2, rp2 := nextPtr bound k.rp2,
                         hwm := Nat.max k.hwm (n + 1), peak := Nat.max k.peak (n + 1) }
/-- The staged bytes of a commit pass through the casks, 32 to a flit. -/
def State.viaCasks (s : State) (cs : List CaskRef) : Nat → List Byte → State
  | 0, _ => s
  | n + 1, bs => if bs.isEmpty then s else (s.viaCask cs ((bs ++ List.replicate 32 0).take 32)).viaCasks cs n (bs.drop 32)

/-- Is a Vintage the target of an armed switch, and not active? -/
def State.switchTarget (s : State) (v : Nat) : Bool :=
  v != s.activeV && (match s.sw with | some w => w.armed && w.target == v | none => false)
/-- Does a placed Vintage carry the bound head? -/
def State.hasBound (s : State) (v : Nat) : Bool :=
  s.isPlaced v && !(s.placedRec v).graft.isEmpty && s.grf.bound == some (s.placedRec v).digest

/-- Poison reached a step or staged data (R249): the state is damaged and every queued command completes with E-0D06. -/
def State.graftDamaged (s : State) : State :=
  let s := (s.grfErr 0x0D06).mapGrf fun g => { g with mode := .damaged, stepping := false, stage := [], changed := [] }
  let qs := s.grf.queue
  qs.foldl (fun s q => s.complete q.tag (if q.commit then 0x0A else 9) 0x0D06 0 q.irq) (s.mapGrf fun g => { g with queue := [] })

/-- A GRAFT_COMMIT reaches its turn (R251): the masters as they stand are staged.
(DEDUCED, log 65) -/
def State.commitStart (s : State) (q : GraftCmd) : State :=
  if s.grf.bound.isNone then s.grfDone q 0x0D01 0
  else if !s.hasBound q.target || s.switchTarget q.target then s.grfDone q 0x0D04 0
  else if s.grf.mode == .damaged then s.grfDone q 0x0D06 0
  else if s.grf.mode == .uninit then s.grfDone q 0x0D08 0
  else
    let (bad, s) := s.graftRead
    if bad then s.graftDamaged
    else
    let (head, n) := deployHead s.grf.sect s.grf.w16
    let s := s.fcount F.HUB_GRF_SAT_sat n
    (s.mapGrf fun g => { g with stage := s.commitWrites q.target head }).setCur { q with staging := true }

/-- Run the queue as far as it goes without a step or staging (R241, R248); intake pauses while background traffic is deferred (R397). A
submit whose state has been lost under it ends as one that finds none, and one whose pool a channel failure takes away with E-0D0B (Table
12.4).
(DEDUCED, log 64; DESIGN CHOICE, log 203) -/
def State.pumpGraft (s : State) : Nat → State
  | 0 => s
  | fuel + 1 =>
    match s.grfCur with
    | none => s
    | some q =>
      if q.commit then
        if s.grfAt = 0 then
          if s.pwr.deferBg then s else (s.commitStart q).pumpGraft fuel
        else if (s.grf.queue.take 1).any fun p => p.target == q.target && p.staged then (s.grfDone q 0x0D05 0).pumpGraft fuel
        else s
      else if !q.appended then
        if s.pwr.deferBg || s.graftWaits then s else (s.submitStart q).pumpGraft fuel
      else if q.steps ≤ q.done then (s.grfDone q 0 s.submitResult).pumpGraft fuel
      else if s.grf.mode != .ready then (s.grfDone q 0x0D08 0).pumpGraft fuel
      else if !s.graftReach then ((s.mapGrf fun g => { g with stepping := false }).grfDone q 0x0D0B 0).pumpGraft fuel
      else s

/-- A Graft command enters the queue; a full queue completes it with E-0D07. -/
def State.graftEnter (s : State) (q : GraftCmd) : State :=
  if 16 ≤ s.grf.queue.length then s.complete q.tag (if q.commit then 0x0A else 9) 0x0D07 0 q.irq
  else (s.mapGrf fun g => { g with queue := g.queue ++ [q] }).pumpGraft 32

/-- A head tile changes to its other copy: the AG0 base of its Vintage and the bias-block address of its descriptor (R252). -/
def State.flipHead (s : State) (v : Nat) (h : HeadRec) : State :=
  let r := s.targetTile v h.target
  let copy := 1 - s.headCopy v h
  let base := if copy = 0 then h.base0 else h.base1
  let bias := if copy = 0 then h.bias0 else h.bias1
  let i0 := 0x110 + v * 0x10
  let w := s.param r i0
  let s := s.setWord .param (tileKey r) i0 (BitVec.ofNat 32 (w.toNat / 65536 * 65536 + base))
  if bias = 0xFFFF then s
  else
    let ia := 0x1A0 + v * 0x10 + h.d
    let a := s.param r ia
    s.setWord .param (tileKey r) ia (BitVec.ofNat 32 (a.toNat / 2048 * 2048 + bias % 2048))

/-- Is the copy change of a head-tile record still to come? -/
def State.unflipped (s : State) (v : Nat) (h : HeadRec) : Bool := !s.grf.changed.contains (tileKey (s.targetTile v h.target))
/-- Complete a commit that has changed every head tile: the generation advances (R253). -/
def State.commitDone (s : State) (q : GraftCmd) (band : Nat) : State :=
  let gen := (s.fget F.HUB_GRF_GEN_gen + 1) % 65536
  let s := s.mapGrf fun g => { g with queue := g.queue.drop 1, changed := [] }
  let s := (s.fset F.HUB_GRF_GEN_gen gen).fset F.HUB_GRF_GEN_band (band % 65536)
  let s := s.mapVrd fun v => { v with gens := v.gens ++ [(band, gen)] }
  s.complete q.tag 0x0A 0 (gen + 2 ^ 16 * (band % 2 ^ 32)) q.irq

/-- Every head tile of a commit's target that has not changed takes the other copy at once (R252 outside a job, R254 at a job's end), and the
queue goes on. -/
def State.commitNow (s : State) (q : GraftCmd) (band : Nat) : State :=
  ((((s.headRecs q.target).filter (s.unflipped q.target)).foldl (fun s h => s.flipHead q.target h) s).commitDone q band).pumpGraft 32


end Sys2Proof.Machine
end

