-- ==== Sys2Proof/Machine/JobEnd.lean ====
section
/-!
DEFINITION. Machine/JobEnd.lean: the end of a job, and what it does to switches and commits (06 R194, R195; 11 R330).
-/
namespace Sys2Proof.Machine

/-! ## The end of a job (R194, R195, R330) -/

/-- The job summary (Table 11.7). -/
def State.summary (s : State) : List Byte :=
  bytesOf 4 s.job.number ++ bytesOf 4 s.job.bandsClosed ++ bytesOf 4 s.job.lastRow ++ bytesOf 4 0 ++
  bytesOf 8 s.arr.runAc ++ bytesOf 8 s.arr.holdAc ++ bytesOf 8 s.arr.elast ++ bytesOf 8 s.job.energyUj ++
  bytesOf 8 s.job.verdicts ++ bytesOf 8 s.job.indeterminate

/-- Every sequencer halts; latches, loops and casks keep their contents. -/
def haltAll (xs : SMap TileSt) : SMap TileSt :=
  xs.map fun (k, x) => (k, if x.started && x.st != .faulted then { x with st := .halted, fire := none } else x)

/-- A tile that stands halted differs from one at reset, so the map stays canonical. -/
def State.haltTiles (s : State) : State := s.mapArr fun a => { a with tiles := haltAll a.tiles, clocked := false }

/-- The local logical Rows a placed Vintage uses, as (Terrace, k), with the physical Row the map names (R212, R215). -/
def State.rowsOf (s : State) (v : Nat) : List (Nat × Nat) :=
  (((List.range 32).filter (bitN (s.placedRec v).rowMask)).map fun l => (l / 8, l % 8)).filter fun (t, k) =>
    decide (s.physRow t v k < 9)

/-- Does a Vintage's map name a retired Row? (R21) -/
def State.mapRetired (s : State) (v : Nat) : Bool :=
  (s.rowsOf v).any fun (t, k) => bitN (s.fget (F.TER_ROW_STATUS_row_retired t)) (s.physRow t v k)

/-- The Rows of a Vintage by Terrace and physical Row. -/
def State.physRows (s : State) (v : Nat) : List (Nat × Nat) := (s.rowsOf v).map fun (t, k) => (t, s.physRow t v k)

/-- Rows whose configuration a switch outside a job changes run the staged release of R201. -/
def State.releaseChanged (s : State) (old new : Nat) : State :=
  (List.range 36).foldl (fun s i =>
    if nth [] (s.placedRec old).digests i == nth [] (s.placedRec new).digests i then s
    else s.setLcRow (i / 9) (i % 9) { LcRow.init with go := true }) s

/-- Make a Vintage active outside a job (R186). -/
def State.activate (s : State) (v : Nat) : State :=
  let old := s.activeV
  (s.settleRows (s.fset F.HUB_VNT_STATUS_active v)).releaseChanged old v

/-- SWITCH_VINTAGE outside a job (R186).
(DEDUCED, log 144) -/
def State.switchOutside (s : State) (tag : Nat) (irq : Bool) (target : Nat) : State :=
  if !s.isPlaced target then s.switchDone tag 0x0701 0 irq
  else if s.mapRetired target then s.switchDone tag 0x0703 0 irq
  else if target = s.activeV then s.switchDone tag 0 0xFFFFFFFF irq
  else (s.activate target).switchDone tag 0 0xFFFFFFFF irq

/-- What becomes of a switch in hand and of a waiting one when the job ends in band or at boundary `be` (Table 6.2, R191): one whose
boundary has passed is complete, since every tile is halted; any other takes place as outside a job. With a `code` (R312, R413) both
complete with it.
(DESIGN CHOICE, log 143; DEDUCED, log 144) -/
def State.endSwitches (s : State) (be code : Nat) : State :=
  let wait := s.swWait
  let s := { s with swWait := none }
  let s := match s.sw with
    | some w =>
      let s := { s with sw := none }
      if code ≠ 0 then s.switchDone w.tag code 0 w.irq
      else if w.armed && decide (w.band < be) then (s.settleRows (s.fset F.HUB_VNT_STATUS_active w.target)).switchDone w.tag 0 w.band w.irq
      else s.switchOutside w.tag w.irq w.target
    | none => s
  match wait with
  | some (t, irq, target, _, _) => if code ≠ 0 then s.switchDone t code 0 irq else s.switchOutside t irq target
  | none => s

/-- Job lines that completed and that the Hub has not sent: they are discarded and counted (R280).
(DEDUCED, log 142) -/
def State.dropHeld (s : State) : State :=
  let n := s.job.lineNo - s.ing.nextStart
  let s := if n = 0 then s else s.fcount F.ING_DISC_CNT_count n
  s.mapIng fun g => { g with lines := [], nextStart := g.nextStart + n }

/-- What ends with a job's run: the array halts, with it the hold for a late input (R181), a running Graft step is abandoned (R247) and
lines not sent are dropped.
(DESIGN CHOICE, log 143) -/
def State.stopRun (s : State) : State :=
  let s := ((s.haltTiles.mapArr fun a => { a with holdRemote := none, holdTile := none, remAc := 0 }).fset
    F.HUB_HOLD_STATUS_remote 0).dropHeld.mapGrf fun g => { g with stepping := false }
  { s with tx := { s.tx with lines := [] } }

/-- A value of PWR.LOAM takes effect (R407, R408): with en at 0 the ramp ends too. -/
def State.loamSet (s : State) (w : Word) : State :=
  let s := s.setReg R.PWR_LOAM (w &&& 0x7F)
  if s.fbit F.PWR_LOAM_en then s else s.mapPwr fun p => { p with ramp := 0 }
/-- A write of PWR.LOAM that waits takes effect (R408). -/
def State.loamNow (s : State) : State :=
  match s.pwr.loamNext with
  | some w => (s.mapPwr fun p => { p with loamNext := none }).loamSet w
  | none => s

/-- The job ends: its job-end entry with reason, b_e and first error (R330), or the code of an array reset (R413). An
end with no boundary has no b_e of the spec's, so its field is open. Then switches and a commit that waits for its band
(R254), and the END_JOB in hand. Switches complete with `swCode` where it is not 0.
(DESIGN CHOICE, log 143; DESIGN CHOICE, log 145; DEDUCED, log 146) -/
def State.endJob (s : State) (reason code swCode : Nat) : State :=
  let s := if code = 0 then s else s.raise code
  let s := s.stopRun
  let j := s.job
  let (be, s) := match j.stopped with | some (b, _) => (b, s) | none => s.freshBelow (2 ^ 24)
  let s := s.mapCp fun c => { c with comps := c.comps ++
    [{ kind := 2, tag := j.tag, op := 3, code := if swCode = 0x0C20 then 0x0C20 else j.firstErr,
       result := j.lastRow % 2 ^ 32 + 2 ^ 32 * be % 2 ^ 56 + 2 ^ 56 * reason, irq := true }] }
  let s := s.mapJob fun j => { j with running := false, filling := false, endReq := none, stopped := none, stopFault := false }
  let passed := if j.stopped.isSome then be else j.bandsClosed + 1
  let s := (s.loamNow.fset F.PWR_STATE_state 1).endSwitches passed swCode
  let s := match s.grf.queue with
    | q :: _ => if q.commit && q.staged then s.commitNow q j.bandsClosed else s
    | [] => s
  match j.endReq with
  | some (t, irq, _) => s.complete t 4 0 0 irq
  | none => s

/-- The job ends at a band boundary or with no lines. -/
def State.finishJob (s : State) (reason code : Nat) : State := s.endJob reason code 0

/-- A job that runs ends at once with a code (R195).
(DESIGN CHOICE, log 145) -/
def State.endJobNow (s : State) (code : Nat) : State :=
  if s.job.running || s.job.filling then s.endJob 2 code 0 else s

/-- A job that runs ends at once with a code that pending switches take too (R312, R413). -/
def State.endJobReset (s : State) (code : Nat) : State :=
  if s.job.running || s.job.filling then s.endJob 2 code code else s

/-- The band of a job line (R28). -/
def State.bandOf (s : State) (line : Nat) : Nat := line / s.job.bandLen

end Sys2Proof.Machine
end

