-- ==== Sys2Proof/Machine/PowerOps.lean ====
section
/-!
DEFINITION. Machine/PowerOps.lean: bins, the wanted bin, arming a change of frequency and announcing it (14 R392–R396, 13 R371,
R372), and sending Trellis tokens and messages.
-/
namespace Sys2Proof.Machine

/-! ## Sending over Trellis (R358, R365) -/

/-- Is the device part of a running ring? -/
def State.inSystem (s : State) : Bool := s.fbit F.TRL_CFG_en
/-- Is a port up? -/
def State.portUp (s : State) (p : Nat) : Bool := (nth PortSt.init s.trl.ports p).up && !(nth PortSt.init s.trl.ports p).down
/-- Is the ring intact? -/
def State.intact (s : State) : Bool := !s.trl.chain
/-- May new tokens and messages leave through a port? -/
def State.portUse (s : State) (p : Nat) : Bool := s.portUp p && !(nth PortSt.init s.trl.ports p).retired
/-- The device upstream of the segment on port `p`: this device for port 1, the neighbour on port 0 for port 0 (Table 13.3); in a ring of two
the census has seen that neighbour through port 1. -/
def State.upstream (s : State) (p : Nat) : Nat :=
  if p = 1 then s.trl.dev
  else ((s.trl.seen.find? fun x => x.2.2 == 1 && (x.2.1 == 0 || s.trl.n == 2)).map (·.1)).getD s.trl.dev
/-- Hops a copy of a token carries on a port: ⌈(N − 1)/2⌉ on port 1, ⌊(N − 1)/2⌋ on port 0 of an intact ring; to the end of a
chain otherwise (R365). -/
def State.hopsOn (s : State) (p : Nat) : Nat :=
  if s.intact then (if p = 1 then s.trl.n / 2 else (s.trl.n - 1) / 2) else s.trl.n - 1
/-- The tokens that wait for a port's frames with one more: a forwarded one goes before the device's own (R365). -/
def queueTok (dev : Nat) (q : List SyncTok) (t : SyncTok) : List SyncTok :=
  if t.origin = dev then q ++ [t]
  else q.takeWhile (fun x => x.origin != dev) ++ t :: q.dropWhile (fun x => x.origin != dev)
/-- Send a token on one port: it waits for a frame (R356, R365). -/
def State.tokenOn (s : State) (p : Nat) (t : SyncTok) : State :=
  s.mapTrl fun x => { x with
    txTok := x.txTok ++ [(p, t)],
    ports := setNth x.ports p { nth PortSt.init x.ports p with tokQ := queueTok x.dev (nth PortSt.init x.ports p).tokQ t } }
/-- A token leaves its origin on both ports (R365); a split system sends none (R379). -/
def State.sendToken (s : State) (kind value : Nat) : State :=
  if s.trl.phase = 5 then s
  else (List.range 2).foldl (fun s p =>
    if s.portUse p && decide (0 < s.hopsOn p) then s.tokenOn p ⟨kind, s.trl.dev, s.hopsOn p, value⟩ else s) s
/-- Message units of a message: its header and its data (R358). -/
def unitsOf (m : TrlMsg) : Nat := 1 + cdiv m.data.length 16
/-- The units of a message: its header (Table 13.2), then its data. -/
def unitList (m : TrlMsg) : List (List Byte) :=
  let n := cdiv m.data.length 16
  (bytesOf 1 m.kind ++ bytesOf 1 m.dest ++ bytesOf 1 m.origin ++ bytesOf 1 n ++ bytesOf 4 m.addr ++ bytesOf 8 m.aux) ::
    (List.range n).map fun i => (List.range 16).map fun j => nth 0 m.data (16 * i + j)
/-- The units of the messages started on a port that no frame holds yet. -/
def PortSt.units (x : PortSt) : List (List Byte) := (x.msgQ.flatMap unitList).drop x.cut
/-- A frame takes `n` units of started messages, of whose first `cut` have gone: the messages that end in it, those left, and the units of the
first of these that have gone. -/
def framed : Nat → Nat → List TrlMsg → List TrlMsg × List TrlMsg × Nat
  | _, _, [] => ([], [], 0)
  | n, cut, m :: ms =>
    if unitsOf m ≤ cut + n then
      let (done, rest, c) := framed (cut + n - unitsOf m) 0 ms
      (m :: done, rest, c)
    else ([], m :: ms, cut + n)
/-- Units leave a port's receive buffer: the next frame back gives them as credit (R356, R359). -/
def freeUnits (ports : List PortSt) (p n : Nat) : List PortSt :=
  setNth ports p { nth PortSt.init ports p with freed := (nth PortSt.init ports p).freed + n }
/-- Start a message on a port: its units take credit there, and leave the receive buffer of port `q`. -/
def State.startMsg (s : State) (p q : Nat) (m : TrlMsg) : State :=
  s.mapTrl fun t =>
    let x := nth PortSt.init t.ports p
    let ports := setNth t.ports p { x with msgQ := x.msgQ ++ [m], credit := x.credit - unitsOf m }
    { t with txWait := eraseFirst (fun y => y.1 == p) t.txWait, txMsg := t.txMsg ++ [(p, m)],
             ports := if q < 2 then freeUnits ports q (unitsOf m) else ports }
/-- The message that a port can start now: the first that waits for it, once the frame to come has room and the port holds credit for all of
its units, so that it never breaks off inside a message (R358, R359).
(DESIGN CHOICE, log 57) -/
def State.msgNext (s : State) (p : Nat) : Option (Nat × TrlMsg) :=
  let x := nth PortSt.init s.trl.ports p
  if !s.portUp p || s.trl.stopMsgs || decide (13 ≤ x.units.length) then none
  else match s.trl.txWait.find? (fun y => y.1 == p) with
    | some (_, q, m) => if unitsOf m ≤ x.credit then some (q, m) else none
    | none => none
/-- Messages that wait for a port start until its next frame is full. -/
def State.pumpPort (s : State) (p : Nat) : Nat → State
  | 0 => s
  | fuel + 1 =>
    match s.msgNext p with
    | some (q, m) => (s.startMsg p q m).pumpPort p fuel
    | none => s
/-- Fill the next frames of both ports. -/
def State.pumpMsgs (s : State) : State := (s.pumpPort 0 13).pumpPort 1 13
/-- The route to a device: its port (R353). -/
def State.routeTo (s : State) (d : Nat) : Option Nat := (s.trl.seen.find? fun x => x.1 == d).map fun x => x.2.1
/-- A message of this device waits for a port. -/
def State.waitMsg (s : State) (p : Nat) (m : TrlMsg) : State := s.mapTrl fun t => { t with txWait := t.txWait ++ [(p, 2, m)] }
/-- Send a message towards its destination. -/
def State.sendMsg (s : State) (m : TrlMsg) : State :=
  match s.routeTo m.dest with
  | some p => s.waitMsg p m
  | none => s
/-- Send one copy of a broadcast message both ways, as a token goes (R360, R365). -/
def State.sendBoth (s : State) (m : TrlMsg) : State :=
  (List.range 2).foldl (fun s p => if s.portUse p && decide (0 < s.hopsOn p) then s.waitMsg p m else s) s
/-- D: the largest hop count along the routes in use (R373). -/
def State.maxHops (s : State) : Nat := maxN (s.trl.seen.map fun x => x.2.2)
/-- The tick a token names: the first at or after the present time + D·96 ns + 100 ns, in units of 10 ns (R364, R366). -/
def State.tickAfter (s : State) (extra : Nat) : Nat := cdiv (s.trl.time + cdiv (s.maxHops * 96 + 100) 10 + extra) 8 * 8
/-- Parts of 10 ns in which every bin's ACLK period is a whole number. -/
def timeUnit : Nat := 3099044504245996706400

/-! ## Bins (R392) -/

/-- Vintages placed. -/
def State.placedList (s : State) : List Nat := (List.range 4).filter s.isPlaced
/-- The floor: the highest f_min of the placed Vintages, or bin 0. -/
def State.floorBin (s : State) : Nat :=
  maxN ((s.placedList.map fun v => (s.placedRec v).fMin) ++ (match s.hrm.placing with | some p => [p.rec1.fMin] | none => []))
/-- Every MX tile by Terrace, Row and index. -/
def allMx : List TileRef :=
  (List.range 4).flatMap fun t => (List.range 9).flatMap fun p => (List.range 16).map fun x =>
    ⟨Fin.ofNat 4 t, Fin.ofNat 9 p, Fin.ofNat 30 x⟩
/-- The fused bin of an MX tile (R60). -/
def State.binOf (s : State) (r : TileRef) : Nat := sget defBin s.fuse.fbin (tileKey r)
/-- Bins of the MX tiles that placed Vintages use. -/
def State.usedBins (s : State) : List Nat :=
  (allMx.filter fun r => s.placedList.any fun v => s.usesTile r v).map s.binOf ++
    (match s.hrm.placing with | some p => p.bins | none => [])
/-- The smallest of a list of numbers. -/
def minN : List Nat → Option Nat
  | [] => none
  | x :: xs => some (xs.foldl Nat.min x)
/-- Lowest bin of MX tiles used by placed Vintages. -/
def State.lowBin (s : State) : Option Nat := minN s.usedBins
/-- f_top of a PWR.FREQ value. -/
def fTopOf (w : Word) : Nat := if bitW w 16 then bitsW w 8 5 else bitsW w 0 5
/-- The configured frequency (R392). -/
def State.fTop (s : State) : Nat := fTopOf (s.reg R.PWR_FREQ)
/-- The wanted bin w. -/
def State.wanted (s : State) : Nat := Nat.min s.fTop (Nat.min s.pwr.bCap s.pwr.bTherm)
/-- The bin in force. -/
def State.binNow (s : State) : Nat := s.fget F.PWR_FREQ_STATUS_bin
/-- When a device acts on a tick: it delays the action by trim, which counts 0.5 ns, to the nearest ac, of 80/(20 + bin) ns (R367).
(DESIGN CHOICE, log 189) -/
def State.trimmed (s : State) (tick : Nat) : Nat :=
  let f := 20 + s.binNow
  tick + cdiv (8 * ((s.fget F.TRL_SKEW_trim * f + 80) / 160)) f
/-- System time counts on by one ACLK period (R364).
(DESIGN CHOICE, log 192) -/
def State.timeTick (s : State) : State :=
  let x := s.trl.frac + 8 * timeUnit / (20 + s.binNow)
  s.mapTrl fun t => { t with time := t.time + x / timeUnit, frac := x % timeUnit }
/-- ACLK periods of a time in µs at the bin in force: 250 + 12.5·bin MHz. -/
def State.periodsOf (s : State) (us : Nat) : Nat := us * (500 + 25 * s.binNow) / 2
/-- Is a bin change decision deferred now: a settle, or 256 periods after one (R396)? -/
def State.deferNow (s : State) : Bool := s.pwr.settle || decide (s.pwr.sinceSettle < 256)
/-- The band whose lines are being sent. -/
def State.curBand (s : State) : Nat := (s.ing.nextStart - 1) / s.job.bandLen

/-- The announcements of a device for band `b`: the bin of the one with the highest band at or before b (R372). -/
def annBin (anns : List (Nat × Nat × Nat)) (start d b : Nat) : Nat :=
  (anns.foldl (fun (acc : Nat × Nat) a =>
    if a.1 = d ∧ a.2.1 ≤ b ∧ acc.1 ≤ a.2.1 + 1 then (a.2.1 + 1, a.2.2) else acc) (0, start)).2
/-- Record an announcement; one for the same band replaces it (R371). -/
def State.recordAnn (s : State) (d b bin : Nat) : State :=
  s.mapTrl fun t => { t with anns := t.anns.filter (fun a => !(a.1 == d && a.2.1 == b)) ++ [(d, b, bin)] }
/-- Every device of the census, this one included. -/
def State.devices (s : State) : List Nat :=
  s.trl.dev :: (s.trl.seen.map (·.1)).filter (· != s.trl.dev)
/-- The system bin for band `b` (R372). -/
def State.systemBin (s : State) (b : Nat) : Nat :=
  (minN (s.devices.map fun d => annBin s.trl.anns s.trl.startBin d b)).getD s.trl.startBin

/-! ## Voltages (R388, R394) -/

/-- The bin whose voltage is commanded: a raise takes the voltage first, so the highest of the bin in force, the wanted bin, those decided,
that of a START to come, and those announced for coming bands (R394). -/
def State.voltBin (s : State) : Nat :=
  maxN ([s.binNow, s.wanted] ++ (match s.pwr.window with | some w => [w.2] | none => []) ++ s.pwr.armed.map (·.2) ++ (s.trl.start.map (·.2)).toList ++
    (s.trl.anns.filter fun a => decide (s.curBand < a.2.1)).map fun a => s.systemBin a.2.1)
/-- The setpoint of VDD_Tt in mV for a bin: the fused voltage of the Terrace, plus the hint margin in force (R388). -/
def State.setpoint (s : State) (t bin : Nat) : Nat := sget defVolt s.fuse.volts (32 * t + bin) + s.pwr.margin
/-- Does a listed regulator of VDD_Tt take VOUT_COMMAND (R387)? -/
def State.avsRail (s : State) (t : Nat) : Bool :=
  (List.range 8).any fun k => s.fbit (F.PWR_REG_present k) && s.fget (F.PWR_REG_rail k) == t && s.fbit (F.PWR_REG_avs k)
/-- The device commands the VOUT of the VDD_T regulators that it drives (R387, R388, R394).
(PRESUMED, log 47) -/
def State.setVolts (s : State) : State :=
  let b := s.voltBin
  s.mapPwr fun p => { p with vout := ((List.range 4).map fun t => if s.avsRail t then s.setpoint t b else nth 0 p.vout t) ++ p.vout.drop 4 }

/-- The warning level of a supply in mV: VDD_T0 to VDD_T3 by their setpoints, then VDD_HUB (R401). -/
def State.warnLevel (s : State) (k : Nat) : Nat := if k < 4 then nth 0 s.pwr.vout k - s.fget F.PWR_SUPPLY_warn_mv else 710
/-- The reset level of a supply in mV (R401). -/
def resetLevel (k : Nat) : Nat := if k < 4 then 580 else 660

/-- Is the job a system job? -/
def State.systemJob (s : State) : Bool := s.job.running && s.job.system

/-- Job line `n` starts: the spacing of the last two line-start events is the present line rate (R394).
(DEDUCED, log 188) -/
def State.lineMark (s : State) (n : Nat) : State :=
  s.mapPwr fun p => { p with lineDt := if n = 0 then 0 else s.arr.period - p.lineAt, lineAt := s.arr.period }

/-- ACLK periods of a line at the present line rate; before the second line of a job, at the line rate of the compile report.
(DEDUCED, log 188) -/
def State.linePeriods (s : State) : Nat :=
  if s.pwr.lineDt = 0 then s.periodsOf 1000000 / Nat.max 1 (s.report s.activeV 0x14 4) else s.pwr.lineDt

/-- The first band that THROTTLE may name for a bin: two after the current one and, for a raise, one whose first line lies at least
1 ms after the decision at the present line rate (R371, R394). -/
def State.throttleBand (s : State) (w : Nat) : Nat :=
  let b := s.curBand + 2
  if w ≤ s.trl.lastAnn.getD s.trl.startBin then b
  else
    let lines := cdiv (s.pwr.decided + s.periodsOf 1000 - s.pwr.lineAt) s.linePeriods
    Nat.max b (cdiv (s.ing.nextStart - 1 + lines) s.job.bandLen)

/-- A system device sends THROTTLE when w differs from the bin it last announced, naming the first band that R371 and R394 allow,
unless the decision is deferred (R393, R396). -/
def State.announce (s : State) : State :=
  if !s.systemJob || s.trl.lastAnn == some s.wanted then s
  else if s.deferNow then s.mapPwr fun p => { p with deferred := true }
  else
    let w := s.wanted
    let b := s.throttleBand w
    let s := (s.recordAnn s.trl.dev b w).mapTrl fun t => { t with lastAnn := some w }
    (s.mapPwr fun p => { p with deferred := false }).sendToken 7 (b % 2 ^ 32 + 2 ^ 32 * w)

/-- Start a frequency window towards a bin (R395). -/
def State.openWindow (s : State) (bin : Nat) : State :=
  (s.mapPwr fun p => { p with window := some (64, bin) }).fset F.HUB_HOLD_STATUS_freq 1

/-- The wanted bin may have changed: outside a job the window of a change opens at once, in a system job the device announces it;
inside a single-device job the change waits for an arming (R393). -/
def State.wantedMoved (s : State) (old : Nat) : State :=
  if s.wanted = old then s
  else
    let s := (s.mapPwr fun p => { p with decided := s.arr.period }).setVolts
    if s.systemJob then s.announce
    else if s.job.running then (if s.deferNow then s.mapPwr fun p => { p with deferred := true } else s)
    else if s.deferNow then s.mapPwr fun p => { p with deferred := true }
    else if s.wanted = s.binNow then s
    else s.openWindow s.wanted

/-- The bin of the band before the one that is armed next. -/
def State.binAhead (s : State) : Nat := (s.pwr.armed.getLast?.map (·.2)).getD (match s.pwr.window with | some w => w.2 | none => s.binNow)

/-- At the arming of band `b`, one line before its first line, the bin for b is fixed (R393): w on a single device, unless it is a raise
whose decision is less than 1 ms before that line (R394) or the decision is deferred (R396); the system bin in a system.
(DESIGN CHOICE, log 190) -/
def State.armFreq (s : State) (b : Nat) : State :=
  if s.systemJob then
    if s.systemBin b = s.binAhead then s else s.mapPwr fun p => { p with armed := p.armed ++ [(b, s.systemBin b)] }
  else
    let w := s.wanted
    if w = s.binAhead then s.mapPwr fun p => { p with deferred := false }
    else if s.pwr.deferred then s
    else if decide (w > s.binAhead) && decide (s.arr.period + s.linePeriods < s.pwr.decided + s.periodsOf 1000) then s
    else s.mapPwr fun p => { p with armed := p.armed ++ [(b, w)] }

/-- Run ac S_b comes next: a bin armed for `b` opens its window before it (R395). -/
def State.boundaryFreq (s : State) (b : Nat) : State :=
  match s.pwr.armed with
  | (b', bin) :: rest => if b' ≤ b then (s.mapPwr fun p => { p with armed := rest }).openWindow bin else s
  | [] => s

/-- Do the tiles run filler MACs (R407): from the taking of a BARRIER to its release, while the array has halted or has never started, and
with hold = 1 in held ac other than settle periods? -/
def State.fillerRuns (s : State) : Bool :=
  s.fbit F.PWR_LOAM_en && s.cp.barrier.isSome && !s.pwr.park && !s.pwr.tripped &&
    (!s.arr.clocked || (s.fbit F.PWR_LOAM_hold && s.held && !s.pwr.settle))
/-- The release of the BARRIER in hand: a filler that runs ramps down in 16 steps (R407). -/
def State.fillerOff (s : State) : State := if s.fillerRuns then s.mapPwr fun p => { p with ramp := 16 } else s

end Sys2Proof.Machine
end

