-- ==== Sys2Proof/Machine/Vintage.lean ====
section
/-!
DEFINITION. Machine/Vintage.lean: Vintage switches (06 R186–R193), START_JOB, fills and the start of a job (02 R52, 04 R112, 09 R279,
10 R282, 15 R417), END_JOB, and the end of a job (R194, R330).
-/
namespace Sys2Proof.Machine

/-! ## Switches -/

/-- Do two placed Vintages agree on what an in-job switch needs (R187)? -/
def State.alike (s : State) (v w : Nat) : Bool :=
  s.isElastic v == s.isElastic w && s.report v 0x0E 4 == s.report w 0x0E 4 && s.report v 0x0C 2 == s.report w 0x0C 2 &&
    (s.placedRec v).digests == (s.placedRec w).digests

/-- The code with which a switch is refused when it is taken, 0 when it is accepted (R186, R187, R327). -/
def State.switchCode (s : State) (target : Nat) (named : Bool) (band : Nat) : Nat :=
  let late := named && decide (band * s.job.bandLen ≤ s.ing.nextStart)
  if !s.isPlaced target then 0x0701
  else if s.mapRetired target then 0x0703
  else if !s.job.running then 0
  else if s.sw.isSome then (if s.swWait.isSome then 0x0103 else if late then 0x0705 else 0)
  else if target = s.activeV then 0
  else if !s.alike s.activeV target then 0x0704
  else if late then 0x0705
  else 0

/-- SWITCH_VINTAGE is taken (R186, R187, R327). The spec states no result for a switch to the active Vintage inside a job. -/
def switchTake (s : State) (tag : Nat) (irq : Bool) (target : Nat) (named : Bool) (band : Nat) : State :=
  if s.switchCode target named band ≠ 0 then s.switchDone tag (s.switchCode target named band) 0 irq
  else if !s.job.running then s.switchOutside tag irq target
  else if s.sw.isSome then { s with swWait := some (tag, irq, target, named, band) }
  else if target = s.activeV then let (n, s) := s.freshBelow (2 ^ 32); s.switchDone tag 0 n irq
  else
    let up := (s.physRows target).all fun r => (s.physRows s.activeV).contains r
    let s := s.mapPwr fun p => { p with rowsReady := up }
    { s with sw := some { tag := tag, irq := irq, target := target, old := s.activeV, band := if named then band else 0,
                          armed := false } }

/-- The switch in hand is armed at the line-start event of the last line of band b − 1 (R188), when the boundary is eligible (R187,
R386). -/
def State.armSwitch (s : State) (b : Nat) : State :=
  match s.sw with
  | some w =>
    if !w.armed && decide (w.band ≤ b) && s.pwr.rowsReady then
      let s := { s with sw := some { w with armed := true, band := b } }
      s.mapVrd fun v => { v with switchLines := v.switchLines ++ [b * s.job.bandLen] }
    else s
  | none => s

/-- Has a tile the target uses started band b, or is it halted or faulted? (R191) -/
def State.tileSwitched (s : State) (w : SwitchSt) (r : TileRef) : Bool :=
  let x := s.tile r
  !s.usesTile r w.target || (x.vint == w.target && decide (w.band ≤ x.band) && x.inBand) || x.st == .halted || x.st == .faulted

/-- Every tile. -/
def allTiles : List TileRef :=
  (List.range 4).flatMap fun t => (List.range 9).flatMap fun p => (List.range 30).map fun k =>
    ⟨Fin.ofNat 4 t, Fin.ofNat 9 p, Fin.ofNat 30 k⟩

/-- Tiles that only the outgoing Vintage used are held idle, a FIRE in progress running to its end first (R191, Table 2.4).
(DEDUCED, log 147) -/
def State.retireAll (s : State) : State :=
  s.arr.tiles.foldl (fun s (n, x) =>
    let r := tileOfKey n
    if x.started && x.fire.isNone then s.retire r else s) s

/-- SWITCH_COMPLETE (R191): the outgoing tables are dropped, the waiting cycles of the outgoing Vintage with them, SWITCH_VINTAGE
completes, and a waiting one is taken; it takes the first eligible boundary where its named band has passed meanwhile (R187). -/
def switchCompleteEff (s : State) : State :=
  match s.sw with
  | some w =>
    if w.armed && allTiles.all (s.tileSwitched w) then
      let s := s.mapArr fun a => { a with credits := s.creditsFor w.target }
      let s := s.settleRows (({ s with sw := none }).fset F.HUB_VNT_STATUS_active w.target)
      let s := (s.mapArr fun a => { a with driven := [], cycles := [], lastSw := some w }).retireAll
      let s := s.switchDone w.tag 0 w.band w.irq
      match s.swWait with
      | some (t, irq, tg, n, b) =>
        switchTake { s with swWait := none } t irq tg (n && !decide (b * s.job.bandLen ≤ s.ing.nextStart)) b
      | none => s
    else s
  | none => s




/-- ROW_POWER_UP_DONE (R386): the Rows a switch target uses are up, so boundaries become eligible. -/
def execRowPowerUpDone (s : State) : Host.Outcome State Fault Refusal :=
  .next (s.mapPwr fun p => { p with rowsReady := true })

/-! ## START_JOB: checks -/

/-- Cameras enabled. -/
def State.camOn (s : State) (c : Nat) : Bool := s.fget (F.ING_CAM_CFG_links c) != 0
/-- Width of a camera in pixels. -/
def State.camWidth (s : State) (c : Nat) : Nat := s.fget (F.ING_CAM_CFG_width_m1 c) + 1
/-- Enabled cameras. -/
def State.cams (s : State) : List Nat := (List.range 4).filter s.camOn
/-- Enabled planes in ascending order. -/
def State.planes (s : State) : List Nat := (List.range 8).filter fun p => s.fbit (F.RSH_PLANE_en p)
/-- Own pixels of the slice. -/
def State.ownWidth (s : State) : Nat := s.fget F.SLC_CFG_own_width_m1 + 1
/-- Pixels of a slice with its halos. -/
def State.sliceWidth (s : State) : Nat := s.fget F.SLC_HALO_halo_l + s.ownWidth + s.fget F.SLC_HALO_halo_r
/-- Flits per plane line (R269). -/
def State.lineFlits (s : State) : Nat := cdiv s.sliceWidth 32

/-- E-0260 (R279): links, camera images or the slice out of place. -/
def State.bad0260 (s : State) : Bool :=
  let link (c : Nat) : Nat × Nat :=
    (s.fget (F.ING_CAM_CFG_link_first c), s.fget (F.ING_CAM_CFG_link_first c) + s.fget (F.ING_CAM_CFG_links c) - 1)
  let img (c : Nat) : Nat × Nat := (s.fget (F.ING_CAM_POS_x_first c), s.fget (F.ING_CAM_POS_x_first c) + s.camWidth c - 1)
  let clash (f : Nat → Nat × Nat) : Bool :=
    s.cams.any fun c => s.cams.any fun d => decide (c < d) && rangesMeet (f c).1 (f c).2 (f d).1 (f d).2
  let lineEnd := maxN (s.cams.map fun c => (img c).2 + 1)
  clash link || clash img || (s.cams.any fun c => decide ((link c).2 > 7) || decide ((img c).2 ≥ 32768)) ||
    decide (s.sliceWidth > 32768) || decide (s.fget F.SLC_CFG_own_first + s.ownWidth > lineEnd)

/-- E-0262: a camera generator's min (10 ns) below the period of the report's line_rate. -/
def State.bad0262 (s : State) : Bool :=
  let rate := s.report s.activeV 0x14 4
  s.cams.any fun c =>
    let k := s.fget (F.ING_CAM_POS_trig c)
    decide (k < 8) && decide (s.fget (F.STP_TRG_MIN_min k) * rate < 100000000)

/-- E-0263: halos differ from the report's, or a nonzero halo has no neighbour. -/
def State.bad0263 (s : State) : Bool :=
  let l := s.fget F.SLC_HALO_halo_l
  let r := s.fget F.SLC_HALO_halo_r
  l != 4 * s.report s.activeV 0x19 1 || r != 4 * s.report s.activeV 0x1A 1 ||
    (l != 0 && !s.fbit F.SLC_NBR_left) || (r != 0 && !s.fbit F.SLC_NBR_right)

/-- Minimum size of shared-store region `r` (Table 10.1). -/
def State.regionMin (s : State) (r : Nat) : Nat :=
  let v := s.activeV
  let crops := s.fbit (F.VRD_REC_V_crop_en v)
  let g := (s.placedRec v).graft
  match r with
  | 0 => (s.planes.map fun p => (s.fget (F.RSH_PLANE_ring_m1 p) + 1) * 32 * s.lineFlits).foldl (· + ·) 0
  | 1 => if crops then s.planes.length * 32 * s.lineFlits else 0
  | 2 => if s.fbit (F.VRD_TAP_V_en v) then s.fget (F.VRD_TAP_V_depth v) * 32 * (s.fget (F.VRD_TAP_V_flits_m1 v) + 1) else 0
  | 3 => 262144
  | 4 => if crops then 131072 else 0
  | 5 => if g.isEmpty then 0 else cdiv (gHdr g).stateSize 65536 * 65536
  | 7 => 65536
  | _ => 0

/-- E-0305: regions overlap or reach the flat-field tables (R282). -/
def State.bad0305 (s : State) : Bool :=
  let rs := (List.range 8).filter fun r => s.regionSize r != 0
  rs.any fun a => decide (s.regionBase a + s.regionSize a > 0xF00000) || rs.any fun b => decide (a < b) &&
    rangesMeet (s.regionBase a) (s.regionBase a + s.regionSize a - 1) (s.regionBase b) (s.regionBase b + s.regionSize b - 1)

/-- E-0C25: a crossing that the active Vintage's circuits use is not aligned (R417).
(DEDUCED, log 52) -/
def State.crossingsBad (s : State) : Bool :=
  (List.range 4).any fun t => (List.range 2).any fun j =>
    let p : PointRef := .bridge (Fin.ofNat 4 t) (Fin.ofNat 3 j)
    let v := s.activeV
    (List.range (s.frameLen p v)).any fun sl => (List.range 4).any fun c =>
      let w := s.conn p v sl c
      connEn w &&
        (let io (t i : Nat) : Bool := !s.fbit (F.IO_BRIDGE_STATUS_aligned (ioBase t i))
         ((connIn w == 9 || connIn w == 10) && io t (2 * j + (connIn w - 9))) ||
         ((outsOf w).any fun o =>
            ((o == 9 || o == 10) && io t (2 * j + (o - 9))) || (o == 11 && io ((t + 1) % 4) (6 + j)) ||
            (o == 12 && io ((t + 3) % 4) (4 + j))))

/-- The code with which START_JOB completes without starting the job, 0 when it starts (R279, R282, R326, R417). -/
def State.startCode (s : State) (B : Nat) : Nat :=
  let v := s.activeV
  if s.job.running then 0x0107
  else if !s.isPlaced v then 0x0701
  else if B % 16 ≠ 0 ∨ B < bandByte (s.report v 0x12 1) ∨ B > bandByte (s.report v 0x13 1) then 0x0266
  else if s.report v 0x0E 2 = 0 ∨ s.ownWidth % s.report v 0x0E 2 ≠ 0 then 0x0265
  else if s.bad0260 then 0x0260
  else if s.cams.any fun c => bitN (s.fget F.FFC_CTRL_per_phase) c &&
      decide (s.camWidth c * (s.fget F.RSH_CFG_n_ill_m1 + 1) > 32768) then 0x0261
  else if s.bad0262 then 0x0262
  else if s.bad0263 then 0x0263
  else if s.cams.any fun c => !bitN (s.fget F.ING_LINK_STATUS_lock) (s.fget (F.ING_CAM_CFG_link_first c)) then 0x0264
  else if s.bad0305 then 0x0305
  else if (List.range 8).any fun r => decide (s.regionSize r < s.regionMin r) then 0x0306
  else if s.fget F.STR_SPLIT_rd + s.fget F.STR_SPLIT_wr > 8 then 0x0A02
  else if s.crossingsBad then 0x0C25
  else 0

/-! ## Starting -/

/-- A tile at START_JOB (R52): pc 0 of the active Vintage when it is used; the lead of an adaptive layer starts with g_init (R103). -/
def startTile (s : State) (r : TileRef) : TileSt :=
  let v := s.activeV
  if s.usesTile r v then
    { TileSt.init with vint := v, st := .firing, started := true,
                       chain := if s.isLead r v then some 0 else none, adInit := s.isLead r v }
  else TileSt.init

/-- The array at START_JOB: sequencers at pc 0, casks, spill rings, wires and counters empty (R52, R145, R150).
(DEDUCED, log 155) -/
def State.startArray (s : State) : State :=
  let tiles := allTiles.foldl (fun m r => sset (fun _ => TileSt.init) m (tileKey r) (startTile s r)) []
  s.mapArr fun a => { ArraySt.init with tiles := tiles, period := a.period }

/-- The aggregator, statistics and record numbering at START_JOB. -/
def State.startVrd (s : State) : State :=
  let v := s.activeV
  let n := s.report v 0x20 2
  s.mapVrd fun x => { VrdSt.init with
    crops := x.crops, nextPage := x.nextPage, vq := x.vq, dq := x.dq, nCol := Nat.max n 1, patchW := s.report v 0x0E 2,
    patchH := Nat.max (s.report v 0x10 2) 1, kLines := s.report v 8 2, uLines := s.report v 0x0A 2,
    warm := s.report v 0x0C 2 * Nat.max n 1, featNo := s.report v 0x0C 2 * Nat.max n 1, aAc := s.report v 4 4, gens := [(0, s.fget F.HUB_GRF_GEN_gen)] }

/-- A START_JOB that passes its checks starts the fills (R52, R112). -/
def State.beginJob (s : State) (tag B : Nat) (replay system : Bool) (number : Nat) : State :=
  let s := s.startArray.startVrd
  let s := s.mapIng fun g => { g with lines := [], jobs := g.jobs + 1, ffBand := none, posOf := [], nextStart := 0, kept := [], halos := [],
                                      cams := if replay then g.cams.map fun _ => CamSt.init else g.cams }
  let s := { s with tx := HubTx.init }
  let s := s.mapStr fun x => { x with split := bitsW (s.reg R.STR_SPLIT) 0 8 }
  let s := s.mapTrl fun t => { t with rse := (List.range 16).map fun m => s.reg (R.TRL_RSE m),
                                      rsi := (List.range 16).map fun m => s.reg (R.TRL_RSI m),
                                      egress := List.replicate 16 ⟨[], 64⟩, ingSrc := List.replicate 16 0, anns := [], lastAnn := none,
                                      start := none, waitStart := false, recording := false, noLines := false, line0 := none,
                                      startBin := s.binNow }
  let s := s.mapPwr fun p => { p with jobNj := 0, armed := [], lineDt := 0, loamNext := none }
  let s := s.mapLin fun l => { l with mrk := l.mrk.map fun m => { m with lastRow := none } }
  let s := s.fset F.PWR_STATE_state 0
  { s with job := { JobSt.init with running := true, filling := true, number := number, bandLen := B, replay := replay,
                                    system := system, tag := tag },
           sw := none, swWait := none }

/-! ## Fill records (R111, R112) -/

/-- Byte `b` of a tile under a fill record of encoding `enc` and code `fill`: an encoded block holds the code in its byte 0 and zeros
in the others. -/
def fillByte (enc fill b : Nat) : Byte :=
  if enc = 0 then BitVec.ofNat 8 fill
  else if b % (if enc = 1 then 12 else 8) = 0 then BitVec.ofNat 8 fill else 0

/-- Write `n` words from word `w` of a tile memory. -/
def fillWords (s : State) (base enc fill : Nat) : Nat → Nat → State
  | _, 0 => s
  | w, n + 1 =>
    fillWords (writeChip s (base + 32 * w) ((List.range 32).map fun i => fillByte enc fill (32 * w + i)) false) base enc fill (w + 1) n

/-- Write the enabled fill records of one MM tile for every placed Vintage, in ascending f. -/
def fillTile (s : State) (r : TileRef) : State :=
  s.placedList.foldl (fun s v => (List.range 8).foldl (fun s f =>
    let w0 := s.param r (0x1A0 + v * 0x10 + 2 * f)
    let w1 := s.param r (0x1A1 + v * 0x10 + 2 * f)
    if bitW w0 31 then
      fillWords s (mmBase r.t r.row (idxOf r.k)) (bitsW w1 8 2) (bitsW w1 0 8) (bitsW w0 0 15) (bitsW w0 16 15 + 1)
    else s) s) s

/-- FILL_RECORDS_DONE (R112): every MM tile has written its fills; START_JOB completes and lines are accepted. A system job waits for
its start tick with the array stopped (R368). -/
def fillRecordsDoneEff (s : State) : State :=
  if s.job.filling then
    if s.pwr.tripped then s else
    let s := (allTiles.filter fun r => kindOf r.k == .mm).foldl fillTile s
    let s := s.mapJob fun j => { j with filling := false }
    let s := if s.job.system then s.mapTrl fun t => { t with waitStart := true } else s.mapArr fun a => { a with clocked := true }
    match s.cp.serial with
    | some c => (s.mapCp fun x => { x with serial := none }).complete c.e.tag.toNat 3 0 0 (c.e.flags.getLsbD 0)
    | none => s
  else
    match s.cp.serial with
    | some c =>
      if c.op = 3 then (s.mapCp fun x => { x with serial := none }).complete c.e.tag.toNat 3 s.job.firstErr 0 (c.e.flags.getLsbD 0) else s
    | none => s

/-! ## Ending (R194) -/

/-- Is the boundary of band `b` one at which the job stops: a fault stop, or an END_JOB whose band it is or has passed? Band b_e − 1
exists (R194), so band 0's is not one.
(DEDUCED, log 142) -/
def State.stopsAt (s : State) (b : Nat) : Bool :=
  b != 0 && (s.job.stopFault || (match s.job.endReq with | some (_, _, n) => decide (n ≤ b) || n == 0xFFFFFFFF | none => false))

/-- Patch rows whose bottom + K lies before the first line of b_e (R194). -/
def State.dueRows (s : State) (be : Nat) : Nat := (be * s.job.bandLen - s.vrd.kLines) / s.vrd.patchH

/-- Has the first flit of every line that the Stamp has started left? -/
def HubTx.entered (x : HubTx) : Bool := x.lines.all fun l => match l.flits with | f :: _ => !f.evLine | [] => true

/-- JOB_END (R194): after the stop, once the due verdicts are held, or every line has entered the array and 2 × A run ac have passed
since the last, the job ends.
(DESIGN CHOICE, log 4) -/
def jobEndEff (s : State) : State :=
  match s.job.stopped with
  | some (be, a) =>
    if s.job.running && (decide (s.dueRows be ≤ s.vrd.row) || (s.tx.entered && decide (a + 2 * s.vrd.aAc ≤ s.arr.runAc))) then
      s.finishJob (if s.job.stopFault then 1 else 0) 0
    else s
  | none => s

/-- JOB_END. -/
def execJobEnd (s : State) : Host.Outcome State Fault Refusal := .next (jobEndEff s)

/-! ## Holds (R181, R182) -/

/-- REMOTE_HOLD_RELEASE (R181): 24 ACLK periods after the late word was written the remote cause ends. -/
def remoteHoldReleaseEff (s : State) : State :=
  match s.arr.holdRemote with
  | some (c, _) =>
    match (s.cask c).wrPeriod with
    | w :: _ =>
      if w + 24 ≤ s.arr.period then
        (s.mapArr fun a => { a with holdRemote := none, remAc := 0 }).fset F.HUB_HOLD_STATUS_remote 0
      else s
    | [] => s
  | none => s

/-- REMOTE_HOLD_RELEASE. -/
def execRemoteHoldRelease (s : State) : Host.Outcome State Fault Refusal := .next (remoteHoldReleaseEff s)

/-- HOLD_LIMIT_EXPIRY (R182): the remote and system causes have stood without a break for longer than the limit. -/
def holdLimitExpiryEff (s : State) : State :=
  let lim := s.fget F.HUB_HOLD_LIMIT_limit_us
  if s.job.running && decide (0 < lim) && decide (s.periodsOf lim < s.arr.holdRun) &&
      (s.fbit F.HUB_HOLD_STATUS_remote || s.fbit F.HUB_HOLD_STATUS_system) then s.endJobNow 0x0721
  else s

/-- HOLD_LIMIT_EXPIRY. -/
def execHoldLimitExpiry (s : State) : Host.Outcome State Fault Refusal := .next (holdLimitExpiryEff s)

end Sys2Proof.Machine
end

