-- ==== Sys2Proof/Machine/Ingest.lean ====
section
/-!
DEFINITION. Machine/Ingest.lean: cameras, line assembly, Flat-field, plane rings, halos and the Stamp (09 R257–R269, R280; 01 R23–R28),
and the Hub's side of the array (06 R176, R177).
-/
namespace Sys2Proof.Machine

/-! ## Cameras (R257–R262) -/

/-- A camera's state. -/
def State.cam (s : State) (c : Nat) : CamSt := nth CamSt.init s.ing.cams c
/-- Replace a camera's state. -/
def State.setCam (s : State) (c : Nat) (x : CamSt) : State := s.mapIng fun g => { g with cams := setNth g.cams c x }
/-- Does a camera run from a device trigger? (R261) -/
def State.camTriggered (s : State) (c : Nat) : Bool := decide (s.fget (F.ING_CAM_POS_trig c) < 8)
/-- Does a replay job run? (R328) -/
def State.replayJob (s : State) : Bool := s.job.running && s.job.replay

/-- Lines of the image a camera has in hand or expects next; a refused one has the lines its header gave (R259). -/
def State.imgLines (s : State) (c : Nat) : Nat :=
  if s.fbit (F.ING_CAM_CFG_frame c) || (s.cam c).refused then Nat.max (s.cam c).ySize 1 else 1

/-- A camera delivers its line in hand, the pixels that have not come missing; the last line of an image ends it, and the image answers
one trigger (R261, R262, R271). -/
def State.deliverLine (s : State) (c : Nat) : State :=
  let x := s.cam c
  let y := x.frameLine
  let px := if x.busy then x.cur else List.replicate (s.camWidth c) none
  let (pos, time, job) := match x.trig with
    | (p, t, j) :: _ => ((p + y * s.fget F.STP_STAMP_CFG_frm_step) % 2 ^ 48, t, j)
    | [] => (s.lin.pos, s.trl.time, s.ing.jobs)
  let x : CamSt := { x with cur := [], busy := false, lines := x.lines ++ [(⟨px, pos, time, job⟩ : CamLine)] }
  s.setCam c (if s.imgLines c ≤ y + 1 then { x with trig := x.trig.drop 1, frameLine := 0, refused := false } else { x with frameLine := y + 1 })

/-- Deliver `n` lines. -/
def State.deliverN (s : State) (c : Nat) : Nat → State
  | 0 => s
  | n + 1 => (s.deliverLine c).deliverN c n

/-- Deliver what is left of an image (R261). -/
def State.deliverRest (s : State) (c : Nat) : State := s.deliverN c (s.imgLines c - (s.cam c).frameLine)

/-- Put pixels into a line from an index. -/
def putPx : List (Option Nat) → Nat → List Nat → List (Option Nat)
  | l, _, [] => l
  | l, i, p :: ps => putPx (setNth l i (some p)) (i + 1) ps

/-- Does an image header pass its checks? (R259) -/
def State.headerOk (s : State) (p : StreamPkt) : Bool :=
  p.xSize == s.camWidth p.cam && p.fmt == s.fget (F.ING_CAM_CFG_fmt p.cam) && decide (p.fmt < 3) &&
    (p.ySize == 1 || (s.fbit (F.ING_CAM_CFG_frame p.cam) && decide (1 ≤ p.ySize) && decide (p.ySize ≤ 1024)))

/-- Images and lines that come to an end because a line of a later one starts (R261). -/
def State.skipTo (s : State) (c ahead line : Nat) : State :=
  let s := (List.range ahead).foldl (fun s _ => s.deliverRest c) s
  s.deliverN c (line - (s.cam c).frameLine)

/-- STREAM_PACKET (R257, R259, R261, R262, R328): a packet of line `line` of the image `ahead` places after the oldest that the camera has
not delivered whole. A packet with a bad header refuses its image, whose pixels are then missing; a Y size above 1,024 counts as one line.
(DESIGN CHOICE, log 161; DESIGN CHOICE, log 164; DESIGN CHOICE, log 172) -/
def streamPacketEff (s : State) (p : StreamPkt) : State :=
  let c := p.cam.val
  if !s.camOn c || !p.supported then s.fcount F.ING_CRC_CNT_count 1
  else if s.replayJob then s.fcount F.ING_DISC_CNT_count 1
  else if !p.crcOk then (s.note 0x0202).fcount F.ING_CRC_CNT_count 1
  else
    let ok := s.headerOk p
    let s := if ok then s else s.note 0x0203
    let links := (List.range (s.fget (F.ING_CAM_CFG_links c))).map (· + s.fget (F.ING_CAM_CFG_link_first c))
    let locked := links.all fun l => bitN (s.fget F.ING_LINK_STATUS_lock) l
    if (s.cam c).lost && !(locked && p.start) then s
    else
      let s := s.skipTo c p.ahead 0
      let s := s.setCam c { s.cam c with ySize := if p.ySize ≤ 1024 then p.ySize else 1, refused := (s.cam c).refused || !ok }
      let line := Nat.min p.line (s.imgLines c - 1)
      if line < (s.cam c).frameLine then s
      else
        let s := s.skipTo c 0 line
        let x := s.cam c
        let cur := if x.busy && !x.refused then x.cur else List.replicate (s.camWidth c) none
        let cur := if x.refused then cur else putPx cur p.first p.px
        let s := s.setCam c { x with lost := false, busy := true, cur := cur }
        if cur.all Option.isSome then s.deliverLine c else s

/-- STREAM_PACKET. -/
def execStreamPacket (p : StreamPkt) (s : State) : Host.Outcome State Fault Refusal := .next (streamPacketEff s p)

/-- LINE_TIMEOUT (R261, R262): what a trigger asked of a camera has not come within timeout_us, or, when no device trigger paces it, its
line has not within timeout_us of the first camera that completed the line; what it lacks is missing. -/
def lineTimeoutEff (s : State) (c : Nat) : State :=
  let x := s.cam c
  let others := s.cams.any fun d => d != c && !(s.cam d).lines.isEmpty
  if !s.camOn c then s
  else if s.camTriggered c then (if x.trig.isEmpty then s else s.deliverRest c)
  else if others && x.lines.isEmpty then s.deliverLine c
  else s

/-- LINE_TIMEOUT. -/
def execLineTimeout (c : Fin 4) (s : State) : Host.Outcome State Fault Refusal := .next (lineTimeoutEff s c)

/-- The cameras a downlink belongs to. -/
def State.camsOfLink (s : State) (l : Nat) : List Nat :=
  s.cams.filter fun c => decide (s.fget (F.ING_CAM_CFG_link_first c) ≤ l) &&
    decide (l < s.fget (F.ING_CAM_CFG_link_first c) + s.fget (F.ING_CAM_CFG_links c))

/-- LINK_LOCK_LOST (R262): E-0201; every line of the link's camera is missing until it relocks and a line starts cleanly. -/
def linkLockLostEff (s : State) (l : Nat) : State :=
  let s := ((s.note 0x0201).fsetBit F.ING_LINK_STATUS_lock l false).fsetBit F.ING_LINK_STATUS_lost l true
  let s := (s.camsOfLink l).foldl (fun s c => s.setCam c { s.cam c with lost := true }) s
  s.irq 3

/-- LINK_LOCK_LOST. -/
def execLinkLockLost (l : Fin 8) (s : State) : Host.Outcome State Fault Refusal := .next (linkLockLostEff s l)
/-- LINK_RELOCK: the link is locked again; its camera's lines are taken from the next clean line start (R262). -/
def execLinkRelock (l : Fin 8) (s : State) : Host.Outcome State Fault Refusal :=
  .next (s.fsetBit F.ING_LINK_STATUS_lock l true)

/-! ## Mailboxes and heartbeats (R260) -/

/-- First BAR0 offset of a camera's transmit buffer; the receive buffer follows 0x400 above. -/
def mbxBase (c : Nat) : Nat := 0x21000 + c * 0x800
/-- Bytes of a window of BAR0 words. -/
def State.winBytes (s : State) (o n : Nat) : List Byte :=
  ((List.range (cdiv n 4)).flatMap fun i => bytesOf 4 (s.reg (o + 4 * i)).toNat).take n
/-- Store bytes into a window of BAR0 words, whole words, the last padded with zeros. -/
def State.putWin (s : State) : Nat → Nat → List Byte → State
  | 0, _, _ => s
  | n + 1, o, bs => if bs.isEmpty then s else (s.setReg o (BitVec.ofNat 32 (ofBytes (bs.take 4)))).putWin n (o + 4) (bs.drop 4)

/-- MAILBOX_SEND: a write of MBX_CTRL with go = 1 frames the payload and sends it. -/
def mailboxSendEff (s : State) (c : Nat) (v : Word) : State :=
  let s := s.fset (F.ING_MBX_CTRL_tx_len c) (bitsW v 0 10)
  let s := if bitW v 27 then s.fset (F.ING_MBX_CTRL_rx_full c) 0 else s
  if bitW v 10 then
    let bs := s.winBytes (mbxBase c) (bitsW v 0 10)
    (s.fset (F.ING_MBX_CTRL_go c) 1).mapLin fun l => { l with uplink := l.uplink ++ [(c, bs)] }
  else s


/-- MAILBOX_SENT: the framed packet has left and go clears. -/
def execMailboxSent (c : Fin 4) (s : State) : Host.Outcome State Fault Refusal :=
  .next (s.fset (F.ING_MBX_CTRL_go c) 0)

/-- REPLY_OR_EVENT_PACKET: stored in the receive buffer, or lost when it is full.
(DEDUCED, log 135) -/
def replyOrEventPacketEff (s : State) (c : Nat) (ev : Bool) (bs : List Byte) : State :=
  if s.fbit (F.ING_MBX_CTRL_rx_full c) then s.fcount (F.ING_MBX_CTRL_rx_lost c) 1
  else
    let bs := bs.take 1023
    let s := s.putWin 256 (mbxBase c + 0x400) bs
    let s := (s.fset (F.ING_MBX_CTRL_rx_len c) bs.length).fset (F.ING_MBX_CTRL_rx_kind c) (if ev then 1 else 0)
    (s.fset (F.ING_MBX_CTRL_rx_full c) 1).irq 3

/-- REPLY_OR_EVENT_PACKET. -/
def execReplyOrEventPacket (c : Fin 4) (ev : Bool) (bs : List Byte) (s : State) : Host.Outcome State Fault Refusal :=
  .next (replyOrEventPacketEff s c ev bs)

/-- HEARTBEAT_TIMEOUT: a camera's heartbeat has not come for 1 s: E-0206. -/
def execHeartbeatTimeout (c : Fin 4) (s : State) : Host.Outcome State Fault Refusal :=
  .next (((s.note 0x0206).fsetBit F.ING_LINK_STATUS_hb_late c true).irq 3)

/-- HEARTBEAT_PACKET: the watch of the camera restarts; heartbeats have no other effect. -/
def execHeartbeatPacket (_c : Fin 4) (s : State) : Host.Outcome State Fault Refusal := .next s

/-! ## Flat-field and planes (R263–R267) -/

/-- Address of entry `i` of table `t` (0 gain, 1 offset) of bank `k` of camera `c` (R263). -/
def ffAddr (c k t i : Nat) : Nat := 0xF00000 + ((c * 2 + k) * 2 + t) * 0x10000 + 2 * i

/-- A corrected pixel: its value, whether it is poisoned, and clamps counted (R264).
(DESIGN CHOICE, log 29) -/
def ffPixel (s : State) (c e x p : Nat) : Int × Bool × Nat × State :=
  let v := p * 2 ^ (4 - 2 * s.fget (F.ING_CAM_CFG_fmt c))
  if bitN (s.fget F.FFC_CTRL_en) c then
    let i := if bitN (s.fget F.FFC_CTRL_per_phase) c then e * s.camWidth c + x else x
    let k := s.fget F.FFC_CTRL_bank_active
    let (g, pg, s) := readInt s (ffAddr c k 0 i) 2 0
    let (o, po, s) := readInt s (ffAddr c k 1 i) 2 0
    let d := ((v : Int) - signed 16 (ofBytes o)) * (ofBytes g : Nat)
    let r := asr (d + 2048) 12
    let y := clampI 0 65535 r
    (y, pg || po, if y = r then 0 else 1, s)
  else ((v : Int), false, 0, s)

/-- Correct a camera line. -/
def ffLine (s : State) (c e : Nat) : Nat → List (Option Nat) → List (Option (Int × Bool)) × State
  | _, [] => ([], s)
  | x, none :: ps => let (r, s) := ffLine s c e (x + 1) ps; (none :: r, s)
  | x, some p :: ps =>
    let (y, poison, n, s) := ffPixel s c e x p
    let s := if n = 0 then s else s.fcount F.FFC_SAT_CNT_sat n
    let (r, s) := ffLine s c e (x + 1) ps
    (some (y, poison) :: r, s)

/-- The code of a corrected pixel in plane `p` and whether it saturated (R264).
(DESIGN CHOICE, log 29) -/
def planeCode (s : State) (p : Nat) (c : Int) : Int × Bool :=
  let sh := s.fget (F.RSH_PLANE_sh p)
  if s.fbit (F.RSH_PLANE_mode p) then (((asr c sh) % 256) - 128, false)
  else
    let half : Int := if sh = 0 then 0 else (2 ^ (sh - 1) : Nat)
    let r := asr (c + half) sh + s.fgetS (F.RSH_PLANE_zp p)
    let q := satI 8 r
    (q, q != r)

/-- The device line: each position's corrected pixel, `none` where missing or where no camera looks. -/
def placeCams (s : State) (n : Nat) (cs : List (Nat × List (Option (Int × Bool)))) : List (Option (Int × Bool)) :=
  (List.range n).map fun d => cs.findSome? (fun (c, l) =>
    let x0 := s.fget (F.ING_CAM_POS_x_first c)
    let w := s.camWidth c
    if x0 ≤ d && decide (d < x0 + w) then
      nth none l (if s.fbit (F.ING_CAM_POS_flip c) then w - 1 - (d - x0) else d - x0)
    else none)

/-- Codes of a plane over the device line: missing pixels take zp and poison (R262). -/
def planeCodes (s : State) (p : Nat) (dev : List (Option (Int × Bool))) : List (Int × Bool) × Nat :=
  dev.foldr (fun x (acc, n) =>
    match x with
    | none => ((s.fgetS (F.RSH_PLANE_zp p), true) :: acc, n)
    | some (c, poison) =>
      let (q, sat) := planeCode s p c
      ((q, poison) :: acc, if sat then n + 1 else n)) ([], 0)

/-- Poison mask of pixel groups of 32 (R362). -/
def poisonMask (px : List (Int × Bool)) : Nat :=
  (List.range 8).foldl (fun m i => if ((px.drop (32 * i)).take 32).any (·.2) then m + 2 ^ i else m) 0

/-- The halo write of a plane line for a neighbour (R268, R362): side 1 fills the receiver's right halo. -/
def haloMsg (s : State) (dev line plane side : Nat) (px : List (Int × Bool)) : TrlMsg :=
  { kind := 4, dest := dev, origin := s.trl.dev, addr := line,
    aux := plane + 8 * side + 2 ^ 8 * px.length + 2 ^ 24 * poisonMask px, data := px.map fun x => BitVec.ofInt 8 x.1 }

/-- Send a plane line's own edge pixels to the neighbours. -/
def State.sendHalos (s : State) (line plane : Nat) (own : List (Int × Bool)) : State :=
  let l := s.fget F.SLC_HALO_halo_l
  let r := s.fget F.SLC_HALO_halo_r
  let s := if s.fbit F.SLC_NBR_left && decide (0 < l) then
    s.sendMsg (haloMsg s (s.fget F.SLC_NBR_left_dev) line plane 1 (own.take l)) else s
  if s.fbit F.SLC_NBR_right && decide (0 < r) then
    s.sendMsg (haloMsg s (s.fget F.SLC_NBR_right_dev) line plane 0 (own.drop (own.length - r))) else s

/-- Plane lines of a plane that hold a ring slot (R267). -/
def State.ringUsed (s : State) (p : Nat) : Nat :=
  (s.ing.lines.filter fun l => l.plane == p && l.stored).length + (s.tx.lines.filter fun l => l.plane == p && l.stored).length

/-- A plane line joins its ring, or overruns (R267). -/
def State.addPlane (s : State) (j p pos time : Nat) (dev : List (Option (Int × Bool))) : State :=
  let (codes, sat) := planeCodes s p dev
  let s := if sat = 0 then s else s.fcount F.FFC_SAT_CNT_sat sat
  let first := s.fget F.SLC_CFG_own_first
  let own := (codes.drop first).take s.ownWidth
  let room := decide (s.ringUsed p < s.fget (F.RSH_PLANE_ring_m1 p) + 1)
  let own := if room then own else List.replicate s.ownWidth (s.fgetS (F.RSH_PLANE_zp p), true)
  let s := if room then s else (s.note 0x0210).fcount F.ING_OVR_CNT_count 1
  let halo (f : Fld) (right : Bool) : Option (List (Int × Bool)) :=
    if s.fget f = 0 then some []
    else (s.ing.halos.find? fun h => h.1 == j && h.2.1 == p && h.2.2.1 == right).map (·.2.2.2)
  let l : RLine := { line := j, plane := p, own := own, haloL := halo F.SLC_HALO_halo_l false, haloR := halo F.SLC_HALO_halo_r true,
                     pos := pos, stored := room, subst := !room || own.any (·.2), time := time }
  (s.mapIng fun g => { g with lines := g.lines ++ [l], halos := g.halos.filter fun h => !(h.1 == j && h.2.1 == p) }).sendHalos j p own

/-- A device line passes Flat-field, Reshuffle and Slicer as the next job line (R26, R262, R264–R267). -/
def State.takeLine (s : State) (cls : List (Nat × CamLine)) : State :=
  let j := s.job.lineNo
  let s := s.mapJob fun x => { x with lineNo := x.lineNo + 1 }
  let s := if s.ing.ffBand == some (s.bandOf j) then s
    else (s.fset F.FFC_CTRL_bank_active (s.fget F.FFC_CTRL_bank_next)).mapIng fun g => { g with ffBand := some (s.bandOf j) }
  let e := (j + s.fget F.RSH_CFG_phase) % (s.fget F.RSH_CFG_n_ill_m1 + 1)
  let miss := cls.any fun x => x.2.px.any Option.isNone
  let s := if miss then (s.note 0x0204).fcount F.ING_SUB_CNT_count 1 else s
  let (cs, s) := cls.foldl (fun (acc : List (Nat × List (Option (Int × Bool))) × State) x =>
    let (l, s) := ffLine acc.2 x.1 e 0 x.2.px
    (acc.1 ++ [(x.1, l)], s)) ([], s)
  let n := maxN (s.cams.map fun c => s.fget (F.ING_CAM_POS_x_first c) + s.camWidth c)
  let dev := placeCams s n cs
  let (pos, time) := match cls with
    | (_, x) :: _ => (x.pos, x.time)
    | [] => (s.lin.pos, s.trl.time)
  let s := s.mapIng fun g => { g with posOf := sset zeroN g.posOf j pos }
  (s.planes.filter fun p => s.fget (F.RSH_PLANE_ill p) == e).foldl (fun s p => s.addPlane j p pos time dev) s

/-! ## Replay (R328) -/

/-- Bytes per pixel of a camera's format. -/
def State.pxBytes (s : State) (c : Nat) : Nat := if s.fget (F.ING_CAM_CFG_fmt c) = 0 then 1 else 2
/-- Pixels of a replayed line. -/
def pxOf (bs : List Byte) (w : Nat) : Nat → List (Option Nat)
  | 0 => []
  | n + 1 => some (ofBytes (bs.take w)) :: pxOf (bs.drop w) w n
/-- The next pushed line of a camera. -/
def State.replayLine (s : State) (c : Nat) : Option CamLine :=
  (s.cp.replay.find? fun r => r.cam == c).map fun r =>
    { px := pxOf (r.data.drop (r.taken * r.stride)) (s.pxBytes c) (s.camWidth c), pos := (r.pos + r.step * r.taken) % 2 ^ 48,
      time := s.trl.time, job := s.ing.jobs }
/-- Change the first element that satisfies a test. -/
def mapFirst {α : Type} (p : α → Bool) (f : α → α) : List α → List α
  | [] => []
  | x :: xs => if p x then f x :: xs else x :: mapFirst p f xs
/-- A camera's pushed line is taken; the command completes with its last (R328).
(DEDUCED, log 104) -/
def State.replayTake (s : State) (c : Nat) : State :=
  match s.cp.replay.find? (fun r => r.cam == c) with
  | none => s
  | some r =>
    let mine := fun (x : ReplaySt) => x.cam == c
    if r.taken + 1 ≥ r.lines then
      (s.mapCp fun p => { p with replay := eraseFirst mine p.replay }).complete r.tag 0x0D 0 r.lines r.irq
    else s.mapCp fun p => { p with replay := mapFirst mine (fun x => { x with taken := x.taken + 1 }) p.replay }

/-- Time of a kept device line: its first camera's trigger. -/
def keptTime (l : List (Nat × CamLine)) : Nat := match l with | (_, x) :: _ => x.time | [] => 0
/-- The kept line whose time lies nearest `t`, the earlier on a tie: its index and the distance (R369). -/
def nearestLine (t : Nat) : List (List (Nat × CamLine)) → Nat → Option (Nat × Nat)
  | [], _ => none
  | l :: ls, i =>
    let d := if keptTime l ≤ t then t - keptTime l else keptTime l - t
    match nearestLine t ls (i + 1) with
    | some (k, d') => if d ≤ d' then some (i, d) else some (k, d')
    | none => some (i, d)

/-- The line period about kept line `k`: the spacing to the next kept line, or from the one before; the lines of all devices have the spacing
of the root's. Nothing is known with one line.
(DEDUCED, log 63) -/
def State.keptPeriod (s : State) (k : Nat) : Option Nat :=
  match s.ing.kept.drop (k - 1) with
  | a :: b :: c :: _ => some (if k = 0 then keptTime b - keptTime a else keptTime c - keptTime b)
  | [a, b] => some (keptTime b - keptTime a)
  | _ => none
/-- Job line 0 is chosen by the root's line time (R369); `far` says that the line lies more than half the root's line period away where no two
kept lines tell.
(DEDUCED, log 63) -/
def State.chooseLine0 (s : State) (t : Nat) (far : Bool) : State :=
  match nearestLine t s.ing.kept 0 with
  | none => s.mapTrl fun x => { x with line0 := some t }
  | some (k, d) =>
    let far := match s.keptPeriod k with | some p => decide (p < 2 * d) | none => far
    let s := if k = 0 then s else s.fcount F.ING_DISC_CNT_count k
    let s := if far then s.trlErr 0x0914 else s
    let ls := s.ing.kept.drop k
    let s := (s.mapTrl fun x => { x with line0 := some t }).mapIng fun g => { g with kept := [] }
    ls.foldl (fun s l => s.takeLine l) s

/-- The root's job line 0 is its first line triggered at or after E; it sends LINE0 with that line's time (R369). -/
def State.rootLine0 (s : State) (ls : List (Nat × CamLine)) : State :=
  match s.trl.start with
  | some (E, _) =>
    if s.trl.root && decide (E ≤ keptTime ls) then (s.chooseLine0 (keptTime ls) false).sendToken 6 (keptTime ls % 2 ^ 48) else s
  | none => s

/-- LINE_COMPLETE (R261, R265–R267, R271, R280, R328, R369): the device line is complete. The lines of a job whose fills run are kept:
only the line-start event waits for the fills (R112). -/
def lineCompleteEff (s : State) : State :=
  let cams := s.cams
  let open1 := s.job.running && s.job.stopped.isNone && !s.trl.noLines
  if cams.isEmpty then s
  else if s.replayJob then
    let ls := cams.filterMap fun c => (s.replayLine c).map fun l => (c, l)
    if open1 && ls.length == cams.length && (s.planes.all fun p => decide (s.ringUsed p < s.fget (F.RSH_PLANE_ring_m1 p) + 1)) then
      (cams.foldl (fun s c => s.replayTake c) s).takeLine ls
    else s
  else
    let ls := cams.filterMap fun c => ((s.cam c).lines.head?).map fun l => (c, l)
    if ls.length == cams.length then
      let s := cams.foldl (fun s c => let x := s.cam c; s.setCam c { x with lines := x.lines.drop 1 }) s
      let ls := if s.fget F.STP_STAMP_CFG_pos_src = 0 then ls else ls.map fun x => (x.1, { x.2 with pos := s.lin.pos })
      let mine := open1 && ls.all fun x => x.2.job == s.ing.jobs
      if !mine then s.fcount F.ING_DISC_CNT_count 1
      else if s.job.system && s.trl.line0.isNone then
        if s.trl.recording then (s.mapIng fun g => { g with kept := g.kept ++ [ls] }).rootLine0 ls
        else s.fcount F.ING_DISC_CNT_count 1
      else s.takeLine ls
    else s

/-- LINE_RECORDING_START (R369): from E − 10 µs the device keeps its lines. -/
def execLineRecordingStart (s : State) : Host.Outcome State Fault Refusal :=
  .next (if s.trl.start.isSome && s.job.running && s.job.system then s.mapTrl fun t => { t with recording := true } else s)

/-! ## Halos (R268) -/

/-- Fill a halo of a held plane line that still waits for it. -/
def State.setHalo (s : State) (line plane : Nat) (right : Bool) (px : List (Int × Bool)) : State :=
  s.mapIng fun g => { g with lines := g.lines.map fun l =>
    if l.line = line ∧ l.plane = plane then
      if right then (if l.haloR.isNone then { l with haloR := some px } else l)
      else (if l.haloL.isNone then { l with haloL := some px } else l)
    else l }
/-- Does a held plane line wait for a halo? -/
def State.waitsHalo (s : State) (line plane : Nat) (right : Bool) : Bool :=
  s.ing.lines.any fun l => l.line == line && l.plane == plane && (if right then l.haloR.isNone else l.haloL.isNone)

/-- HALO_TIMEOUT (R268): the halo is replaced by poisoned zp; E-0220.
(DESIGN CHOICE, log 4) -/
def haloTimeoutEff (s : State) (line plane : Nat) (right : Bool) : State :=
  if s.waitsHalo line plane right then
    let n := s.fget (if right then F.SLC_HALO_halo_r else F.SLC_HALO_halo_l)
    (s.note 0x0220).setHalo line plane right (List.replicate n (s.fgetS (F.RSH_PLANE_zp plane), true))
  else s

/-- HALO_TIMEOUT. -/
def execHaloTimeout (line : Nat) (plane : Fin 8) (right : Bool) (s : State) : Host.Outcome State Fault Refusal :=
  .next (haloTimeoutEff s line plane right)

/-! ## The Stamp (R25, R26, R28, R176, R269) -/

/-- The flits of a slice: 32 codes each, the last padded with zp, poisoned when a pixel is. -/
def sliceFlits (zp : Int) : Nat → List (Int × Bool) → List Flit
  | 0, _ => []
  | n + 1, px =>
    let h := px.take 32
    let cs := h.map (·.1) ++ List.replicate (32 - h.length) zp
    ({ Flit.zero with data := dataOfI8 cs, poison := h.any (·.2) } : Flit) :: sliceFlits zp n (px.drop 32)

/-- Mark a line's flits: tag and events; which flit of a plane line carries `last` the spec leaves open, so the bits are open.
(DESIGN CHOICE, log 141) -/
def markFlits (tag : Nat) (band : Bool) (open1 : Nat) : Bool → Nat → List Flit → List Flit
  | _, _, [] => []
  | first, i, f :: fs =>
    { f with tag := tag % 16, last := bitN open1 i, evLine := first, evBand := first && band } :: markFlits tag band open1 false (i + 1) fs

/-- Count a line's codes into its band's histogram (R295). -/
def countHist (m : SMap Nat) (band plane : Nat) : List (Int × Bool) → SMap Nat
  | [] => m
  | (q, _) :: qs =>
    let k := 2048 * band + 256 * plane + (q + 128).toNat
    countHist (sset zeroN m k (satAdd 32 (sget zeroN m k) 1)) band plane qs

/-- The line history keeps, for each enabled plane, the last lines region 1 has room for (R290). -/
def State.pushHist (s : State) (h : HistLine) : State :=
  let cap := s.regionSize 1 / (Nat.max s.planes.length 1 * 32 * Nat.max s.lineFlits 1)
  let hs := s.vrd.hist ++ [h]
  let n := (hs.filter fun x => x.plane == h.plane).length
  s.mapVrd fun v => { v with hist := if n > cap then eraseFirst (fun x => x.plane == h.plane) hs else hs }

/-- One plane line goes to the Stamp's output. -/
def State.stampLine (s : State) (l : RLine) : State :=
  let b := s.bandOf l.line
  let zp := s.fgetS (F.RSH_PLANE_zp l.plane)
  let px := (l.haloL.getD []) ++ l.own ++ (l.haloR.getD [])
  let px := if l.stored then px else px.map fun _ => (zp, true)
  let ev := s.tx.nextEv == b
  let n := s.lineFlits
  let bits := Config.lineLast l.plane l.line % 2 ^ n
  let fs := markFlits (b % 16) ev bits true 0 (sliceFlits zp n px)
  let s := { s with tx := { s.tx with lines := s.tx.lines ++ [(⟨l.line, l.plane, l.stored, fs⟩ : PlaneLine)],
                                      nextEv := if ev then b + 1 else s.tx.nextEv } }
  let s := s.mapVrd fun v => { v with hist8 := countHist v.hist8 b l.plane px }
  s.pushHist { plane := l.plane, line := l.line, codes := px, subst := l.subst || px.any (·.2), pos := l.pos }

/-- Latch the histograms of band `b` (R295). -/
def State.latchHist (s : State) (b : Nat) : State :=
  s.mapVrd fun v => { v with
    lastHist := (v.hist8.filter fun x => x.1 / 2048 == b).map fun x => (x.1 % 2048, x.2)
    hist8 := v.hist8.filter fun x => x.1 / 2048 != b }

/-- A staged commit into the active Vintage arms at the last line of band b − 1 (R252). -/
def State.armCommit (s : State) (b : Nat) : State :=
  match s.grf.queue with
  | q :: qs =>
    if q.commit && q.staged && q.armed.isNone && q.target == s.activeV && decide (q.band.getD 0 ≤ b) then
      s.mapGrf fun g => { g with queue := { q with armed := some b } :: qs, changed := [] }
    else s
  | [] => s

/-- A planned retirement: the device on which it was written sends REPAIR with planned = 1 at its own arming of the band (R378).
(DESIGN CHOICE, log 59) -/
def State.armRetire (s : State) (b : Nat) : State :=
  match s.trl.retire with
  | some (p, rb) =>
    if rb ≤ b then
      let tick := s.tickAfter 0
      (s.mapTrl fun t => { t with retire := none, repair := some (tick, s.upstream p, true) }).sendToken 0x0A (s.upstream p + 256 + 2 ^ 16 * tick)
    else s
  | none => s

/-- What the last line of band b − 1 arms for band b (R188, R252, R378, R393). -/
def State.armAll (s : State) (b : Nat) : State := (((s.armSwitch b).armCommit b).armFreq b).armRetire b

/-- LINE_START (R25): the Stamp sends the next job line, once every halo it needs is held. The first line of a band is the band
boundary: the job stops there when it is asked to (R194), or the band opens (R28). -/
def lineStartEff (s : State) : State :=
  let n := s.ing.nextStart
  let mine := s.ing.lines.filter fun l => l.line == n
  let B := s.job.bandLen
  if !(s.job.running && !s.job.filling && s.job.stopped.isNone && decide (n < s.job.lineNo) && !s.trl.waitStart &&
       mine.all fun l => l.haloL.isSome && l.haloR.isSome) then s
  else if n % B == 0 && s.stopsAt (n / B) then (s.mapJob fun j => { j with stopped := some (n / B, s.tx.lastS) }).dropHeld
  else
    let s := if n % B == 0 then
      s.mapJob fun j => { j with bandsClosed := n / B } else s
    let s := mine.foldl (fun s l => s.stampLine l) s
    let s := s.mapIng fun g => { g with nextStart := n + 1, lines := g.lines.filter fun l => l.line != n }
    let s := s.lineMark n
    if (n + 1) % B == 0 then (s.latchHist (n / B)).armAll ((n + 1) / B) else s

/-- LINE_START. -/
def execLineStart (s : State) : Host.Outcome State Fault Refusal := .next (lineStartEff s)

/-! ## The Hub's sources (R147, R176, R177, R267) -/

/-- The Terrace broadcast of a plane-0 line: each tile with event port 0xF latches at S + bc_lag (R177). -/
def State.broadcast (s : State) (f : Flit) (S : Nat) : State :=
  let new := allTiles.filterMap fun r =>
    let v := s.evVint r f.tag
    if s.usesTile r v && s.evPort r v == 0xF then some ⟨tileKey r, S + s.bcLag r v, f.evBand, f.tag⟩ else none
  s.mapArr fun a => { a with bcast := a.bcast ++ new }

/-- Whole-array items at S_b: a Loam setting held for the boundary (R179, R408) and a snapshot of the released band (R375).
(DEDUCED, log 23) -/
def State.atS (s : State) (b : Nat) : State :=
  let s := s.loamNow
  let s := match s.pwr.hint with
    | some (_, first, n) =>
      if n ≠ 0 ∧ first + n ≤ b then (s.mapPwr fun p => { p with hint := none, margin := 0 }).setVolts else s
    | none => s
  match s.cp.snap with
  | some q =>
    if q.band = some b ∧ q.block.isNone then
      let glen := if s.grf.bound.isSome && !s.grf.sect.isEmpty then s.graftLen else 0
      let (gs, s) := readGranules s (s.regionBase 5) (cdiv glen 32)
      let head := bytesOf 4 0x50414E53 ++ bytesOf 4 q.id ++ bytesOf 1 s.trl.dev ++ bytesOf 3 0 ++ bytesOf 4 b ++ s.summary ++
        bytesOf 8 (sget zeroN s.ing.posOf (b * s.job.bandLen)) ++ bytesOf 4 (s.reg R.HUB_GRF_GEN).toNat ++ bytesOf 4 glen ++
        List.replicate 4000 0
      let blk := head.map (fun b => (b, false)) ++ gs.take glen
      let s := s.mapCp fun c => { c with snap := some { q with block := some blk } }
      s.mapStr fun x => { x with chans := setNth x.chans 6 { ChanSt.init with order := x.nextOrder }, nextOrder := x.nextOrder + 1 }
    else s
  | none => s

/-- Run ac that has come to S_b: the window of a change of frequency comes before it, then its whole-array items apply (R179, R395).
(DEDUCED, log 23) -/
def State.bandStarts (s : State) : State :=
  let now := s.tx.bandAt.filter fun x => decide (x.1 ≤ s.arr.runAc)
  now.foldl (fun s x => (s.boundaryFreq x.2).atS x.2)
    { s with tx := { s.tx with bandAt := s.tx.bandAt.filter fun x => !decide (x.1 ≤ s.arr.runAc) } }

/-- The bound circuit of a Hub source. -/
def State.hubBound (s : State) (src : SrcRef) : Option Circuit := (s.tx.boundTo.find? fun x => x.1 == src).map (·.2)
/-- Forget a Hub source's bound circuit. -/
def State.hubFree (s : State) (src : SrcRef) : State :=
  { s with tx := { s.tx with boundTo := s.tx.boundTo.filter (fun x => x.1 != src), logged := s.tx.logged.filter (· != src) } }
/-- Does the port hold a flit of another of its streams? It emits nothing else meanwhile (R147). -/
def State.portHeld (s : State) (src : SrcRef) : Bool := s.tx.boundTo.any fun x => x.1 != src && hubPort x.1 == hubPort src
/-- A Hub source found no credit (R147, R148); in a held ac nothing presents itself. -/
def State.hubStall (s : State) (v : Nat) (src : SrcRef) (c : Circuit) (k : SnkRef) : State :=
  if s.tx.logged.contains src || !s.arrayRuns then s
  else
    let s := { s with tx := { s.tx with boundTo := s.tx.boundTo ++ [(src, c)], logged := s.tx.logged ++ [src] } }
    s.noCreditFault v src k 0 s.job.bandsClosed

/-- The sinks that enabled remote ingresses feed, as latched at START_JOB (R363). -/
def State.remoteCasks (s : State) : List SnkRef :=
  (s.trl.rsi.filter fun w => bitW w 16).map fun w => .cask (ofLoc (bitsW w 0 16))
/-- Is the circuit of this slot one the stream feeds? Ingress `k` feeds the cask that the latched TRL.RSIk names; a plane feeds
no cask of an enabled ingress (R363, R269). -/
def hubFeeds (s : State) (src : SrcRef) (f : Flit) (st : HubStream) : Bool :=
  match circuitAt s (s.carryV f.tag) src (s.srcAc src) with
  | none => true
  | some c =>
    match st with
    | .plane _ => !(c.sinks.any fun x => s.remoteCasks.contains x.1)
    | .ingress k =>
      let w := nth 0 s.trl.rsi k
      bitW w 16 && c.sinks.any fun x => x.1 == .cask (ofLoc (bitsW w 0 16))

/-- A Hub stream emits its next flit: plane lines in job-line order, or an ingress buffer's oldest flit (R269, R363).
(DESIGN CHOICE, log 139) -/
def hubEmit (s : State) (t io : Fin 4) (st : HubStream) : State :=
  let src : SrcRef := .hub t io st
  match st with
  | .plane p =>
    match s.tx.lines with
    | l :: ls =>
      if l.plane = p.val then
        match l.flits with
        | f :: fs =>
          if !hubFeeds s src f st then s else
          match emitVia s src f (s.hubBound src) with
          | .noSlot => s.slotNone (s.carryV f.tag) src
          | .noCredit c k => s.hubStall (s.carryV f.tag) src c k
          | .sent s1 _ =>
            let s1 := s1.hubFree src
            let S := s.arr.runAc + s.lat (ioBase t io) (s.carryV f.tag) .io1
            let s1 := { s1 with tx := { s1.tx with lines := if fs.isEmpty then ls else { l with flits := fs } :: ls,
                                                   lastS := if f.evLine then S else s1.tx.lastS,
                                                   bandAt := if f.evBand then s1.tx.bandAt ++ [(S, s.bandOf l.line)] else s1.tx.bandAt } }
            let s1 := if f.evLine then s1.mapJob fun j => { j with stopped := j.stopped.map fun q => (q.1, S) } else s1
            if f.evLine && p.val == 0 then s1.broadcast f S else s1
        | [] => { s with tx := { s.tx with lines := ls } }
      else s
    | [] => s
  | .ingress k =>
    match nth [] s.tx.ingress k with
    | f :: fs =>
      if !hubFeeds s src f st then s else
      match emitVia s src f (s.hubBound src) with
      | .noSlot => s.slotNone (s.carryV f.tag) src
      | .noCredit c kk => s.hubStall (s.carryV f.tag) src c kk
      | .sent s1 _ =>
        let s1 := s1.hubFree src
        let s1 := { s1 with tx := { s1.tx with ingress := setNth s1.tx.ingress k fs } }
        let from1 := nth 0 s.trl.ingSrc k
        s1.sendMsg { kind := 6, dest := from1 / 16, origin := s.trl.dev, addr := from1 % 16, aux := 1, data := [] }
    | [] => s

/-- FLIT_EMISSION (R147): a source emits its held flit on its circuit in a slot of that circuit in which it has credit. A cask's
read side emits through CASK_WORD_READ.
(DEDUCED, log 23; DESIGN CHOICE, log 139) -/
def flitEmissionEff (s : State) (src : SrcRef) : State :=
  match src with
    | .tile r p => tileEmit s r p
    | .logic t row j => logicEmit s t row j
    | .hub t io st => if s.portHeld src then s else hubEmit s t io st
    | .cask c => caskWordReadEff s c false []

/-- FLIT_EMISSION. -/
def execFlitEmission (src : SrcRef) (s : State) : Host.Outcome State Fault Refusal := .next (flitEmissionEff s src)
/-- CREDIT_ARRIVAL (R145). -/
def execCreditArrival (src : SrcRef) (snk : SnkRef) (s : State) : Host.Outcome State Fault Refusal :=
  .next (creditArrive s src snk)

end Sys2Proof.Machine
end

