-- ==== Sys2Proof/Machine/LineCtl.lean ====
section
/-!
DEFINITION. Machine/LineCtl.lean: encoder, trigger generators and marker engine (09 R270–R277). Commands whose effect depends on
elapsed time carry the system time at which they happen, in 10 ns (R364).
-/
namespace Sys2Proof.Machine

/-! ## Positions (R270) -/

/-- The position modulus.
(DEDUCED, log 27) -/
def posMod : Nat := 2 ^ 48
/-- How far `a` lies beyond `b`, as a signed 48-bit number.
(DEDUCED, log 27) -/
def posDiff (a b : Nat) : Int := signed 48 (a + posMod - b % posMod)
/-- Does `a` lie at or beyond `b`? -/
def atOrBeyond (a b : Nat) : Bool := decide (0 ≤ posDiff a b)
/-- The system time as a command brings it; it never goes back.
(DESIGN CHOICE, log 192) -/
def State.atTime (s : State) (now : Nat) : State := s.mapTrl fun t => { t with time := Nat.max t.time (now % 2 ^ 64) }

/-! ## Triggers (R272, R273) -/

/-- A trigger generator's state. -/
def State.trg (s : State) (k : Nat) : TrgSt := nth ⟨0, 0, none, false⟩ s.lin.trg k
/-- Replace a trigger generator's state. -/
def State.setTrg (s : State) (k : Nat) (x : TrgSt) : State := s.mapLin fun l => { l with trg := setNth l.trg k x }

/-- What a firing gives a camera that names the generator: its position, unless a replay job takes no lines from triggers (R328), and a
packet on its uplink when trig_pkt = 1. The CoaXPress standard defines the packet's delay field, so its value is open.
(DEDUCED, log 28) -/
def State.giveTrigger (s : State) (k c : Nat) : State :=
  if s.camOn c && s.fget (F.ING_CAM_POS_trig c) == k then
    let x := s.cam c
    let s := if s.replayJob then s else s.setCam c { x with trig := x.trig ++ [(s.lin.pos, s.trl.time, s.ing.jobs)] }
    if s.fbit (F.ING_CAM_POS_trig_pkt c) then
      let (d, s) := s.freshBelow 256
      s.mapLin fun l => { l with pkts := l.pkts ++ [(c, l.pos, d)] }
    else s
  else s

/-- Does a firing fall inside min of the previous one? -/
def State.tooSoon (s : State) (k : Nat) : Bool :=
  match (s.trg k).last with
  | some t => decide ((s.trl.time : Int) - t < s.fget (F.STP_TRG_MIN_min k))
  | none => false

/-- Trigger generator `k` fires, or is suppressed inside min.
(DEDUCED, log 28) -/
def State.fireTrigger (s : State) (k : Nat) : State :=
  if s.tooSoon k then (s.note 0x0241).fcount F.STP_TRG_SUPP_count 1
  else
    let x := s.trg k
    let drive := s.fbit (F.STP_TRG_CFG_out_en k) && decide (0 < s.fget (F.STP_TRG_CFG_width k))
    let s := s.setTrg k { x with last := some (s.trl.time : Int), pulse := x.pulse || drive }
    (List.range 4).foldl (fun s c => s.giveTrigger k c) s

/-- A generator looks at the new count: t is the position since en was set, taken as a signed 48-bit number; the furthest position
reached is kept whatever its source. -/
def State.trigAt (s : State) (k : Nat) : State :=
  let x := s.trg k
  if s.fbit (F.STP_TRG_CFG_en k) then
    let t := posDiff s.lin.pos x.base
    let n : Int := s.fget (F.STP_TRG_N_n_m1 k) + 1
    let m : Int := s.fget (F.STP_TRG_CFG_m_m1 k) + 1
    let ahead := decide (0 < posDiff s.lin.pos x.far)
    let hit := t % n == 0 && (t / n) % m == (s.fget (F.STP_TRG_CFG_phi k) : Int)
    let s := if ahead then s.setTrg k { x with far := s.lin.pos } else s
    if s.fget (F.STP_TRG_CFG_src k) == 0 && hit && (ahead || !s.fbit (F.STP_TRG_CFG_fwd_only k)) then s.fireTrigger k else s
  else s

/-- TRIGGER_TIMER: the period of a timer-driven generator has passed. -/
def triggerTimerEff (s : State) (k now : Nat) : State :=
  let s := s.atTime now
  if s.fbit (F.STP_TRG_CFG_en k) && s.fget (F.STP_TRG_CFG_src k) == 1 then s.fireTrigger k else s

/-- TRIGGER_TIMER.
(DESIGN CHOICE, log 162) -/
def execTriggerTimer (k : Fin 8) (now : Nat) (s : State) : Host.Outcome State Fault Refusal := .next (triggerTimerEff s k now)

/-- A trigger generator's en rises: its count starts, and its ball has been enabled (R272, R277). -/
def State.trgEnable (s : State) (k : Nat) (was : Bool) : State :=
  if s.fbit (F.STP_TRG_CFG_en k) && !was then
    (s.setTrg k { s.trg k with base := s.lin.pos, far := s.lin.pos }).mapLin fun l => { l with driven := Nat.lor l.driven (2 ^ (16 + k)) }
  else s

/-- TRIGGER_SOFTWARE: a write of TRG_CFGk; sw = 1 fires a generator whose source is software. -/
def triggerSoftwareEff (s : State) (k : Nat) (v : Word) (now : Nat) : State :=
  let s := s.atTime now
  let was := s.fbit (F.STP_TRG_CFG_en k)
  let s := (s.setReg (R.STP_TRG_CFG k) (v &&& 0xFFFFFF3F)).trgEnable k was
  if bitW v 6 && s.fbit (F.STP_TRG_CFG_en k) && s.fget (F.STP_TRG_CFG_src k) == 2 then s.fireTrigger k else s


/-- TRIGGER_PULSE_END: the width of a firing has passed. -/
def execTriggerPulseEnd (k : Fin 8) (s : State) : Host.Outcome State Fault Refusal :=
  .next (s.setTrg k { s.trg k with pulse := false })

/-! ## Markers (R274–R277) -/

/-- A marker output's state. -/
def State.mrk (s : State) (k : Nat) : MrkSt := nth ⟨[], false, none, none⟩ s.lin.mrk k
/-- Replace a marker output's state. -/
def State.setMrk (s : State) (k : Nat) (x : MrkSt) : State := s.mapLin fun l => { l with mrk := setNth l.mrk k x }

/-- Clear one bit. -/
def clearBit (x i : Nat) : Nat := if bitN x i then x - 2 ^ i else x
/-- With lc = 1, is marker lane `k` from the logic cells 1? (R275) -/
def State.laneOn (s : State) (k : Nat) : Bool := s.fbit (F.STP_MRK_CFG_lc k) && s.lcRows.any fun x => bitN x.2.lanes k
/-- Does output `k` stand at its safe level after a trip, or after a warm reset until it is active again? (R275, R277)
(DEDUCED, log 50) -/
def State.mrkSafe (s : State) (k : Nat) : Bool := s.pwr.tripped || (bitN s.lin.safe k && !s.laneOn k)

/-- An event of output `k` fires: in time mode it starts or extends the width, in length mode the activity runs to due + width. -/
def State.markFire (s : State) (k : Nat) (e : Nat × Bool × Nat) : State :=
  if s.pwr.tripped then s else
  let s := s.mapLin fun l => { l with safe := clearBit l.safe k }
  let x := s.mrk k
  if !e.2.1 then s.setMrk k { x with pulse := true }
  else
    let e := (e.1 + e.2.2) % posMod
    let later := match x.upTo with | some u => if atOrBeyond e u then e else u | none => e
    s.setMrk k { x with upTo := some later }

/-- The events of output `k` whose due position has been reached fire, and an activity whose end has been reached ends. -/
def State.markAt (s : State) (k : Nat) : State :=
  let x := s.mrk k
  let due := x.queue.filter fun d => atOrBeyond s.lin.pos d.1
  let s := s.setMrk k { x with queue := x.queue.filter fun d => !atOrBeyond s.lin.pos d.1 }
  let s := due.foldl (fun s d => s.markFire k d) s
  let x := s.mrk k
  match x.upTo with
  | some u => if atOrBeyond s.lin.pos u then s.setMrk k { x with upTo := none } else s
  | none => s

/-- An event joins output `k`'s queue with the mode and width in force (R278), fires at once when its due position has passed, or is
dropped (R276).
(DEDUCED, log 30) -/
def State.markQueue (s : State) (k due : Nat) : State :=
  let x := s.mrk k
  let e := (due, s.fget (F.STP_MRK_CFG_mode k) != 0, s.fget (F.STP_MRK_WID_width k))
  if atOrBeyond s.lin.pos due then (((s.note 0x0230).fcount F.STP_MRK_LATE_count 1).markFire k e).markAt k
  else if 1024 ≤ x.queue.length then (s.note 0x0232).fcount F.STP_MRK_DROP_count 1
  else s.setMrk k { x with queue := x.queue ++ [e] }

/-- Is a verdict of column `col` a hit of output `k`? (R274) -/
def State.isHit (s : State) (k col cls : Nat) (ind : Bool) : Bool :=
  s.fbit (F.STP_MRK_CFG_en k) && decide (s.fget (F.STP_MRK_COL_col_lo k) ≤ col) && decide (col ≤ s.fget (F.STP_MRK_COL_col_hi k)) &&
    ((decide (cls < 16) && bitN (s.fget (F.STP_MRK_CFG_class_mask k)) cls) || (ind && s.fbit (F.STP_MRK_CFG_ind k)))

/-- A verdict passes the marker engine: the first hit of a row queues one event per output, due at P_r + delay. -/
def State.markVerdict (s : State) (row col cls : Nat) (ind : Bool) : State :=
  (List.range 16).foldl (fun s k =>
    if s.isHit k col cls ind && !((s.mrk k).lastRow == some row) then
      let p := sget zeroN s.ing.posOf (s.vrd.patchH * row)
      (s.setMrk k { s.mrk k with lastRow := some row }).markQueue k ((p + s.fget (F.STP_MRK_DLY_delay k)) % posMod)
    else s) s

/-- MARKER_WIDTH_EXPIRY: the width of output `k`'s last firing has passed. -/
def execMarkerWidthExpiry (k : Fin 16) (s : State) : Host.Outcome State Fault Refusal :=
  .next (s.setMrk k { s.mrk k with pulse := false })

/-- Does marker output `k` stand at its active level? (R275, R277) -/
def State.markerActive (s : State) (k : Nat) : Bool :=
  s.fbit (F.STP_MRK_CFG_en k) && !s.mrkSafe k && ((s.mrk k).pulse || (s.mrk k).upTo.isSome || s.laneOn k)
/-- The level on marker ball `k`: none while high-impedance, open without power.
(DESIGN CHOICE, log 166; DESIGN CHOICE, log 208) -/
def State.markerBall (s : State) (k : Nat) : Option Bool :=
  if s.sec.off then Config.offBall k s.free
  else if !bitN s.lin.driven k then none
  else if s.mrkSafe k || !s.fbit (F.STP_MRK_CFG_en k) then some (s.fbit (F.STP_MRK_CFG_safe k))
  else some (s.markerActive k == s.fbit (F.STP_MRK_CFG_act_hi k))
/-- The level on trigger ball `k`: none while high-impedance, open without power.
(DESIGN CHOICE, log 166; DESIGN CHOICE, log 208) -/
def State.triggerBall (s : State) (k : Nat) : Option Bool :=
  if s.sec.off then Config.offBall (16 + k) s.free
  else if !bitN s.lin.driven (16 + k) || !s.fbit (F.STP_TRG_CFG_out_en k) then none
  else some ((s.trg k).pulse == s.fbit (F.STP_TRG_CFG_act_hi k))
/-- The level on probe ball `k` (R203), open without power.
(DESIGN CHOICE, log 208) -/
def State.probeBall (s : State) (k : Nat) : Option Bool :=
  if s.sec.off then Config.offBall (24 + k) s.free else some (bitN s.sec.probeBall k)

/-- Clear every pending marker event and activity; every marker ball drives its safe level from now on (R277).
(DEDUCED, log 30) -/
def State.clearMarkers (s : State) : State :=
  s.mapLin fun l => { l with mrk := l.mrk.map (fun m => { m with queue := [], pulse := false, upTo := none }),
                             driven := Nat.lor l.driven 0xFFFF }

/-! ## The encoder -/

/-- The position moves by one count, and the trigger generators and markers look at it. -/
def State.movePos (s : State) (up : Bool) : State :=
  let s := s.mapLin fun l => { l with pos := (l.pos + (if up then 1 else posMod - 1)) % posMod }
  let s := (List.range 8).foldl (fun s k => s.trigAt k) s
  (List.range 16).foldl (fun s k => s.markAt k) s

/-- ENCODER_EDGE: the inputs, accepted after filt + 1 stable cycles, go from levels (a, b) to (a', b') (R270). Decode 3 is not used by
the spec: whether it counts is open. -/
def encoderEdgeEff (s : State) (a b a' b' : Bool) (now : Nat) : State :=
  let s := s.atTime now
  if a != a' && b != b' then (s.note 0x0240).fcount F.STP_ENC_ERR_count 1
  else if a == a' && b == b' then s
  else
    -- A leads B when the edge of A goes away from B's level, or the edge of B goes to A's.
    let lead := if a != a' then a' != b else b' == a
    let up := lead != s.fbit F.STP_ENC_CFG_dir
    let decode := s.fget F.STP_ENC_CFG_decode
    if decode = 0 then s.movePos up
    else if decode = 1 then (if a != a' then s.movePos up else s)
    else if decode = 2 then (if a != a' && a' then s.movePos up else s)
    else
      let (x, s) := s.freshBelow 2
      if x = 1 then s.movePos up else s

/-- ENCODER_EDGE: a device held in reset counts nothing (R411). -/
def execEncoderEdge (a b a' b' : Bool) (now : Nat) (s : State) : Host.Outcome State Fault Refusal :=
  .next (if s.rstHeld then s else encoderEdgeEff s a b a' b' now)

end Sys2Proof.Machine
end

