-- ==== Sys2Proof/Machine/Verdict.lean ====
section
/-!
DEFINITION. Machine/Verdict.lean: verdict aggregator, record builder, feature tap, crops and statistics (10 R283–R295, 06 R193,
08 R239, R240, 11 R331, R332).
-/
namespace Sys2Proof.Machine

/-! ## Vectors on a circuit into the Hub -/

/-- The flits of a Hub-facing circuit in order: those that reached IO tile `io` of Terrace `t` from `src`. -/
def State.hubQueue (s : State) (t io : Nat) (src : SrcRef) : List StageEntry :=
  (s.arr.hubIn.filter fun x => x.1 == t && x.2.1 == io && x.2.2.circ.src == src).map (·.2.2)
/-- Remove the first `n` flits of such a circuit. -/
def dropHub (t io : Nat) (src : SrcRef) : Nat → List (Nat × Nat × StageEntry) → List (Nat × Nat × StageEntry)
  | 0, q => q
  | _ + 1, [] => []
  | n + 1, x :: q =>
    if x.1 == t && x.2.1 == io && x.2.2.circ.src == src then dropHub t io src n q else x :: dropHub t io src (n + 1) q
/-- The Hub takes `n` flits and returns their credits. -/
def State.takeHub (s : State) (t io : Fin 4) (src : SrcRef) (n : Nat) : State :=
  let q := (s.hubQueue t io src).take n
  let s := s.mapArr fun a => { a with hubIn := dropHub t io src n a.hubIn }
  q.foldl (fun s e => s.freeEntry (.hub t io) e.circ s.arr.runAc) s
/-- The flits up to and including the first with last = 1; none while it has not come. -/
def upToLast : List StageEntry → Option (List Flit)
  | [] => none
  | e :: es => if e.flit.last then some [e.flit] else (upToLast es).map (e.flit :: ·)

/-! ## The verdict (R284, R286) -/

/-- Class-map word of a bank (Table 10.3). -/
def State.cmap (s : State) (v i : Nat) : Word := s.word .cmap v i
/-- argmax with the lowest index on ties. -/
def argmax (xs : List Int) : Nat :=
  ((List.range xs.length).foldl (fun (a : Nat × Int) k => let x := nth 0 xs k; if x > a.2 then (k, x) else a) (0, nth 0 xs 0)).1
/-- The score codes of a vector's flits; the codes of a short vector's missing flits are open.
(DEDUCED, log 32) -/
def State.scores (s : State) (fs : List Flit) (n : Nat) : List Int × State :=
  let have1 := ((fs.flatMap fun f => dataBytes f.data).map BitVec.toInt).take n
  if have1.length = n then (have1, s)
  else
    let m := n - have1.length
    let (x, s) := s.freshBelow (256 ^ m)
    (have1 ++ (bytesOf m x).map BitVec.toInt, s)

/-- A verdict. -/
structure Verdict where
  vint : Nat
  row : Nat
  col : Nat
  vc : Nat
  a : Nat
  score : Int
  scores : List Int
  ind : Bool
  defect : Bool
  trans : Bool
  gen : Nat
deriving DecidableEq, Repr

/-- Form the verdict class of a vector (R284): class, argmax, and whether the class map calls it a defect. -/
def State.classify (s : State) (v : Nat) (xs : List Int) : Nat × Nat × Bool :=
  let a := argmax xs
  let vc := bitsW (s.cmap v a) 0 4
  let vc := if nth 0 xs a < signed 8 (bitsW (s.cmap v (256 + vc)) 0 8) then bitsW (s.cmap v 272) 16 4 else vc
  (vc, a, bitW (s.cmap v 272) vc)

/-- Does patch row `r` span a switch of the job? (R193) -/
def State.spans (s : State) (r : Nat) : Bool :=
  let top := s.vrd.patchH * r
  s.vrd.switchLines.any fun l =>
    decide ((top : Int) - s.vrd.uLines ≤ (l : Int) - 1) && decide (l ≤ top + s.vrd.patchH - 1 + s.vrd.kLines)

/-- The band of a vector: the first at or after the last vector's with its tag. -/
def bandFrom (last tag : Nat) : Nat := last + (tag % 16 + 16 - last % 16) % 16
/-- Drop the generations that a band has passed (R285). -/
def dropGens (band : Nat) : List (Nat × Nat) → List (Nat × Nat)
  | g :: h :: gs => if h.1 ≤ band then dropGens band (h :: gs) else g :: h :: gs
  | gs => gs
/-- The Graft generation in force for a vector of a band: a commit applies from the first vector with its band's tag on, its completion
entry written or not. -/
def State.genAt (s : State) (band : Nat) : Nat × State :=
  let gs := dropGens band s.vrd.gens
  let s := s.mapVrd fun v => { v with gens := gs }
  let cur := match gs with | g :: _ => g.2 | [] => s.fget F.HUB_GRF_GEN_gen
  match s.grf.queue with
  | q :: _ =>
    if q.commit && (match q.armed with | some b => decide (b ≤ band) | none => false) && q.target == s.activeV then
      ((s.fget F.HUB_GRF_GEN_gen + 1) % 65536, s)
    else (cur, s)
  | [] => (cur, s)

/-! ## Records (R287, R288, R331) -/

/-- Bytes 1–7 of a record: flags, class, network class, score, device, generation. -/
def recHead (s : State) (x : Verdict) : List Byte :=
  let flags := (if x.defect then 2 else 0) + (if x.ind then 4 else 0) + (if x.trans then 8 else 0) + 16 * x.vint
  [BitVec.ofNat 8 flags, BitVec.ofNat 8 x.vc, BitVec.ofNat 8 x.a, BitVec.ofInt 8 x.score, BitVec.ofNat 8 (s.trl.dev % 64)] ++
    bytesOf 2 x.gen
/-- P_r: the stamped position of the row's top line (R274). -/
def State.rowPos (s : State) (r : Nat) : Nat := sget zeroN s.ing.posOf (s.vrd.patchH * r)
/-- Band of a patch row: that of its first job line. -/
def State.rowBand (s : State) (r : Nat) : Nat := s.bandOf (s.vrd.patchH * r)
/-- A patch-verdict record (Table 11.10). -/
def verdictRec (s : State) (x : Verdict) : List Byte :=
  [(0x10 : Byte)] ++ recHead s x ++ bytesOf 4 x.row ++ bytesOf 2 x.col ++ bytesOf 2 0 ++ bytesOf 6 (s.rowPos x.row) ++ bytesOf 2 0 ++
    bytesOf 4 (s.rowBand x.row) ++ bytesOf 4 s.job.number
/-- The highest score among network classes mapped to verdict class `c`. -/
def State.classMax (s : State) (x : Verdict) (c : Nat) : Int :=
  (List.range x.scores.length).foldl (fun m k =>
    if bitsW (s.cmap x.vint k) 0 4 = c then max m (nth 0 x.scores k) else m) (-128)
/-- A defect record (Table 11.11); `crop` is its crop byte. -/
def defectRec (s : State) (x : Verdict) (seq crop : Nat) : List Byte :=
  [(0x11 : Byte)] ++ recHead s x ++ bytesOf 4 seq ++ bytesOf 4 x.row ++ bytesOf 2 x.col ++ [BitVec.ofNat 8 crop] ++ bytesOf 1 0 ++
    bytesOf 6 (s.rowPos x.row) ++ bytesOf 2 0 ++ bytesOf 4 (s.rowBand x.row) ++ bytesOf 4 s.job.number ++
    ((List.range 16).map fun c => BitVec.ofInt 8 (s.classMax x c)) ++ bytesOf 12 0

/-- Bytes of region 3 for the verdict queue and for the defect queue; how the region divides is open.
(DESIGN CHOICE, log 31) -/
def State.recRoom (s : State) : Nat × Nat :=
  let n := s.regionSize 3
  let k := Nat.min n (Config.recSplit n)
  (k, n - k)
/-- A record dropped (R288). -/
def State.recDrop (s : State) : State := (s.note 0x0310).fcount F.VRD_RB_DROP_rec 1
/-- A crop not cut or dropped. -/
def State.cropDrop (s : State) (code : Nat) : State := (s.note code).fcount F.VRD_RB_DROP_crop 1

/-! ## Feature entries (R239, R240) -/

/-- A feature entry (Table 8.3).
(DEDUCED, log 39) -/
def featEntry (D seq line col flags label gen : Nat) (codes : List Byte) : List Byte :=
  let h := bytesOf 4 seq ++ bytesOf 4 line ++ bytesOf 2 col ++ bytesOf 1 flags ++ bytesOf 1 label ++ bytesOf 2 gen ++ bytesOf 18 0
  let c := (codes ++ List.replicate (D - codes.length) 0).take D
  h ++ c ++ List.replicate (pad32 D - D) 0

/-- The record builder makes the feature entry of a defect record, which waits for channel 4 (R240, R297); true when it was taken.
(DEDUCED, log 39) -/
def State.captureFeature (s : State) (x : Verdict) (seq : Nat) (f : Option (List Data × Bool)) : Bool × State :=
  if !s.fbit F.HUB_GRF_CTRL_capture || s.grf.bound.isNone then (false, s)
  else
    match f with
    | none => (false, s.grfDrop 1)
    | some (ds, poison) =>
      if !s.graftReach then (false, s.grfDrop 1)
      else
        let D := (gHdr s.grf.sect).D
        let flags := (if poison then 1 else 0) + (if x.trans then 2 else 0)
        let e := featEntry D seq (s.vrd.patchH * x.row) x.col flags 0 x.gen (ds.flatMap dataBytes)
        if s.grf.wait.length < 64 then (true, s.mapGrf fun g => { g with wait := g.wait ++ [e] }) else (false, s.grfDrop 1)

/-! ## What a verdict does -/

/-- Queue a patch-verdict record as vr_mode directs; mode 3 is not used by the spec and what it queues is open. -/
def State.queueVerdict (s : State) (x : Verdict) : State :=
  let m := s.fget (F.VRD_REC_V_vr_mode x.vint)
  let (want, s) :=
    if m = 0 then (true, s) else if m = 1 then (x.defect || x.ind || x.trans, s) else if m = 2 then (false, s)
    else let (y, s) := s.freshBelow 2; (y == 1, s)
  if !want then s
  else if s.recRoom.1 < 32 * (s.vrd.vq.length + 1) then s.recDrop
  else
    let r : RecSt := { seq := 0, bytes := verdictRec s x }
    s.mapVrd fun v => { v with vq := v.vq ++ [r] }

/-- Queue a defect record with its sequence number, its crop request and its feature entry.
(DEDUCED, log 33) -/
def State.queueDefect (s : State) (x : Verdict) (f : Option (List Data × Bool)) : State :=
  if !x.defect then s
  else
    let seq := s.vrd.seq
    let s := s.mapVrd fun v => { v with seq := (seq + 1) % 2 ^ 32 }
    let ask := s.fbit (F.VRD_REC_V_crop_en x.vint) && bitN (s.fget (F.VRD_REC_V_crop_mask x.vint)) x.vc
    let full := decide (64 ≤ s.vrd.reqs.length)
    let (wrote, s) := s.captureFeature x seq f
    let crop := (if ask then (if full then 2 else 1) else 0) + (if wrote then 4 else 0)
    let s := if !ask then s
      else if full then s.cropDrop 0x0321
      else s.mapVrd fun v => { v with reqs := v.reqs ++ [⟨seq, x.row, x.col, x.vint⟩] }
    if s.recRoom.2 < 64 * (s.vrd.dq.length + 1) then s.recDrop
    else
      let r : RecSt := { seq := seq, bytes := defectRec s x seq crop }
      s.mapVrd fun v => { v with dq := v.dq ++ [r] }

/-- Add to a verdict count of a band and to the job's total (R295). -/
def State.countItem (s : State) (band item : Nat) : State :=
  s.mapVrd fun v => { v with
    cnt := sset zeroN v.cnt (32 * band + item) (satAdd 32 (sget zeroN v.cnt (32 * band + item)) 1)
    total := setNth v.total item (satAdd 32 (nth 0 v.total item) 1) }
/-- Statistics of a verdict (R295). A patch row is verdicted once its last column's verdict is held (R194). -/
def State.countVerdict (s : State) (x : Verdict) : State :=
  let b := s.rowBand x.row
  let s := s.countItem b x.vc
  let s := if x.ind then s.countItem b 16 else s
  let s := if x.trans then s.countItem b 17 else s
  let whole := decide (x.col + 1 = s.vrd.nCol)
  s.mapJob fun j => { j with verdicts := j.verdicts + 1, indeterminate := j.indeterminate + (if x.ind then 1 else 0)
                             lastRow := if whole then x.row else j.lastRow }
/-- The last verdict of a band latches its counts. -/
def State.latchBand (s : State) (row col : Nat) : State :=
  let b := s.rowBand row
  if col + 1 = s.vrd.nCol ∧ s.rowBand (row + 1) ≠ b then
    s.mapVrd fun v => { v with last := (List.range 18).map fun i => sget zeroN v.cnt (32 * b + i),
                               cnt := v.cnt.filter fun x => x.1 / 32 != b }
  else s

/-- VERDICT_VECTOR (R283–R289, R193, R274): the aggregator takes the next vector of the circuit from `src` through IO tile `io` of
Terrace `t`.
(DEDUCED, log 32; DEDUCED, log 146) -/
def verdictVectorEff (s : State) (t io : Fin 4) (src : SrcRef) : State :=
  match upToLast (s.hubQueue t io src) with
  | none => s
  | some fs =>
    let tag := match fs with | f :: _ => f.tag | [] => 0
    let v := s.carryV tag
    let n := s.fget (F.VRD_REC_V_n_net_m1 v) + 1
    let bad := fs.length != cdiv n 32
    let s := s.takeHub t io src fs.length
    let s := if bad then s.note 0x0301 else s
    let band := bandFrom s.vrd.vecBand tag
    let s := s.mapVrd fun r => { r with vecBand := band }
    if 0 < s.vrd.warm then s.mapVrd fun r => { r with warm := r.warm - 1 }
    else
      let (xs, s) := s.scores fs n
      let (gen, s) := s.genAt band
      let (vc, a, dm) := s.classify v xs
      let ind := bad || fs.any Flit.poison
      let row := s.vrd.row
      let col := s.vrd.col
      let no := row * s.vrd.nCol + col
      let x : Verdict := { vint := v, row := row, col := col, vc := vc, a := a, score := nth 0 xs a, scores := xs, ind := ind,
                           defect := dm || (ind && s.fbit (F.VRD_REC_V_rec_ind v)), trans := s.spans row, gen := gen }
      let f := (s.vrd.feats.find? fun y => y.1 == no).map fun y => y.2
      let s := s.mapVrd fun r => { r with feats := r.feats.filter fun y => decide (no < y.1) }
      let s := ((s.queueVerdict x).queueDefect x f).countVerdict x
      let s := (s.markVerdict row col vc ind).latchBand row col
      s.mapVrd fun r => if col + 1 = r.nCol then { r with row := row + 1, col := 0 } else { r with col := col + 1 }

/-- VERDICT_VECTOR. -/
def execVerdictVector (t io : Fin 4) (src : SrcRef) (s : State) : Host.Outcome State Fault Refusal :=
  .next (verdictVectorEff s t io src)

/-- FEATURE_VECTOR (R289): flits_m1 + 1 flits of the feature tap circuit make the next vector. -/
def featureVectorEff (s : State) (t io : Fin 4) (src : SrcRef) : State :=
  let q := s.hubQueue t io src
  match q with
  | [] => s
  | e :: _ =>
    let v := s.carryV e.flit.tag
    let n := s.fget (F.VRD_TAP_V_flits_m1 v) + 1
    if !s.fbit (F.VRD_TAP_V_en v) || decide (q.length < n) then s
    else
      let fs := (q.take n).map StageEntry.flit
      let s := s.takeHub t io src n
      if 0 < s.vrd.featNo then s.mapVrd fun r => { r with featNo := r.featNo - 1 }
      else
        let no := s.vrd.vecNo
        let s := s.mapVrd fun r => { r with vecNo := no + 1 }
        if s.fget (F.VRD_TAP_V_depth v) ≤ s.vrd.feats.length then s.note 0x0312
        else s.mapVrd fun r => { r with feats := r.feats ++ [(no, fs.map Flit.data, fs.any Flit.poison)] }

/-- FEATURE_VECTOR. -/
def execFeatureVector (t io : Fin 4) (src : SrcRef) (s : State) : Host.Outcome State Fault Refusal :=
  .next (featureVectorEff s t io src)

/-! ## Crops (R290–R294) -/

/-- -128..127 to 0..255. -/
def zz (d : Int) : Nat := if 0 ≤ d then (2 * d).toNat else (-2 * d - 1).toNat
/-- Bits of a number, bit 0 first. -/
def bitList (n x : Nat) : List Bool := (List.range n).map (bitN x)
/-- Bytes from bits, bit 0 of each byte first, the last byte padded with zeros. -/
def packBits : Nat → List Bool → List Byte
  | 0, _ => []
  | n + 1, bs => if bs.isEmpty then []
    else BitVec.ofNat 8 (((List.range 8).map fun i => if nth false bs i then 2 ^ i else 0).foldl (· + ·) 0) :: packBits n (bs.drop 8)
/-- The zig-zag residuals of a row. -/
def residuals (above : Option Int) (xs : List Int) : List Nat :=
  (List.range xs.length).map fun i =>
    let p := if i = 0 then above.getD 0 else nth 0 xs (i - 1)
    zz (signed 8 (unsigned 8 (nth 0 xs i - p)))
/-- Bits of a row at Rice parameter `k`. -/
def riceBits (k : Nat) (zs : List Nat) : Nat := zs.foldl (fun n z => n + z / 2 ^ k + 1 + k) 0
/-- The parameter with the first smallest total; 8 is raw. -/
def riceBest (w : Nat) (zs : List Nat) : Nat :=
  ((List.range 8).foldl (fun (a : Nat × Nat) k => let n := riceBits k zs; if n < a.1 then (n, k) else a) (8 * w, 8)).2
/-- Pack one row of a plane (R292). -/
def packRow (above : Option Int) (xs : List Int) : List Byte :=
  let zs := residuals above xs
  let kb := riceBest xs.length zs
  let bits := if kb = 8 then xs.flatMap fun x => bitList 8 (unsigned 8 x)
    else zs.flatMap fun z => List.replicate (z / 2 ^ kb) true ++ [false] ++ bitList kb (z % 2 ^ kb)
  BitVec.ofNat 8 (if kb = 8 then 0x80 else kb) :: packBits (cdiv bits.length 8 + 1) bits
/-- Pack the rows of a plane. -/
def packPlane : Option Int → List (List Int) → List Byte
  | _, [] => []
  | above, r :: rs => packRow above r ++ packPlane (r.head?) rs

/-- Illumination phase of a job line. -/
def State.phaseOf (s : State) (j : Nat) : Nat := (j + s.fget F.RSH_CFG_phase) % (s.fget F.RSH_CFG_n_ill_m1 + 1)
/-- Planes the crops of a Vintage cut: enabled ones of the planes field. -/
def State.cropPlanes (s : State) (v : Nat) : List Nat := s.planes.filter (bitN (s.fget (F.VRD_CROP_V_planes v)))
/-- The line of a plane in the history. -/
def State.histAt (s : State) (p j : Nat) : Option HistLine := s.vrd.hist.find? fun h => h.plane == p && h.line == j

/-- The packed crop of a request whose rows are all in the history (R292, R293).
(DESIGN CHOICE, log 35) -/
def cropBytes (s : State) (q : CropReq) (top h : Nat) : List Byte × State :=
  let v := q.vint
  let w := s.fget (F.VRD_CROP_V_w_m1 v) + 1
  let x0 : Int := s.vrd.patchW * q.col + s.fget F.SLC_HALO_halo_l + s.fgetS (F.VRD_CROP_OFS_V_ox v)
  let lo := (clampI 0 s.sliceWidth x0).toNat
  let hi := (clampI 0 s.sliceWidth (x0 + w)).toNat
  let ps := s.cropPlanes v
  let linesOf (p : Nat) : List HistLine := (List.range h).filterMap fun i => s.histAt p (top + i)
  let rowsOf (p : Nat) : List (List Int) := (linesOf p).map fun l => ((l.codes.drop lo).take (hi - lo)).map (·.1)
  let packed := ps.map fun p => packPlane none (rowsOf p)
  let nr := ps.map fun p => (linesOf p).length
  let r0 := nth 0 nr 0
  let (rows, s) := if nr.all (· == r0) then (r0, s) else s.freshBelow 65536
  let subst := ps.any fun p => (linesOf p).any HistLine.subst
  let clip := decide (hi - lo < w)
  let len := 32 + 4 * ps.length + (packed.map List.length).foldl (· + ·) 0
  let mask := (ps.map (2 ^ ·)).foldl (· + ·) 0
  (bytesOf 4 q.seq ++ bytesOf 4 top ++ bytesOf 2 lo ++ bytesOf 2 (hi - lo) ++ bytesOf 2 rows ++ bytesOf 1 mask ++
    bytesOf 1 ((if subst then 1 else 0) + (if clip then 2 else 0)) ++ bytesOf 6 (sget zeroN s.ing.posOf top) ++ bytesOf 2 0 ++
    bytesOf 4 len ++ bytesOf 4 0 ++ packed.flatMap (fun b => bytesOf 4 b.length) ++ packed.flatten, s)

/-- Bytes of packed crops in region 4.
(DEDUCED, log 36) -/
def State.staged (s : State) : Nat :=
  (s.vrd.crops.map fun c => if c.pages.isNone then c.bytes.length else 0).foldl (· + ·) 0
/-- The defect record of a request not cut reports so, while it waits in region 3 (Table 11.11).
(DEDUCED, log 33; DEDUCED, log 34) -/
def State.cropAbsent (s : State) (seq : Nat) : State :=
  match (s.vrd.dq.reverse).find? fun r => r.seq == seq with
  | none => s
  | some old =>
    let b := (nth (0 : Byte) old.bytes 0x12).toNat
    let new : RecSt := { old with bytes := setNth old.bytes 0x12 (BitVec.ofNat 8 (b / 4 * 4 + 2)) }
    s.mapVrd fun v => { v with dq := v.dq.map fun r => if r == old then new else r }

/-- First job line of the rows of a crop request. -/
def State.cropTop (s : State) (q : CropReq) : Int := s.vrd.patchH * q.row + s.fgetS (F.VRD_CROP_OFS_V_oy q.vint)
/-- Rows of a crop request. -/
def State.cropH (s : State) (q : CropReq) : Nat := s.fget (F.VRD_CROP_V_h_m1 q.vint) + 1
/-- Has a row of a request left the history, or does one lie before job line 0? -/
def State.cropGone (s : State) (q : CropReq) : Bool :=
  let top := s.cropTop q
  let need := fun (p i : Nat) => s.phaseOf (top.toNat + i) == s.fget (F.RSH_PLANE_ill p)
  let ps := s.cropPlanes q.vint
  decide (top < 0) || (List.range (s.cropH q)).any fun i => decide (top.toNat + i < s.ing.nextStart) &&
    ps.any fun p => need p i && (s.histAt p (top.toNat + i)).isNone
/-- Does a request's crop wait for room in region 4? A crop that finds the region empty is taken whatever its size. -/
def State.cropBlocked (s : State) (q : CropReq) : Bool :=
  !s.cropGone q && decide ((s.cropTop q).toNat + s.cropH q ≤ s.ing.nextStart) && decide (s.staged ≠ 0) &&
    decide (s.regionSize 4 < s.staged + (cropBytes s q (s.cropTop q).toNat (s.cropH q)).1.length)

/-- CROP_CUT (R290–R294): the request at the head is served when its rows have arrived; a row that has left the history, or lies before
job line 0, leaves it uncut. A crop waits for room in region 4 unless that is empty.
(DEDUCED, log 34; DEDUCED, log 36) -/
def cropCutEff (s : State) : State :=
  match s.vrd.reqs with
  | [] => s
  | q :: qs =>
    if s.cropGone q then ((s.cropDrop 0x0320).cropAbsent q.seq).mapVrd fun r => { r with reqs := qs }
    else if s.ing.nextStart < (s.cropTop q).toNat + s.cropH q || s.cropBlocked q then s
    else
      let (bs, s') := cropBytes s q (s.cropTop q).toNat (s.cropH q)
      s'.mapVrd fun r => { r with reqs := qs, crops := r.crops ++ [{ seq := q.seq, bytes := bs, absent := 0, pages := none, sent := 0, wb := none }] }

/-- CROP_CUT. -/
def execCropCut (s : State) : Host.Outcome State Fault Refusal := .next (cropCutEff s)

/-! ## The crop store (R294, R342) -/

/-- Pages of the crop store. -/
def State.cropPages (s : State) : Nat := s.fget F.HRM_CROP_SIZE_pages
/-- Usable offset of page `p`. -/
def State.pageOff (s : State) (p : Nat) : Nat := (s.fget F.HRM_CROP_BASE_pages + p) * 4096
/-- Is a page usable: inside the installed memory and on no failed channel? -/
def State.pageOk (s : State) (p : Nat) : Bool := s.rangeGood (s.pageOff p) 4096
/-- Pages a stored crop of `n` bytes occupies from `p` on the circle. -/
def State.pagesOf (s : State) (p n : Nat) : List Nat := (List.range (cdiv n 4096)).map fun i => (p + i) % Nat.max s.cropPages 1
/-- Pages a crop occupies, written whole or in part. -/
def State.cropHas (s : State) (c : CropSt) : List Nat :=
  match c.pages, c.wb with
  | some (p, n), _ => s.pagesOf p n
  | none, some (p, _) => s.pagesOf p c.bytes.length
  | none, none => []
/-- Pages in use. -/
def State.usedPages (s : State) : List Nat := s.vrd.crops.flatMap s.cropHas
/-- The first run of free, usable pages for `n` bytes from the page that channel 3 fills next.
(DEDUCED, log 37) -/
def State.findPages (s : State) (n : Nat) : Option Nat :=
  let used := s.usedPages
  if s.cropPages < cdiv n 4096 then none
  else ((List.range s.cropPages).map fun i => (s.vrd.nextPage + i) % s.cropPages).find? fun p =>
    (s.pagesOf p n).all fun q => s.pageOk q && !used.contains q
/-- Internal address of byte `x` of a crop of `n` bytes stored from page `p`. -/
def State.cropAddr (s : State) (p n x : Nat) : Nat := hyperBase + s.pageOff (nth 0 (s.pagesOf p n) (x / 4096)) + x % 4096

/-- Is region 4 full: does the next crop find no room in it? -/
def State.cropFull (s : State) : Bool :=
  decide (s.regionSize 4 ≤ s.staged) || (match s.vrd.reqs with | q :: _ => s.cropBlocked q | [] => false)

/-- The crop that channel 3 moves: the one under way, else the oldest of region 4 when the region is full (R294). None moves while the cap
defers background traffic (R397). -/
def State.cropOut (s : State) : Option CropSt :=
  if s.pwr.deferBg then none
  else match s.vrd.crops.find? fun c => c.wb.isSome with
    | some c => some c
    | none => if s.cropFull then s.vrd.crops.find? fun c => c.pages.isNone && c.absent == 0 && c.sent == 0 else none
/-- The first page and the next byte of a crop on its way to the store; none when the store has no place for it. -/
def State.cropPlace (s : State) (c : CropSt) : Option (Nat × Nat) :=
  match c.wb with
  | some x => some x
  | none => (s.findPages c.bytes.length).map fun p => (p, 0)
/-- Replace a crop. -/
def State.putCrop (s : State) (c x : CropSt) : State := s.mapVrd fun v => { v with crops := v.crops.map fun y => if y == c then x else y }
/-- The crop store has no place for a crop: E-0324 when all its pages lie on failed channels, else E-0322. -/
def State.cropNoPlace (s : State) (c : CropSt) : State :=
  let allBad := decide (0 < s.cropPages) && (List.range s.cropPages).all fun p => !s.pageOk p
  let code := if allBad then 0x0324 else 0x0322
  (s.cropDrop code).putCrop c { c with bytes := [], absent := code }

/-- A held write of CROP_BASE or CROP_SIZE takes effect once the store holds no crop (R342). -/
def State.cropStoreFree (s : State) : State :=
  if s.vrd.crops.all fun c => c.pages.isNone && c.wb.isNone then
    let s := match s.hrm.heldBase with | some b => s.fset F.HRM_CROP_BASE_pages b | none => s
    let s := match s.hrm.heldSize with | some b => s.fset F.HRM_CROP_SIZE_pages b | none => s
    let s := if s.hrm.heldBase.isSome || s.hrm.heldSize.isSome then s.mapVrd fun v => { v with nextPage := 0 } else s
    s.mapHrm fun h => { h with heldBase := none, heldSize := none }
  else s

/-- CROP_STORE_WRITE (R342): a write of HRM.CROP_BASE (`size` false) or HRM.CROP_SIZE, held while the store holds crops.
(DEDUCED, log 37) -/
def cropStoreWriteEff (s : State) (size : Bool) (v : Word) : State :=
  let n := bitsW v 0 17
  (s.mapHrm fun h => if size then { h with heldSize := some n } else { h with heldBase := some n }).cropStoreFree


end Sys2Proof.Machine
end

