-- ==== Sys2Proof/Machine/StreamCtl.lean ====
section
/-!
DEFINITION. Machine/StreamCtl.lean: Stream-engine descriptors, arming, walks, pacing, fences and stops (10 R297–R305).
-/
namespace Sys2Proof.Machine

/-! ## Descriptor fields (Tables 10.4, 10.5) -/

/-- The number a descriptor's 64 bytes spell. -/
def descNat (d : DescW) : Nat := ofBytes (d.flatMap fun w => bytesOf 4 w.toNat)
/-- A field of a descriptor: `n` bytes at `o`. -/
def dF (d : DescW) (o n : Nat) : Nat := bitsN (descNat d) (8 * o) (8 * n)
/-- A field of the ctrl word. -/
def dC (d : DescW) (lo w : Nat) : Nat := bitsN (descNat d) lo w
/-- Is a ctrl bit set? -/
def dBit (d : DescW) (i : Nat) : Bool := bitN (descNat d) i
/-- A signed 32-bit step. -/
def dS (d : DescW) (o : Nat) : Int := signed 32 (dF d o 4)
/-- Bytes per run. -/
def dRun (d : DescW) : Nat := dF d 4 2 + 1
/-- The 40-bit source and destination addresses. -/
def dSrc (d : DescW) : Nat := dF d 0x10 5
def dDst (d : DescW) : Nat := dF d 0x18 5
/-- Address modulus. -/
def adr (x : Int) : Nat := (x % (2 ^ 40 : Nat)).toNat

/-! ## Address classes (Table 1.5) -/

/-- Host memory. -/
def isHost (a : Nat) : Bool := decide (0x8000000000 ≤ a)
/-- Remote devices. -/
def isRemote (a : Nat) : Bool := decide (0x4000000000 ≤ a) && decide (a < 0x8000000000)
/-- Register space. -/
def isRegs (a : Nat) : Bool := decide (0x800000000 ≤ a) && decide (a < 0x800100000)

/-! ## Stride programs (R300) -/

/-- Word `pc` of stride program `p`. -/
def State.sprog (s : State) (p pc : Nat) : Nat := (s.word .prog 0 (p * 16 + pc % 16)).toNat
/-- The words of a program up to its first END; none when it has none. -/
def State.sprogWords (s : State) (p : Nat) : Nat → Nat → Option (List Nat)
  | 0, _ => none
  | n + 1, pc =>
    let w := s.sprog p pc
    if bitsN w 28 4 = 5 then some [w] else (s.sprogWords p n (pc + 1)).map (w :: ·)
/-- LOOPs of a program: own pc, target, counter. -/
def loopsOf (ws : List Nat) : List (Nat × Nat × Nat) :=
  (List.range ws.length).filterMap fun pc =>
    let w := nth 0 ws pc
    if bitsN w 28 4 = 4 then some (pc, bitsN w 22 4, bitsN w 26 2) else none
/-- Is a stride program valid? A reserved counter number is outside its range. -/
def sprogOk (ws : List Nat) : Bool :=
  (ws.all fun w => decide (1 ≤ bitsN w 28 4) && decide (bitsN w 28 4 ≤ 5)) &&
    (loopsOf ws).all fun a => decide (a.2.1 ≤ a.1) && decide (a.2.2 < 3) &&
      (loopsOf ws).all fun b => !(decide (a.2.1 ≤ b.1) && decide (b.1 < a.1) && a.2.2 == b.2.2)

/-- Run the instructions before the next MOVE or END; `fuel` bounds them. -/
def stridePc (s : State) (p : Nat) : Nat → Walk → Walk
  | 0, w => { w with done := true }
  | fuel + 1, w =>
    if 16 ≤ w.pc then { w with done := true }
    else
      let i := s.sprog p w.pc
      match bitsN i 28 4 with
      | 1 => w
      | 2 => stridePc s p fuel { w with sa := adr (w.sa + signed 24 i), pc := w.pc + 1 }
      | 3 => stridePc s p fuel { w with da := adr (w.da + signed 24 i), pc := w.pc + 1 }
      | 4 =>
        let c := bitsN i 26 2
        let n := (nth none w.ctrs c).getD (bitsN i 0 16)
        if 0 < n then stridePc s p fuel { w with ctrs := setNth w.ctrs c (some (n - 1)), pc := bitsN i 22 4 }
        else stridePc s p fuel { w with ctrs := setNth w.ctrs c none, pc := w.pc + 1 }
      | _ => { w with done := true }

/-- Instructions a stride program can run between two moves: every LOOP may run out. -/
def strideFuel : Nat := 2 ^ 52
/-- Bytes of the MOVE a stride walk stands at. -/
def strideLen (s : State) (p : Nat) (w : Walk) : Nat := bitsN (s.sprog p w.pc) 0 16 + 1
/-- After a MOVE. -/
def strideNext (s : State) (p : Nat) (w : Walk) : Walk :=
  let n := strideLen s p w
  stridePc s p strideFuel { w with off := 0, sa := (w.sa + n) % 2 ^ 40, da := (w.da + n) % 2 ^ 40, pc := w.pc + 1 }
/-- Total bytes of a stride walk, and its lowest and highest destination byte. -/
def strideSum (s : State) (p : Nat) : Nat → Walk → Nat × Nat × Nat → Nat × Nat × Nat
  | 0, _, acc => acc
  | fuel + 1, w, (t, lo, hi) =>
    if w.done then (t, lo, hi)
    else
      let n := strideLen s p w
      strideSum s p fuel (strideNext s p w) (t + n, Nat.min lo w.da, Nat.max hi (w.da + n - 1))

/-! ## Walks (R299) -/

/-- Bytes of the run a walk stands in. -/
def State.runLen (s : State) (d : DescW) (w : Walk) : Nat := if dC d 0 2 = 1 then strideLen s (dC d 2 4) w else dRun d
/-- Source and destination of the run a walk stands in. -/
def runAt (d : DescW) (w : Walk) : Nat × Nat :=
  match dC d 0 2 with
  | 1 => (w.sa, w.da)
  | 2 =>
    let slot : Int := ((w.slot0 + w.i2) % (dF d 8 2 + 1) : Nat)
    let ring (base : Nat) (o : Nat) : Nat := adr (base + w.i0 * dS d o + slot * dS d (o + 4))
    let flat (base : Nat) (o : Nat) : Nat := adr (base + w.i0 * dS d o + w.i2 * dS d (o + 8))
    if dBit d 19 then (ring (dSrc d) 0x20, flat (dDst d) 0x2C) else (flat (dSrc d) 0x20, ring (dDst d) 0x2C)
  | _ =>
    (adr (dSrc d + w.i0 * dS d 0x20 + w.i1 * dS d 0x24 + w.i2 * dS d 0x28),
     adr (dDst d + w.i0 * dS d 0x2C + w.i1 * dS d 0x30 + w.i2 * dS d 0x34))
/-- The run after a finished one. -/
def State.nextRun (s : State) (d : DescW) (w : Walk) : Walk :=
  match dC d 0 2 with
  | 1 => strideNext s (dC d 2 4) w
  | 2 =>
    if w.i0 < dF d 6 2 then { w with off := 0, i0 := w.i0 + 1 }
    else if w.i2 < dF d 0x0A 2 then { w with off := 0, i0 := 0, i2 := w.i2 + 1 }
    else { w with off := 0, done := true }
  | _ =>
    if w.i0 < dF d 6 2 then { w with off := 0, i0 := w.i0 + 1 }
    else if w.i1 < dF d 8 2 then { w with off := 0, i0 := 0, i1 := w.i1 + 1 }
    else if w.i2 < dF d 0x0A 2 then { w with off := 0, i0 := 0, i1 := 0, i2 := w.i2 + 1 }
    else { w with off := 0, done := true }
/-- The walk after `n` bytes of its run. -/
def State.walkOn (s : State) (d : DescW) (w : Walk) (n : Nat) : Walk :=
  if w.off + n < s.runLen d w then { w with off := w.off + n } else s.nextRun d w
/-- The walk at the start of a descriptor (R298, R299). -/
def State.walkStart (s : State) (n : Nat) (d : DescW) : Walk :=
  match dC d 0 2 with
  | 1 => stridePc s (dC d 2 4) strideFuel { Walk.init with sa := dSrc d, da := dDst d }
  | 2 => { Walk.init with slot0 := if dBit d 19 then s.fget (F.STR_CH_RING_tail n) else s.fget (F.STR_CH_RING_head n) }
  | _ =>
    if dBit d 12 then { Walk.init with i0 := dF d 0x0C 2, i1 := dF d 0x0E 2, i2 := dF d 0x16 2, off := dF d 0x1E 2 } else Walk.init

/-- Bytes of a descriptor, and its lowest and highest destination byte. -/
def State.descSum (s : State) (d : DescW) (w : Walk) : Nat × Nat × Nat :=
  let n0 := dF d 6 2 + 1
  let n1 := dF d 8 2 + 1
  let n2 := dF d 0x0A 2 + 1
  let lohi (steps : List (Nat × Int)) : Nat × Nat :=
    let lo := steps.foldl (fun (a : Int) x => a + min 0 (((x.1 - 1 : Nat) : Int) * x.2)) (dDst d : Int)
    let hi := steps.foldl (fun (a : Int) x => a + max 0 (((x.1 - 1 : Nat) : Int) * x.2)) (dDst d + dRun d - 1 : Int)
    (lo.toNat, hi.toNat)
  match dC d 0 2 with
  | 1 => strideSum s (dC d 2 4) strideFuel w (0, 2 ^ 40, 0)
  | 2 =>
    let (lo, hi) := if dBit d 19 then lohi [(n0, dS d 0x2C), (n2, dS d 0x34)] else lohi [(n0, dS d 0x2C), (n1, dS d 0x30)]
    (dRun d * n0 * n2, lo, hi)
  | _ =>
    let (lo, hi) := lohi [(n0, dS d 0x2C), (n1, dS d 0x30), (n2, dS d 0x34)]
    (dRun d * (n0 * (n1 * n2 - w.i2 * n1 - w.i1) - w.i0) - w.off, lo, hi)

/-! ## Arming (R298) -/

/-- Does a shuffle divide a run? -/
def shufflesRun (d : DescW) (run : Nat) : Bool :=
  match dC d 20 2 with
  | 1 => run % 8 == 0
  | 2 => run % 2 ^ dC d 22 3 == 0
  | _ => true
/-- The code with which a descriptor is refused, 0 when it may be armed. -/
def State.descCode (s : State) (d : DescW) : Nat :=
  let mode := dC d 0 2
  let reserved := dC d 25 7 != 0 || dF d 0x15 1 != 0 || dF d 0x1D 1 != 0 || bitsN (descNat d) (8 * 0x38 + 40) 23 != 0
  let ranges := mode == 3 || dC d 20 2 == 3 || (mode == 2 && !(decide (2 ≤ dF d 8 2) && decide (dF d 8 2 ≤ 15)))
  let resume := dBit d 12 && (mode != 0 || decide (dF d 6 2 < dF d 0x0C 2) || decide (dF d 8 2 < dF d 0x0E 2) ||
    decide (dF d 0x0A 2 < dF d 0x16 2) || decide (dRun d ≤ dF d 0x1E 2))
  let ws := s.sprogWords (dC d 2 4) 16 0
  let runs := match mode, ws with
    | 1, some l => l.all fun w => bitsN w 28 4 != 1 || shufflesRun d (bitsN w 0 16 + 1)
    | 1, none => true
    | _, _ => shufflesRun d (dRun d)
  if reserved || ranges || resume || !runs then 0x0A01
  else if mode = 1 then (match ws with | some l => if sprogOk l then 0 else 0x0A05 | none => 0x0A05)
  else 0

/-- A channel's state. -/
def State.chan (s : State) (n : Nat) : ChanSt := nth ChanSt.init s.str.chans n
/-- Replace a channel's state. -/
def State.setChan (s : State) (n : Nat) (c : ChanSt) : State := s.mapStr fun x => { x with chans := setNth x.chans n c }

/-- The writes a descriptor armed now waits for (R303). -/
def State.fenceOf (s : State) (d : DescW) : List Nat := if dBit d 8 then s.str.writes.map HyperWr.no else []
/-- The next number in the order of arming (R303). -/
def State.nextArm (s : State) : State := s.mapStr fun x => { x with nextOrder := x.nextOrder + 1 }
/-- A descriptor armed as number `ord` becomes active on a channel, waiting for the writes of `fence`; no byte of it has been written.
(DEDUCED, log 129) -/
def State.activateDesc (s : State) (n : Nat) (d : DescW) (fence : List Nat) (ord : Nat) : State :=
  let c := s.chan n
  let w := s.walkStart n d
  let (total, lo, hi) := s.descSum d w
  (s.setChan n { c with
    active := some d, walk := w, moved := 0, total := total, reads := [], waitAll := [], barRead := 0, halfDone := false,
    halted := false, wrange := if inHyper lo || inHyper hi then some (lo, hi) else none, order := ord, fence := fence, lastDst := 0 }).setReg
    (R.STR_CH_BYTES n) 0

/-- The descriptor staged in a channel's registers. -/
def State.staged16 (s : State) (n : Nat) : DescW := (List.range 16).map fun w => s.reg (R.STR_CH_DESC n w)

/-- STREAM_GO (R298): arm the staged descriptor of a host channel, as active, as shadow, or not at all. A channel that R306 halted drops
its descriptor and keeps its shadow. -/
def streamGoEff (s : State) (n : Nat) : State :=
  let d := s.staged16 n
  let c := s.chan n
  let code := s.descCode d
  let ord := s.str.nextOrder
  if code ≠ 0 then s.strErr n code
  else if c.active.isNone || c.halted then (s.activateDesc n d (s.fenceOf d) ord).nextArm
  else if c.shadow.isNone then (s.setChan n { c with shadow := some d, shadowFence := s.fenceOf d, shadowOrder := ord }).nextArm
  else s.strErr n 0x0A03

/-- A channel goes idle. -/
def State.chanIdle (s : State) (n : Nat) : State :=
  s.setChan n { ChanSt.init with paused := (s.chan n).paused && (s.chan n).stop, order := (s.chan n).order }

/-- STREAM_STOP (R305): the shadow goes at the next boundary; a halted channel, and one whose fenced descriptor has not started, goes idle
at once. -/
def streamStopEff (s : State) (n : Nat) : State :=
  let c := s.chan n
  if c.active.isNone then s
  else if c.halted || (!c.fence.isEmpty && c.moved == 0 && c.reads.isEmpty) then s.setChan n { ChanSt.init with order := c.order }
  else s.setChan n { c with stop := true }


/-! ## Pacing (R301) -/

/-- The level of a pace object: a cask's count, or head − tail of a channel's ring. -/
def State.paceLevel (s : State) (a : Word) : Nat :=
  if bitsW a 0 2 = 1 then
    let l := bitsW a 2 16
    (s.cask (ofLoc l)).cnt
  else
    let m := bitsW a 2 4
    (s.fget (F.STR_CH_RING_head m) + 256 - s.fget (F.STR_CH_RING_tail m)) % 256
/-- A channel looks at its pace object at a burst boundary. -/
def State.pace (s : State) (n : Nat) (d : DescW) : State :=
  let c := s.chan n
  let p := dC d 14 4
  let a := s.reg (R.STR_PACE_A p)
  if !dBit d 13 || bitsW a 0 2 = 0 || bitsW a 0 2 = 3 then s.setChan n { c with paused := false }
  else
    let b := s.reg (R.STR_PACE_B p)
    let l := s.paceLevel a
    let lo := bitsW b 0 16
    let hi := bitsW b 16 16
    let paused := if dBit d 18 then (if l ≤ lo then true else if hi ≤ l then false else c.paused)
      else (if hi ≤ l then true else if l ≤ lo then false else c.paused)
    s.setChan n { c with paused := paused }

/-! ## Fences and completion (R303, R304) -/

/-- Raise the vector 16 + n of a host channel's event (R304, Table 11.5). -/
def State.chanVec (s : State) (n : Nat) : State := if 8 ≤ n then s.raiseVec (16 + n) else s

/-- Bytes of a channel's active descriptor have been delivered: the half event fires when they first reach half the total. -/
def State.delivered (s : State) (n k : Nat) : State :=
  let c := s.chan n
  let m := c.moved + k
  let s := s.setReg (R.STR_CH_BYTES n) (BitVec.ofNat 32 m)
  let hit := !c.halfDone && decide (cdiv c.total 2 ≤ m)
  let s := s.setChan n { c with moved := m, halfDone := c.halfDone || hit }
  match c.active with
  | some d => if hit && dBit d 10 then (s.fset (F.STR_CH_STATUS_half n) 1).chanVec n else s
  | none => s

/-- The state a channel shows in STR.CHn_STATUS. -/
def State.chanState (s : State) (n : Nat) : Nat :=
  let c := s.chan n
  match c.active with
  | none => 0
  | some d =>
    if c.halted then 5
    else if !c.fence.isEmpty then 3
    else if c.walk.done && c.reads.all ReadReq.barrier && dBit d 9 then 4
    else if c.paused then 2
    else 1

end Sys2Proof.Machine
end

