-- ==== Sys2Proof/Machine/HyperRam.lean ====
section
/-!
DEFINITION. Machine/HyperRam.lean: the HyperRAM controller's own events (12 R342–R349), and the deadlock detector's decant and refill
(05 R165–R170).
-/
namespace Sys2Proof.Machine

/-! ## The Blend store (R343) -/

/-- Mark a Blend slot invalid. -/
def State.slotInvalid (s : State) (i : Nat) : State := s.mapHrm fun h => { h with slots := setNth h.slots i SlotSt.init }
/-- Mark every slot invalid (R221). -/
def State.slotsInvalid (s : State) : State := (List.range 4).foldl (fun s i => s.slotInvalid i) s

/-- BSTORE_WRITE (R343): a write of HRM.BSTORE. -/
def bstoreWriteEff (s : State) (v : Word) : State := (s.setReg R.HRM_BSTORE (v &&& 0x007F01FF)).slotsInvalid

/-! ## Channels (R347–R349) -/

/-- Crops stored on a failed channel are reported absent (Table 12.4); one on its way there still stands in region 4 and starts again. -/
def State.cropsLost (s : State) (c code : Nat) : State :=
  s.vrd.crops.foldl (fun s x =>
    if (s.cropHas x).any fun q => s.meetsChan c (s.pageOff q) 4096 then
      if x.pages.isSome then (s.cropDrop code).putCrop x { x with bytes := [], absent := code, pages := none, sent := 0, wb := none }
      else s.putCrop x { x with wb := none }
    else s) s

/-- A channel fails (R347): E-0812, its cause, and what Table 12.4 says of its users. The first-error registers name no block for
E-0812, so the offset and source captured are open.
(DESIGN CHOICE, log 38) -/
def failChannel (s : State) (c cause : Nat) : State :=
  if s.chanFailed c || s.chanAt c == 0 then s
  else
    let (o, s) := s.freshBelow (2 ^ 32)
    let (src, s) := s.freshBelow 8
    let s := s.hrmErr 0x0812 c src o
    let s := (s.setHyper c 3).fset (F.HRM_CH_STATUS_cause c) cause
    let s := (List.range 4).foldl (fun s i => let (o, n) := s.slotPlace i; if s.meetsChan c o n then s.slotInvalid i else s) s
    let s := s.cropsLost c 0x0324
    -- Writes issued to the channel are not made (R348); nothing waits for them any longer.
    let gone := s.str.writes.filter fun w => s.chanOf (w.addr - hyperBase) == some c
    let s := s.mapStr fun x => { x with writes := x.writes.filter fun w => !gone.contains w }
    let s := (gone.foldl (fun s w => s.writeDone w.no) s).cropStoreFree
    if s.graftReach then s else s.featsDropped.pumpGraft 32

/-- Remove the entries of a map whose key lies in a range. -/
def dropRange {β : Type} (lo n : Nat) (m : SMap β) : SMap β := m.filter fun x => !(decide (lo ≤ x.1) && decide (x.1 < lo + n))
/-- Every block of a channel holds zero data with a valid code and poison 0. -/
def State.zeroChannel (s : State) (c : Nat) : State :=
  let lo := hyperBase + s.chanStart c
  let n := s.chanCap c
  { s with mem := dropRange lo n s.mem, poison := dropRange lo n s.poison, upset := dropRange lo n s.upset }
/-- HYPERRAM_INIT_DONE (R349): a channel that initialises has written every block and reports ready. -/
def hyperramInitDoneEff (s : State) (c : Nat) : State :=
  if s.chanInit c then ((s.zeroChannel c).setHyper c 2).pumpGraft 32 else s

/-! ## Scrub (R346) -/

/-- The last block of the last ready channel, with which a scrub pass ends. -/
def State.lastBlock (s : State) : Option Nat :=
  ((List.range 4).filter fun c => s.chanReady c && decide (0 < s.chanCap c)).getLast?.map fun c => s.chanStart c + s.chanCap c - 32

/-- Write a block's data back with a valid code. -/
def rewriteBlock (s : State) (a : Nat) (bs : List Byte) (poison : Bool) : State := ((s.putBytes a bs).setPoison a poison).setUpset a 0

/-- HYPERRAM_SCRUB: the block at usable offset `off`, on which `hits` have struck. -/
def hyperramScrubEff (s : State) (off : Nat) (hits : List Upset) : State :=
  let o := off / 32 * 32
  let s := (s.strike hits).inOrder (hyperBase + o) 32
  match s.chanOf o with
  | none => s
  | some c =>
    if !(s.fbit F.HRM_CTRL_scrub_en && s.chanReady c && !s.pwr.deferBg) then s
    else
      let a := hyperBase + o
      let bs := s.bytesAt a 32
      let s' := match if s.upsetAt a = 0 then RsOut.good 0 else rsDecode 36 (s.upsetAt a) with
        | .good r => if bitsN r 257 7 ≠ 0 then s.hrmErr 0x0811 c 1 o else s
        | .corrected r =>
          let s := s.fcount (F.HRM_CH_ERR_corr c) 1
          if bitsN r 257 7 ≠ 0 then (s.hrmErr 0x0811 c 1 o).setUpset a r else rewriteBlock s a (xorBytes bs r) (s.poisoned a != bitN r 256)
        | .bad => rewriteBlock ((s.fcount (F.HRM_CH_ERR_uncorr c) 1).hrmErr 0x0810 c 1 o) a (xorBytes bs (s.upsetAt a)) true
      if s.lastBlock == some o then s'.fset F.HRM_SCRUB_passes ((s'.fget F.HRM_SCRUB_passes + 1) % 65536) else s'

/-- HYPERRAM_SCRUB. -/
def execHyperramScrub (off : Nat) (hits : List Upset) (s : State) : Host.Outcome State Fault Refusal := .next (hyperramScrubEff s off hits)
/-- HYPERRAM_SCRUB_LATE: E-0813, and HRM.SCRUB.late. -/
def execHyperramScrubLate (s : State) : Host.Outcome State Fault Refusal :=
  .next (if s.fbit F.HRM_CTRL_scrub_en then (s.note 0x0813).fset F.HRM_SCRUB_late 1 else s)

/-! ## Decant (R166–R170) -/

/-- A word of a cycle entry of the active Vintage (Table 5.7). -/
def State.cycWord (s : State) (i w : Nat) : Word := s.word .cycle s.activeV (i * 8 + w)
/-- The designated cask of a cycle. -/
def State.cycCask (s : State) (i : Nat) : CaskRef := ofLoc (bitsW (s.cycWord i 0) 0 16)
/-- Ring base as a usable offset, and its groups. -/
def State.cycRing (s : State) (i : Nat) : Nat × Nat := ((s.cycWord i 5).toNat, bitsW (s.cycWord i 6) 0 16)
/-- A spill side record (Table 5.8). -/
def spillRec (x : SideRec) (poison : Bool) : Nat :=
  1 + (if poison then 2 else 0) + 4 * (x.tag % 16) + (if x.last then 64 else 0) + (if x.evLine then 128 else 0) +
    (if x.evBand then 256 else 0) + (if x.smk then 512 else 0)
/-- The next word of a ring at or after position `p`: groups left in part have their rest unused. -/
def ringWord (s : State) (base size : Nat) : Nat → Nat → Option (Nat × Flit × State)
  | 0, _ => none
  | fuel + 1, p =>
    let g := hyperBase + base + 288 * (p / 8 % size)
    let (rb, rp, s) := readHyper s (g + 2 * (p % 8)) 2 2
    let r := ofBytes rb
    if bitN r 0 || rp then
      let (db, dp, s) := readHyper s (g + 32 * (1 + p % 8)) 32 2
      let f : Flit := { data := dataOf db, poison := bitN r 1 || dp || rp, tag := bitsN r 2 4, last := bitN r 6, evLine := bitN r 7,
                        evBand := bitN r 8, smk := bitN r 9 }
      some (p, f, s)
    else ringWord s base size fuel ((p / 8 + 1) * 8 % (8 * size))
/-- Read the head word of a cask's region for the ring, with its side record, checking parity (R156). -/
def caskHead (s : State) (c : CaskRef) (x : SideRec) : Nat × List Byte × Bool × State :=
  let (d, mp, s) := readWord s (s.caskAddr c (s.cask c).rp)
  let bad := parityOf d x.poison x.last x.evLine x.evBand x.smk x.tag != x.parity
  let s := if bad then (s.fcount (F.MM_CASK_PERR_count (tb (caskTile c))) 1).caskFault c 0x0602 else s
  let p := x.poison || mp || bad
  (spillRec x p, dataBytes d, p, s)

/-- Write a word at position `p` of a ring: its side record and its data; the first word of a group clears the group's records (R170). -/
def ringPut (s : State) (base p rec1 : Nat) (bs : List Byte) (poison : Bool) : State :=
  let g := hyperBase + base + 288 * (p / 8)
  let s := s.inOrder g 288
  let s := if p % 8 = 0 then writeHyper s g (bytesOf 2 rec1 ++ List.replicate 30 0) false 2
    else writeHyper s (g + 2 * (p % 8)) (bytesOf 2 rec1) false 2
  writeHyper s (g + 32 * (1 + p % 8)) bs poison 2

/-- A decant finds its ring without room or on a failed channel: no word moves, and the job ends with E-0622 (R169, Table 12.4). -/
def State.decantFail (s : State) : State := (s.fset F.HUB_DLD_STATUS_fail 1).endJobNow 0x0622
/-- A word of a decant leaves the region: it joins the ring's tail, its entry frees and its credit goes (R167). A ring whose channel has
failed since takes no word: the decant stops there.
(DEDUCED, log 24; DESIGN CHOICE, log 209) -/
def State.decantWord (s : State) (c : CaskRef) : State :=
  match (s.cask c).side with
  | [] => s.setCask c { s.cask c with decant := 0, moving := false }
  | x :: xs =>
    if !s.rangeGood (s.cask c).ringBase (288 * (s.cask c).ringSize) then
      (s.setCask c { s.cask c with decant := 0, moving := false }).decantFail
    else
    let (rec1, bs, p, s) := caskHead s c x
    let k := s.cask c
    let s := ringPut s k.ringBase k.ringTail rec1 bs p
    let bound := s.caskBound c
    ((s.setCask c { k with rp := nextPtr bound k.rp, cnt := k.cnt - 1, rp2 := nextPtr bound k.rp2, cnt2 := k.cnt2 - 1, side := xs,
                           wrPeriod := k.wrPeriod.drop 1, ringTail := (k.ringTail + 1) % (8 * k.ringSize),
                           ringWords := k.ringWords + 1, decant := k.decant - 1, moving := false }).freeEntry
      (.cask c) x.circ s.arr.runAc).moved c

/-- Is the maintenance path of a Terrace free? -/
def State.pathFree (s : State) (t : Nat) : Bool :=
  s.arr.casks.all fun x => x.1 / 1152 != t || decide (x.2.pathBusy ≤ s.arr.runAc)
/-- The next word of a decant takes the maintenance path for 4 ac when it is free (R168). -/
def State.decantStart (s : State) (c : CaskRef) : State :=
  let k := s.cask c
  if 0 < k.decant && !k.moving && s.pathFree c.t then s.setCask c { k with moving := true, pathBusy := s.arr.runAc + 4 } else s

/-- The cask of a cask number. -/
def caskOfKey (n : Nat) : CaskRef := ⟨Fin.ofNat 4 (n / 1152), Fin.ofNat 9 (n / 128), Fin.ofNat 8 (n / 16), Fin.ofNat 16 n⟩
/-- A word of a refill has come over the maintenance path: it joins the refill buffer and leaves the ring (R168). -/
def State.refillWord (s : State) (c : CaskRef) : State :=
  let s := s.setCask c { s.cask c with filling := false }
  let k := s.cask c
  let s := s.inOrder (hyperBase + k.ringBase) (288 * k.ringSize)
  if !s.rangeGood k.ringBase (288 * k.ringSize) then s
  else match ringWord s k.ringBase k.ringSize (k.ringSize + 1) k.ringHead with
    | none => s
    | some (p, f, s) =>
      (s.setCask c { k with refill := k.refill ++ [f], ringHead := (p + 1) % (8 * k.ringSize), ringWords := k.ringWords - 1 }).moved c
/-- The word on a maintenance path waits there for a channel that initialises (R349). -/
def State.pathOn (s : State) (c : CaskRef) : State := s.setCask c { s.cask c with pathBusy := s.arr.runAc + 1 }
/-- The words on the maintenance paths in a run ac: one whose 4 ac are over arrives, and the next one of a decant takes the path
(R167, R168). -/
def State.decantTick (s : State) : State :=
  s.arr.casks.foldl (fun s x =>
    let c := caskOfKey x.1
    let due := decide (x.2.pathBusy ≤ s.arr.runAc)
    if due && (x.2.filling || x.2.moving) && s.waitsInit (hyperBase + x.2.ringBase) (288 * x.2.ringSize) then s.pathOn c
    else
      let s := if x.2.filling && due then s.refillWord c else s
      if x.2.decant = 0 then s
      else
        let s := if x.2.moving && due then s.decantWord c else s
        s.decantStart c) s

/-- Groups of a cask's ring from that of the next word to the tail's; 0 with no words (R170). -/
def State.groupsUsed (s : State) (k : CaskSt) : Nat :=
  if k.ringWords = 0 then 0
  else
    let head := match ringWord s k.ringBase k.ringSize (k.ringSize + 1) k.ringHead with | some (p, _) => p | none => k.ringHead
    let u := (cdiv k.ringTail 8 + k.ringSize - head / 8) % k.ringSize
    if u = 0 then k.ringSize else u

/-- The ring a decant of a cycle's designated cask writes: the one its words already stand in, or the cycle entry's (R168, R169). -/
def State.decantRing (s : State) (cyc : Nat) : Nat × Nat :=
  let k := s.cask (s.cycCask cyc)
  if k.spilled then (k.ringBase, k.ringSize) else s.cycRing cyc
/-- Has the ring room for all the words a cask holds, on channels that have not failed? (R169) -/
def State.decantRoom (s : State) (cyc : Nat) : Bool :=
  let k := s.cask (s.cycCask cyc)
  let (base, size) := s.decantRing cyc
  decide (s.groupsUsed k + cdiv k.cnt 8 ≤ size) && s.rangeGood base (288 * size)

/-- DECANT: cycle `cyc` has waited 4,096 run ac without movement; the words of its designated cask begin to move to its spill ring
(R166, R167). A cycle whose designated cask decants already moves (R166).
(DEDUCED, log 24; DESIGN CHOICE, log 200) -/
def decantEff (s : State) (cyc : Nat) : State :=
  if !(s.elastic && s.arrayRuns && decide (4096 ≤ (sget (fun _ => ⟨0, false⟩) s.arr.cycles cyc).wait) && bitsW (s.cycWord cyc 0) 16 4 != 0 &&
      (s.cask (s.cycCask cyc)).decant == 0) then s
  else
    let c := s.cycCask cyc
    let k := s.cask c
    let (base, size) := s.decantRing cyc
    let room := s.decantRoom cyc
    let s := s.addElast 1
    if !room then s.decantFail
    else
      let g := cdiv k.ringTail 8 * 8 % (8 * size)
      let s := (s.setCask c { k with decant := k.cnt, moving := false, ringBase := base, ringSize := size, ringTail := g,
                                     ringHead := if k.spilled then k.ringHead else g }).decantStart c
      let s := s.fset F.HUB_DLD_STATUS_last_cycle cyc
      let s := (s.fset F.HUB_DLD_STATUS_valid 1).fcount F.HUB_DLD_COUNT_decants 1
      s.mapArr fun a => { a with cycles := sset (fun _ => ⟨0, false⟩) a.cycles cyc ⟨0, false⟩ }

/-- DECANT. -/
def execDecant (cyc : Fin 32) (s : State) : Host.Outcome State Fault Refusal := .next (decantEff s cyc)

/-! ## Refill (R168) -/

/-- Does a cask of a Terrace decant? Decants go first on the path (R168). -/
def State.decanting (s : State) (t : Nat) : Bool := s.arr.casks.any fun x => x.1 / 1152 == t && decide (0 < x.2.decant)
/-- Can a word go from a cask's ring to its refill buffer now? A ring on a failed channel yields none. -/
def State.canRefill (s : State) (c : CaskRef) : Bool :=
  let k := s.cask c
  s.arrayRuns && decide (0 < k.ringWords) && !k.filling && decide (k.refill.length < 16) && s.pathFree c.t && !s.decanting c.t &&
    s.rangeGood k.ringBase (288 * k.ringSize)
/-- REFILL: the word at the head of a spilled cask's ring takes the maintenance path for 4 ac to the refill buffer. -/
def refillEff (s : State) (c : CaskRef) : State :=
  if s.canRefill c then s.setCask c { s.cask c with filling := true, pathBusy := s.arr.runAc + 4 } else s

/-- REFILL. -/
def execRefill (c : CaskRef) (s : State) : Host.Outcome State Fault Refusal := .next (refillEff s c)

end Sys2Proof.Machine
end

