-- ==== Sys2Proof/Machine/Power.lean ====
section
/-!
DEFINITION. Machine/Power.lean: telemetry, the cap governor, thermal control, droop settles, the frequency window, Loam load and
hints (14 R387–R408).
-/
namespace Sys2Proof.Machine

/-! ## The governor -/

/-- Is a change of bin decided and not yet in force? (R398: the governor takes fresh samples after it) -/
def State.changePending (s : State) : Bool :=
  s.pwr.window.isSome || !s.pwr.armed.isEmpty || s.pwr.deferred ||
    (if s.systemJob then s.trl.anns.any fun a => a.1 == s.trl.dev && decide (s.curBand < a.2.1) else s.wanted != s.binNow)

/-- Is a change armed or announced, or does its window run (PWR.FREQ_STATUS.pending)?
(DEDUCED, log 152) -/
def State.changeArmed (s : State) : Bool :=
  s.pwr.window.isSome || !s.pwr.armed.isEmpty || (s.systemJob && s.trl.anns.any fun a => a.1 == s.trl.dev && decide (s.curBand < a.2.1))

/-- The level in force (PWR.GOV). -/
def State.govLevel (s : State) : Nat :=
  if s.pwr.fallback then 3 else if s.pwr.bCap < s.fTop then 2 else if s.pwr.deferBg then 1 else 0

/-- Refresh PWR.GOV and PWR.FREQ_STATUS.wanted. -/
def State.govShow (s : State) : State :=
  let s := (s.fset F.PWR_GOV_level s.govLevel).fset F.PWR_GOV_b_cap s.pwr.bCap
  (s.fset F.PWR_GOV_b_therm s.pwr.bTherm).fset F.PWR_FREQ_STATUS_wanted s.wanted

/-- Has a regulator been silent for 10 samples? (R390) -/
def State.silentReg (s : State) : Bool := s.pwr.silent.any fun n => decide (10 ≤ n)

/-- The cap is not met and no step is left: E-0B05 and the event, once until the cap is met again (R399). -/
def State.capUnmet (s : State) : State :=
  if s.pwr.unmet then s else ((s.pwrErr 0x0B05).pwrEvent 5).mapPwr fun p => { p with unmet := true }

/-- Enter the fall-back Vintage (R399). -/
def State.enterFallback (s : State) : State :=
  if s.inSystem || !s.fbit F.PWR_FALLBACK_en || s.pwr.fallback then s.capUnmet
  else
    let s := s.mapPwr fun p => { p with fresh := [] }
    let v := s.fget F.PWR_FALLBACK_vintage
    if s.switchCode v false 0 ≠ 0 then switchTake s govTag false v false 0
    else (switchTake (s.mapPwr fun p => { p with fallback := true }) govTag false v false 0).pwrEvent 6

/-- P8 lies above the cap: the first step not already taken (R398). -/
def State.capStep (s : State) : State :=
  let old := s.wanted
  if !s.pwr.deferBg then s.mapPwr fun p => { p with deferBg := true, fresh := [] }
  else if s.floorBin < s.pwr.bCap then (s.mapPwr fun p => { p with bCap := p.bCap - 1, fresh := [] }).wantedMoved old
  else s.enterFallback

/-- P8 has lain under the cap by the hysteresis for 16 samples: one step is undone (R398, R390). -/
def State.capUndo (s : State) : State :=
  let old := s.wanted
  if s.pwr.bCap < s.fTop then
    if s.silentReg then s
    else (s.mapPwr fun p => { p with bCap := p.bCap + 1, fresh := [], lowRun := 0, unmet := false }).wantedMoved old
  else if s.pwr.deferBg then (s.mapPwr fun p => { p with deferBg := false, fresh := [], lowRun := 0, unmet := false })
  else s

/-- The cap decision at a sample (R397, R398): the sums of eight samples in µW are compared, so no division rounds. -/
def State.capDecide (s : State) : State :=
  if s.pwr.fresh.length < 8 then s.mapPwr fun p => { p with lowRun := 0 }
  else
    let sum := (s.pwr.fresh.take 8).foldl (· + ·) 0
    let unit := 8 * 250000
    let s := s.fset F.PWR_GOV_p8 (sum / 8 / 10000)
    if s.fget F.PWR_CAP_cap * unit < sum then (s.mapPwr fun p => { p with lowRun := 0 }).capStep
    else if sum + s.fget F.PWR_CAP_hyst * unit ≤ s.fget F.PWR_CAP_cap * unit then
      let s := s.mapPwr fun p => { p with lowRun := p.lowRun + 1 }
      if 16 ≤ s.pwr.lowRun then s.capUndo else s
    else s.mapPwr fun p => { p with lowRun := 0 }

/-- One regulator's answer at a sample (R387, R390).
(PRESUMED, log 47) -/
def State.regAnswer (s : State) (k : Nat) (a : RegAnswer) : State :=
  if !s.fbit (F.PWR_REG_present k) then s
  else
    match a with
    | some x => s.mapPwr fun p => { p with tel := setNth p.tel k x, silent := setNth p.silent k 0 }
    | none =>
      let n := nth 0 s.pwr.silent k + 1
      let s := s.mapPwr fun p => { p with silent := setNth p.silent k n }
      if n = 10 then (s.pwrErr 0x0B07).pwrEvent 7 else s

/-- The sample power in µW: mV × mA over the listed regulators, each at its last valid reading.
(DEDUCED, log 43) -/
def State.samplePower (s : State) : Nat :=
  ((List.range 8).map fun k =>
    if s.fbit (F.PWR_REG_present k) then let x := nth (0, 0) s.pwr.tel k; x.1 * x.2 else 0).foldl (· + ·) 0

/-- Does the job energy still count: from the completion of START_JOB to the writing of the job-end entry (R389)? -/
def State.jobEnergyOn (s : State) : Bool := (s.job.running && !s.job.filling) || s.cp.comps.any fun c => c.kind == 2

/-- TELEMETRY_SAMPLE (R387, R389, R390, R398, R399).
(PRESUMED, log 47) -/
def telemetrySampleEff (s : State) (ans : List RegAnswer) : State :=
  let s := (List.range 8).foldl (fun s k => s.regAnswer k (nth none ans k)) s
  let P := s.samplePower
  let s := s.mapPwr fun p => { p with energy := p.energy + P, jobNj := if s.jobEnergyOn then p.jobNj + P else p.jobNj }
  let s := s.mapJob fun j => { j with energyUj := s.pwr.jobNj / 1000 }
  let s := if s.changePending then s.mapPwr fun p => { p with fresh := [] }
    else s.mapPwr fun p => { p with fresh := (P :: p.fresh).take 8 }
  s.capDecide.govShow




/-! ## Thermal control -/

/-- The highest of a list of readings. -/
def maxI : List Int → Option Int
  | [] => none
  | x :: xs => some (xs.foldl max x)

/-- b_therm falls by one bin, not below the floor.
(DEDUCED, log 42) -/
def State.thermDown (s : State) : State :=
  let old := s.wanted
  if s.floorBin < s.pwr.bTherm then
    (s.mapPwr fun p => { p with bTherm := p.bTherm - 1, thFresh := 0, thLow := 0 }).wantedMoved old
  else s.mapPwr fun p => { p with thFresh := 0 }

/-- Throttling starts: the event, once per start (R404). -/
def State.throttleOn (s : State) : State :=
  if s.pwr.throttling then s else (s.mapPwr fun p => { p with throttling := true }).pwrEvent 2

/-- The thermal decision for T in 0.25 °C (R404, R405).
(DEDUCED, log 41) -/
def State.thermDecide (s : State) (T : Int) : State :=
  let target : Int := s.fget F.PWR_THERM_target
  let s := if s.changePending then s.mapPwr fun p => { p with thFresh := 0 } else s.mapPwr fun p => { p with thFresh := p.thFresh + 1 }
  let s := s.mapPwr fun p => { p with thLow := if T < target - 12 then p.thLow + 1 else 0 }
  if 420 ≤ T then
    let s := if s.pwr.hot then s else ((s.mapPwr fun p => { p with hot := true }).pwrErr 0x0B08).pwrEvent 3
    s.throttleOn.thermDown
  else
    let s := s.mapPwr fun p => { p with hot := false }
    if target < T then (if 8 ≤ s.pwr.thFresh then s.throttleOn.thermDown else s)
    else if 16 ≤ s.pwr.thLow ∧ s.pwr.bTherm < s.fTop ∧ s.silentReg = false then
      let old := s.wanted
      let s := s.mapPwr fun p => { p with bTherm := p.bTherm + 1, thLow := 0, thFresh := 0 }
      (s.mapPwr fun p => { p with throttling := p.throttling && decide (p.bTherm < s.fTop) }).wantedMoved old
    else s

/-- THERMAL_SAMPLE: the sensors' readings in 0.25 °C; T is the highest of the last ten samples (14.7).
(DEDUCED, log 41; DEDUCED, log 46; DESIGN CHOICE, log 161) -/
def thermalSampleEff (s : State) (readings : List Int) : State :=
  match maxI readings with
  | none => s
  | some x =>
    let temps := (x :: s.pwr.temps).take 10
    let T := (maxI temps).getD x
    let s := s.mapPwr fun p => { p with temps := temps, sensors := readings }
    let s := s.fset F.PWR_TEMP_t (unsigned 16 T)
    let s := if s.fgetS F.PWR_TEMP_t_peak < T then s.fset F.PWR_TEMP_t_peak (unsigned 16 T) else s
    (s.thermDecide T).govShow


/-- THERMAL_TRIP (R406, R277): clocks stop, the job ends at once, markers go safe and lose their events. -/
def thermalTripEff (s : State) : State :=
  let s := (s.pwrErr 0x0B09).pwrEvent 4
  let s := (s.endJobNow 0x0B09).clearMarkers
  (s.mapArr fun a => { a with clocked := false }).mapPwr fun p => { p with tripped := true }

/-- THERMAL_TRIP. -/
def execThermalTrip (s : State) : Host.Outcome State Fault Refusal := .next (thermalTripEff s)

/-! ## Droop (R401, R402) -/

/-- Is a VDD_T below its warning level? -/
def State.terLow (s : State) : Bool := (s.pwr.low.take 4).any id

/-- SUPPLY_WARNING: a supply falls below its `State.warnLevel`: a VDD_T starts a settle, or keeps the running one going; a dip of VDD_HUB
is only counted.
(DEDUCED, log 45; DESIGN CHOICE, log 161) -/
def supplyWarningEff (s : State) (k : Supply) : State :=
  if nth false s.pwr.low k then s
  else
    let s := s.mapPwr fun p => { p with low := setNth p.low k true }
    if k = 4 then (s.fcount F.PWR_DROOP_CNT_count 1).pwrEvent 0
    else if s.pwr.settle then s.mapPwr fun p => { p with tail := 0 }
    else
      let s := (s.mapPwr fun p => { p with settle := true, tail := 0 }).fset F.HUB_HOLD_STATUS_settle 1
      (s.fcount F.PWR_DROOP_CNT_count 1).pwrEvent 0

/-- SUPPLY_WARNING. -/
def execSupplyWarning (k : Supply) (s : State) : Host.Outcome State Fault Refusal := .next (supplyWarningEff s k)

/-- SUPPLY_RECOVERY: the last VDD_T above its warning level starts the tail of 256 periods. -/
def supplyRecoveryEff (s : State) (k : Supply) : State :=
  if !nth false s.pwr.low k then s
  else
    let s := s.mapPwr fun p => { p with low := setNth p.low k false }
    if s.pwr.settle && !s.terLow then s.mapPwr fun p => { p with tail := 256 } else s

/-- SUPPLY_RECOVERY. -/
def execSupplyRecovery (k : Supply) (s : State) : Host.Outcome State Fault Refusal := .next (supplyRecoveryEff s k)

/-- SETTLE_END: every supply has recovered and the tail has run. -/
def settleEndEff (s : State) : State :=
  if s.pwr.settle && !s.terLow && s.pwr.tail == 0 then
    (s.mapPwr fun p => { p with settle := false, sinceSettle := 0 }).fset F.HUB_HOLD_STATUS_settle 0
  else s

/-- SETTLE_END. -/
def execSettleEnd (s : State) : Host.Outcome State Fault Refusal := .next (settleEndEff s)

/-- The 256 periods after a settle have run: what was deferred is acted on (R396). -/
def State.deferredAct (s : State) : State :=
  if !s.pwr.deferred then s
  else
    let s := s.mapPwr fun p => { p with deferred := false }
    if s.systemJob then s.announce
    else if s.job.running then s
    else if s.wanted = s.binNow then s
    else s.openWindow s.wanted

/-! ## Frequency (R392–R395) -/

/-- FREQUENCY_CHANGE (R395): 64 settle-free periods of the window have run; the clock takes its new period. -/
def frequencyChangeEff (s : State) : State :=
  match s.pwr.window with
  | some (0, bin) =>
    let s := (s.fset F.PWR_FREQ_STATUS_bin bin).fset F.HUB_HOLD_STATUS_freq 0
    ((s.mapPwr fun p => { p with window := none, fresh := [], thFresh := 0 }).setVolts).govShow
  | _ => s

/-- FREQUENCY_CHANGE. -/
def execFrequencyChange (s : State) : Host.Outcome State Fault Refusal := .next (frequencyChangeEff s)

/-- The code with which a write of PWR.FREQ is refused, 0 when it is taken (R392). -/
def State.freqCode (s : State) (v : Word) : Nat :=
  if bitW v 16 && s.inSystem then 0x0B02
  else if bitsW v 0 5 > 20 || bitsW v 8 5 > 26 then 0x0B01
  else if (match s.lowBin with | some b => decide (b < fTopOf v) | none => false) then 0x0B01
  else if fTopOf v < s.floorBin then 0x0B01
  else 0

/-- A bin limit that stood at the old f_top follows it; a lower one stays, but never above the new f_top.
(DEDUCED, log 44) -/
def followTop (old new b : Nat) : Nat := if b = old then new else Nat.min b new

/-- FREQ_WRITE (R392). -/
def freqWriteEff (s : State) (v : Word) : State :=
  if s.freqCode v ≠ 0 then s.pwrErr (s.freqCode v)
  else
    let old := s.wanted
    let top := s.fTop
    let s := s.setReg R.PWR_FREQ (v &&& 0x11F1F)
    ((s.mapPwr fun p => { p with bCap := followTop top s.fTop p.bCap, bTherm := followTop top s.fTop p.bTherm }).wantedMoved old).govShow


/-- A cap, from SET_CAP or a write of PWR.CAP: values outside 80–300 are refused with E-0B01 (R397). -/
def capOk (cap : Nat) : Bool := decide (80 ≤ cap) && decide (cap ≤ 300)
/-- A write of PWR.CAP. -/
def capWriteEff (s : State) (v : Word) : State :=
  if capOk (bitsW v 0 9) then s.setReg R.PWR_CAP (v &&& 0xF1FF) else s.pwrErr 0x0B01

/-! ## Loam load (R407, R408) -/

/-- LOAM_WRITE: at once outside a job, at the next S_b inside one. -/
def loamWriteEff (s : State) (v : Word) : State :=
  if s.job.running then s.mapPwr fun p => { p with loamNext := some v } else s.loamSet v

/-- LOAM_RAMP_STEP: one of the 16 steps of the ramp after the release. -/
def loamRampStepEff (s : State) : State := s.mapPwr fun p => { p with ramp := p.ramp - 1 }

/-- LOAM_RAMP_STEP. -/
def execLoamRampStep (s : State) : Host.Outcome State Fault Refusal := .next (loamRampStepEff s)

/-! ## Hints (R400) -/

/-- The margin of a phase code in mV. -/
def State.hintMv (s : State) (phase : Nat) : Nat :=
  if phase = 1 then s.fget F.PWR_HINT_MV_mv1 else if phase = 2 then s.fget F.PWR_HINT_MV_mv2 else 0

/-- A HINT_PHASE of code 0, 1 or 2 replaces the hint before it; a first band already passed applies at once, and a range of bands
already passed has ended. -/
def State.setHint (s : State) (phase first n : Nat) : State :=
  if phase = 0 ∨ (s.job.running = true ∧ n ≠ 0 ∧ first + n ≤ s.curBand) then (s.mapPwr fun p => { p with hint := none, margin := 0 }).setVolts
  else
    let now := s.job.running && decide (first ≤ s.curBand)
    (s.mapPwr fun p => { p with hint := some (phase, first, n), margin := if now then s.hintMv phase else 0 }).setVolts

/-- HINT_MARGIN_START: 1 ms before the expected S of the first band the margin joins the VDD_T setpoints. -/
def hintMarginStartEff (s : State) : State :=
  match s.pwr.hint with
  | some (phase, _, _) => (s.mapPwr fun p => { p with margin := s.hintMv phase }).setVolts
  | none => s

/-- HINT_MARGIN_START. -/
def execHintMarginStart (s : State) : Host.Outcome State Fault Refusal := .next (hintMarginStartEff s)

end Sys2Proof.Machine
end

