-- ==== Sys2Proof/Machine/ResetOps.lean ====
section
/-!
DEFINITION. Machine/ResetOps.lean: resets (15 R410–R418, 11 R313), Park and its exit (14 R382–R384, R403; 11 R312; 12 R349), and the
loss of power.
-/
namespace Sys2Proof.Machine

/-! ## Registers by persistence class (Table 0.3) -/

/-- The stored registers with the bits of the classes `p` names at their reset values; what then equals its reset value is unlisted.
(DEDUCED, log 49) -/
def resetMap (p : Cls → Bool) (m : SMap Word) : SMap Word :=
  (m.map fun (k, v) => (k, (v &&& ~~~ clsMask p k) ||| (regDefault k &&& clsMask p k))).filter fun (k, v) => v != regDefault k

/-- The default Row map of Terrace `t`: local logical Row k names the (k + 1)-th good physical Row (R18). -/
def State.defaultMap (s : State) (t : Nat) : Word :=
  let good := (List.range 9).filter fun p => s.rowGood t p
  BitVec.ofNat 32 (((List.range 8).map fun k => nth 15 good k * 2 ^ (4 * k)).foldl (· + ·) 0)
/-- Every Row map at its default. -/
def State.defaultMaps (s : State) : State :=
  (List.range 16).foldl (fun s i => s.setReg (R.TER_ROW_MAP_V (i / 4) (i % 4)) (s.defaultMap (i / 4))) s

/-- Return the register bits of some classes to their reset values. HRM.CHn_STATUS.state and HUB.CM_STATUS.state do so too; the HyperRAM
channels (R347, R349) and the Cellarmaster (R414) stand where they stood.
(DEDUCED, log 53) -/
def State.resetRegs (s : State) (p : Cls → Bool) : State :=
  let s := { s with regs := resetMap p s.regs }
  if p .A then s.defaultMaps else s

/-- Class V. -/
def isV : Cls → Bool := (· == .V)
/-- Classes A and V. -/
def isAV : Cls → Bool := fun c => c == .V || c == .A

/-- The cause of the last reset (HUB.RST_STATUS). -/
def State.rstStatus (s : State) (kind cause : Nat) : State := (s.fset F.HUB_RST_STATUS_kind kind).fset F.HUB_RST_STATUS_cause cause

/-! ## Bridges and logic cells (R416–R418) -/

/-- Every crossing trains; those of `failed` fail all three attempts and raise E-0C25 (R417). -/
def State.trainBridges (s : State) (failed : List (Fin 4 × Fin 8)) : State :=
  let s := (List.range 32).foldl (fun s i =>
    let bad := failed.any fun (t, j) => t.val * 8 + j.val == i
    s.fset (F.IO_BRIDGE_STATUS_aligned (ioBase (i / 8) (i % 8))) (if bad then 0 else 1)) s
  if failed.isEmpty then s else s.secErr 0x0C25

/-- The logic cells return to stage 0; the Rows of a placed active Vintage then run the staged release (R201, R418). -/
def State.releaseRows (s : State) : State :=
  let s := { s with lcRows := [] }
  let v := s.activeV
  if s.isPlaced v then (s.physRows v).foldl (fun s (t, p) => s.setLcRow t p { LcRow.init with go := true }) s else s

/-! ## What class V holds beside registers -/

/-- The array, the Hub's line state, plane rings and statistics at their reset state (R413).
(DEDUCED, log 155) -/
def State.clearArray (s : State) : State :=
  let s := s.mapArr fun a => { ArraySt.init with period := a.period, elast := a.elast }
  let s := { s with tx := HubTx.init, sw := none, swWait := none, job := JobSt.init }
  let s := s.mapIng fun g => { IngSt.init with jobs := g.jobs }
  let s := s.mapVrd fun v => { VrdSt.init with seq := v.seq, vq := v.vq, dq := v.dq, reqs := v.reqs, crops := v.crops, nextPage := v.nextPage }
  let s := s.mapTrl fun t => { t with
    holds := [], resetTick := none, anns := [], lastAnn := none, start := none, waitStart := false, recording := false,
    noLines := false, line0 := none, egress := List.replicate 16 ⟨[], 64⟩, rse := List.replicate 16 0, rsi := List.replicate 16 0,
    ingSrc := List.replicate 16 0 }
  let s := s.mapGrf fun g => { g with
    stepping := false, changed := [], stage := [], mode := .uninit, w16 := [], m8 := [], v8 := [], em := [], ev := [], step := 0,
    poolHead := 0, poolLen := 0 }
  let s := s.mapStr fun x => { x with chans := x.chans.map fun c => { c with stop := false } }
  let s := s.mapPwr fun p => { PwrSt.init with
    park := p.park, temps := p.temps, sensors := p.sensors, silent := p.silent, low := p.low, settle := p.settle,
    tail := p.tail, sinceSettle := p.sinceSettle, hint := p.hint, margin := p.margin, energy := p.energy, bCap := s.fTop,
    bTherm := s.fTop, tripped := p.tripped, warmWait := p.warmWait, hot := p.hot, vout := p.vout, dpd := p.dpd }
  let s := s.mapSec fun x => { x with
    probe := [], probeLeft := 0, probeRun := false, probeTrig := false, probeDone := false,
    probeLast := 65536, probeBall := 0, challenge := none, verify := none, retAuth := false }
  if s.pwr.settle then s.fset F.HUB_HOLD_STATUS_settle 1 else s

/-- Write flash bytes.
(PRESUMED, log 69) -/
def putFlash (m : SMap Byte) : Nat → List Byte → SMap Byte
  | _, [] => m
  | a, b :: bs => putFlash (sset erased m a b) (a + 1) bs

/-- A flash operation under way ends with a reset, a Park or the loss of power: its busy bit is class V. The page or block that a program
or erase was at is open (Table 15.7).
(DESIGN CHOICE, log 70) -/
def State.flashCut (s : State) : State :=
  match s.sec.flashOp with
  | some f =>
    let n := if f.op = 1 then 0 else if f.op = 2 then 256 else 65536
    let (x, s) := s.freshBelow (256 ^ n)
    s.mapSec fun y => { y with flashOp := none, flash := putFlash y.flash f.addr (bytesOf n x) }
  | none => s

/-- A bin in force that is not the wanted bin changes outside a job (R393). -/
def State.binCatchUp (s : State) : State :=
  if s.wanted = s.binNow then s else if s.deferNow then s.mapPwr fun p => { p with deferred := true } else s.openWindow s.wanted

/-! ## Array reset (R413) -/

/-- The job that runs ends with E-0C20; a switch and pending commits complete with it too (R413).
(DEDUCED, log 82) -/
def State.dropRun (s : State) : State :=
  let (cs, rest) := s.grf.queue.partition (·.commit)
  let s := (s.mapGrf fun g => { g with queue := rest }).endJobReset 0x0C20
  cs.foldl (fun s q => s.complete q.tag 0x0A 0x0C20 0 q.irq) s

/-- An array reset; it abandons a Cellarmaster restart, whose Cellarmaster stays held (R411), and leaves the device Idle (R382).
(DESIGN CHOICE, log 206) -/
def State.arrayReset (s : State) (failed : List (Fin 4 × Fin 8)) : State :=
  let filling := s.job.filling
  let s := s.flashCut.dropRun
  let s := match s.cp.serial with
    | some c => if filling && c.op == 3 then (s.mapCp fun x => { x with serial := none }).complete c.e.tag.toNat 3 0x0C20 0 (c.e.flags.getLsbD 0) else s
    | none => s
  let s := ((s.resetRegs isV).clearArray.rstStatus 3 0).trainBridges failed
  let s := if s.sec.restart then (s.mapSec fun x => { x with restart := false }).setCm 0 else s
  ((s.fset F.PWR_STATE_state 1).setVolts.releaseRows.binCatchUp).pumpGraft 32

/-- Rank of the reset in progress: 4 cold, 3 warm, 0 none (R411). Without power the device stands as in a cold reset (R382), which a part with
TEST_EN high does not leave (R455). -/
def State.rstRank (s : State) : Nat :=
  if s.sec.off || s.sec.heldCold || s.sec.heldJtag || s.sec.testEn then 4
  else if s.sec.wiping then (if s.sec.trans.isSome || s.fget F.HUB_RST_STATUS_kind == 0 then 4 else 3)
  else if s.sec.heldWarm || s.sec.heldPerst then 3
  else 0
/-- The rank below or at which a request is absorbed: a cold or warm reset is in progress until its boot has ended (R411, Table 15.1).
(DEDUCED, log 207) -/
def State.rstLevel (s : State) : Nat :=
  Nat.max s.rstRank (if s.sec.released then 0 else if s.fget F.HUB_RST_STATUS_kind = 0 then 4 else 3)

/-- ARRAY_RESET: HUB.RST_CTRL.array, absorbed by a broader reset in progress (R411).
(DESIGN CHOICE, log 55; DEDUCED, log 138) -/
def arrayResetEff (s : State) (failed : List (Fin 4 × Fin 8)) : State := if 0 < s.rstLevel then s else s.arrayReset failed

/-- ARRAY_RESET. -/
def execArrayReset (failed : List (Fin 4 × Fin 8)) (s : State) : Host.Outcome State Fault Refusal := .next (arrayResetEff s failed)

/-! ## Wipe (R412) -/

/-- Every word of on-chip SRAM, the Cellarmaster memories included, holds zero data with a valid code. -/
def State.zeroChip (s : State) : State :=
  ({ s with mem := s.mem.filter fun x => inHyper x.1, poison := s.poison.filter fun x => inHyper x.1,
            upset := s.upset.filter fun x => inHyper x.1, words := [] }).mapSec fun x => { x with cmMem := [] }
/-- The on-chip wipe: sources wait until it ends. -/
def State.wipe (s : State) : State := s.zeroChip.mapSec fun x => { x with wiping := true }

/-! ## FLR, warm and cold resets -/

/-- What classes A and V hold beside registers, with every command, completion and record discarded and every Vintage unplaced (R313). -/
def State.clearAV (s : State) : State :=
  let s := { s with job := JobSt.init, regs := s.regs.filter fun x => decide (x.1 < 0x100000) }
  let s := s.clearArray
  let s := { s with cp := { CpSt.init with out := s.cp.out }, pci := { PciSt.init with subsys := s.pci.subsys, aer := s.pci.aer }, vrd := VrdSt.init, grf := GrfSt.init }
  let s := s.mapIng fun _ => IngSt.init
  let s := s.mapStr fun x => { StrSt.init with writes := x.writes, nextWrite := x.nextWrite }
  let s := s.mapHrm fun h => { HrmSt.init with slots := h.slots, chan := h.chan }
  let s := s.mapTrl fun t => { TrlSt.init with txTok := t.txTok, txMsg := t.txMsg }
  let s := s.mapLin fun l => { LinSt.init with driven := l.driven, pkts := l.pkts, uplink := l.uplink, safe := l.safe }
  (s.mapPwr fun p => { p with hint := none, margin := 0 }).slotsInvalid

/-- An FLR ends with classes A and V at reset and no wipe; indirect words are class A. No Vintage is placed, so every Row is off (R385).
(DEDUCED, log 51; DEDUCED, log 52) -/
def State.flr (s : State) : State :=
  let s := s.flashCut.resetRegs isAV
  let s := (({ s with words := [], poison := s.poison.filter fun x => decide (x.1 < 2 ^ 42),
                      upset := s.upset.filter fun x => decide (x.1 < 2 ^ 42) }).loseRows fun _ => true).clearAV
  (((s.rstStatus 2 0).fset F.PWR_STATE_state 1).setVolts).releaseRows.binCatchUp

/-- The numbers of warm-reset causes (HUB.RST_STATUS.cause). -/
def warmNum : WarmCause → Nat
  | .perst => 0 | .ball => 1 | .register => 2 | .brownOut => 3 | .supply => 4
/-- The numbers of cold-reset causes. -/
def coldNum : ColdCause → Nat
  | .powerOn => 0 | .ball => 1 | .register => 2 | .lifeCycle => 3 | .jtag => 4

/-- Deep power-down has lost the HyperRAM contents: the channels initialise, the Blend slots are invalid, the crop store, the feature store
and the pool are empty, and each stored crop is reported absent with E-0814 (R349). -/
def State.hyperWake (s : State) : State :=
  let s := (List.range 4).foldl (fun s c =>
    if s.chanAt c = 4 then (s.zeroChannel c).setHyper c 1 else s) s
  let s := if s.vrd.crops.any fun c => c.pages.isSome then s.note 0x0814 else s
  let s := s.slotsInvalid.mapVrd fun v => { v with crops := v.crops.map fun c =>
    if c.pages.isSome then { c with absent := 0x0814, pages := none, bytes := [], sent := 0 } else { c with wb := none } }
  (s.mapGrf fun g => { g with feats := [], poolHead := 0, poolLen := 0 }).cropStoreFree

/-- A warm reset: classes A and V, the wipe, markers at their safe levels, a trip cleared, failed channels tried again; HyperRAM keeps its
contents. -/
def State.warmReset (s : State) (c : WarmCause) (failed : List (Fin 4 × Fin 8)) : State :=
  let n := s.fget F.HUB_RST_STATUS_warm_cnt
  let s := if s.pwr.park && s.pwr.dpd then s.hyperWake else s
  let s := (s.flashCut.resetRegs isAV).clearAV.wipe
  let s := ((s.rstStatus 1 (warmNum c)).fset F.HUB_RST_STATUS_warm_cnt (satAdd 8 n 1)).setCm 1
  let s := (s.mapLin fun l => { l with safe := 0xFFFF, driven := Nat.lor l.driven 0xFFFF }).mapSec fun x => { x with boot := none, restart := false, released := false, recov := false, trans := none }
  let s := s.mapPwr fun p => { p with tripped := false, warmWait := none, park := false }
  let s := (List.range 4).foldl (fun s c => if s.chanFailed c then s.setHyper c 2 else s) s
  let s := if c = .brownOut ∨ c = .supply then s.pwrErr 0x0B04 else s
  ((s.setVolts.trainBridges failed).releaseRows).binCatchUp

/-- Every register field but those of class F at its reset value; windows and the MSI-X table do not survive a cold reset. -/
def keepF (m : SMap Word) : SMap Word := resetMap (fun c => c != .F) (m.filter fun x => (regAt x.1).isSome)

/-- A cold reset: everything but the fuses, the flash and what stands in flash registers returns to its reset value (R410); what has
left the device stays left. -/
def State.coldReset (s : State) (c : ColdCause) (failed : List (Fin 4 × Fin 8)) : State :=
  let s := s.flashCut
  let t := { State.reset with
    pending := s.pending, fuse := s.fuse, free := s.free, irqOut := s.irqOut, regs := keepF s.regs,
    cp := { CpSt.init with out := s.cp.out }, lin := { LinSt.init with pkts := s.lin.pkts, uplink := s.lin.uplink },
    trl := { TrlSt.init with txTok := s.trl.txTok, txMsg := s.trl.txMsg },
    pwr := { PwrSt.init with low := s.pwr.low, sensors := s.pwr.sensors,
                             vout := if c = ColdCause.powerOn then PwrSt.init.vout else s.pwr.vout },
    sec := { SecSt.init with flash := s.sec.flash, heldCold := s.sec.heldCold, heldWarm := s.sec.heldWarm,
                             heldPerst := s.sec.heldPerst, heldJtag := s.sec.heldJtag, testEn := s.sec.testEn, wiping := true, wipeDone := s.sec.wipeDone } }
  ((t.defaultMaps.rstStatus 0 (coldNum c)).setCm 1).trainBridges failed

/-- WIPE_DONE; the wipe of a life-cycle transition ends with its wipe-done fuse burned and a cold reset (R426).
(DESIGN CHOICE, log 55) -/
def wipeDoneEff (s : State) : State :=
  let t := s.mapSec fun x => { x with wiping := false }
  match s.sec.trans with
  | some x =>
    if x.burning || !s.sec.wiping then t
    else (t.mapSec fun y => { y with wipeDone := Nat.lor y.wipeDone (2 ^ x.target), trans := none }).coldReset .lifeCycle x.failed
  | none => t
/-- WIPE_DONE. -/
def execWipeDone (s : State) : Host.Outcome State Fault Refusal := .next (wipeDoneEff s)

/-- COLD_RESET (R410, R411): a ball or a JTAG hold keeps the device in reset; one requested during a cold reset is absorbed. Only
power-on leaves Off (R382).
(DESIGN CHOICE, log 55) -/
def coldResetEff (s : State) (c : ColdCause) (failed : List (Fin 4 × Fin 8)) : State :=
  let s' := match c with
    | .ball => s.mapSec fun x => { x with heldCold := true }
    | .jtag => s.mapSec fun x => { x with heldJtag := false }
    | _ => s
  if s.sec.off then (if c = .powerOn then s'.coldReset c failed else s')
  else if 4 ≤ s.rstLevel && c != .jtag then s' else s'.coldReset c failed

/-- COLD_RESET. -/
def execColdReset (c : ColdCause) (failed : List (Fin 4 × Fin 8)) (s : State) : Host.Outcome State Fault Refusal :=
  .next (coldResetEff s c failed)

/-- Does a sensor read 115 °C or above? (R406) -/
def State.tooHot (s : State) : Bool := s.pwr.sensors.any fun x => decide (460 ≤ x)

/-- WARM_RESET (R410, R411): absorbed by a cold or warm reset in progress; it waits while a sensor reads 115 °C or above.
(DESIGN CHOICE, log 55) -/
def warmResetEff (s : State) (c : WarmCause) (failed : List (Fin 4 × Fin 8)) : State :=
  let s' := match c with
    | .ball => s.mapSec fun x => { x with heldWarm := true }
    | .perst => s.mapSec fun x => { x with heldPerst := true }
    | _ => s
  if 3 ≤ s.rstLevel then s'
  else if s'.tooHot then s'.mapPwr fun p => { p with warmWait := some c }
  else s'.warmReset c failed

/-- WARM_RESET. -/
def execWarmReset (c : WarmCause) (failed : List (Fin 4 × Fin 8)) (s : State) : Host.Outcome State Fault Refusal :=
  .next (warmResetEff s c failed)

/-- THERMAL_SAMPLE (R404–R406): the governor's decision; a warm reset that waited for the sensors proceeds. -/
def sensorSampleEff (s : State) (readings : List Int) : State :=
  let s := thermalSampleEff s readings
  match s.pwr.warmWait with
  | some c => if s.tooHot then s else s.warmReset c []
  | none => s

/-- THERMAL_SAMPLE. -/
def execThermalSample (readings : List Int) (s : State) : Host.Outcome State Fault Refusal := .next (sensorSampleEff s readings)

/-- RESET_BALL_RELEASE (R411): the reset held by a ball proceeds (0 COLD_RST_N, 1 WARM_RST_N, 2 PERST_N). -/
def resetBallReleaseEff (s : State) (b : Fin 3) : State :=
  if b = 0 then s.mapSec fun x => { x with heldCold := false }
  else if b = 1 then s.mapSec fun x => { x with heldWarm := false }
  else s.mapSec fun x => { x with heldPerst := false }

/-- RESET_BALL_RELEASE. -/
def execResetBallRelease (b : Fin 3) (s : State) : Host.Outcome State Fault Refusal := .next (resetBallReleaseEff s b)

/-- JTAG_BOUNDARY_SCAN (R434): a hold instruction is entered, or it is left, which is a cold reset.
(DEDUCED, log 134; DESIGN CHOICE, log 165) -/
def jtagEff (s : State) (hold : Bool) (failed : List (Fin 4 × Fin 8)) : State :=
  if s.sec.off then s
  else if hold then (s.coldReset .jtag failed).mapSec fun x => { x with heldJtag := true }
  else if s.sec.heldJtag then coldResetEff s .jtag failed
  else s

/-- JTAG_BOUNDARY_SCAN. -/
def execJtagBoundaryScan (hold : Bool) (failed : List (Fin 4 × Fin 8)) (s : State) : Host.Outcome State Fault Refusal :=
  .next (jtagEff s hold failed)

/-- POWER_REMOVAL (R382): Off; everything but class F is lost.
(DEDUCED, log 134) -/
def powerRemovalEff (s : State) : State :=
  (s.coldReset .powerOn []).mapSec fun x => { x with off := true, wiping := false }

/-! ## Park (R382–R384, R349) -/

/-- Zero `n` on-chip words of 32 bytes from byte address `a`. -/
def zeroWords (s : State) : Nat → Nat → State
  | _, 0 => s
  | a, n + 1 => zeroWords (writeChip s a (List.replicate 32 0) false) (a + 32) n

/-- Does a Vintage's program fire MM port `g`? -/
def State.firesPort (s : State) (r : TileRef) (v g : Nat) : Bool :=
  (List.range 64).any fun pc => let w := (s.progWord r v pc).toNat; uOp w == 2 && maskHas (bitsN w 24 4) g

/-- The physical words of a generator's partition in an MM tile: first word and count (R129). -/
def State.partWords (s : State) (r : TileRef) (v g : Nat) : Nat × Nat :=
  let w := s.opd r v g
  let lo := s.partLo r v g
  let hi := s.partHi r v g
  if hi < lo then (lo, 0)
  else if bitsW w 0 3 = 0 then (lo, hi - lo + 1)
  else (lo, cdiv (2 * siltBytes (bitsW w 3 2) * (hi - lo + 1)) 32)

/-- Every MM tile zeroes its cask regions and the partitions its MW ports write, in every placed Vintage (R383). -/
def State.zeroTile (s : State) (r : TileRef) : State :=
  let m := idxOf r.k
  let base := mmBase r.t r.row m
  let vs := s.placedList.filter fun v => s.usesTile r v
  let s := (List.range 16).foldl (fun s c =>
    let k : CaskRef := ⟨r.t, r.row, Fin.ofNat 8 m, Fin.ofNat 16 c⟩
    if s.caskEn k && vs.any (s.caskUse k) then
      zeroWords s (base + 32 * s.caskBase k) (s.caskBound k)
    else s) s
  vs.foldl (fun s v => [2, 3].foldl (fun s g =>
    if s.firesPort r v g then let (lo, n) := s.partWords r v g; zeroWords s (base + 32 * lo) n else s) s) s

/-- A commit whose staging runs when the device parks completes with E-0D08; the copy in use is kept (Table 8.4). -/
def State.parkCommit (s : State) : State :=
  match s.grf.queue with
  | q :: rest =>
    if q.commit && q.staging && !q.staged then (s.mapGrf fun g => { g with queue := rest }).complete q.tag 0x0A 0x0D08 0 q.irq else s
  | [] => s

/-- Every deferred command not yet complete completes with a code (R312, R327). -/
def State.failDeferred (s : State) (code : Nat) : State :=
  let s := match s.sw with | some w => ({ s with sw := none }).switchDone w.tag code 0 w.irq | none => s
  let s := match s.swWait with | some (t, irq, _) => ({ s with swWait := none }).switchDone t code 0 irq | none => s
  let qs := s.parkCommit.grf.queue
  let s := qs.foldl (fun s q => s.complete q.tag (if q.commit then 0x0A else 9) code 0 q.irq) (s.parkCommit.mapGrf fun g => { g with queue := [], stage := [] })
  let s := match s.cp.barrier with | some b => s.fillerOff.complete b.tag 0x0B code 0 b.irq | none => s
  let s := match s.cp.snap with | some b => s.complete b.tag 0x0C code 0 b.irq | none => s
  let s := match s.cp.attest with | some a => s.complete a.tag 0x0F code 0 a.irq | none => s
  let s := s.cp.replay.foldl (fun s r => s.complete r.tag 0x0D code 0 r.irq) s
  s.mapCp fun c => { c with barrier := none, snap := none, attest := none, replay := [] }

/-- The HyperRAM devices enter deep power-down, as HRM.CTRL.park_dpd stands at Park entry (R349). -/
def State.hyperSleep (s : State) : State :=
  let dpd := s.fbit F.HRM_CTRL_park_dpd
  let s := s.mapPwr fun p => { p with dpd := dpd }
  if dpd then (List.range 4).foldl (fun s c => if s.chanReady c || s.chanInit c then s.setHyper c 4 else s) s else s

/-- Park entry (R383): casks and written partitions are zeroed, class V and the Stream engine's state are lost, the shared store with its
records, staged crops, waiting feature entries and the Graft state is lost; crops in the crop store and the pool in HyperRAM stay, and so
does a return authorisation (R433).
(DEDUCED, log 54; DEDUCED, log 167) -/
def State.enterPark (s : State) (cause : Nat) : State :=
  let s := s.str.writes.foldl State.acceptWrite s.parkCommit
  let s := (allTiles.filter fun r => kindOf r.k == .mm).foldl State.zeroTile s
  let (ph, pl) := (s.grf.poolHead, s.grf.poolLen)
  let auth := s.sec.retAuth
  let s := (s.flashCut.resetRegs isV).clearArray
  let s := { s with lcRows := [], mem := s.mem.filter fun x => decide (0x01000000 ≤ x.1),
                    poison := s.poison.filter fun x => decide (0x01000000 ≤ x.1), upset := s.upset.filter fun x => decide (0x01000000 ≤ x.1) }
  let s := s.mapVrd fun v => { VrdSt.init with seq := v.seq, crops := v.crops.filter fun c => c.pages.isSome, nextPage := v.nextPage }
  let s := s.featsDropped.mapGrf fun g => { g with poolHead := ph, poolLen := pl }
  let s := s.mapStr fun x => { StrSt.init with nextWrite := x.nextWrite }
  let s := (s.hyperSleep.fset F.PWR_STATE_state 2).fset F.PWR_STATE_cause cause
  (s.mapPwr fun p => { p with park := true }).mapSec fun x => { x with retAuth := auth }

/-- Park exit: bridges train, logic cells run the release; in deep power-down HyperRAM has lost its contents (R349). The next ACLK period
finds the device Idle.
(DESIGN CHOICE, log 205) -/
def State.leavePark (s : State) (failed : List (Fin 4 × Fin 8)) : State :=
  if !s.pwr.park then s
  else
    let s := (s.mapPwr fun p => { p with park := false }).fset F.PWR_STATE_state 3
    let s := if s.pwr.dpd then s.hyperWake else s
    (((s.setVolts.trainBridges failed).releaseRows).binCatchUp).pumpGraft 32

/-- The function reaches D3hot (R312): the job ends, its job-end entry and the completions of deferred commands are written as ring 1 has
room, and the device parks. -/
def State.enterD3 (s : State) : State :=
  let s := (s.endJobReset 0x0108).failDeferred 0x0108
  let s := s.compsOut 64
  let s := { s with pci := { s.pci with d3 := true, d3Wait := false } }
  if s.pwr.park then s else s.enterPark 1
/-- D3HOT_ENTRY (R312): a PLACE that runs completes first (Table 11.13). -/
def d3hotEntryEff (s : State) : State :=
  if s.pci.d3 then s
  else if s.hrm.placing.isSome then { s with pci := { s.pci with d3Wait := true } }
  else s.enterD3

/-- D3HOT_ENTRY. -/
def execD3hotEntry (s : State) : Host.Outcome State Fault Refusal := .next (d3hotEntryEff s)

/-- D3HOT_EXIT (R382): a write of D0 ends the Park that D3hot entered. -/
def d3hotExitEff (s : State) (failed : List (Fin 4 × Fin 8)) : State :=
  let s := { s with pci := { s.pci with d3 := false, d3Wait := false } }
  if s.fget F.PWR_STATE_cause = 1 then s.leavePark failed else s

/-- D3HOT_EXIT. -/
def execD3hotExit (failed : List (Fin 4 × Fin 8)) (s : State) : Host.Outcome State Fault Refusal := .next (d3hotExitEff s failed)

/-- WAKE (R403): leaves a brown-out Park while every supply is above its warning level. -/
def wakeEff (s : State) (failed : List (Fin 4 × Fin 8)) : State :=
  if s.pwr.park && s.fget F.PWR_STATE_cause == 2 && !(s.pwr.low.any id) then s.leavePark failed else s


/-- BROWN_OUT_TIMEOUT (R403): a supply has been below its warning level for more than 1 ms. -/
def brownOutTimeoutEff (s : State) (failed : List (Fin 4 × Fin 8)) : State :=
  if !(s.pwr.low.any id) then s
  else if s.fbit F.PWR_SUPPLY_policy then warmResetEff (s.pwrEvent 1) .brownOut failed
  else if s.pwr.park then s
  else (((s.pwrErr 0x0B03).pwrEvent 1).endJobNow 0x0B03).enterPark 2

/-- BROWN_OUT_TIMEOUT. -/
def execBrownOutTimeout (failed : List (Fin 4 × Fin 8)) (s : State) : Host.Outcome State Fault Refusal :=
  .next (brownOutTimeoutEff s failed)

/-- FLR (R313): absorbed by a broader reset in progress; a parked device leaves Park first (Table 15.7). -/
def flrEff (s : State) (failed : List (Fin 4 × Fin 8)) : State :=
  if 0 < s.rstLevel then s else (s.leavePark failed).flr

/-- FLR. -/
def execFlr (failed : List (Fin 4 × Fin 8)) (s : State) : Host.Outcome State Fault Refusal := .next (flrEff s failed)

end Sys2Proof.Machine
end

