-- ==== Sys2Proof/Machine/Trellis.lean ====
section
/-!
DEFINITION. Machine/Trellis.lean: Trellis ports, frames, tokens, messages, system holds, barriers and repair (13 R351–R380).
-/
namespace Sys2Proof.Machine

/-! ## Ports and bring-up (R353) -/

/-- A port's state. -/
def State.port (s : State) (p : Nat) : PortSt := nth PortSt.init s.trl.ports p
/-- Replace a port's state. -/
def State.setPort (s : State) (p : Nat) (x : PortSt) : State := s.mapTrl fun t => { t with ports := setNth t.ports p x }

/-- TRELLIS_BRING_UP: TRL.CFG.en goes from 0 to 1; the device number, N and root take effect and the ports train. With Solo Boost
selected the write is refused (R392). `root` is the number of the board's root device.
(DESIGN CHOICE, log 56) -/
def trellisBringUpEff (s : State) (v : Word) (root : Nat) : State :=
  if s.inSystem then s.setReg R.TRL_CFG (v &&& 0x33F3F)
  else if s.fbit F.PWR_FREQ_boost then s.pwrErr 0x0B02
  else
    let s := s.setReg R.TRL_CFG ((v &&& 0x33F3F) ||| 0x20000)
    s.mapTrl fun t => { TrlSt.init with
      dev := s.fget F.TRL_CFG_dev, n := s.fget F.TRL_CFG_n_m1 + 1, root := s.fbit F.TRL_CFG_root, rootDev := root, phase := 1,
      time := t.time, frac := t.frac, txTok := t.txTok, txMsg := t.txMsg, pulses := t.pulses, calTimes := t.calTimes }

/-- A write of TRL.CFG with en = 0 stops the ports and ends every hold; later writes of dev, n_m1 and root wait for the next rise of en. -/
def trellisOffEff (s : State) (v : Word) : State :=
  let s := (s.setReg R.TRL_CFG (v &&& 0x13F3F)).fset F.HUB_HOLD_STATUS_system 0
  s.mapTrl fun t => { TrlSt.init with time := t.time, frac := t.frac, txTok := t.txTok, txMsg := t.txMsg, pulses := t.pulses, phase := 0 }

/-- The census is complete once N − 1 other devices have been seen (R353). -/
def State.censusDone (s : State) : State :=
  if s.trl.phase = 2 ∧ !s.trl.censusBad ∧ s.trl.seen.length + 1 = s.trl.n then
    (s.mapTrl fun x => { x with phase := if x.chain then 4 else 3 }).trlEvent 0
  else s
/-- TRELLIS_PORT_UP (R353, R354): a port has block and frame lock both ways; with `all` every connected port is up, and CENSUS leaves
both ways. `chain` says that the board joins the devices as a chain. -/
def trellisPortUpEff (s : State) (p : Fin 2) (all chain : Bool) : State :=
  if !s.inSystem || s.trl.phase != 1 then s
  else
    let s := s.setPort p { PortSt.init with up := true, tokQ := (s.port p).tokQ }
    let s := s.mapTrl fun t => { t with chain := chain }
    if all then ((s.mapTrl fun t => { t with phase := 2 }).sendToken 1 0).censusDone else s

/-! ## Tokens (R365) -/

/-- Take the first received token of a kind: its port and the token, which is forwarded while its hops exceed 1, and waits for a port that
still trains. An ARRIVE is not forwarded as it stands: each device sends its own towards the root. -/
def State.takeTok (s : State) (kind : Nat) : Option (Nat × SyncTok × State) :=
  match s.trl.rxTok.find? fun x => x.2.kind == kind with
  | none => none
  | some (p, t) =>
    let s := s.mapTrl fun x => { x with rxTok := eraseFirst (fun y => y.2.kind == kind) x.rxTok }
    let goes := s.portUse (1 - p) || (s.trl.phase == 1 && !(s.port (1 - p)).up)
    let s := if kind != 3 && decide (1 < t.hops) && goes then s.tokenOn (1 - p) { t with hops := t.hops - 1 } else s
    some (p, t, s)

/-- Hops a token of kind other than ARRIVE has made when it arrives on port `p` with `h` hops left: it left its origin on the other
port. -/
def State.hopsMade (s : State) (p h : Nat) : Nat :=
  (if s.intact then (if p = 0 then s.trl.n / 2 else (s.trl.n - 1) / 2) else s.trl.n - 1) - h + 1

/-- CENSUS (R353): the sender is recorded by its port and distance, the device N/2 hops away in an even ring by port 1; the receiver's own
number raises E-0901. -/
def censusEff (s : State) : State :=
  match s.takeTok 1 with
  | none => s
  | some (p, t, s) =>
    if (s.trl.phase != 1 && s.trl.phase != 2) || s.trl.censusBad then s
    else if t.origin = s.trl.dev then (s.trlErr 0x0901).mapTrl fun x => { x with censusBad := true }
    else
      let h := s.hopsMade p t.hops
      let p := if s.intact && 2 * h == s.trl.n then 1 else p
      let known := s.trl.seen.any fun x => x.1 == t.origin && decide (x.2.2 ≤ h)
      let s := if known then s
        else s.mapTrl fun x => { x with seen := x.seen.filter (fun y => y.1 != t.origin) ++ [(t.origin, p, h)] }
      s.censusDone

/-- CENSUS_TIMEOUT: a count other than N − 1 keeps the ring down. -/
def censusTimeoutEff (s : State) : State :=
  if s.trl.phase = 2 ∧ s.trl.seen.length + 1 ≠ s.trl.n then (s.trlErr 0x0902).mapTrl fun x => { x with censusBad := true } else s

/-- CENSUS_TIMEOUT. -/
def execCensusTimeout (s : State) : Host.Outcome State Fault Refusal := .next (censusTimeoutEff s)

/-! ## Holds (R371) -/

/-- The system cause follows the holds that are on (R371); a rise sets the event. -/
def State.showHolds (s : State) : State :=
  let on := s.trl.holds.any (·.active)
  if on then (if s.fbit F.HUB_HOLD_STATUS_system then s else (s.fset F.HUB_HOLD_STATUS_system 1).trlEvent 4)
  else s.fset F.HUB_HOLD_STATUS_system 0

/-- At system time `now` the holds whose tick has come turn on, and those whose end has come are gone; each action waits for trim. -/
def State.holdsAt (s : State) (now : Nat) : State :=
  let hs := s.trl.holds.map fun h => if s.trimmed h.on ≤ now then { h with active := true } else h
  let hs := hs.filter fun h => match h.off with | some o => decide (now < s.trimmed o) | none => true
  (s.mapTrl fun t => { t with holds := hs }).showHolds

/-- A hold is announced; a second copy of the announcement changes nothing. -/
def State.holdOn (s : State) (origin no tick : Nat) : State :=
  if s.trl.holds.any fun h => h.origin == origin && h.no == no && h.on == tick then s.holdsAt s.trl.time
  else (s.mapTrl fun t => { t with holds := t.holds ++ [⟨origin, no, tick, none, false⟩] }).holdsAt s.trl.time
/-- A hold's end is announced. -/
def State.holdOff (s : State) (origin no tick : Nat) : State :=
  (s.mapTrl fun t => { t with
    holds := t.holds.map fun h => if h.origin = origin ∧ h.no = no ∧ h.off.isNone then { h with off := some tick } else h }).holdsAt s.trl.time

/-- This device starts a hold: HOLD_ON leaves, naming a tick. -/
def State.startHold (s : State) : Nat × State :=
  let no := s.trl.holdNo % 256
  let tick := s.tickAfter 0
  let s := (s.mapTrl fun t => { t with holdNo := no + 1 }).sendToken 8 (tick % 2 ^ 48 + 2 ^ 48 * no)
  (no, s.holdOn s.trl.dev no tick)
/-- This device ends its hold. -/
def State.endHold (s : State) (no : Nat) : State :=
  let tick := s.tickAfter 0
  (s.sendToken 9 (tick % 2 ^ 48 + 2 ^ 48 * no)).holdOff s.trl.dev no tick

/-- HOLD_ON. -/
def holdOnEff (s : State) : State :=
  match s.takeTok 8 with
  | some (_, t, s) => s.holdOn t.origin (bitsN t.value 48 8) (bitsN t.value 0 48)
  | none => s
/-- HOLD_ON. -/
def execHoldOn (s : State) : Host.Outcome State Fault Refusal := .next (holdOnEff s)
/-- HOLD_OFF. -/
def holdOffEff (s : State) : State :=
  match s.takeTok 9 with
  | some (_, t, s) => s.holdOff t.origin (bitsN t.value 48 8) (bitsN t.value 0 48)
  | none => s
/-- HOLD_OFF. -/
def execHoldOff (s : State) : Host.Outcome State Fault Refusal := .next (holdOffEff s)
/-- SYSTEM_HOLD_TICK: system time reaches a hold's tick. -/
def systemHoldTickEff (s : State) (now : Nat) : State :=
  let s := s.atTime now
  s.holdsAt s.trl.time
/-- SYSTEM_HOLD_TICK. -/
def execSystemHoldTick (now : Nat) (s : State) : Host.Outcome State Fault Refusal := .next (systemHoldTickEff s now)

/-! ## Segment failure (R377–R379) -/

/-- A second segment is down: the system is split (R379). The job ends and the ring is down: nothing is held, awaited or sent any more but
the REPAIR tokens from which the other devices learn of it.
(DESIGN CHOICE, log 210) -/
def State.split (s : State) : State :=
  if s.trl.phase = 5 then s
  else
    let s := (s.trlErr 0x0920).mapTrl fun t => { t with
      phase := 5, stopMsgs := true, holds := [], arrivals := [], txWait := [], repair := none, retire := none,
      ports := t.ports.map fun x => { x with hold := none, msgQ := [], cut := 0, tokQ := x.tokQ.filter fun k => k.kind == 0x0A } }
    (s.showHolds.trlEvent 3).endJobNow 0x0920

/-- SEGMENT_DOWN on port `p`: E-0903, and REPAIR on the surviving chain, for a first break to route round and for a second to split (R377,
R379). The end that has REPAIR of the other end already sends its own too. A segment that has been retired is no part of the chain, and a
split system has none. -/
def segmentDownEff (s : State) (p : Fin 2) : State :=
  if !(s.port p).up || (s.port p).down then s
  else
    let up := s.upstream p
    let old := (s.port p).retired || s.trl.phase == 5
    let s := ((s.setPort p { s.port p with down := true }).trlErr 0x0903).trlEvent 1
    if old then s
    else
      let tick := s.tickAfter 0
      let s := s.sendToken 0x0A (up + 2 ^ 16 * tick)
      match s.trl.repair with
      | some (_, u, _) => if u = up then s else s.split
      | none => if s.trl.chain then s.split else s.mapTrl fun t => { t with repair := some (tick, up, false) }

/-- SEGMENT_DOWN. -/
def execSegmentDown (p : Fin 2) (s : State) : Host.Outcome State Fault Refusal := .next (segmentDownEff s p)

/-! ## Arrivals (R373) -/

/-- The port towards the root. -/
def State.rootPort (s : State) : Nat := (s.routeTo s.trl.rootDev).getD 0
/-- Devices whose arrivals come to the root through port `p`. -/
def State.rootSide (s : State) (p : Nat) : Nat :=
  if s.intact then (if p = 0 then s.trl.n / 2 else (s.trl.n - 1) / 2)
  else (s.trl.seen.filter fun x => x.2.1 == p).length
/-- Devices beyond this one on its side of the root. -/
def State.beyond (s : State) : Nat :=
  let rp := s.rootPort
  if s.intact then
    (if rp = 1 then s.trl.n / 2 else (s.trl.n - 1) / 2) - ((s.trl.seen.find? fun x => x.1 == s.trl.rootDev).map (·.2.2)).getD 0
  else (s.trl.seen.filter fun x => x.2.1 == 1 - rp).length
/-- Is this device its own root: the root, or alone? -/
def State.isRoot (s : State) : Bool := s.trl.root || !s.inSystem || s.trl.n == 1
/-- Has an arrival of an id and purpose come through port `p` (2: this device's own, not yet sent; 3: sent)? -/
def State.arrived (s : State) (p id purpose : Nat) : Bool :=
  s.trl.arrivals.any fun a => a.1 == p && a.2.1 == id && a.2.2.1 == purpose

/-- Forget the arrivals of an id and purpose. -/
def State.dropArrivals (s : State) (id purpose : Nat) : State :=
  s.mapTrl fun t => { t with arrivals := t.arrivals.filter fun a => !(a.2.1 == id && a.2.2.1 == purpose) }

/-- A RELEASE reaches this device, except for the arrivals a repair starts again. -/
def State.releaseHere (s : State) (id purpose band : Nat) : State :=
  let s := s.dropArrivals id purpose
  if purpose = 0 then
    match s.cp.barrier with
    | some b =>
      if b.id = id then (s.fillerOff.mapCp fun c => { c with barrier := none }).complete b.tag 0x0B 0 id b.irq else s
    | none => s
  else if purpose = 1 then
    match s.cp.snap with
    | some b => if b.id = id then s.mapCp fun c => { c with snap := some { b with band := some band } } else s
    | none => s
  else s

/-- The root releases an id and purpose: the start of a system job sends START, the others RELEASE (R368, R373, R375).
(DEDUCED, log 108) -/
def State.rootRelease (s : State) (id purpose : Nat) : State :=
  if purpose = 2 then
    let E := s.tickAfter 1000
    let B := s.job.bandLen / 16
    let s := s.dropArrivals id 2
    let bin := s.wanted
    ((s.mapTrl fun t => { t with start := some (E, bin), startBin := bin, lastAnn := some bin }).setVolts).sendToken 5
      (id % 2 ^ 32 + 2 ^ 32 * (E % 2 ^ 48) + 2 ^ 80 * (B % 256) + 2 ^ 88 * bin)
  else
    let band := s.curBand + 2
    let s := if s.inSystem then s.sendToken 4 (id % 2 ^ 32 + 2 ^ 32 * purpose + 2 ^ 40 * (if purpose = 1 then band else 0)) else s
    s.releaseHere id purpose band

/-- Is the ring up, as an intact ring or a chain, or the device alone? While it stays down no system job starts (R353, R379). -/
def State.ringUp (s : State) : Bool :=
  !s.inSystem || s.trl.n == 1 || ((s.trl.phase == 3 || s.trl.phase == 4) && !s.trl.censusBad)
/-- The arrivals for a purpose through port `p`: id and devices covered. -/
def State.arrivalsOn (s : State) (p purpose : Nat) : List (Nat × Nat) :=
  (s.trl.arrivals.filter fun a => a.1 == p && a.2.2.1 == purpose).map fun a => (a.2.1, a.2.2.2)
/-- Devices that the arrivals of an id through port `p` cover. -/
def State.covered (s : State) (p id purpose : Nat) : Nat :=
  (((s.arrivalsOn p purpose).filter fun a => a.1 == id).map (·.2)).foldl (· + ·) 0
/-- Have all the devices whose arrivals come through port `p`, `n` of them, arrived? For a start, under whatever job number (R368). -/
def State.sideArrived (s : State) (p n id purpose : Nat) : Bool :=
  decide (n ≤ if purpose = 2 then ((s.arrivalsOn p 2).map (·.2)).foldl (· + ·) 0 else s.covered p id purpose)
/-- An ARRIVE leaves towards the root. -/
def State.sendArrive (s : State) (id purpose n : Nat) : State :=
  s.tokenOn s.rootPort ⟨3, s.trl.dev, s.trl.n - 1, id % 2 ^ 32 + 2 ^ 32 * purpose + 2 ^ 40 * n⟩
/-- Act on the arrivals of an id and purpose: the root releases once both sides and it have arrived under the id; another device sends ARRIVE
towards the root once it and every device beyond it have, and for a start passes on the arrivals beyond it that carry another job number. -/
def State.tryArrive (s : State) (id purpose : Nat) : State :=
  if !s.arrived 2 id purpose || s.trl.phase == 5 || (purpose == 2 && !s.ringUp) then s
  else if s.isRoot then
    if (List.range 2).all fun p => !s.inSystem || decide (s.rootSide p ≤ s.covered p id purpose) then s.rootRelease id purpose else s
  else
    let q := 1 - s.rootPort
    if s.sideArrived q s.beyond id purpose then
      let s := s.mapTrl fun t => { t with arrivals := t.arrivals.map fun a =>
        if a.1 == 2 && a.2.1 == id && a.2.2.1 == purpose then (3, a.2) else a }
      let s := s.sendArrive id purpose (s.covered q id purpose + 1)
      if purpose = 2 then ((s.arrivalsOn q 2).filter fun a => a.1 != id).foldl (fun s a => s.sendArrive a.1 2 a.2) s else s
    else s

/-- E-0904: an arrival for the start carries another job number (R368). -/
def State.startIds (s : State) : State :=
  if s.isRoot && s.job.running && s.job.system &&
      (s.trl.arrivals.any fun a => a.1 != 2 && a.2.2.1 == 2 && a.2.1 != s.job.number) then s.trlErr 0x0904 else s

/-- This device arrives (R368, R373, R375, R377). -/
def State.arriveSelf (s : State) (id purpose : Nat) : State :=
  let s := s.mapTrl fun t => { t with arrivals := t.arrivals ++ [(2, id, purpose, 1)] }
  (if purpose = 2 then s.startIds else s).tryArrive id purpose

/-- Once the ring is up, a system job that waits for its start arrives. -/
def State.retryStart (s : State) : State := if s.trl.waitStart && s.trl.start.isNone then s.tryArrive s.job.number 2 else s
/-- TRELLIS_PORT_UP. -/
def execTrellisPortUp (p : Fin 2) (all chain : Bool) (s : State) : Host.Outcome State Fault Refusal :=
  .next (trellisPortUpEff s p all chain).retryStart
/-- CENSUS. -/
def execCensus (s : State) : Host.Outcome State Fault Refusal := .next (censusEff s).retryStart

/-- The hold that an uncorrectable frame of a segment now down began has no resent frame to end it: it ends with the repair (R371, R377).
(DEDUCED, log 58) -/
def State.endPortHold (s : State) (p : Nat) : State :=
  match (s.port p).hold with
  | some no => if (s.port p).down then (s.setPort p { s.port p with hold := none }).endHold no else s
  | none => s
/-- A repair completes: its hold ends, messages start again, and what had not been released arrives again (R377, Table 13.5). -/
def State.repaired (s : State) : State :=
  let s := (s.mapTrl fun t => { t with stopMsgs := false, holds := t.holds.filter fun h => h.origin != 64 }).showHolds
  let s := ((List.range 2).foldl State.endPortHold s).trlEvent 2
  let s := match s.cp.barrier with | some b => s.arriveSelf b.id 0 | none => s
  let s := match s.cp.snap with | some b => if b.band.isNone then s.arriveSelf b.id 1 else s | none => s
  if s.trl.waitStart && s.trl.start.isNone then s.arriveSelf s.job.number 2 else s

/-- The root has released a repair: its own part ends too. -/
def State.rootRepaired (s : State) (purpose : Nat) : State :=
  if purpose = 3 ∧ s.isRoot = true ∧ (s.trl.arrivals.any fun a => a.2.2.1 == 3) = false then s.repaired else s

/-- ARRIVE. -/
def arriveEff (s : State) : State :=
  match s.takeTok 3 with
  | none => s
  | some (p, t, s) =>
    let id := bitsN t.value 0 32
    let purpose := bitsN t.value 32 8
    let s := s.mapTrl fun x => { x with arrivals := x.arrivals ++ [(p, id, purpose, bitsN t.value 40 8)] }
    let s := if purpose = 2 then s.startIds else s
    (s.tryArrive (if purpose = 2 then s.job.number else id) purpose).rootRepaired purpose
/-- ARRIVE. -/
def execArrive (s : State) : Host.Outcome State Fault Refusal := .next (arriveEff s)

/-- RELEASE. -/
def releaseEff (s : State) : State :=
  match s.takeTok 4 with
  | some (_, t, s) =>
    let purpose := bitsN t.value 32 8
    let s := s.releaseHere (bitsN t.value 0 32) purpose (bitsN t.value 40 32)
    if purpose = 3 then s.repaired else s
  | none => s
/-- RELEASE. -/
def execRelease (s : State) : Host.Outcome State Fault Refusal := .next (releaseEff s)

/-- The routes of the chain left when the segment downstream of device `up` breaks: the devices up to it stand on port 1, the others on
port 0 (R377). -/
def State.reroute (s : State) (up : Nat) : State :=
  let n := s.trl.n
  let pos (x : Nat × Nat × Nat) : Nat := if x.2.1 = 1 then x.2.2 else n - x.2.2
  let u := if up = s.trl.dev then 0 else ((s.trl.seen.find? fun x => x.1 == up).map pos).getD 0
  s.mapTrl fun t => { t with
    chain := true, phase := 4,
    seen := t.seen.map fun x => if pos x ≤ u then (x.1, 1, pos x) else (x.1, 0, n - pos x),
    txWait := t.txWait.map fun (p, q, m) =>
      if m.dest = m.origin then (p, q, m)
      else match t.seen.find? fun x => x.1 == m.dest with
        | some x => (if pos x ≤ u then 1 else 0, q, m)
        | none => (p, q, m) }

/-- The port of this device on the segment downstream of device `up`, at its two ends. -/
def State.endPort (s : State) (up : Nat) : Option Nat :=
  if up = s.trl.dev then some 1 else if s.upstream 0 = up then some 0 else none
/-- The token a frame carries, if any (R356). -/
def frameTok (b : List Byte) : Option SyncTok :=
  if bitN (leAt b 4 1) 1 then none else some ⟨leAt b 16 1, leAt b 17 1, leAt b 18 1, leAt b 20 12⟩
/-- Is a token lost with a broken segment? Those of the bring-up, of a calibration, and of a barrier or start, which every device begins again
(Table 13.5). -/
def tokLost (t : SyncTok) : Bool := t.kind ≤ 5
/-- The end of a broken segment sends what its last `k` frames there hold, those not acknowledged, and what still waits, the other way round:
messages whole, before those that wait, and tokens (R377, Table 13.5).
(DESIGN CHOICE, log 174) -/
def State.turnRound (s : State) (p k : Nat) : State :=
  let x := s.port p
  let late {α : Type} (l : List α) : List α := l.drop (l.length - k)
  let ms := (late x.sentMsgs).flatten ++ x.msgQ
  let ts := ((late x.sent).filterMap frameTok ++ x.tokQ).filter fun t => !tokLost t
  let s := s.setPort p { x with down := true, sent := [], sentMsgs := [], again := 0, msgQ := [], cut := 0, tokQ := [], part := [] }
  let s := s.mapTrl fun t => { t with txWait := ms.map (fun m => (1 - p, 3, m)) ++ t.txWait }
  ts.foldl (fun s t => s.tokenOn (1 - p) { t with hops := s.trl.n - 1 }) s
/-- The end of a segment that is retired takes nothing new for it; what is on its way still goes there (R378). -/
def State.retirePort (s : State) (p : Nat) : State := s.setPort p { s.port p with retired := true }

/-- The device holds, stops starting messages, routes round the break and arrives with purpose 3. How many of the frames kept are not
acknowledged is open; after a planned retirement none is sent again (R377, R378).
(DESIGN CHOICE, log 174) -/
def State.repairNow (s : State) (tick up : Nat) (planned : Bool) : State :=
  let e := s.endPort up
  let s := s.mapTrl fun t => { t with
    repair := none, broken := some up, stopMsgs := true, arrivals := [], holds := t.holds ++ [⟨64, 0, tick, none, true⟩] }
  let s := s.showHolds.reroute up
  let s := match e with
    | some p =>
      if planned then s.retirePort p
      else
        let (k, s) := s.freshBelow ((s.port p).sent.length + 1)
        s.turnRound p k
    | none => s
  (s.arriveSelf 0 3).rootRepaired 3
/-- REPAIR_TICK at system time `now`: nothing happens before the tick (R366). -/
def repairTickEff (s : State) (now : Nat) : State :=
  let s := s.atTime now
  match s.trl.repair with
  | some (tick, up, planned) => if s.trl.time < s.trimmed tick then s else s.repairNow tick up planned
  | none => s
/-- REPAIR_TICK. -/
def execRepairTick (now : Nat) (s : State) : Host.Outcome State Fault Refusal := .next (repairTickEff s now)

/-- REPAIR: every device acts at the tick, or on arrival after it (R366); the other end's REPAIR for the same segment changes nothing, and a
second break splits the system. -/
def repairEff (s : State) : State :=
  match s.takeTok 0x0A with
  | none => s
  | some (_, t, s) =>
    let up := bitsN t.value 0 8
    let tick := bitsN t.value 16 48
    if s.trl.phase = 5 then s
    else match s.trl.repair with
    | some (_, u, _) => if u = up then s else s.split
    | none =>
      if s.trl.chain then (if s.trl.broken = some up then s else s.split)
      else
        repairTickEff (s.mapTrl fun x => { x with repair := some (tick, up, bitN t.value 8) }) s.trl.time
/-- REPAIR. -/
def execRepair (s : State) : Host.Outcome State Fault Refusal := .next (repairEff s)

/-- TRELLIS_RETIRE (R378): a write of TRL.RETIRE with go = 1; a band fewer than two ahead is taken as the current band + 2.
(DESIGN CHOICE, log 59) -/
def trellisRetireEff (s : State) (v : Word) : State :=
  let s := s.setReg R.TRL_RETIRE ((v &&& 0xFFFFFF03) ||| (s.reg R.TRL_RETIRE &&& 2))
  if bitW v 1 then
    let b := bitsW v 8 24
    let cur := if s.job.running then s.curBand else 0
    s.mapTrl fun t => { t with retire := some (bitsW v 0 1, Nat.max b (cur + 2)) }
  else s

/-! ## System time, the start of a job, resets (R364–R369, R376) -/

/-- SYNC: a write of TRL.CTRL.sync on the root drives the pulse; other devices ignore it. -/
def syncEff (s : State) : State := if s.trl.root then s.mapTrl fun t => { t with pulses := t.pulses + 1 } else s
/-- SYNC_PULSE: system time, as the last event gave it, becomes 0, unless a system job runs; the trigger generators keep the distance to
their last firing (R273).
(DESIGN CHOICE, log 187) -/
def syncPulseEff (s : State) : State :=
  if s.systemJob then s.trlErr 0x0907
  else (s.mapLin fun l => { l with trg := l.trg.map fun x => { x with last := x.last.map (· - (s.trl.time : Int)) } }).mapTrl fun t => { t with time := 0, frac := 0 }
/-- SYNC_PULSE. -/
def execSyncPulse (s : State) : Host.Outcome State Fault Refusal := .next (syncPulseEff s)

/-- TIME tokens to both neighbours, one hop each (R367). -/
def State.sendTimes (s : State) (now : Nat) : State :=
  (List.range 2).foldl (fun s p => if s.portUp p then s.tokenOn p ⟨2, s.trl.dev, 1, now % 2 ^ 64⟩ else s)
    (s.mapTrl fun t => { t with calSent := true })

/-- CALIBRATION: a write of TRL.CTRL.cal on the root outside any job; `now` is the departure in 0.5 ns.
(DESIGN CHOICE, log 60) -/
def calibrationEff (s : State) (now : Nat) : State :=
  if s.trl.root && !s.job.running then ((s.mapTrl fun t => { t with calTimes := [] }).fset F.TRL_CTRL_cal 1).sendTimes now else s

/-- Positions of this device and of the root, from the first device in ring order on: the root in an intact ring, port 0's end on a chain. -/
def State.ringPos (s : State) : Nat × Nat :=
  let (p, h) := ((s.trl.seen.find? fun x => x.1 == s.trl.rootDev).map (·.2)).getD (0, 0)
  if s.intact then (if p = 0 then h else s.trl.n - h, 0)
  else
    let me := (s.trl.seen.filter fun x => x.2.1 == 0).length
    (me, if p = 0 then me - h else me + h)
/-- The transit that this device last recorded through port `p`, in 0.5 ns (R367). -/
def State.transit (s : State) (p : Nat) : Option Int :=
  (s.trl.calTimes.reverse.find? fun x => x.1 == p).map fun x => (x.2.2 : Int) - x.2.1
/-- The offsets of the devices in ring order from the root's, doubled, in 0.5 ns, and whether they close within 2 ns on an intact ring:
half the difference of the two transits of a segment is the offset of its port-0 end's neighbour (R367). What this device recorded itself
stands. -/
def State.offsets (s : State) (segs : List (Int × Int)) : List Int × Bool :=
  let (me, root) := s.ringPos
  let seg (i : Nat) : Int × Int :=
    let x := nth (0, 0) segs i
    (if (i + 1) % s.trl.n = me then (s.transit 0).getD x.1 else x.1, if i = me then (s.transit 1).getD x.2 else x.2)
  let sum (i : Nat) : Int := ((List.range i).map fun j => (seg j).1 - (seg j).2).foldl (· + ·) 0
  ((List.range s.trl.n).map fun i => sum i - sum root, !s.intact || decide ((sum s.trl.n).natAbs ≤ 8))
/-- The calibration closes: the offset from the root, and trim, its excess over the smallest; E-0906 when the offsets do not close or a trim
exceeds 31.5 ns (R367). Halves of 0.5 ns are rounded down.
(DESIGN CHOICE, log 60) -/
def State.calClose (s : State) (segs : List (Int × Int)) : State :=
  let (os, ok) := s.offsets segs
  let os := os.map fun x => x / 2
  let least := os.foldl min 0
  let off := nth 0 os s.ringPos.1
  let s := (s.mapTrl fun x => { x with calSent := false }).fset F.TRL_CTRL_cal 0
  if !ok || os.any fun x => decide (63 < x - least) then s.trlErr 0x0906
  else
    let s := (s.fset F.TRL_SKEW_offset (unsigned 8 off)).fset F.TRL_SKEW_trim (off - least).toNat
    (s.fset F.TRL_SKEW_valid 1).trlEvent 5
/-- TIME: the arrival is recorded at `now` in 0.5 ns. `res` comes with the arrival that closes the calibration: the transits the devices
recorded of each segment in ring order, towards port 1 and towards port 0, which no token carries.
(DESIGN CHOICE, log 60) -/
def timeEff (s : State) (now : Nat) (res : Option (List (Int × Int))) : State :=
  match s.takeTok 2 with
  | none => s
  | some (p, t, s) =>
    let s := s.mapTrl fun x => { x with calTimes := x.calTimes ++ [(p, bitsN t.value 0 64, now)] }
    let s := if s.trl.calSent then s else s.sendTimes now
    match res with
    | none => s
    | some segs => s.calClose segs
/-- TIME. -/
def execTime (now : Nat) (res : Option (List (Int × Int))) (s : State) : Host.Outcome State Fault Refusal :=
  .next (timeEff s now res)

/-- SYSTEM_START_TICK at system time `now`: from tick E plus trim on the device runs, at the START bin (R368).
(DEDUCED, log 62) -/
def systemStartTickEff (s : State) (now : Nat) : State :=
  let s := s.atTime now
  match s.trl.start with
  | some (E, bin) =>
    if s.trl.waitStart && !s.trl.noLines && s.job.running && decide (s.trimmed E ≤ s.trl.time) then
      let s := (s.mapTrl fun t => { t with waitStart := false }).fset F.PWR_FREQ_STATUS_bin bin
      let s := s.mapArr fun a => { a with clocked := true }
      (s.mapPwr fun p => { p with fresh := [], thFresh := 0, window := none }).setVolts.announce
    else s
  | none => s
/-- SYSTEM_START_TICK. -/
def execSystemStartTick (now : Nat) (s : State) : Host.Outcome State Fault Refusal := .next (systemStartTickEff s now)

/-- START (R368): the voltage for its bin comes first (R394); a token that arrives after its tick acts on arrival (R366).
(DEDUCED, log 62) -/
def startEff (s : State) : State :=
  match s.takeTok 5 with
  | none => s
  | some (_, t, s) =>
    if !(s.job.running && s.job.system && s.trl.waitStart) then s
    else
      let E := bitsN t.value 32 48
      let bin := bitsN t.value 88 8
      let s := (s.dropArrivals s.job.number 2).mapTrl fun x => { x with start := some (E, bin), startBin := bin, lastAnn := some bin }
      if bitsN t.value 80 8 = s.job.bandLen / 16 then systemStartTickEff s.setVolts s.trl.time
      else (s.trlErr 0x0905).mapTrl fun x => { x with noLines := true }
/-- START. -/
def execStart (s : State) : Host.Outcome State Fault Refusal := .next (startEff s)

/-- LINE0 (R369): `far` says that the line chosen lies more than half the root's line period from the root's.
(DEDUCED, log 63) -/
def line0Eff (s : State) (far : Bool) : State :=
  match s.takeTok 6 with
  | some (_, t, s) => if s.systemJob && s.trl.line0.isNone then s.chooseLine0 (bitsN t.value 0 48) far else s
  | none => s
/-- LINE0. -/
def execLine0 (far : Bool) (s : State) : Host.Outcome State Fault Refusal := .next (line0Eff s far)

/-- THROTTLE (R371, R372). -/
def throttleEff (s : State) : State :=
  match s.takeTok 7 with
  | some (_, t, s) => (s.recordAnn t.origin (bitsN t.value 0 32) (bitsN t.value 32 8)).setVolts
  | none => s
/-- THROTTLE. -/
def execThrottle (s : State) : Host.Outcome State Fault Refusal := .next (throttleEff s)

/-- SYS_RESET (R376): RESET leaves, naming a tick, which this device takes too. -/
def sysResetEff (s : State) : State :=
  let tick := s.tickAfter 0
  (s.mapTrl fun t => { t with resetTick := some tick, lastReset := some (tick % 2 ^ 48) }).sendToken 0x0B (tick % 2 ^ 48)

/-- RESET: the tick of the array reset is recorded; a token that arrives after its tick acts on arrival (R366), and a second copy of one not
again.
(DEDUCED, log 138) -/
def resetEff (s : State) : State :=
  match s.takeTok 0x0B with
  | some (_, t, s) =>
    let tick := bitsN t.value 0 48
    if s.trl.lastReset = some tick then s
    else
      let s := s.mapTrl fun x => { x with lastReset := some tick }
      if s.trimmed tick < s.trl.time then s.arrayReset [] else s.mapTrl fun x => { x with resetTick := some tick }
  | none => s
/-- RESET. -/
def execReset (s : State) : Host.Outcome State Fault Refusal := .next (resetEff s)

/-! ## Messages (R358–R363) -/

/-- A message that came in on port `q` waits to leave, before this device's own waiting messages (R358): by the other port, or, at the end
of a chain, back the way it came (R377). While the port is not up it waits. -/
def State.forwardMsg (s : State) (q : Nat) (m : TrlMsg) : State :=
  let p := if s.intact || s.portUse (1 - q) then 1 - q else q
  let own : Nat × Nat × TrlMsg → Bool := fun x => x.1 == p && x.2.1 == 2
  s.mapTrl fun t => { t with
    txWait := t.txWait.takeWhile (fun x => !own x) ++ (p, q, m) :: t.txWait.dropWhile (fun x => !own x) }

/-- The message a header unit and its data units spell (Table 13.2). -/
def msgOfUnits (h : List Byte) (data : List Byte) : TrlMsg :=
  { kind := leAt h 0 1, dest := leAt h 1 1, origin := leAt h 2 1, addr := leAt h 4 4, aux := leAt h 8 8, data := data }

/-- A message has arrived whole on port `p`: it is this device's, a broadcast, or through traffic. -/
def State.gotMsg (s : State) (p : Nat) (m : TrlMsg) : State :=
  let here (s : State) : State := s.mapTrl fun t => { t with rxMsg := t.rxMsg ++ [(p, m)] }
  if m.kind = 1 ∧ m.dest = m.origin then
    let h := ((s.trl.seen.find? fun x => x.1 == m.origin).map (·.2.2)).getD 0
    let last := if s.intact then (if p = 0 then s.trl.n / 2 else (s.trl.n - 1) / 2) else s.trl.n
    here (if h < last ∧ (s.intact || s.portUse (1 - p)) = true then s.forwardMsg p m else s.mapTrl fun t => { t with ports := freeUnits t.ports p (unitsOf m) })
  else if m.dest = s.trl.dev then here s
  else s.forwardMsg p m

/-- Message units in order: a unit that starts no message of a kind in use is empty (R358). -/
def parseUnits (s : State) (p : Nat) : Nat → List (List Byte) → List (List Byte) × State
  | 0, us => (us, s)
  | fuel + 1, us =>
    match us with
    | [] => ([], s)
    | h :: rest =>
      let k := leAt h 0 1
      if k = 1 ∨ k = 2 ∨ k = 4 ∨ k = 5 ∨ k = 6 then
        let n := Nat.min (leAt h 3 1) 16
        if n ≤ rest.length then parseUnits (s.gotMsg p (msgOfUnits h (rest.take n).flatten)) p fuel (rest.drop n)
        else (us, s)
      else parseUnits s p fuel rest

/-- A frame after correction: its bytes and how many codewords were corrected, none when uncorrectable (R355). -/
def decodeFrame (f : FrameIn) : Option (List Byte × Nat) :=
  let outs := (List.range 4).map fun w => frameDecode (nth 0 f.err w)
  if outs.any fun o => match o with | .bad => true | _ => false then none
  else
    let res := outs.map fun o => match o with | .good r => r | .corrected r => r | .bad => 0
    let n := (outs.filter fun o => match o with | .corrected _ => true | _ => false).length
    some ((List.range 256).map fun b => nth 0 f.bytes b ^^^ BitVec.ofNat 8 (nth 0 res (b % 4) >>> (8 * (b / 4))), n)

/-- Corrected and uncorrectable counts, and resends answered, of a port (TRL.PORTp_ERR). -/
def State.portErr (s : State) (p lo w n : Nat) : State :=
  s.fcount ⟨if p = 0 then R.TRL_PORT0_ERR else R.TRL_PORT1_ERR, lo, w⟩ n

/-- An uncorrectable frame (R357): it and what follows are discarded until the frame comes again; E-0910 and a system hold. `seq` is the
number it was sent under: the fourth failed sending takes the segment down.
(DEDUCED, log 58) -/
def State.badFrame (s : State) (p seq : Nat) : State :=
  let x := s.port p
  let s := (s.trlErr 0x0910).portErr p 16 8 1
  if s.trl.phase = 5 then s
  else if x.resend then
    if seq = x.next then
      let s := s.setPort p { x with fails := x.fails + 1 }
      if 4 ≤ x.fails + 1 then segmentDownEff (s.trlErr 0x0911) (Fin.ofNat 2 p) else s
    else s
  else
    let (no, s) := s.startHold
    s.setPort p { s.port p with resend := true, fails := 1, hold := some no }

/-- Of the frames a port has kept, those from number `rs` on are to be sent again (R357). -/
def PortSt.resendFrom (x : PortSt) (rs : Nat) : PortSt :=
  match (List.range x.sent.length).find? fun i => leAt (nth [] x.sent i) 0 2 == rs with
  | some i => { x with again := x.sent.length - i }
  | none => x

/-- A good frame in sequence: its control unit and message units (R356, R357, R359). A request is answered once, and again when it still
stands after all the frames it asked for have been sent again.
(DESIGN CHOICE, log 211) -/
def State.goodFrame (s : State) (p : Nat) (bs : List Byte) : State :=
  let x := s.port p
  let flags := leAt bs 4 1
  let s := match x.hold with | some no => s.endHold no | none => s
  let x := { s.port p with next := (x.next + 1) % 65536, resend := false, fails := 0, hold := none,
                           credit := (s.port p).credit + leAt bs 6 2 }
  let rs := leAt bs 2 2
  let ask := bitN flags 0 && (x.answered != some rs || x.again == 0)
  let s := if ask then s.portErr p 24 8 1 else s
  let x := { (if ask then x.resendFrom rs else x) with answered := if bitN flags 0 then some rs else none }
  let units := x.part ++ (List.range 13).map fun i => (bs.drop (32 + 16 * i)).take 16
  let s := s.setPort p { x with part := [] }
  let s := match frameTok bs with
    | some k => if s.trl.phase = 5 ∧ k.kind ≠ 0x0A then s else s.mapTrl fun t => { t with rxTok := t.rxTok ++ [(p, k)] }
    | none => s
  if s.trl.phase = 5 then s
  else
    let (rest, s) := parseUnits s p (units.length + 1) units
    s.setPort p { s.port p with part := rest }

/-! ## Frames sent (R355–R357) -/

/-- Frame bytes 0–239: the control unit without a resend request, and message units 0–12 (Table 13.1). -/
def frameBody (seq credit : Nat) (t : Option SyncTok) (us : List (List Byte)) : List Byte :=
  let tok := match t with
    | some t => bytesOf 1 t.kind ++ bytesOf 1 t.origin ++ bytesOf 1 t.hops ++ bytesOf 1 0 ++ bytesOf 12 t.value
    | none => List.replicate 16 0
  bytesOf 2 seq ++ bytesOf 2 0 ++ bytesOf 1 (if t.isNone then 2 else 0) ++ bytesOf 1 0 ++ bytesOf 2 credit ++ List.replicate 8 0 ++ tok ++
    (List.range 13).flatMap fun i => nth (List.replicate 16 0) us i
/-- The 256 bytes of a frame: a resend request as it stands, and the check symbols of the four codewords. -/
def frameOf (body : List Byte) (rs : Option Nat) : List Byte :=
  let b := match rs with
    | some r => body.take 2 ++ bytesOf 2 r ++ bytesOf 1 (leAt body 4 1 + 1) ++ body.drop 5
    | none => body
  let ws := (List.range 4).map fun w => frameCheck ((List.range 60).map fun i => (nth 0 b (4 * i + w)).toNat)
  b ++ (List.range 16).map fun i => BitVec.ofNat 8 (nth 0 (nth [] ws (i % 4)) (i / 4))
/-- The frame a port sends in a frame time: the next of those asked for again, under its own number with its own token and units, or a new
one (R356, R357); frames are kept without the resend request, which each sending gives as it stands.
(DESIGN CHOICE, log 57) -/
def PortSt.send (x : PortSt) : PortSt :=
  let rs := if x.resend then some x.next else none
  if 0 < x.again then { x with again := x.again - 1, out := frameOf (nth [] x.sent (x.sent.length - x.again)) rs }
  else
    let b := frameBody x.txSeq (Nat.min x.freed 65535) x.tokQ.head? (x.units.take 13)
    let (done, rest, cut) := framed 13 x.cut x.msgQ
    { x with txSeq := (x.txSeq + 1) % 65536, sent := (x.sent ++ [b]).drop (x.sent.length - 31), tokQ := x.tokQ.drop 1,
             sentMsgs := (x.sentMsgs ++ [done]).drop (x.sentMsgs.length - 31), msgQ := rest, cut := cut,
             freed := x.freed - Nat.min x.freed 65535, out := frameOf b rs }

/-- FRAME on port `p`: in one frame time the port sends a frame, and one is received and decoded (R354–R359).
(DESIGN CHOICE, log 57; DESIGN CHOICE, log 164) -/
def frameEff (s : State) (p : Fin 2) (f : FrameIn) : State :=
  if !s.portUp p then s
  else
    let s := s.pumpPort p 13
    let s := s.setPort p (s.port p).send
    match decodeFrame f with
    | none => s.badFrame p (leAt f.bytes 0 2)
    | some (bs, n) =>
      let s := if n = 0 then s else s.portErr p 0 16 n
      if leAt bs 0 2 = (s.port p).next then s.goodFrame p bs else s
/-- FRAME. -/
def execFrame (p : Fin 2) (f : FrameIn) (s : State) : Host.Outcome State Fault Refusal := .next (frameEff s p f)

/-- Take the first received message of a kind: its units leave the receive buffer (a broadcast's have left it). -/
def State.takeMsg (s : State) (kind : Nat) : Option (TrlMsg × State) :=
  match s.trl.rxMsg.find? fun x => x.2.kind == kind with
  | some (p, m) => some (m, s.mapTrl fun t => { t with
      rxMsg := eraseFirst (fun y => y.2.kind == kind) t.rxMsg,
      ports := if m.kind = 1 ∧ m.dest = m.origin then t.ports else freeUnits t.ports p (unitsOf m) })
  | none => none

/-- Write bytes granule by granule of 32, each with its poison bit of a mask. -/
def writeGranules (s : State) (a : Nat) (mask : Nat) : Nat → List Byte → State
  | 0, _ => s
  | n + 1, bs =>
    if bs.isEmpty then s
    else
      let k := 32 - a % 32
      writeGranules (writeChip s a (bs.take k) (bitN mask 0)) (a + Nat.min k bs.length) (mask / 2) n (bs.drop k)

/-- A remote write or fetch-add outside region 6, or misaligned: dropped, E-0912, a violation with source 4 (R360, R316). -/
def State.badRemote (s : State) (addr reason : Nat) : State := (s.trlErr 0x0912).violate .trellis addr true reason

/-- A remote write of `bs` at a shared-store address. -/
def State.remoteWrite (s : State) (addr mask : Nat) (bs : List Byte) : State :=
  if s.inRegion 6 addr bs.length then writeGranules s addr mask 10 bs else s.badRemote addr 0

/-- REMOTE_WRITE (R360). -/
def remoteWriteEff (s : State) : State :=
  match s.takeMsg 1 with
  | some (m, s) => s.remoteWrite m.addr (bitsN m.aux 16 8) (m.data.take (bitsN m.aux 0 16 + 1))
  | none => s
/-- REMOTE_WRITE. -/
def execRemoteWrite (s : State) : Host.Outcome State Fault Refusal := .next (remoteWriteEff s)

/-- FETCH_ADD (R360, R361); one to the sender's own number raises E-0913. -/
def fetchAddEff (s : State) : State :=
  match s.takeMsg 2 with
  | none => s
  | some (m, s) =>
    let n := if bitN m.aux 0 then 8 else 4
    let reply := bitsN m.aux 32 32
    if m.origin = s.trl.dev then s.trlErr 0x0913
    else if m.addr % n ≠ 0 then s.badRemote m.addr 3
    else if !s.inRegion 6 m.addr n then s.badRemote m.addr 0
    else
      let (old, p, s) := readChip s m.addr n
      let s := writeChip s m.addr (bytesOf n (ofBytes old + ofBytes (m.data.take n))) p
      if reply = 0xFFFFFFFF then s
      else s.sendMsg { kind := 1, dest := m.origin, origin := s.trl.dev, addr := reply, aux := (n - 1) + 2 ^ 16 * (if p then 1 else 0), data := old }
/-- FETCH_ADD. -/
def execFetchAdd (s : State) : Host.Outcome State Fault Refusal := .next (fetchAddEff s)

/-- HALO_WRITE (R362, R268): a halo of the width set fills its plane line if that still waits for it, or is kept for a line to come. -/
def haloWriteEff (s : State) : State :=
  match s.takeMsg 4 with
  | none => s
  | some (m, s) =>
    let plane := bitsN m.aux 0 3
    let right := bitN m.aux 3
    let mask := bitsN m.aux 24 8
    let px := m.data.take (bitsN m.aux 8 16)
    let px := (List.range px.length).map fun i => ((nth 0 px i).toInt, bitN mask (i / 32))
    if px.length != s.fget (if right then F.SLC_HALO_halo_r else F.SLC_HALO_halo_l) then s
    else if s.waitsHalo m.addr plane right then s.setHalo m.addr plane right px
    else if s.job.lineNo ≤ m.addr then s.mapIng fun g => { g with halos := g.halos ++ [(m.addr, plane, right, px)] }
    else s
/-- HALO_WRITE. -/
def execHaloWrite (s : State) : Host.Outcome State Fault Refusal := .next (haloWriteEff s)

/-- A flit as a side record (Table 5.8). -/
def flitRec (f : Flit) : Nat :=
  1 + (if f.poison then 2 else 0) + 4 * (f.tag % 16) + (if f.last then 64 else 0) + (if f.evLine then 128 else 0) + (if f.evBand then 256 else 0)
/-- A flit from its side record and data; smk is 0 on every remote flit (R363). -/
def flitOfRec (r : Nat) (d : List Byte) : Flit :=
  { data := dataOf d, poison := bitN r 1, tag := bitsN r 2 4, last := bitN r 6, evLine := bitN r 7, evBand := bitN r 8, smk := false }

/-- CASK_WRITE (R363): flits join the ingress buffer. -/
def caskWriteEff (s : State) : State :=
  match s.takeMsg 5 with
  | none => s
  | some (m, s) =>
    let k := bitsN m.addr 0 4
    let fs := (List.range (Nat.min (m.data.length / 32) 4)).map fun i => flitOfRec (bitsN m.aux (16 * i) 16) ((m.data.drop (32 * i)).take 32)
    let s := { s with tx := { s.tx with ingress := setNth s.tx.ingress k (nth [] s.tx.ingress k ++ fs) } }
    s.mapTrl fun t => { t with ingSrc := setNth t.ingSrc k (16 * m.origin + bitsN m.addr 8 4) }
/-- CASK_WRITE. -/
def execCaskWrite (s : State) : Host.Outcome State Fault Refusal := .next (caskWriteEff s)

/-- An egress sends what it holds as cask writes of up to four flits while it holds end-to-end credit (R363); each flit sent frees its
entry. -/
def State.pumpEgress (s : State) (m : Nat) : Nat → State
  | 0 => s
  | fuel + 1 =>
    let e := nth ⟨[], 0⟩ s.trl.egress m
    let n := Nat.min 4 (Nat.min e.q.length e.credit)
    if n = 0 then s
    else
      let w := nth 0 s.trl.rse m
      let fs := e.q.take n
      let s := s.mapTrl fun t => { t with egress := setNth t.egress m { q := e.q.drop n, credit := e.credit - n } }
      let s := fs.foldl (fun s x => match x.circ.sinks.find? (fun k => match k.1 with | .hub _ _ => true | _ => false) with
        | some (k, _) => s.freeEntry k x.circ s.arr.runAc
        | none => s) s
      (s.sendMsg { kind := 5, dest := bitsW w 0 6, origin := s.trl.dev, addr := bitsW w 8 4 + 2 ^ 8 * m,
                   aux := (List.range n).foldl (fun acc i => acc + 2 ^ (16 * i) * flitRec (nth Flit.zero (fs.map (·.flit)) i)) 0,
                   data := fs.flatMap fun x => dataBytes x.flit.data }).pumpEgress m fuel

/-- CASK_CREDIT (R363). -/
def caskCreditEff (s : State) : State :=
  match s.takeMsg 6 with
  | none => s
  | some (m, s) =>
    let k := bitsN m.addr 0 4
    let e := nth ⟨[], 0⟩ s.trl.egress k
    (s.mapTrl fun t => { t with egress := setNth t.egress k { e with credit := e.credit + bitsN m.aux 0 16 } }).pumpEgress k 64
/-- CASK_CREDIT. -/
def execCaskCredit (s : State) : Host.Outcome State Fault Refusal := .next (caskCreditEff s)

/-- FLIT_ARRIVAL (R139, R141, R146, R159); a flit that reaches the Hub on a circuit that ends at remote-stream egress `eg` joins it and leaves
as a cask write (R363).
(DESIGN CHOICE, log 61) -/
def flitReachEff (s : State) (n : Nat) (code : BridgeCode) (eg : Option (Fin 16)) : State :=
  let before := s.arr.hubIn.length
  let s := flitArrivalEff s n code
  match eg with
  | none => s
  | some m =>
    if s.arr.hubIn.length = before + 1 ∧ bitW (nth 0 s.trl.rse m) 16 = true then
      match s.arr.hubIn.getLast? with
      | some (_, _, x) =>
        let e := nth ⟨[], 0⟩ s.trl.egress m
        let s := s.mapArr fun a => { a with hubIn := a.hubIn.dropLast }
        (s.mapTrl fun t => { t with egress := setNth t.egress m { e with q := e.q ++ [x] } }).pumpEgress m 64
      | none => s
    else s
/-- FLIT_ARRIVAL. -/
def execFlitArrival (n : Nat) (code : BridgeCode) (eg : Option (Fin 16)) (s : State) : Host.Outcome State Fault Refusal :=
  .next (flitReachEff s n code eg)

end Sys2Proof.Machine
end

