-- ==== Sys2Proof/Machine/Graft.lean ====
section
/-!
DEFINITION. Machine/Graft.lean: the Graft queue, steps and commits (08 R234–R256).
-/
namespace Sys2Proof.Machine

/-- May a step start now? (R236, R247, R248) -/
def State.stepReady (s : State) : Bool :=
  s.fbit F.HUB_GRF_CTRL_en && s.job.running && s.arr.clocked && !s.grf.stepping && s.grf.mode == .ready && s.hasBound s.activeV &&
    !(match s.sw with | some w => w.armed && !s.hasBound w.target | none => false) && decide (0 < s.grf.poolLen) &&
    (match s.grfCur with | some q => !q.commit && q.appended && decide (q.done < q.steps) | none => false)

/-- GRAFT_STEP: a step starts. -/
def graftStepEff (s : State) : State := if s.stepReady then s.mapGrf fun g => { g with stepping := true } else s
/-- GRAFT_STEP. -/
def execGraftStep (s : State) : Host.Outcome State Fault Refusal := .next (graftStepEff s)

/-- GRAFT_STEP_END: the bank flips (R246, R247), unless a value the step read arrived poisoned: `poisoned` says so of what the tiles read.
(DESIGN CHOICE, log 66) -/
def graftStepEndEff (s : State) (poisoned : Bool) : State :=
  if !s.grf.stepping then s
  else
    match s.grfCur with
    | none => s
    | some q =>
      let k := s.grf.step + 1
      let (p1, s) := s.graftRead
      let (es, p2, s) := s.stepSamples k
      if poisoned || p1 || p2 then s.graftDamaged
      else
        let b : GBank := ⟨s.grf.w16, s.grf.m8, s.grf.v8, s.grf.em, s.grf.ev⟩
        let (b, n) := graftStep s.grf.sect k b es
        let s := (s.fcount F.HUB_GRF_SAT_sat n).mapGrf fun g => { g with
          w16 := b.w16, m8 := b.m8, v8 := b.v8, em := b.em, ev := b.ev, step := k, stepping := false }
        (s.graftPut.setCur { q with done := q.done + 1 }).pumpGraft 32
/-- GRAFT_STEP_END. -/
def execGraftStepEnd (poisoned : Bool) (s : State) : Host.Outcome State Fault Refusal := .next (graftStepEndEff s poisoned)

/-- COMMIT_STAGING_DONE (R252): the flits have passed through the Graft-commit casks and the idle copies are written; outside a job, or
for a Vintage that is not active, the copies change now.
(DESIGN CHOICE, log 66) -/
def commitStagingDoneEff (s : State) (poisoned : Bool) : State :=
  match s.grf.queue with
  | q :: rest =>
    if !(q.commit && q.staging && !q.staged) then s
    else if poisoned then s.graftDamaged
    else
      let cs := s.commitCasks q.target
      let s := s.grf.stage.foldl (fun s w => writeChip (s.viaCasks cs (w.2.length / 32 + 1) w.2) w.1 w.2 false) s
      let s := s.mapGrf fun g => { g with stage := [], queue := { q with staged := true } :: rest }
      if s.job.running && q.target == s.activeV then s.pumpGraft 32
      else s.commitNow q (if s.job.running then s.curBand else 0)
  | [] => s
/-- COMMIT_STAGING_DONE. -/
def execCommitStagingDone (poisoned : Bool) (s : State) : Host.Outcome State Fault Refusal := .next (commitStagingDoneEff s poisoned)

/-- The head tiles of a commit's target. -/
def State.headTiles (s : State) (v : Nat) : List Nat := (s.headRecs v).map fun h => tileKey (s.targetTile v h.target)

/-- What a commit changes at a head tile that starts band `b` (R252). -/
def State.graftFlip (s : State) (r : TileRef) : State :=
  match s.grf.queue with
  | q :: _ =>
    if q.armed == some (s.tile r).band && (s.headTiles q.target).contains (tileKey r) && !s.grf.changed.contains (tileKey r) then
      let s := ((s.headRecs q.target).filter fun h => s.targetTile q.target h.target == r).foldl (fun s h => s.flipHead q.target h) s
      s.mapGrf fun g => { g with changed := g.changed ++ [tileKey r] }
    else s
  | [] => s

/-- COMMIT_COMPLETE: every head tile has changed copy (R252, R253). -/
def commitCompleteEff (s : State) : State :=
  match s.grf.queue with
  | q :: _ =>
    match q.armed with
    | some b => if (s.headTiles q.target).all s.grf.changed.contains then (s.commitDone q b).pumpGraft 32 else s
    | none => s
  | [] => s
/-- COMMIT_COMPLETE. -/
def execCommitComplete (s : State) : Host.Outcome State Fault Refusal := .next (commitCompleteEff s)

/-! ## What other commands do to Graft -/

/-- SWITCH_COMPLETE (R191, R247, Table 8.4): a step whose head is no longer active is abandoned. A commit staged for the Vintage that is no
longer active takes effect: at once, or, when it was armed for the switch's band, at the head tiles that have left that Vintage. -/
def switchGraftEff (s : State) : State :=
  let old := s.activeV
  let s := switchCompleteEff s
  if s.activeV = old then s
  else
    let s := if s.hasBound s.activeV then s else s.mapGrf fun g => { g with stepping := false }
    match s.grf.queue with
    | q :: _ => if q.commit && q.staged && q.target != s.activeV then s.commitNow q (q.armed.getD s.curBand) else s
    | [] => s
/-- SWITCH_COMPLETE. -/
def execSwitchComplete (s : State) : Host.Outcome State Fault Refusal := .next (switchGraftEff s)

/-- TELEMETRY_SAMPLE: Graft intake resumes with the other background traffic (R397). -/
def telemetryGraftEff (s : State) (ans : List RegAnswer) : State :=
  let was := s.pwr.deferBg
  let s := telemetrySampleEff s ans
  if was && !s.pwr.deferBg then s.pumpGraft 32 else s
/-- TELEMETRY_SAMPLE. -/
def execTelemetrySample (ans : List RegAnswer) (s : State) : Host.Outcome State Fault Refusal := .next (telemetryGraftEff s ans)

/-- CASK_POINTER_MISMATCH (R157, R158); the reset of a Graft-commit cask loses staged words: the commit completes with E-0D09 (R252). -/
def caskMismatchGraftEff (s : State) (c : CaskRef) (rp wp cnt : Nat) : State :=
  let lost := s.caskPriv c && s.caskEn c && s.caskClass c == 3 && !(rp == (s.cask c).rp && wp == (s.cask c).wp && cnt == (s.cask c).cnt)
  let s := caskPointerMismatchEff s c rp wp cnt
  match s.grf.queue with
  | q :: rest =>
    if lost && q.commit && q.staging && !q.staged then
      ((s.mapGrf fun g => { g with queue := rest, stage := [] }).complete q.tag 0x0A 0x0D09 0 q.irq).pumpGraft 32
    else s
  | [] => s
/-- CASK_POINTER_MISMATCH. -/
def execCaskPointerMismatch (c : CaskRef) (rp wp cnt : Nat) (s : State) : Host.Outcome State Fault Refusal :=
  .next (caskMismatchGraftEff s c rp wp cnt)

/-- WAIT_BAND (R50, R51, R179, R252): bit errors strike the words read first. -/
def execWaitBand (r : TileRef) (hits : List Upset) (s : State) : Host.Outcome State Fault Refusal :=
  .next (waitBandEff (s.strike hits) r fun s => s.graftFlip r)

/-- GRF_STATUS.state as it reads. -/
def State.grfShow (s : State) : Nat :=
  let pend := match s.grf.queue with | q :: _ => q.commit && q.staging | [] => false
  let steps := match s.grfCur with | some q => !q.commit && q.appended && decide (q.done < q.steps) | none => false
  match s.grf.mode with
  | .uninit => 0
  | .damaged => 4
  | .ready =>
    if s.grf.stepping then 2
    else if pend then 5
    else if steps then (if !s.fbit F.HUB_GRF_CTRL_en then 6 else if !s.hasBound s.activeV then 3 else 1)
    else 1

end Sys2Proof.Machine
end

