-- ==== Sys2Proof/Machine/Sha.lean ====
section
/-!
DEFINITION. Machine/Sha.lean: SHA-256 over bytes, the measurement and digest of 07 R218, R227, R236 and 15 R420, R430.
-/
namespace Sys2Proof.Machine

/-- Round constants. -/
def shaK : List Nat :=
  [0x428A2F98, 0x71374491, 0xB5C0FBCF, 0xE9B5DBA5, 0x3956C25B, 0x59F111F1, 0x923F82A4, 0xAB1C5ED5] ++
  [0xD807AA98, 0x12835B01, 0x243185BE, 0x550C7DC3, 0x72BE5D74, 0x80DEB1FE, 0x9BDC06A7, 0xC19BF174] ++
  [0xE49B69C1, 0xEFBE4786, 0x0FC19DC6, 0x240CA1CC, 0x2DE92C6F, 0x4A7484AA, 0x5CB0A9DC, 0x76F988DA] ++
  [0x983E5152, 0xA831C66D, 0xB00327C8, 0xBF597FC7, 0xC6E00BF3, 0xD5A79147, 0x06CA6351, 0x14292967] ++
  [0x27B70A85, 0x2E1B2138, 0x4D2C6DFC, 0x53380D13, 0x650A7354, 0x766A0ABB, 0x81C2C92E, 0x92722C85] ++
  [0xA2BFE8A1, 0xA81A664B, 0xC24B8B70, 0xC76C51A3, 0xD192E819, 0xD6990624, 0xF40E3585, 0x106AA070] ++
  [0x19A4C116, 0x1E376C08, 0x2748774C, 0x34B0BCB5, 0x391C0CB3, 0x4ED8AA4A, 0x5B9CCA4F, 0x682E6FF3] ++
  [0x748F82EE, 0x78A5636F, 0x84C87814, 0x8CC70208, 0x90BEFFFA, 0xA4506CEB, 0xBEF9A3F7, 0xC67178F2]
/-- Initial hash value. -/
def shaH0 : List Nat := [0x6A09E667, 0xBB67AE85, 0x3C6EF372, 0xA54FF53A, 0x510E527F, 0x9B05688C, 0x1F83D9AB, 0x5BE0CD19]

/-- Rotate a 32-bit number right. -/
def rotr (x n : Nat) : Nat := (x >>> n) + (x % 2 ^ n) * 2 ^ (32 - n)
/-- The number four big-endian bytes spell. -/
def beWord (bs : List Byte) : Nat := bs.foldl (fun a b => 256 * a + b.toNat) 0
/-- The `n` big-endian bytes of a number. -/
def beBytes (n x : Nat) : List Byte := (bytesOf n x).reverse

/-- Message schedule: words are kept newest first and extended to 64. -/
def shaSched : Nat → List Nat → List Nat
  | 0, w => w
  | n + 1, w =>
    let a := nth 0 w 1
    let b := nth 0 w 14
    let s1 := Nat.xor (Nat.xor (rotr a 17) (rotr a 19)) (a >>> 10)
    let s0 := Nat.xor (Nat.xor (rotr b 7) (rotr b 18)) (b >>> 3)
    shaSched n ((s1 + nth 0 w 6 + s0 + nth 0 w 15) % 2 ^ 32 :: w)

/-- One round on the working variables a–h. -/
def shaRound (v : List Nat) (kw : Nat × Nat) : List Nat :=
  let x := fun i => nth 0 v i
  let e := x 4
  let S1 := Nat.xor (Nat.xor (rotr e 6) (rotr e 11)) (rotr e 25)
  let ch := Nat.xor (Nat.land e (x 5)) (Nat.land (2 ^ 32 - 1 - e) (x 6))
  let t1 := x 7 + S1 + ch + kw.1 + kw.2
  let S0 := Nat.xor (Nat.xor (rotr (x 0) 2) (rotr (x 0) 13)) (rotr (x 0) 22)
  let mj := Nat.xor (Nat.xor (Nat.land (x 0) (x 1)) (Nat.land (x 0) (x 2))) (Nat.land (x 1) (x 2))
  [(t1 + S0 + mj) % 2 ^ 32, x 0, x 1, x 2, (x 3 + t1) % 2 ^ 32, x 4, x 5, x 6]

/-- One block of 64 bytes. -/
def shaBlock (h : List Nat) (bs : List Byte) : List Nat :=
  let w := shaSched 48 ((List.range 16).map fun i => beWord ((bs.drop (4 * i)).take 4)).reverse
  let v := (shaK.zip w.reverse).foldl shaRound h
  (h.zip v).map fun x => (x.1 + x.2) % 2 ^ 32

/-- Blocks one after the other; `n` bounds them. -/
def shaBlocks : Nat → List Nat → List Byte → List Nat
  | 0, h, _ => h
  | n + 1, h, bs => if bs.isEmpty then h else shaBlocks n (shaBlock h (bs.take 64)) (bs.drop 64)

/-- SHA-256: 32 bytes.
(PRESUMED, log 72) -/
def sha256 (bs : List Byte) : List Byte :=
  let n := bs.length
  let m := bs ++ 0x80 :: (List.replicate ((119 - n % 64) % 64) 0 ++ beBytes 8 (8 * n))
  (shaBlocks (n / 64 + 2) shaH0 m).flatMap (beBytes 4)

end Sys2Proof.Machine
end

