-- ==== Sys2Proof/Machine/Slh.lean ====
section
/-!
DEFINITION. Machine/Slh.lean: SLH-DSA-SHA2-128s (FIPS 205: n 16, h 63, d 7, a 12, k 14, Winternitz digits of 4 bits), pure interface with
an empty context string, which 07 R220 and 15 R420, R429, R430 name: verification, the root of a key pair, and signing.
(PRESUMED, log 72)
-/
namespace Sys2Proof.Machine

/-- An address: layer and tree, its type, and its last three words. The types are 0 WOTS hash, 1 WOTS key, 2 tree, 3 FORS tree, 4 FORS roots,
5 WOTS secret, 6 FORS secret. -/
structure SlhAdrs where
  layer : Nat
  tree : Nat
  type : Nat
  key : Nat
  height : Nat
  index : Nat
deriving DecidableEq, Repr

/-- The 22 bytes of an address that the SHA-2 functions hash. -/
def SlhAdrs.bytes (x : SlhAdrs) : List Byte :=
  beBytes 1 x.layer ++ beBytes 8 x.tree ++ beBytes 1 x.type ++ beBytes 4 x.key ++ beBytes 4 x.height ++ beBytes 4 x.index

/-- The tweakable hash: 16 bytes of the digest of PK.seed in a block of its own, the address and the message. F, H, T and PRF are all this. -/
def slhT (pk : List Byte) (x : SlhAdrs) (m : List Byte) : List Byte :=
  (sha256 (pk ++ List.replicate 48 0 ++ x.bytes ++ m)).take 16

/-- Element `i` of a concatenation of 16-byte values. -/
def slhAt (b : List Byte) (i : Nat) : List Byte := (b.drop (16 * i)).take 16

/-- Digit `i` of `w` bits of a byte string, the first being the most significant. -/
def slhDigit (b : List Byte) (w i : Nat) : Nat := beWord b / 2 ^ (8 * b.length - w * (i + 1)) % 2 ^ w

/-- `n` steps of a hash chain from position `i`. -/
def slhChain (pk : List Byte) (x : SlhAdrs) : Nat → Nat → List Byte → List Byte
  | _, 0, v => v
  | i, n + 1, v => slhChain pk x (i + 1) n (slhT pk { x with index := i } v)

/-- The 35 Winternitz digits of a 16-byte message: 32 of the message and three of its checksum. -/
def slhDigits (m : List Byte) : List Nat :=
  let ds := (List.range 32).map (slhDigit m 4)
  let sum := (ds.map (15 - ·)).foldl (· + ·) 0
  ds ++ (List.range 3).map (slhDigit (beBytes 2 (16 * sum)) 4)

/-- The WOTS public key that a signature of a message gives. -/
def slhWots (pk : List Byte) (layer tree kp : Nat) (sig m : List Byte) : List Byte :=
  let ends := (slhDigits m).zipIdx.flatMap fun (d, i) => slhChain pk ⟨layer, tree, 0, kp, i, 0⟩ d (15 - d) (slhAt sig i)
  slhT pk ⟨layer, tree, 1, kp, 0, 0⟩ ends

/-- The root that a node and its authentication path give: at height `j` the node has index `i`. -/
def slhClimb (pk : List Byte) (x : SlhAdrs) (path : List Byte) (j i : Nat) (v : List Byte) : Nat → List Byte
  | 0 => v
  | n + 1 =>
    let a := slhAt path j
    slhClimb pk x path (j + 1) (i / 2) (slhT pk { x with height := j + 1, index := i / 2 } (if i % 2 = 0 then v ++ a else a ++ v)) n

/-- The XMSS root that a signature of 35 chain values and 9 path nodes gives. -/
def slhXmss (pk : List Byte) (layer tree leaf : Nat) (sig m : List Byte) : List Byte :=
  slhClimb pk ⟨layer, tree, 2, 0, 0, 0⟩ (sig.drop 560) 0 leaf (slhWots pk layer tree leaf (sig.take 560) m) 9

/-- The root of the hypertree that `n` XMSS signatures give, from layer `layer` upward. -/
def slhHyper (pk : List Byte) (layer tree leaf : Nat) (sig m : List Byte) : Nat → List Byte
  | 0 => m
  | n + 1 => slhHyper pk (layer + 1) (tree / 512) (tree % 512) (sig.drop 704) (slhXmss pk layer tree leaf (sig.take 704) m) n

/-- The FORS public key that a signature of a 21-byte message digest gives. -/
def slhFors (pk : List Byte) (tree leaf : Nat) (sig md : List Byte) : List Byte :=
  let root (i : Nat) : List Byte :=
    let d := slhDigit md 12 i
    let b := sig.drop (208 * i)
    let v := slhT pk ⟨0, tree, 3, leaf, 0, 4096 * i + d⟩ (b.take 16)
    slhClimb pk ⟨0, tree, 3, leaf, 0, 0⟩ (b.drop 16) 0 (4096 * i + d) v 12
  slhT pk ⟨0, tree, 4, leaf, 0, 0⟩ ((List.range 14).flatMap root)

/-- The digest of a message under a randomiser: its FORS part, the tree and the leaf. -/
def slhSplit (r pk root m : List Byte) : List Byte × Nat × Nat :=
  let d := (sha256 (r ++ pk ++ sha256 (r ++ pk ++ root ++ m) ++ [0, 0, 0, 0])).take 30
  (d.take 21, beWord ((d.drop 21).take 7) % 2 ^ 54, beWord (d.drop 28) % 512)

/-- The message with the empty context string before it (pure interface). -/
def slhPure (m : List Byte) : List Byte := 0 :: 0 :: m

/-- Does a signature of a message verify under a public key of PK.seed and PK.root?
(PRESUMED, log 72) -/
def slhVerify (key m sig : List Byte) : Bool :=
  let pk := key.take 16
  let root := key.drop 16
  let (md, tree, leaf) := slhSplit (sig.take 16) pk root (slhPure m)
  key.length == 32 && sig.length == 7856 &&
    slhHyper pk 0 tree leaf (sig.drop 2928) (slhFors pk tree leaf ((sig.drop 16).take 2912) md) 7 == root

/-- The node of height `z` and index `i` over leaves that `leaf` gives. -/
def slhNode (pk : List Byte) (x : SlhAdrs) (leaf : Nat → List Byte) : Nat → Nat → List Byte
  | 0, i => leaf i
  | z + 1, i => slhT pk { x with height := z + 1, index := i } (slhNode pk x leaf z (2 * i) ++ slhNode pk x leaf z (2 * i + 1))
/-- The authentication path of leaf `i` in a tree of height `n`. -/
def slhPath (pk : List Byte) (x : SlhAdrs) (leaf : Nat → List Byte) (i n : Nat) : List Byte :=
  (List.range n).flatMap fun j => slhNode pk x leaf j (Nat.xor (i / 2 ^ j) 1)

/-- Secret chain value `i` of a WOTS key pair. -/
def slhSecret (sk pk : List Byte) (layer tree kp i : Nat) : List Byte := slhT pk ⟨layer, tree, 5, kp, i, 0⟩ sk
/-- The public key of a WOTS key pair, a leaf of its tree. -/
def slhLeaf (sk pk : List Byte) (layer tree kp : Nat) : List Byte :=
  slhT pk ⟨layer, tree, 1, kp, 0, 0⟩
    ((List.range 35).flatMap fun i => slhChain pk ⟨layer, tree, 0, kp, i, 0⟩ 0 15 (slhSecret sk pk layer tree kp i))
/-- The root of an XMSS tree. -/
def slhTree (sk pk : List Byte) (layer tree : Nat) : List Byte :=
  slhNode pk ⟨layer, tree, 2, 0, 0, 0⟩ (slhLeaf sk pk layer tree) 9 0
/-- PK.root of the key pair of SK.seed and PK.seed.
(PRESUMED, log 72) -/
def slhRoot (sk pk : List Byte) : List Byte := slhTree sk pk 6 0

/-- Sign a message with a WOTS key pair and give the path of its leaf. -/
def slhXmssSign (sk pk : List Byte) (layer tree leaf : Nat) (m : List Byte) : List Byte :=
  ((slhDigits m).zipIdx.flatMap fun (d, i) => slhChain pk ⟨layer, tree, 0, leaf, i, 0⟩ 0 d (slhSecret sk pk layer tree leaf i)) ++
    slhPath pk ⟨layer, tree, 2, 0, 0, 0⟩ (slhLeaf sk pk layer tree) leaf 9
/-- The signatures of `n` layers of the hypertree from `layer` upward. -/
def slhHyperSign (sk pk : List Byte) (layer tree leaf : Nat) (m : List Byte) : Nat → List Byte
  | 0 => []
  | n + 1 =>
    slhXmssSign sk pk layer tree leaf m ++ slhHyperSign sk pk (layer + 1) (tree / 512) (tree % 512) (slhTree sk pk layer tree) n
/-- The FORS signature of a 21-byte message digest. -/
def slhForsSign (sk pk : List Byte) (tree leaf : Nat) (md : List Byte) : List Byte :=
  let secret (i : Nat) : List Byte := slhT pk ⟨0, tree, 6, leaf, 0, i⟩ sk
  let node (i : Nat) : List Byte := slhT pk ⟨0, tree, 3, leaf, 0, i⟩ (secret i)
  (List.range 14).flatMap fun i =>
    let d := 4096 * i + slhDigit md 12 i
    secret d ++ slhPath pk ⟨0, tree, 3, leaf, 0, 0⟩ node d 12

/-- HMAC-SHA-256 of a 16-byte key. -/
def hmac (key m : List Byte) : List Byte :=
  let pad (b : Byte) : List Byte := (key.map (· ^^^ b)) ++ List.replicate 48 b
  sha256 (pad 0x5C ++ sha256 (pad 0x36 ++ m))

/-- The signature that a seed bank of SK.seed, SK.prf, PK.seed and PK.root gives a message with the 16 bytes `rand` as opt_rand.
(PRESUMED, log 72) -/
def slhSign (bank rand m : List Byte) : List Byte :=
  let sk := bank.take 16
  let pk := slhAt bank 2
  let r := (hmac (slhAt bank 1) (rand ++ slhPure m)).take 16
  let (md, tree, leaf) := slhSplit r pk (slhAt bank 3) (slhPure m)
  let fors := slhForsSign sk pk tree leaf md
  r ++ fors ++ slhHyperSign sk pk 0 tree leaf (slhFors pk tree leaf fors md) 7

end Sys2Proof.Machine
end

