-- ==== Sys2Proof/Machine/Security.lean ====
section
/-!
DEFINITION. Machine/Security.lean: boot, Cellarmaster restart, life cycle, key slots, flash, attestation and debug unlock (15
R414–R434).
-/
namespace Sys2Proof.Machine

/-! ## Boot (R419–R423) -/

/-- Bytes of the flash. -/
def State.flashBytes (s : State) (a n : Nat) : List Byte := (List.range n).map fun i => sget erased s.sec.flash (a + i)
/-- First flash byte of a boot slot. -/
def bootBase (slot : Nat) : Nat := slot * 0x2000000

/-- Does a boot header pass (R421 step 1, Table 15.3)?
(DESIGN CHOICE, log 71) -/
def bootHeadOk (h : List Byte) : Bool :=
  let len := leAt h 0x0C 4
  leAt h 0 4 == 0x544F4F42 && leAt h 4 2 == 1 && leAt h 6 2 == 0x40 && leAt h 0x14 2 == 0x6400 &&
    decide (0 < len) && len % 4096 == 0 && decide (len ≤ 0x800000) &&
    decide (leAt h 0x18 4 + leAt h 0x1C 4 ≤ len) && decide (leAt h 0x20 4 + leAt h 0x24 4 ≤ len) && leAt h 0x17 1 == 0 && leAt h 0x28 24 == 0

/-- Is a configuration record valid: a flash register with no reserved bit and every field in its range, or the subsystem IDs (R422)? -/
def cfgRecOk (r : List Byte) : Bool :=
  let off := leAt r 0 4
  let v := leAt r 4 4
  if off = 0xFFFFFF00 then true
  else if (List.range 4).any fun c => off == R.HRM_CH_CFG c then
    v < 0x80 && bitN v 7 == false && bitsN v 0 2 != 3 && (bitsN v 0 2 == 0 || (decide (3 ≤ bitsN v 4 3) && decide (bitsN v 4 3 ≤ 7)))
  else if (List.range 8).any fun k => off == R.PWR_REG k then decide (v < 0x2000) && decide (bitsN v 8 4 ≤ 8)
  else false

/-- The configuration records of an image. -/
def State.cfgRecs (s : State) (slot : Nat) (h : List Byte) : List (List Byte) :=
  (List.range (leAt h 0x24 4 / 8)).map fun i => s.flashBytes (bootBase slot + leAt h 0x20 4 + 8 * i) 8

/-- The result of trying a slot whose header passes: 0 when it boots (R421 step 3), and its measurement. -/
def State.trySlot (s : State) (slot : Nat) (h : List Byte) : Nat × List Byte :=
  let key := leAt h 0x16 1
  let len := leAt h 0x0C 4
  if !nth false s.fuse.fwFused key then (0x0C03, [])
  else if leAt h 0x10 4 < s.fuse.svnFloor then (0x0C06, [])
  else
    let meas := sha256 (s.flashBytes (bootBase slot) len)
    if !slhVerify (Config.fwKey key) meas (s.flashBytes (bootBase slot + len) 7856) then (0x0C02, meas)
    else if !(s.cfgRecs slot h).all cfgRecOk then (0x0C04, meas)
    else (0, meas)

/-- The slots in the order they are tried: higher seq first, slot A on a tie. -/
def bootOrder (ha hb : List Byte) : List Nat :=
  let a := if bootHeadOk ha then [0] else []
  let b := if bootHeadOk hb then [1] else []
  if leAt ha 8 4 < leAt hb 8 4 then b ++ a else a ++ b

/-- Try slots in order: the results so far and the image that boots. -/
def State.bootPick (s : State) : List Nat → List (Nat × Nat) → List (Nat × Nat) × Option BootSt
  | [], rs => (rs, none)
  | k :: ks, rs =>
    let h := s.flashBytes (bootBase k) 64
    let (code, meas) := s.trySlot k h
    if code = 0 then
      (rs ++ (k, 0) :: ks.map fun j => (j, 0x0C08),
       some { slot := k, seq := leAt h 8 4, svn := leAt h 0x10 4, key := leAt h 0x16 1, meas := meas })
    else s.bootPick ks (rs ++ [(k, code)])

/-- Write the records of the booting image: flash registers no record names read 0; channels now present initialise (R422, R349).
(DEDUCED, log 7) -/
def State.applyRecs (s : State) (slot : Nat) : State :=
  let h := s.flashBytes (bootBase slot) 64
  let s := (List.range 4).foldl (fun s c => s.setReg (R.HRM_CH_CFG c) 0) s
  let s := (List.range 8).foldl (fun s k => s.setReg (R.PWR_REG k) 0) s
  let s := { s with pci := { s.pci with subsys := 0 } }
  let s := (s.cfgRecs slot h).foldl (fun s r =>
    if leAt r 0 4 = 0xFFFFFF00 then { s with pci := { s.pci with subsys := leAt r 4 4 } }
    else s.setReg (leAt r 0 4) (BitVec.ofNat 32 (leAt r 4 4))) s
  (List.range 4).foldl (fun s c =>
    s.setHyper c (if s.fget (F.HRM_CH_CFG_devices c) = 0 then 0 else if s.chanAt c = 0 then 1 else s.chanAt c)) s

/-- Every block of HyperRAM holds zero (R426, R427). -/
def State.wipeHyper (s : State) : State := (List.range 4).foldl (fun s c => s.zeroChannel c) s

/-- A wipe that a transition left unfinished is done before any slot is read (R427). -/
def State.finishWipe (s : State) : State :=
  if bitN s.sec.wipeDone s.fuse.lc then s
  else s.zeroChip.wipeHyper.mapSec fun x => { x with wipeDone := x.wipeDone + 2 ^ s.fuse.lc }

/-- The codes of a boot in the order in which the slots gave them: headers that fail, then slots tried (R421); each is raised (R436). -/
def State.bootErrs (s : State) (ha hb : List Byte) (rs : List (Nat × Nat)) : State :=
  let bad (h : List Byte) : List Nat := if bootHeadOk h then [] else [0x0C01]
  ((bad ha ++ bad hb ++ rs.map (·.2)).filter fun c => c != 0 && c != 0x0C08).foldl State.secErr s

/-- BOOT (R421–R423, R414): once nothing holds the device in reset the boot ROM selects a slot, and the image that boots stands in the
Cellarmaster memories; a reset boot also applies its records, a Cellarmaster restart does not.
(DEDUCED, log 81; DEDUCED, log 134; DESIGN CHOICE, log 140) -/
def bootEff (s : State) : State :=
  if s.rstHeld || (s.sec.released && !s.sec.restart) then s
  else
    let s := if s.sec.restart then s else s.finishWipe
    let ha := s.flashBytes 0 64
    let hb := s.flashBytes (bootBase 1) 64
    let (rs, im) := s.bootPick (bootOrder ha hb) []
    let code (k : Nat) (h : List Byte) : Nat := if bootHeadOk h then ((rs.find? fun x => x.1 == k).map (·.2)).getD 0x0C08 else 0x0C01
    let s := (s.fset F.SEC_BOOT_CODE_code_a (code 0 ha)).fset F.SEC_BOOT_CODE_code_b (code 1 hb)
    let s := s.bootErrs ha hb rs
    let re := s.sec.restart && s.sec.released
    let mem := match im with | some b => s.flashBytes (bootBase b.slot) (leAt (if b.slot = 0 then ha else hb) 0x0C 4) | none => []
    let s := s.mapSec fun x => { x with
      boot := if re && im.isNone then x.boot else im, cmMem := mem, restart := false, released := true,
      recov := im.isNone && (x.recov || !re) }
    let s : State := match im with
      | some b =>
        let s := if re then s else s.applyRecs b.slot
        ((s.fset F.SEC_BOOT_STATUS_slot b.slot).fset F.SEC_BOOT_STATUS_svn b.svn).setCm 2
      | none =>
        let s : State := if re then s else { (List.range 8).foldl (fun s k => s.setReg (R.PWR_REG k) 0)
            ((List.range 4).foldl (fun s c => s.setReg (R.HRM_CH_CFG c) 0) s) with pci := { s.pci with subsys := 0 } }
        let s := s.secErr 0x0C07
        (if re then s else (s.fset F.SEC_BOOT_STATUS_slot 2).fset F.SEC_BOOT_STATUS_svn 0).setCm 3
    let s := if re then (if im.isSome then s.irq 5 else s) else (s.fset F.PWR_STATE_state 1).setVolts
    if s.cmRuns then s.eccDrain else s
/-- BOOT. -/
def execBoot (s : State) : Host.Outcome State Fault Refusal := .next (bootEff s)

/-- Is the device in recovery: no slot has booted since the last cold or warm reset (R423)? -/
def State.recovery (s : State) : Bool := s.sec.recov

/-! ## Cellarmaster restart (R414, R415) -/

/-- Loader work in hand ends with E-0C21: a LOAD_BLEND leaves its slot invalid, a PLACE its Vintage unplaced.
(DEDUCED, log 74) -/
def State.cmDrop (s : State) : State :=
  let s := match s.cp.serial with
    | some c =>
      if c.op = 1 ∨ c.op = 2 ∨ c.op = 0x0E then
        (s.mapCp fun x => { x with serial := none }).complete c.e.tag.toNat c.op 0x0C21 0 (c.e.flags.getLsbD 0)
      else s
    | none => s
  let s := match s.hrm.loading with | some k => (s.slotInvalid k).mapHrm fun h => { h with loading := none } | none => s
  let s := match s.hrm.placing with | some p => s.settleRows ((s.unplace p.v).mapHrm fun h => { h with placing := none }) | none => s
  let s := if s.fbit F.HUB_LDR_STATUS_busy then
      (((s.fset F.HUB_LDR_STATUS_code 0x0C21).setReg R.HUB_LDR_LOC 0xFFFFFFFF).setReg R.HUB_LDR_UNIT 0x780).fset F.HUB_LDR_STATUS_busy 0
    else s
  let s := match s.cp.attest with
  | some a => (s.mapCp fun x => { x with attest := none }).complete a.tag 0x0F 0x0C21 0 a.irq
  | none => s
  if s.pci.d3Wait then s.enterD3 else s

/-- A restart starts: the Cellarmaster is held, and the boot that follows loads its memories again; a broader reset or a restart in progress
absorbs it (R411).
(DEDUCED, log 67) -/
def State.cmRestart (s : State) (cause : Nat) : State :=
  if 0 < s.rstLevel || s.sec.restart then s
  else ((s.cmDrop.rstStatus 4 cause).setCm 1).fcount F.HUB_CM_STATUS_restarts 1 |>.mapSec fun x => { x with restart := true }

/-- WATCHDOG_EXPIRY: E-0C22 and a restart; a timeout of 0 disables the watchdog. -/
def watchdogExpiryEff (s : State) : State :=
  if s.fget F.HUB_CM_WDT_timeout_ms = 0 ∨ s.cmRuns = false then s else (s.secErr 0x0C22).cmRestart 0

/-! ## Life cycle (R425–R429) -/

/-- Is a Blend-signer key usable: written and not revoked?
(DEDUCED, log 136) -/
def KeySlot.usable (k : KeySlot) : Bool := k.written && !k.revoked

/-- The code with which a transition is refused, 0 when it is accepted (R426, R427).
(DEDUCED, log 167) -/
def State.lcCode (s : State) (target : Nat) : Nat :=
  let loader := s.hrm.loading.isSome || s.hrm.placing.isSome || s.cp.attest.isSome ||
    (match s.cp.serial with | some c => c.op == 1 || c.op == 2 | none => false)
  if target ≠ s.fuse.lc + 1 then 0x0C10
  else if target = 3 ∧ s.sec.retAuth = false then 0x0C10
  else if s.job.running || loader then 0x0C11
  else if target = 2 ∧ s.fuse.keys.any KeySlot.usable = false then 0x0C12
  else if target = 1 ∧ 2 ≤ s.fuse.banks then 0x0C13
  else 0

/-- The identity key is generated from three fresh values and burned into the next seed bank, whose valid fuse comes last (R426, R429). -/
def State.makeIdentity (s : State) : State :=
  let n := 2 ^ 128
  let (a, s) := s.freshBelow n
  let (b, s) := s.freshBelow n
  let (c, s) := s.freshBelow n
  let (sk, prf, pk) := (bytesOf 16 a, bytesOf 16 b, bytesOf 16 c)
  { s with fuse := { s.fuse with banks := s.fuse.banks + 1, bankOk := s.fuse.bankOk ++ [false],
                                 idSeed := s.fuse.idSeed ++ [sk ++ prf ++ pk ++ slhRoot sk pk] } }

/-- Steps 2 and 3 of a transition (R426): the state fuse is burned and the wipes start.
(DESIGN CHOICE, log 73) -/
def State.transWipe (s : State) (x : TransSt) : State :=
  ({ s with fuse := { s.fuse with lc := x.target } }.wipe.wipeHyper).mapSec fun y => { y with trans := some { x with burning := false } }
/-- Step 1 of a transition to Provisioned ends: the valid fuse of its bank is burned (R426).
(DESIGN CHOICE, log 73) -/
def State.transTick (s : State) : State :=
  match s.sec.trans with
  | some x => if x.burning then { s with fuse := { s.fuse with bankOk := setNth s.fuse.bankOk (s.fuse.banks - 1) true } }.transWipe x else s
  | none => s

/-- LIFE_CYCLE_TRANSITION (R426): a write of SEC.LC_CTRL with confirm = 0xA5. A request while a transition runs is dropped.
(DESIGN CHOICE, log 73) -/
def lifeCycleEff (s : State) (v : Word) (failed : List (Fin 4 × Fin 8)) : State :=
  let target := bitsW v 0 2
  if bitsW v 8 8 ≠ 0xA5 || s.sec.trans.isSome then s
  else if s.lcCode target ≠ 0 then s.secErr (s.lcCode target)
  else if target = 1 then s.makeIdentity.mapSec fun x => { x with trans := some ⟨1, true, failed⟩ }
  else s.transWipe ⟨target, false, failed⟩

/-- SVN_UP (R428): svn fuses are burned up to the svn of the booted image; there are 32. -/
def svnUpEff (s : State) : State :=
  match s.sec.boot with
  | some b => { s with fuse := { s.fuse with svnFloor := Nat.max s.fuse.svnFloor (Nat.min 32 b.svn) } }
  | none => s

/-- Is the device Sealed or Returned: are RWS fields read-only (R9, Table 15.4)? -/
def State.sealed (s : State) : Bool := decide (2 ≤ s.fuse.lc)

/-- First BAR0 offset of the key window (Table 15.6). -/
def keyWin : Nat := 0x41100

/-- KEY_PROGRAM (R428, R9): a write of SEC.KEY_CTRL with prog = 1.
(DEDUCED, log 136) -/
def keyProgramEff (s : State) (v : Word) : State :=
  let k := bitsW v 0 3
  let s := s.fset F.SEC_KEY_CTRL_slot k
  if s.sealed then s.violate .bar0 R.SEC_KEY_CTRL true 2
  else
    let s := s.fset F.SEC_KEY_CTRL_dbg (bitsW v 3 1)
    let old := nth ⟨false, false, false, []⟩ s.fuse.keys k
    if old.written then s.secErr 0x0C14
    else { s with fuse := { s.fuse with keys := setNth s.fuse.keys k ⟨true, bitW v 3, old.revoked, s.winBytes keyWin 32⟩ } }

/-- KEY_REVOKE (R428): accepted in every state.
(DEDUCED, log 136) -/
def keyRevokeEff (s : State) (v : Word) : State :=
  let k := bitsW v 0 3
  let s := s.fset F.SEC_KEY_CTRL_slot k
  { s with fuse := { s.fuse with keys := setNth s.fuse.keys k { nth ⟨false, false, false, []⟩ s.fuse.keys k with revoked := true } } }

/-! ## Flash (R424) -/

/-- First BAR0 offset of the page buffer. -/
def pageWin : Nat := 0x41000
/-- Does an address range meet the slot that booted? -/
def State.bootedAt (s : State) (a n : Nat) : Bool :=
  match s.sec.boot with
  | some b => !s.recovery && rangesMeet a (a + n - 1) (bootBase b.slot) (bootBase b.slot + 0x1FFFFFF)
  | none => false

/-- A write of SEC.FL_CTRL (R424): dropped as a violation while an operation runs; one that starts an operation in the slot that booted is
refused; what a misaligned program or erase answers the spec leaves open, and the flash is not touched.
(DESIGN CHOICE, log 68) -/
def State.flashStart (s : State) (src : AccSrc) (op : Nat) : State :=
  let a := s.fget F.SEC_FL_ADDR_addr
  let n := if op = 2 then 256 else 65536
  if s.fbit F.SEC_FL_CTRL_busy then s.violate src R.SEC_FL_CTRL true 1
  else if op = 0 then s
  else if op ≠ 1 ∧ a % n ≠ 0 then let (c, s) := s.freshBelow 65536; s.fset F.SEC_FL_CTRL_code c
  else if op ≠ 1 ∧ s.bootedAt a n = true then (s.secErr 0x0C05).fset F.SEC_FL_CTRL_code 0x0C05
  else (s.fset F.SEC_FL_CTRL_busy 1).mapSec fun x => { x with flashOp := some ⟨op, a, 0⟩ }


/-- FLASH_OP_DONE: a page reaches the buffer, a program clears bits, an erase sets them.
(PRESUMED, log 69) -/
def flashOpDoneEff (s : State) : State :=
  match s.sec.flashOp with
  | none => s
  | some f =>
    let s := if f.op = 1 then s.putWin 64 pageWin (s.flashBytes f.addr 256)
      else if f.op = 2 then
        let new := (s.winBytes pageWin 256).zip (s.flashBytes f.addr 256) |>.map fun x => x.1 &&& x.2
        s.mapSec fun x => { x with flash := putFlash x.flash f.addr new }
      else s.mapSec fun x => { x with flash := x.flash.filter fun y => !(decide (f.addr ≤ y.1) && decide (y.1 < f.addr + 65536)) }
    ((s.fset F.SEC_FL_CTRL_busy 0).fset F.SEC_FL_CTRL_code f.code).mapSec fun x => { x with flashOp := none }
/-- FLASH_OP_DONE. -/
def execFlashOpDone (s : State) : Host.Outcome State Fault Refusal := .next (flashOpDoneEff s)

/-- POWER_REMOVAL. -/
def execPowerRemoval (s : State) : Host.Outcome State Fault Refusal := .next (powerRemovalEff s)

/-! ## Debug (R432, R433) -/

/-- DEBUG_CHALLENGE (R432): the challenge before it is discarded, and a response that waits gives E-0C33 (Table 15.7). -/
def debugChallengeEff (s : State) (v : Word) : State :=
  let scope := bitsW v 0 4
  let (x, s) := s.freshBelow (256 ^ 32)
  let c := bytesOf 32 x ++ bytesOf 8 s.fuse.serial ++ bytesOf 1 s.fuse.lc ++ bytesOf 1 scope ++ List.replicate 22 0
  let s := (s.fset F.SEC_DBG_CTRL_scope scope).putWin 16 0x41300 c
  let s := if s.sec.verify.isSome then ((s.mapSec fun y => { y with verify := none }).fset F.SEC_DBG_CTRL_busy 0).secErr 0x0C33 else s
  s.mapSec fun y => { y with challenge := some c, chScope := scope }

/-- DEBUG_SUBMIT (R432): the challenge is consumed and the response window is verified; with none outstanding, E-0C33. -/
def debugSubmitEff (s : State) : State :=
  match s.sec.challenge with
  | none => s.secErr 0x0C33
  | some c =>
    let sig := s.winBytes 0x42000 7856
    (s.mapSec fun y => { y with challenge := none, verify := some (y.chScope, c, sig) }).fset F.SEC_DBG_CTRL_busy 1

/-- Does a response verify under a key allowed for its scope (R433)? -/
def State.debugOk (s : State) (scope : Nat) (c sig : List Byte) : Bool :=
  let m := sha256 c
  ((List.range 4).any fun k => nth false s.fuse.fwFused k && slhVerify (Config.fwKey k) m sig) ||
    (!bitN scope 3 && s.fuse.keys.any fun k => k.usable && k.dbg && slhVerify k.key m sig)

/-- DEBUG_VERIFY_DONE (R433). -/
def debugVerifyDoneEff (s : State) : State :=
  match s.sec.verify with
  | none => s
  | some (scope, c, sig) =>
    let s := (s.mapSec fun y => { y with verify := none }).fset F.SEC_DBG_CTRL_busy 0
    if s.debugOk scope c sig then
      (s.fset F.SEC_DBG_CTRL_unlocked (Nat.lor (s.fget F.SEC_DBG_CTRL_unlocked) scope)).mapSec fun y =>
        { y with everUnlocked := true, retAuth := y.retAuth || bitN scope 3 }
    else s.secErr 0x0C32
/-- DEBUG_VERIFY_DONE. -/
def execDebugVerifyDone (s : State) : Host.Outcome State Fault Refusal := .next (debugVerifyDoneEff s)

/-- Is a debug scope open: outside Sealed, or unlocked? -/
def State.debugOpen (s : State) (scope : Nat) : Bool := s.fuse.lc != 2 || bitN (s.fget F.SEC_DBG_CTRL_unlocked) scope

/-! ## Attestation (R430, R431) -/

/-- Is an identity key burned, with the valid fuse of its bank? -/
def Fuses.idValid (f : Fuses) : Bool := f.bankOk.any id
/-- The seed bank in use: the last whose valid fuse is burned (R427). -/
def State.idBank (s : State) : Option (List Byte) := (((s.fuse.idSeed.zip s.fuse.bankOk).filter (·.2)).getLast?).map (·.1)
/-- The identity public key, zeros in Blank. -/
def State.idKey (s : State) : List Byte :=
  match s.idBank with
  | some b => if s.fuse.lc = 0 then List.replicate 32 0 else (b.drop 32).take 32
  | none => List.replicate 32 0

/-- HUB.PART_INFO as it reads. -/
def State.partInfo (s : State) : Nat :=
  s.fuse.stepping + (if s.fuse.gradeH then 16 else 0) +
    2 ^ 8 * sumN (s.fuse.rowGood.map fun m => ((List.range 9).filter (bitN m)).length) + 2 ^ 16 * 0x6400

/-- Bytes 0x000–0x17F of an attestation report (Table 15.5). -/
def State.attestFields (s : State) (nonce : List Byte) : List Byte :=
  let boot := match s.sec.boot with
    | some b => bytesOf 1 b.slot ++ bytesOf 3 0 ++ bytesOf 4 b.seq ++ bytesOf 4 b.svn ++ bytesOf 1 b.key ++ bytesOf 3 0 ++ b.meas
    | none => List.replicate 48 0
  let slots := (List.range 4).flatMap fun i =>
    let x := nth SlotSt.init s.hrm.slots i
    if x.valid then bytesOf 1 i ++ bytesOf 1 1 ++ bytesOf 2 0 ++ bytesOf 4 x.netId ++ bytesOf 8 x.keyId ++ x.meas else List.replicate 48 0
  let vints := (List.range 4).flatMap fun v =>
    let p := s.placedRec v
    if s.isPlaced v then bytesOf 1 1 ++ bytesOf 1 p.slot ++ bytesOf 1 p.variant ++ bytesOf 1 (s.fget (F.HUB_VNT_STATUS_compat v)) ++ bytesOf 4 p.netId
    else List.replicate 8 0
  bytesOf 4 0x54535441 ++ bytesOf 2 1 ++ bytesOf 2 0 ++ bytesOf 4 8240 ++ bytesOf 4 0x180 ++ bytesOf 8 s.fuse.serial ++
    bytesOf 4 s.partInfo ++ bytesOf 1 s.fuse.lc ++
    bytesOf 1 ((if s.fget F.SEC_DBG_CTRL_unlocked = 0 then 0 else 1) + (if s.sec.everUnlocked then 2 else 0)) ++ bytesOf 2 0 ++
    nonce ++ s.idKey ++ boot ++ slots ++ vints ++ bytesOf 4 (s.reg R.HUB_GRF_GEN).toNat ++ bytesOf 12 0

/-- ATTEST_DONE (R431): the report is signed and written, and ATTEST completes. -/
def attestDoneEff (s : State) : State :=
  match s.cp.attest with
  | none => s
  | some a =>
    let bank := s.idBank.getD []
    let (n, s) := s.freshBelow (2 ^ 128)
    let sig := slhSign bank (bytesOf 16 n) (sha256 a.fields)
    ((s.mapCp fun c => { c with attest := none }).post a.addr (a.fields ++ sig)).complete a.tag 0x0F 0 8240 a.irq
/-- ATTEST_DONE. -/
def execAttestDone (s : State) : Host.Outcome State Fault Refusal := .next (attestDoneEff s)

end Sys2Proof.Machine
end

