-- ==== Sys2Proof/Machine/Ecc.lean ====
section
/-!
DEFINITION. Machine/Ecc.lean: the on-chip scrubber and the Row alert (16.2, 16.3), the logic cells (6.8) and the probe (R203).
-/
namespace Sys2Proof.Machine

/-! ## Row alert (R444) -/

/-- ECC_WINDOW_EVAL: each Row's corrected count against the limit, then the Rows that wait with an uncorrectable codeword; the
counts of the next window start at 0.
(DEDUCED, log 81; DEDUCED, log 191) -/
def eccWindowEvalEff (s : State) : State :=
  if !s.cmRuns then s
  else
    let lim := s.fget F.HUB_ECC_CFG_corr_limit
    let win := s.eccWin
    let s := (List.range 36).foldl (fun s i =>
      let n := nth 0 win i
      let s := s.fset (F.TER_ROW_ECC_win_corr (i / 9) (i % 9)) 0
      if lim = 0 ∨ n < lim then s else (s.note 0x0802).eccAlert (i / 9) (i % 9) 1) { s with eccWin := List.replicate 36 0 }
    s.eccDrain
/-- ECC_WINDOW_EVAL. -/
def execEccWindowEval (s : State) : Host.Outcome State Fault Refusal := .next (eccWindowEvalEff s)

/-! ## Scrub (R441, R442) -/

/-- The space of an indirect word's key. -/
def keySpace (key : Nat) : Nat := key / 2 ^ 32
/-- The unit of an indirect word's key. -/
def keyUnit (key : Nat) : Nat := bitsN key 16 16
/-- The index of an indirect word's key. -/
def keyIdx (key : Nat) : Nat := bitsN key 0 16

/-- Is an indirect word held in SRAM under the code of R437: tile parameters, SF banks, Slot Tables, unit tables, logic-cell
configuration? -/
def keyCoded (key : Nat) : Bool := decide (keySpace key ≤ 4)

/-- The Terrace and Row whose memory holds an indirect word, none for a bridge switch point (R443). -/
def keyRow (key : Nat) : Option (Nat × Nat) :=
  let u := keyUnit key
  let i := keyIdx key
  match keySpace key with
  | 2 => if u % 120 < 117 then some (u / 120, u % 120 / 13) else none
  | 3 => some (u, if i < 0x2200 then i / 8 / 30 % 9 else (i - 0x2200) / 64 % 9)
  | 4 => some (u / 9, u % 9)
  | _ => some (u / 270, u / 30 % 9)

/-- An uncorrectable configuration word: E-0730 with kind 7, the Row's logic cells are held off, the job stops (R202).
(DEDUCED, log 80) -/
def State.lcBad (s : State) (t row : Nat) : State :=
  let l : FaultLoc := { n := t, row := row, kind := 7, index := 0, pc := 0, band := s.job.bandsClosed, auxMm := 0, auxPort := 0,
                        auxUnit := 0, auxTer := t }
  (((s.note 0x0730).terFault l 0x0730).setLcRow t row LcRow.init).stopJob

/-- The MM tile or MX tile in whose memory an address of a Row lies. -/
def memTile (a : Nat) : TileRef :=
  let o := a % 0x01000000
  let t := Fin.ofNat 4 (terOf a)
  let p := Fin.ofNat 9 (rowOf a)
  if o < 0x00800000 then caskTile ⟨t, p, Fin.ofNat 8 (o / 0x00100000), 0⟩ else ⟨t, p, Fin.ofNat 30 ((o - 0x00800000) / 0x00010000)⟩
/-- The casks of an MM tile. -/
def casksOf (r : TileRef) : List CaskRef :=
  if kindOf r.k == .mm then (List.range 16).map fun c => ⟨r.t, r.row, Fin.ofNat 8 (idxOf r.k), Fin.ofNat 16 c⟩ else []
/-- Does the active Vintage read, or with `wr` write, a tile's memory in the present ac: by a firing that is due or has been made, by a
cask, or by a write that falls due? (R441)
(DEDUCED, log 80) -/
def State.bankBusy (s : State) (r : TileRef) (wr : Bool) : Bool :=
  let a := s.arr.runAc
  let x := s.tile r
  let due := x.st == .firing && decide (x.next ≤ a + 1)
  s.arrayRuns &&
    ((due && (match kindOf r.k, x.fire with
        | .mx, some _ => !wr
        | .mm, some f => if wr then maskHas f.d 2 || maskHas f.d 3 else maskHas f.d 0 || maskHas f.d 1
        | _, none => decide (x.next = a + 1)
        | _, _ => false)) ||
     (casksOf r).any (fun c =>
        if wr then (s.cask c).side.any (fun y => y.wr == a) || s.arr.flights.any (fun y => y.stop == .sink (.cask c) && s.dueBy y.due y.skip)
        else s.arr.emitted.contains (.cask c) || s.caskReadable c) ||
     (wr && s.arr.delayed.any fun d => d.due == a && memTile d.addr == r && decide (0x40000000 ≤ d.addr)))

/-- The scrubber reads an on-chip codeword of an internal address: powered, and in a Row in an ac in which the active Vintage does not
read the bank; it writes back where the Vintage does not write it (R441, R442). -/
def scrubMem (s : State) (a : Nat) : State :=
  let a := a / 8 * 8
  let bs := s.bytesAt a 8
  let chip := decide (a < 0x01000000)
  if !(if chip then !s.pwr.park else s.terraceOk a && s.rowOn (9 * terOf a + rowOf a) && !s.bankBusy (memTile a) false) then s
  else
    let back := chip || !s.bankBusy (memTile a) true
    match s.cwRs a with
    | .good _ => s
    | .corrected r => let s := s.countCorr a; if back then (s.putBytes a (xorBytes bs r)).mend a else s
    | .bad =>
      let s' := s.raiseEcc a 0x0801 true
      if back then ((s'.putBytes a (xorBytes bs (s.upsetAt a))).setPoison a true).setUpset a 0 else s'

/-- The scrubber reads the codeword of an indirect control word.
(DEDUCED, log 80) -/
def scrubCtl (s : State) (key : Nat) : State :=
  let cw := 2 ^ 42 + key / 2
  let row := keyRow key
  let lc (s : State) (f : Nat → Nat → State → State) : State :=
    match row with | some (t, p) => if keySpace key = 4 then f t p s else s | none => s
  let off := match row with
    | some (t, p) => if keySpace key ≤ 1 then !s.rowOn (9 * t + p) else s.pwr.park
    | none => false
  let back (s : State) (r : Nat) : State :=
    ([key / 2 * 2, key / 2 * 2 + 1].foldl (fun s k => { s with words := sset zeroW s.words k (sget zeroW s.words k ^^^ halfOf r k) }) s).mend cw
  if !keyCoded key || off then s
  else
    match s.cwRs cw with
    | .good _ => s
    | .corrected r => lc (back (s.countCorrRow row) r) fun t p s => s.fcount (F.LC_STATUS_corr (lcBase t p)) 1
    | .bad => lc ((back ((s.note 0x0801).ctlEcc row 0x0801 true) (s.upsetAt cw)).setPoison cw true) fun t p s => s.lcBad t p

/-- The scrubber reads a codeword of the Cellarmaster's memories: an uncorrectable one restarts it (E-0805, R414), and its boot loads them
again.
(DEDUCED, log 80; DESIGN CHOICE, log 163) -/
def scrubCellar (s : State) : BridgeCode → State
  | .clean => s
  | .corrected => s.countCorrRow none
  | .uncorrectable => ((s.note 0x0805).ctlEcc none 0x0805 true).cmRestart 0

/-- SRAM_SCRUB: the errors of `hits` have struck; one codeword is read; `endPass` says that it ends the pass. -/
def sramScrubEff (s : State) (w : ScrubAt) (hits : List Upset) (endPass : Bool) : State :=
  let s := s.strike hits
  let s := match w with
    | .mem a => scrubMem s a
    | .ctl key => scrubCtl s key
    | .cellar code => scrubCellar s code
  if endPass then s.fset F.HUB_ECC_SCRUB_passes ((s.fget F.HUB_ECC_SCRUB_passes + 1) % 65536) else s
/-- SRAM_SCRUB. -/
def execSramScrub (w : ScrubAt) (hits : List Upset) (endPass : Bool) (s : State) : Host.Outcome State Fault Refusal :=
  .next (sramScrubEff s w hits endPass)
/-- SRAM_SCRUB_LATE: E-0803, and HUB.ECC_SCRUB.late. -/
def execSramScrubLate (s : State) : Host.Outcome State Fault Refusal := .next ((s.note 0x0803).fset F.HUB_ECC_SCRUB_late 1)

/-! ## Logic cells (R197–R201, R222) -/

/-- Configuration word `i` of a Row for the active Vintage. -/
def State.lcWord (s : State) (u i : Nat) : Nat := (s.ctl .lcCfg u (s.activeV * 0x3000 + i)).toNat

/-- Every address the six inputs may form; an input that is not determined may be either. -/
def lutAddrs : List (Option Bool) → List Nat
  | [] => [0]
  | b :: bs =>
    let rest := lutAddrs bs
    match b with
    | some v => rest.map fun x => 2 * x + (if v then 1 else 0)
    | none => rest.map (2 * ·) ++ rest.map (2 * · + 1)

/-- The table's output when every address the inputs may form gives the same. -/
def lutOut (tab : Nat → Bool) (ins : List (Option Bool)) : Option Bool :=
  match lutAddrs ins with
  | [] => none
  | a :: as => if as.all fun x => tab x == tab a then some (tab a) else none

/-- The table of cell `c`: its configured outputs with what a RAM has been written (R197). -/
def State.lcTab (s : State) (u : Nat) (x : LcRow) (c a : Nat) : Bool :=
  (if a < 32 then bitN (s.lcWord u (4 * c)) a else bitN (s.lcWord u (4 * c + 1)) (a - 32)) != sget zeroF x.ram (64 * c + a)

/-- The flip-flop of cell `c`. -/
def State.lcFf (s : State) (u : Nat) (x : LcRow) (c : Nat) : Bool := bitN (s.lcWord u (4 * c + 3)) 20 != sget zeroF x.ff c

/-- Nets of a Terrace's Rows and, for nets no block drives, what the event brings. -/
structure LcIn where
  nets : List LcNets
  mesh : LogicNets
deriving DecidableEq, Repr

/-- The nets of a Terrace's Rows. -/
def State.lcNets (s : State) (t : Nat) : List LcNets := (List.range 9).map fun r => (s.lcRow t r).nets
/-- Is lane `d` of a Terrace, 2048 · Row + 32 · block + w, driven (Table 7.9, words 32–63)? -/
def State.drives (s : State) (t d : Nat) : Bool :=
  bitN (s.lcWord (9 * t + d / 2048) (8192 + 64 * (d % 2048 / 32) + 32 + d % 32)) 5
/-- What a net wired to lane `d` of a Terrace carries: the driven lane, or `other`. -/
def State.netBit (s : State) (t : Nat) (nets : List LcNets) (d : Nat) (other : Bool) : Bool :=
  if decide (d < 18432) && s.drives t d then sget zeroF (nth LcNets.init nets (d / 2048)).drv (d % 2048) else other
/-- What mesh segment `n` carries. -/
def State.segBit (s : State) (t : Nat) (m : LcIn) (n : Nat) : Bool := s.netBit t m.nets (Config.segFrom n) (m.mesh.getLsbD n)
/-- What a lane of a Row's crossbar is given. -/
def State.xbarBit (s : State) (t row : Nat) (m : LcIn) (n : Nat) : Bool :=
  let d := Config.xbarFrom n
  if d < 2048 then s.netBit t m.nets (2048 * row + d) (m.mesh.getLsbD (2304 + n)) else m.mesh.getLsbD (2304 + n)
/-- The source of a tree (Table of LC_TREE). -/
def State.treeSrc (s : State) (t g : Nat) : Nat := s.fget (F.TER_LC_TREE_V_src t s.activeV g)
/-- Rank of a tree's source by speed: LCLK, ACLK, LCLK ÷ 2, REFCLK, LCLK ÷ 4, 8, 16, stopped. -/
def srcRank (src : Nat) : Nat := nth 7 [0, 2, 4, 5, 6, 1, 3, 7] src
/-- The tree at whose edges segment registers load and the crossbar moves on: the fastest running one, the lowest of equals.
(DESIGN CHOICE, log 75) -/
def State.leadTree (s : State) (t : Nat) : Nat :=
  ((List.range 4).foldl (fun (a : Nat × Nat) g => let k := srcRank (s.treeSrc t g); if k < a.2 then (g, k) else a) (0, 8)).1
/-- Are 2 LCLK cycles, the crossbar's delay (R198), more than a cycle of the fastest tree?
(DESIGN CHOICE, log 75) -/
def State.xbarLate (s : State) (t : Nat) : Bool := srcRank (s.treeSrc t (s.leadTree t)) ≤ 1

/-- The value of local track `w` of block `k` (Table 7.9): a cell of the block, the mesh segment of a Row behind its
register or not, a lane of the Row crossbar 2 LCLK cycles late, or a constant.
(DESIGN CHOICE, log 75) -/
def State.lcTrack (s : State) (u k : Nat) (m : LcIn) (outs : List (Option Bool)) (w : Nat) : Option Bool :=
  let x := s.lcWord u (8192 + 64 * k + w)
  let i := bitsN x 6 8
  match x % 4 with
  | 0 => nth none outs (i % 32)
  | 1 =>
    let r := bitsN x 2 4
    some (if bitN x 14 then sget zeroF (nth LcNets.init m.nets r).seg i else s.segBit (u / 9) m (256 * r + i))
  | 2 => some (if s.xbarLate (u / 9) then sget zeroF (nth LcNets.init m.nets (u % 9)).xbar i else s.xbarBit (u / 9) (u % 9) m i)
  | _ => some (bitN x 6)

/-- The lookup-table output of cell `c` in block `k`.
(DESIGN CHOICE, log 75; DESIGN CHOICE, log 76) -/
def State.lcLut (s : State) (u k : Nat) (x : LcRow) (m : LcIn) (outs : List (Option Bool)) (c : Nat) : Option Bool :=
  let w := s.lcWord u (4 * c + 2)
  lutOut (s.lcTab u x c) ((List.range 6).map fun i => s.lcTrack u k m outs (bitsN w (5 * i) 5))

/-- The outputs of a block's cells after `n` rounds from knowing none; 32 rounds settle every path without a loop.
(DESIGN CHOICE, log 75) -/
def State.lcOuts (s : State) (u k : Nat) (x : LcRow) (m : LcIn) : Nat → List (Option Bool)
  | 0 => List.replicate 32 none
  | n + 1 =>
    let outs := s.lcOuts u k x m n
    (List.range 32).map fun i =>
      let c := 32 * k + i
      if bitN (s.lcWord u (4 * c + 3)) 0 then some (s.lcFf u x c) else s.lcLut u k x m outs c

/-- An output that a loop leaves undetermined takes an open value.
(DESIGN CHOICE, log 76) -/
def settleOuts (s : State) : List (Option Bool) → List (Option Bool) × State
  | [] => ([], s)
  | some b :: os => let (r, s) := settleOuts s os; (some b :: r, s)
  | none :: os =>
    let (v, s) := s.freshBelow 2
    let (r, s) := settleOuts s os
    (some (v == 1) :: r, s)

/-- The settled outputs of block `k`. -/
def State.lcBlock (s : State) (u k : Nat) (x : LcRow) (m : LcIn) : List (Option Bool) × State :=
  settleOuts s (s.lcOuts u k x m 33)

/-- One cell of the tree whose edge comes: flip-flop and table RAM (R197, R201). -/
def lcCell (s : State) (u k : Nat) (x : LcRow) (m : LcIn) (outs : List (Option Bool)) (rst : Bool) (c : Nat) (y : LcRow) : LcRow :=
  let w := s.lcWord u (4 * c + 3)
  let trk (i : Nat) : Bool := (s.lcTrack u k m outs i).getD false
  let go := decide (2 ≤ x.stage) && (!bitN w 14 || trk (bitsN w 15 5))
  let ff := if rst then false
    else if go then ((s.lcLut u k x m outs c).getD false) != bitN w 20
    else sget zeroF x.ff c
  let y := { y with ff := sset zeroF y.ff c ff }
  if bitN w 3 && decide (2 ≤ x.stage) && trk (bitsN w 9 5) then
    let iw := s.lcWord u (4 * c + 2)
    let a := packI 1 ((List.range 6).map fun i => if trk (bitsN iw (5 * i) 5) then 1 else 0)
    let cfg := if a < 32 then bitN (s.lcWord u (4 * c)) a else bitN (s.lcWord u (4 * c + 1)) (a - 32)
    { y with ram := sset zeroF y.ram (64 * c + a) (trk (bitsN w 4 5) != cfg) }
  else y

/-- An edge of tree `g` reaches every block of the Row; all cells see the outputs of before the edge. -/
def lcEdge (s : State) (u g : Nat) (x : LcRow) (m : LcIn) (rst : Bool) : Nat → LcRow × State
  | 0 => (x, s)
  | k + 1 =>
    let (y, s) := lcEdge s u g x m rst k
    let (outs, s) := s.lcBlock u k x m
    ((List.range 32).foldl (fun y i =>
      if bitsN (s.lcWord u (4 * (32 * k + i) + 3)) 1 2 = g then lcCell s u k x m outs rst (32 * k + i) y else y) y, s)

/-- Does tree `g` of a Terrace run, with the sources of the active Vintage (R200)?
(DEDUCED, log 79) -/
def State.treeRuns (s : State) (t g : Nat) : Bool := s.fget (F.TER_LC_TREE_V_src t s.activeV g) != 7

/-- The lanes that the blocks of a Terrace drive: Row, 32 · block + lane, and the local track (Table 7.9, words 32–63). -/
def State.lcDriven (s : State) (t : Nat) : List (Nat × Nat × Nat) :=
  s.words.filterMap fun x =>
    let u := keyUnit x.1
    let i := keyIdx x.1 % 0x3000 - 8192
    let w := x.2 ^^^ halfOf (s.residue (2 ^ 42 + x.1 / 2)) x.1
    if keySpace x.1 == 4 && u / 9 == t && keyIdx x.1 / 0x3000 == s.activeV && decide (8192 ≤ keyIdx x.1 % 0x3000) && decide (32 ≤ i % 64) &&
        bitW w 5 then
      some (u % 9, 32 * (i / 64) + i % 32, bitsW w 0 5)
    else none
/-- What the driven lanes take from the nets as they stand; none where a loop leaves it undetermined. -/
def State.lcRound (s : State) (t : Nat) (mesh : LogicNets) : List (Nat × Nat × Option Bool) :=
  let m : LcIn := ⟨s.lcNets t, mesh⟩
  (s.lcDriven t).map fun (r, l, w) =>
    (r, l, s.lcTrack (9 * t + r) (l / 32) m (s.lcOuts (9 * t + r) (l / 32) (s.lcRow t r) m 33) w)
/-- A lane of a Row takes a value. -/
def State.setLane (s : State) (t r l : Nat) (b : Bool) : State :=
  let x := s.lcRow t r
  s.setLcRow t r { x with nets := { x.nets with drv := sset zeroF x.nets.drv l b } }
/-- The lanes of a Terrace settle: round after round until none changes; 577 rounds settle every path without a loop. -/
def State.lcRounds (s : State) (t : Nat) (mesh : LogicNets) : Nat → State
  | 0 => s
  | n + 1 =>
    let s' := (s.lcRound t mesh).foldl (fun s (r, l, v) => match v with | some b => s.setLane t r l b | none => s) s
    if s'.lcRows = s.lcRows then s else s'.lcRounds t mesh n
/-- The nets of a Terrace as its cells drive them; a lane that a loop leaves undetermined takes an open value.
(DESIGN CHOICE, log 76) -/
def State.lcSettle (s : State) (t : Nat) (mesh : LogicNets) : State :=
  let s := s.lcRounds t mesh 577
  (s.lcRound t mesh).foldl (fun s (r, l, v) =>
    if v = some (sget zeroF (s.lcRow t r).nets.drv l) then s
    else let (b, s) := s.freshBelow 2; s.setLane t r l (b == 1)) s

/-- What the cells of a Row see at an edge of tree `g`: the nets of before the edge, which reaches the Rows of its Terrace at once; the Row's
count of edges tells whether it has already reached another (R198, R200). A Row that has missed edges goes on from this one.
(DESIGN CHOICE, log 75) -/
def State.lcWave (s : State) (t g row : Nat) (mesh : LogicNets) : LcIn × State :=
  let w := nth (0, []) s.arr.lcWaves (4 * t + g)
  if nth 0 (s.lcRow t row).edges g = w.1 then
    let s := s.lcSettle t mesh
    (⟨s.lcNets t, mesh⟩, s.mapArr fun a => { a with lcWaves := setNth a.lcWaves (4 * t + g) (w.1 + 1, s.lcNets t) })
  else (⟨w.2, mesh⟩, s)

/-- The segment registers and the crossbar of a Row at an edge of the fastest tree. -/
def State.lcClock (s : State) (t row : Nat) (m : LcIn) (x : LcNets) : LcNets :=
  { x with seg := (List.range 256).foldl (fun q i => sset zeroF q i (s.segBit t m (256 * row + i))) x.seg
           xbar := (List.range 256).foldl (fun q i => sset zeroF q i (s.xbarBit t row m i)) x.xbar }

/-- A bit that a Row's lane `d` drives, or `other`. -/
def State.laneBit (s : State) (t row d : Nat) (other : Bool) : Bool :=
  if d < 2048 then s.netBit t (s.lcNets t) (2048 * row + d) other else other
/-- The flit of a port event: each bit is that of the lane wired to it.
(DEDUCED, log 20; DESIGN CHOICE, log 75) -/
def State.portFlit (s : State) (t row : Nat) (f : LogicFlit) : Flit :=
  let bit (i : Nat) (b : Bool) : Bool := s.laneBit t row (Config.portFrom (512 * f.port + i)) b
  { data := BitVec.ofNat 256 (packI 1 ((List.range 256).map fun i => if bit i (f.data.getLsbD i) then 1 else 0)), poison := bit 256 f.poison,
    tag := packI 1 ((List.range 4).map fun i => if bit (257 + i) (f.tag.getLsbD i) then 1 else 0), last := bit 261 f.last,
    evLine := bit 262 f.evLine, evBand := bit 263 f.evBand, smk := bit 264 f.smk }
/-- The marker lanes a Row drives to 1; a lane wired to a lane of the Row that is not driven reads 0 (R275).
(DESIGN CHOICE, log 75) -/
def State.markLanes (s : State) (t row : Nat) (marks : BitVec 16) : Nat :=
  packI 1 ((List.range 16).map fun i =>
    let d := Config.markFrom i
    if s.laneBit t row d (decide (2048 ≤ d) && marks.getLsbD i) then 1 else 0)

/-- The oldest flit at port `j` is taken; its route ended with the Row crossbar, and its entry's credit returns (R136, R146, R199). -/
def lcTake (s : State) (t : Fin 4) (row : Fin 9) (j : Fin 11) : State :=
  let x := s.lcRow t row
  match x.inq.find? fun e => e.1 == j.val with
  | some (_, e) =>
    if s.arrayRuns && decide (e.arr < s.arr.runAc) then
      (s.setLcRow t row { x with inq := eraseFirst (fun y => y.1 == j.val) x.inq }).freeEntry (.logic t row j) e.circ s.arr.runAc
    else s
  | none => s

/-- Logic cells put a flit at port `j` in ac `a`: it enters the crossbar then, or in the ac after the one before it (R136). -/
def lcPut (a : Nat) (q : List (Nat × OutEntry)) (j : Nat) (f : Flit) : List (Nat × OutEntry) :=
  let due := ((q.filter fun e => e.1 == j).map fun e => e.2.due + 1).foldl Nat.max a
  q ++ [(j, { due := due, flit := f, bound := none, logged := false })]

/-- A Row's cells read its configuration of the active Vintage: the codewords in which errors stand are judged (R202, R440).
(DEDUCED, log 80) -/
def State.lcSee (s : State) (t : Fin 4) (row : Fin 9) : Bool × State :=
  let lo := wordCw .lcCfg (t * 9 + row) (s.activeV * 0x3000)
  let mine (l : List Nat) : List Nat := l.filter fun cw => decide (lo ≤ cw) && decide (cw < lo + 0x1800)
  let ups := mine (s.upset.map (·.1))
  let n := (ups.filter fun cw => match s.cwRs cw with | .corrected _ => true | _ => false).length
  let (bad, s) := s.seeCws (some (t.val, row.val)) false (ups ++ (mine (s.poison.map (·.1))).filter fun cw => !ups.contains cw)
  (bad, s.fcount (F.LC_STATUS_corr (lcBase t row)) n)

/-- LOGIC_CELL_CYCLE: an edge of tree `g` of a Row, held off by an unreadable configuration word (E-0730); then its nets settle, and what
the Row does at its ports and marker lanes follows, none of it before stage 1.
(DESIGN CHOICE, log 75; DEDUCED, log 79) -/
def logicCellCycleEff (s : State) (t : Fin 4) (row : Fin 9) (g : Fin 4) (mesh : LogicNets) (io : LogicIo) : State :=
  let (bad, s1) := s.lcSee t row
  if s.pwr.park || !s.rowGood t row || !s.treeRuns t g then s
  else if bad then s1.lcBad t row
  else
    let s := s1
    let (m, s) := s.lcWave t g row mesh
    let x := s.lcRow t row
    let rst := decide (x.stage < 3) || s.fbit (F.TER_LC_TREE_V_rst t s.activeV g)
    let (y, s) := lcEdge s (t * 9 + row) g x m rst 64
    let y := { y with
      cyc := setNth y.cyc g (Nat.min (nth 0 y.cyc g + 1) 64), edges := setNth y.edges g (nth (0, []) s.arr.lcWaves (4 * t + g)).1
      nets := if s.leadTree t = g then s.lcClock t row m y.nets else y.nets }
    let s := (s.setLcRow t row y).lcSettle t mesh
    if y.stage = 0 then s
    else
      let y := s.lcRow t row
      let s := s.setLcRow t row { y with
        outq := io.put.foldl (fun q f => lcPut s.arr.runAc q f.port (s.portFlit t row f)) y.outq, lanes := s.markLanes t row io.marks }
      io.took.foldl (fun s j => lcTake s t row j) s
/-- LOGIC_CELL_CYCLE. -/
def execLogicCellCycle (t : Fin 4) (row : Fin 9) (g : Fin 4) (mesh : LogicNets) (io : LogicIo) (s : State) :
    Host.Outcome State Fault Refusal := .next (logicCellCycleEff s t row g mesh io)

/-- LOGIC_CELL_RELEASE: every running tree, the slowest among them, has made 64 cycles since the stage before (R201). -/
def logicCellReleaseEff (s : State) (t row : Nat) : State :=
  let x := s.lcRow t row
  let run := (List.range 4).filter (s.treeRuns t)
  if x.go && decide (x.stage < 3) && !s.pwr.park && !run.isEmpty && run.all (fun g => decide (64 ≤ nth 0 x.cyc g)) then
    s.setLcRow t row { x with stage := x.stage + 1, cyc := [0, 0, 0, 0] }
  else s
/-- LOGIC_CELL_RELEASE.
(DEDUCED, log 79) -/
def execLogicCellRelease (t : Fin 4) (row : Fin 9) (s : State) : Host.Outcome State Fault Refusal :=
  .next (logicCellReleaseEff s t row)

/-! ## The probe (R203, R204) -/

/-- Lane `i` of a Row's probe multiplexer. -/
def State.probeLane (s : State) (u : Nat) (x : LcRow) (m : LcIn) (i : Nat) : Bool × State :=
  let sig := bitsW (s.word .probe u i) 0 12
  let c := sig / 2
  if sig % 2 = 1 then (s.lcFf u x c, s)
  else
    let (outs, s) := s.lcBlock u (c / 32) x m
    ((s.lcLut u (c / 32) x m outs c).getD false, s)

/-- The probe bus: lanes 0 to n − 1 of the selected Row. -/
def State.probeBus (s : State) (u : Nat) (x : LcRow) (m : LcIn) : Nat → Nat × State
  | 0 => (0, s)
  | n + 1 =>
    let (b, s) := s.probeBus u x m n
    let (v, s) := s.probeLane u x m n
    (b + (if v then 2 ^ n else 0), s)

/-- Does the sample clock run at 200 MHz or below: a tree divided from LCLK or fed by REFCLK (Table 1.7, R200)?
(PRESUMED, log 78) -/
def State.probeSlow (s : State) : Bool :=
  let c := s.fget F.HUB_PRB_CTRL_clk
  decide (2 ≤ c ∧ c ≤ 5) &&
    (let src := s.fget (F.TER_LC_TREE_V_src (s.fget F.HUB_PRB_CTRL_terrace) s.activeV (c - 2))
     decide (1 ≤ src ∧ src ≤ 4) || src == 6)

/-- Does the sample clock run at all? -/
def State.probeClocked (s : State) : Bool :=
  let c := s.fget F.HUB_PRB_CTRL_clk
  decide (c ≤ 1) || (decide (c ≤ 5) && s.treeRuns (s.fget F.HUB_PRB_CTRL_terrace) (c - 2))

/-- The trigger starts the count of post samples; with none the capture stops. -/
def SecSt.trigger (x : SecSt) (post : Nat) : SecSt :=
  { x with probeTrig := true, probeLeft := post, probeRun := post != 0, probeDone := post == 0 }

/-- One sample clock cycle: the balls register the bus, a running capture records it and looks for its trigger or counts.
(DEDUCED, log 77) -/
def probeSample (s : State) (mesh : LogicNets) : State :=
  let row := s.fget F.HUB_PRB_CTRL_row
  if !s.probeClocked || decide (9 ≤ row) then s
  else
    let t := s.fget F.HUB_PRB_CTRL_terrace
    let s := s.lcSettle t mesh
    let (bus, s) := s.probeBus (t * 9 + row) (s.lcRow t row) ⟨s.lcNets t, mesh⟩ 64
    let s := s.mapSec fun x => { x with probeBall := if s.probeSlow then bus % 256 else 0 }
    if !s.sec.probeRun then s
    else
      let i := if 65535 ≤ s.sec.probeLast then 0 else s.sec.probeLast + 1
      let s := s.mapSec fun x => { x with probe := sset zeroN x.probe i bus, probeLast := i }
      let mask := s.fget F.HUB_PRB_MASK_LO_value + 2 ^ 32 * s.fget F.HUB_PRB_MASK_HI_value
      let want := s.fget F.HUB_PRB_MATCH_LO_value + 2 ^ 32 * s.fget F.HUB_PRB_MATCH_HI_value
      if s.sec.probeTrig then
        s.mapSec fun x => { x with probeLeft := x.probeLeft - 1, probeRun := x.probeLeft != 1, probeDone := x.probeLeft == 1 }
      else if mask ≠ 0 ∧ Nat.land bus mask = Nat.land want mask then s.mapSec fun x => x.trigger (s.fget F.HUB_PRB_CTRL_post)
      else s

/-- A write to HUB.PRB_CTRL: from Sealed on dropped and logged unless scope 0 is unlocked (R204); arm starts a capture that does not
run, or ends one; force triggers it.
(DEDUCED, log 77) -/
def probeCtrlEff (s : State) (src : AccSrc) (v : Word) : State :=
  if !s.debugOpen 0 then s.violate src R.HUB_PRB_CTRL true 5
  else
    let s := s.setReg R.HUB_PRB_CTRL (v &&& 0xFFFF07FD)
    if !bitW v 0 then s.mapSec fun x => { x with probeRun := false }
    else
      let s := if s.sec.probeRun then s
        else s.mapSec fun x => { x with probeRun := true, probeTrig := false, probeDone := false, probeLeft := 0 }
      if bitW v 1 && !s.sec.probeTrig then s.mapSec fun x => x.trigger (s.fget F.HUB_PRB_CTRL_post) else s
/-- PROBE_TRIGGER: sample clock cycles, with the mesh and crossbar tracks in each, that lead to the trigger. -/
def execProbeTrigger (mesh : List LogicNets) (s : State) : Host.Outcome State Fault Refusal := .next (mesh.foldl probeSample s)
/-- PROBE_CAPTURE_DONE: sample clock cycles that lead to the last post sample. -/
def execProbeCaptureDone (mesh : List LogicNets) (s : State) : Host.Outcome State Fault Refusal := .next (mesh.foldl probeSample s)

end Sys2Proof.Machine
end

