-- ==== Sys2Proof/Machine/Loader.lean ====
section
/-!
DEFINITION. Machine/Loader.lean: the Blend image (07 R208–R212, R224), LOAD_BLEND (R220, R221, R474) and the loader's registers
(7.9).
-/
namespace Sys2Proof.Machine

/-! ## The image (Tables 7.2–7.5) -/

/-- A directory entry with its index (Table 7.3). -/
structure Sect where
  idx : Nat
  kind : Nat
  vmask : Nat
  flags : Nat
  target : Nat
  off : Nat
  len : Nat
deriving DecidableEq, Repr

/-- Directory entry `i` of an image. -/
def sectAt (im : List Byte) (i : Nat) : Sect :=
  let o := 128 + 16 * i
  { idx := i, kind := leAt im o 2, vmask := leAt im (o + 2) 1, flags := leAt im (o + 3) 1, target := leAt im (o + 4) 4,
    off := leAt im (o + 8) 4, len := leAt im (o + 12) 4 }
/-- The directory. -/
def sectsOf (im : List Byte) : List Sect := (List.range (leAt im 0x14 2)).map (sectAt im)
/-- The contents of a section. -/
def Sect.body (im : List Byte) (x : Sect) : List Byte := (im.drop x.off).take x.len
/-- Does a section apply to variant `k`? -/
def Sect.applies (x : Sect) (k : Nat) : Bool := bitN x.vmask k
/-- Variants of an image. -/
def nVar (im : List Byte) : Nat := leAt im 0x16 1

/-- Terrace, logical Row, index and kind of a target word (Table 7.5). -/
def tgT (t : Nat) : Nat := bitsN t 0 2
def tgK (t : Nat) : Nat := bitsN t 2 3
def tgI (t : Nat) : Nat := bitsN t 5 5
def tgKind (t : Nat) : Nat := bitsN t 10 3
/-- A target word. -/
def tgOf (t k kind i : Nat) : Nat := t + 4 * k + 32 * i + 1024 * kind
/-- Does a target name a tile? -/
def tgTile (t : Nat) : Bool :=
  t / 8192 == 0 && decide (tgKind t < 4) && decide (tgI t < nth 0 [16, 8, 4, 2] (tgKind t))
/-- Does a target name a switch point? -/
def tgPoint (t : Nat) : Bool :=
  t / 8192 == 0 && ((tgKind t == 5 && decide (tgI t < 13)) || (tgKind t == 6 && decide (tgI t < 3) && tgK t == 0))
/-- Is a target valid for a kind of section (Table 7.4)? -/
def targetOk (kind t : Nat) : Bool :=
  if kind = 0x10 ∨ kind = 0x15 then tgTile t
  else if kind = 0x12 then tgPoint t
  else if kind = 0x13 then tgTile t && tgKind t == 1
  else if kind = 0x16 then decide (t < 32)
  else if kind = 0x17 then decide (t < 4)
  else t == 0
/-- Section kinds of Table 7.4. -/
def sectKinds : List Nat := [1, 2, 0x10, 0x11, 0x12, 0x13, 0x14, 0x15, 0x16, 0x17, 0x20, 0x21, 0x22, 0xF0, 0xF1]
/-- Is a length the one its kind gives? -/
def lenOk (nv : Nat) (x : Sect) : Bool :=
  match x.kind with
  | 2 => x.len == 80 * nv
  | 0x10 => x.len == nth 0 [480, 480, 3040, 416] (tgKind x.target)
  | 0x11 => decide (8 ≤ x.len)
  | 0x12 => decide (4 ≤ x.len) && (x.len - 4) % 20 == 0
  | 0x13 => x.len % 12 == 0
  | 0x14 => x.len % 32 == 0 && decide (x.len ≤ 1024)
  | 0x15 => x.len == (if tgKind x.target = 1 then 64 else 32)
  | 0x16 => x.len == 49152
  | 0x17 => x.len == 4
  | 0xF0 => x.len % 16 == 0
  | 0xF1 => x.len % 16 == 0
  | _ => true
/-- Kinds whose length is fixed. -/
def fixedLen (kind : Nat) : Bool := [2, 0x10, 0x15, 0x16, 0x17].contains kind

/-! ## An error with its place (7.9) -/

/-- A loader error: its code, HUB.LDR_LOC fields and HUB.LDR_UNIT value. -/
structure LdErr where
  code : Nat
  sect : Nat
  rec1 : Nat
  unit : Nat
deriving DecidableEq, Repr

/-- An error that involves no section and no unit. -/
def LdErr.plain (code : Nat) : LdErr := ⟨code, 0xFFFF, 0xFFFF, 0x780⟩
/-- An error at a section. -/
def LdErr.at (code sect rec1 : Nat) : LdErr := ⟨code, sect, rec1, 0x780⟩

/-- First section for which `p` holds.
(DEDUCED, log 84) -/
def firstSect (xs : List Sect) (code : Nat) (p : Sect → Bool) : Option LdErr := (xs.find? p).map fun x => .at code x.idx 0xFFFF

/-! ## Checks of LOAD_BLEND in the order of R474 -/

/-- E-0405 (R474). -/
def State.bad0405 (s : State) (im : List Byte) (len : Nat) : Option LdErr :=
  let n := leAt im 8 4
  if n > 2 ^ 26 ∨ n > (s.slotPlace 0).2 ∨ n ≠ len then some (.plain 0x0405) else none

/-- Do two sections overlap? An empty one overlaps nothing. -/
def sectsMeet (x y : Sect) : Bool :=
  decide (0 < x.len) && decide (0 < y.len) && rangesMeet x.off (x.off + x.len - 1) y.off (y.off + y.len - 1)

/-- E-0401 (R208). The reserved bits of the header flags count as a reserved byte does.
(DEDUCED, log 83) -/
def bad0401 (im : List Byte) : Option LdErr :=
  let n := leAt im 0x14 2
  let sig := leAt im 0x0C 4
  let keyed := leAt im 0x28 8 != 0
  let dirEnd := 128 + 16 * n
  if leAt im 0 4 ≠ 0x444E4C42 ∨ leAt im 4 2 ≠ 1 ∨ leAt im 6 2 ≠ 0x80 ∨ leAt im 0x38 4 ≠ 128 ∨
      (if keyed then sig + 7856 ≠ leAt im 8 4 else sig ≠ leAt im 8 4) ∨ n = 0 ∨ n > 1024 ∨ nVar im = 0 ∨ nVar im > 8 ∨
      leAt im 0x13 1 / 4 ≠ 0 ∨ leAt im 0x17 1 ≠ 0 ∨ leAt im 0x3C 68 ≠ 0 ∨ dirEnd > sig then some (.plain 0x0401)
  else
    let xs := sectsOf im
    firstSect xs 0x0401 fun x =>
      decide (x.off + x.len > sig) || x.off % 32 != 0 || x.len % 4 != 0 ||
        (decide (0 < x.len) && decide (x.off < dirEnd)) || (xs.any fun y => x.idx != y.idx && sectsMeet x y) ||
        x.flags / 2 != 0 || (x.flags % 2 != 0 && x.kind != 0x13)

/-- E-0413 (R209). -/
def bad0413 (im : List Byte) : Bool :=
  let c := leAt im 0x12 1
  let want := [LatClass.mx1, .mx2, .mx3, .mx4, .mx5, .sf1, .sf2, .sf3, .mm1, .mm2, .mm3, .mm4, .rk1, .io1, .io2].map fun k =>
    BitVec.ofNat 8 (latLevel c k)
  !(c == 1 || c == 2) || (im.drop 0x18).take 16 != want ++ [0]

/-- key_id of a key (R220). -/
def keyIdOf (key : List Byte) : Nat := leAt (sha256 key) 0 8
/-- The Blend-signer keys in use; in Returned every one is disabled (Table 15.4). -/
def State.signers (s : State) : List KeySlot := if s.fuse.lc = 3 then [] else s.fuse.keys.filter KeySlot.usable
/-- E-0404 (R220). -/
def State.bad0404 (s : State) (im : List Byte) : Bool :=
  let id := leAt im 0x28 8
  if id = 0 then s.fuse.lc == 2 else !(s.signers.any fun k => keyIdOf k.key == id)

/-- row_mask of variant `k` in a VARIANTS section. -/
def varMask (vb : List Byte) (k : Nat) : Nat := leAt vb (80 * k) 4
/-- Parameter `p` of variant `k`. -/
def varParam (vb : List Byte) (k p : Nat) : Int := signed 32 (leAt vb (80 * k + 8 + 4 * p) 4)
/-- The contents of the VARIANTS section. -/
def variants (im : List Byte) : List Byte :=
  match (sectsOf im).find? fun x => x.kind == 2 with | some x => x.body im | none => []

/-- E-0406 of a REPORT's contents (R210, R224). -/
def reportBad (b : List Byte) : Bool :=
  let nc := leAt b 0x20 2
  let ns := leAt b 0x22 2
  let nl := leAt b 0x24 2
  let o := 64 + 4 * nc
  let lo := bandByte (leAt b 0x12 1)
  let hi := bandByte (leAt b 0x13 1)
  b.length != 64 + 4 * nc + 16 * ns + 8 * nl || lo % 16 != 0 || hi % 16 != 0 || decide (hi < lo) || nc == 0 || decide (512 < nc) ||
    decide (64 < leAt b 0x19 1) || decide (64 < leAt b 0x1A 1) || decide (20 < leAt b 0x18 1) || leAt b 0x26 26 != 0 ||
    ((List.range ns).any fun i => leAt b (o + 16 * i + 14) 2 != 0) ||
    ((List.range nl).any fun i => leAt b (o + 16 * ns + 8 * i + 6) 2 != 0)

/-- Does a section's target leave the row_mask of a variant it applies to (R212)? -/
def rowOutside (im vb : List Byte) (x : Sect) : Bool :=
  let rowed := [0x10, 0x15, 0x13, 0x16].contains x.kind || (x.kind == 0x12 && tgKind x.target == 5)
  rowed && (List.range (nVar im)).any fun k => x.applies k && !bitN (varMask vb k) (8 * tgT x.target + tgK x.target)

/-- E-0406 (R210, R212, R224).
(DEDUCED, log 84) -/
def bad0406 (im : List Byte) : Option LdErr :=
  let xs := sectsOf im
  let nv := nVar im
  let count (p : Sect → Bool) : Nat := (xs.filter p).length
  let graft := bitN (leAt im 0x13 1) 1
  let one (k : Nat) : Bool := count (fun x => x.kind == k) == 1
  let reports := (List.range nv).all fun k => count (fun x => x.kind == 1 && x.applies k) == 1
  match firstSect xs 0x0406 fun x =>
      !sectKinds.contains x.kind || !lenOk nv x || !targetOk x.kind x.target || x.vmask == 0 || decide (2 ^ nv ≤ x.vmask) with
  | some e => some e
  | none =>
    if !(one 2 && one 0x20 && one 0x21) || !reports || count (fun x => x.kind == 0x22) != (if graft then 1 else 0) then
      some (.plain 0x0406)
    else
      let vb := variants im
      firstSect xs 0x0406 fun x =>
        let b := x.body im
        (x.kind == 0x11 && leAt b 5 3 != 0) ||
          (x.kind == 2 && (List.range nv).any fun k => leAt b (80 * k + 4) 4 != 0 || leAt b (80 * k + 72) 8 != 0) ||
          (x.kind == 1 && (reportBad b || ((List.range 8).filter (bitN x.vmask)).length != 1)) ||
          (fixedLen x.kind && xs.any fun y => decide (y.idx < x.idx) && y.kind == x.kind && y.target == x.target &&
            Nat.land x.vmask y.vmask != 0) ||
          rowOutside im vb x

/-- SHA-256 of the image before its signature (R220). -/
def measure (im : List Byte) : List Byte := sha256 (im.take (leAt im 0x0C 4))
/-- E-0403: does the signature fail under every key with the image's key_id (R220)? -/
def State.bad0403 (s : State) (im : List Byte) : Bool :=
  let id := leAt im 0x28 8
  id != 0 && !((s.signers.filter fun k => keyIdOf k.key == id).any fun k =>
    slhVerify k.key (measure im) ((im.drop (leAt im 0x0C 4)).take 7856))

/-- The first check that an image fails (R474).
(DEDUCED, log 84) -/
def State.imageBad (s : State) (im : List Byte) (len : Nat) : Option LdErr :=
  match s.bad0405 im len with
  | some e => some e
  | none =>
    match bad0401 im with
    | some e => some e
    | none =>
      if leAt im 0x10 2 ≠ 0x6400 then some (.plain 0x0402)
      else if bad0413 im then some (.plain 0x0413)
      else if s.bad0404 im then some (.plain 0x0404)
      else
        match bad0406 im with
        | some e => some e
        | none => if s.bad0403 im then some (.plain 0x0403) else none

/-! ## The loader's registers (7.9) -/

/-- A loader command starts: HUB.LDR_STATUS names it, its slot, and whether that slot holds an unsigned image; a LOAD_BLEND has no
Vintage and no variant.
(DEDUCED, log 151) -/
def State.ldrStart (s : State) (op slot : Nat) : State :=
  let sl := nth SlotSt.init s.hrm.slots slot
  let s := ((s.fset F.HUB_LDR_STATUS_op op).fset F.HUB_LDR_STATUS_slot slot).fset F.HUB_LDR_STATUS_busy 1
  let s := (s.fset F.HUB_LDR_STATUS_vintage 0).fset F.HUB_LDR_STATUS_variant 0
  let s := s.fset F.HUB_LDR_STATUS_unsigned (if sl.valid && sl.keyId == 0 then 1 else 0)
  s.setReg R.HUB_LDR_PROG 0
/-- The loader's registers at a completion.
(DESIGN CHOICE, log 85) -/
def State.ldrEnd (s : State) (e : Option LdErr) : State :=
  let s := s.fset F.HUB_LDR_STATUS_busy 0
  match e with
  | none => ((s.fset F.HUB_LDR_STATUS_code 0).setReg R.HUB_LDR_LOC 0xFFFFFFFF).setReg R.HUB_LDR_UNIT 0x780
  | some e =>
    let s := ((s.fset F.HUB_LDR_STATUS_code e.code).fset F.HUB_LDR_LOC_sect e.sect).fset F.HUB_LDR_LOC_rec e.rec1
    s.setReg R.HUB_LDR_UNIT (BitVec.ofNat 32 e.unit)

/-! ## LOAD_BLEND -/

/-- Operand byte field of a command: `n` bytes at entry byte `o` ≥ 8. -/
def CmdF (e : CmdEntry) (o n : Nat) : Nat := bitsN e.ops.toNat (8 * (o - 8)) (8 * n)

/-- LOAD_BLEND is taken (R221): its slot becomes invalid and the image is read. -/
def loadBlendTake (s : State) (c : Cmd) : State :=
  let slot := CmdF c.e 8 1
  ((s.slotInvalid slot).ldrStart 1 slot).mapHrm fun h => { h with loading := some slot }

/-- Reading and measuring end (R220, R221): the image that host memory delivered, or the code with which its read ended. The write waits for
a channel that initialises (R349). -/
def loadDone (s : State) (im : List Byte) (bad : Nat) : State :=
  match s.hrm.loading, s.cp.serial with
  | some slot, some c =>
    let len := CmdF c.e 12 4
    let (o, room) := s.slotPlace slot
    let s := s.mapHrm fun h => { h with loading := none }
    let done (s : State) (e : LdErr) : State := (s.ldrEnd (some e)).serialDone e.code 0
    if bad ≠ 0 then
      let (n, s) := s.freshBelow (len + 1)
      done ((s.note bad).setReg R.HUB_LDR_PROG (BitVec.ofNat 32 n)) (.plain bad)
    else if room = 0 ∨ s.rangeGood o room = false then done s (.plain 0x0414)
    else if s.waitsInit (hyperBase + o) im.length then s.mapHrm fun h => { h with loading := some slot }
    else
      let s := s.setReg R.HUB_LDR_PROG (BitVec.ofNat 32 im.length)
      match s.imageBad im len with
      | some e => done s e
      | none =>
        let m := measure im
        let id := leAt im 0x28 8
        let s := writeHyper (s.inOrder (hyperBase + o) im.length) (hyperBase + o) im false 5
        let s := s.mapHrm fun h => { h with slots := setNth h.slots slot ⟨true, im.length, m, leAt im 0x30 4, id⟩ }
        let s := s.fset F.HUB_LDR_STATUS_unsigned (if id = 0 then 1 else 0)
        (s.ldrEnd none).serialDone 0 (leAt m 0 8)
  | _, _ => s

end Sys2Proof.Machine
end

