-- ==== Sys2Proof/Machine/PlaceChk.lean ====
section
/-!
DEFINITION. Machine/PlaceChk.lean: the structural checks of PLACE (07 R227 step 8), in the order of R227. Each looks at the
staging copy: the placement state that steps 9 and 10 would leave.
-/
namespace Sys2Proof.Machine

/-- A section of the staging copy that applies to the selected variant: its directory index, kind, flags, target and contents. -/
structure PSec where
  idx : Nat
  kind : Nat
  flags : Nat
  target : Nat
  body : List Byte
deriving DecidableEq, Repr

/-- Word `w` of a section's contents. -/
def PSec.word (x : PSec) (w : Nat) : Nat := leAt x.body (4 * w) 4

/-- What the checks look at: the state before step 9, the state as step 9 would leave it, and as the cask part of step 10 would leave
that; the Vintage, the sections in directory order, row_mask, F, and whether the Blend is Elastic. -/
structure PCtx where
  old : State
  st : State
  fin : State
  v : Nat
  secs : List PSec
  mask : Nat
  F : Nat
  elastic : Bool
deriving DecidableEq, Repr

/-- The value of HUB.LDR_UNIT for a unit; `row` is its physical Row. -/
def ldrUnit (t k row kind i port : Nat) : Nat :=
  t + 4 * (8 * t + k) + 128 * row + 2048 * kind + 2 ^ 14 * i + 2 ^ 18 * port
/-- The physical Row LDR_UNIT names for a local logical Row of the Vintage: 0xF when not mapped. -/
def PCtx.physOf (c : PCtx) (t k : Nat) : Nat := let p := c.st.physRow t c.v k; if p < 9 then p else 15
/-- An error at a tile's section. -/
def PCtx.tileErr (c : PCtx) (x : PSec) (code w : Nat) : LdErr :=
  let t := tgT x.target
  let k := tgK x.target
  ⟨code, x.idx, w, ldrUnit t k (c.physOf t k) (tgKind x.target) (tgI x.target) 0⟩

/-- Every tile target in ascending Terrace, logical Row, kind and index. -/
def tileTargets : List Nat :=
  (List.range 4).flatMap fun t => (List.range 8).flatMap fun k => (List.range 4).flatMap fun kind =>
    (List.range (nth 0 [16, 8, 4, 2] kind)).map fun i => tgOf t k kind i
/-- The TILE sections in that order. -/
def PCtx.tiles (c : PCtx) : List PSec :=
  tileTargets.filterMap fun g => c.secs.find? fun x => x.kind == 0x10 && x.target == g
/-- The tile a section targets. -/
def PCtx.ref (c : PCtx) (x : PSec) : TileRef := c.st.targetTile c.v x.target
/-- The first tile of a kind for which `f` names a code and a word. -/
def PCtx.eachTile (c : PCtx) (kind : Nat) (f : PSec → TileRef → Option (Nat × Nat)) : Option LdErr :=
  (c.tiles.filter fun x => tgKind x.target == kind).findSome? fun x => (f x (c.ref x)).map fun e => c.tileErr x e.1 e.2

/-- The first word index of a range for which `p` holds. -/
def firstIn (lo n : Nat) (p : Nat → Bool) : Option Nat := ((List.range n).map (lo + ·)).find? p

/-! ## R48: programs -/

/-- The LOOPs of a program: own pc and end pc. -/
def progLoops (w : Nat → Nat) : List (Nat × Nat) :=
  (List.range 64).filterMap fun pc => if uOp (w pc) = 1 then some (pc, bitsN (w pc) 18 6) else none
/-- Is a program word of a tile malformed by itself? Bits 23:20 of FIRE are reserved but in an MX tile (R49). -/
def wordMal (kind w : Nat) : Bool :=
  match uOp w with
  | 0 => bitsN w 16 12 != 0
  | 1 => bitN w 24 || (if bitN w 25 then bitsN w 0 16 != 0 else bitsN w 0 16 == 0)
  | 2 => bitsN w 16 4 != 0 || (kind != 0 && bitsN w 20 4 != 0)
  | 3 => bitsN w 0 24 != 0 || decide (1 < bitsN w 24 4)
  | 4 => bitsN w 6 22 != 0
  | 5 => bitsN w 0 26 != 0
  | 6 => bitsN w 0 28 != 0
  | _ => true
/-- Is the LOOP or JUMP at `pc` badly placed? -/
def loopMal (w : Nat → Nat) (pc : Nat) : Bool :=
  let ls := progLoops w
  let outer := ls.filter fun l => decide (l.1 < pc) && decide (pc ≤ l.2)
  if uOp (w pc) = 1 then
    let e := bitsN (w pc) 18 6
    decide (e ≤ pc) || outer.any fun l => decide (l.2 < e) || bitsN (w l.1) 26 2 == bitsN (w pc) 26 2
  else uOp (w pc) == 4 && !outer.isEmpty

/-- A point of a path through a program: pc, open loops as (pc of the LOOP, trips left, 6 standing for 6 or more), and how many LOOP,
JUMP and ROT instructions have been executed since one that takes time. -/
structure PathPt where
  pc : Nat
  loops : List (Nat × Nat)
  quick : Nat
deriving DecidableEq, Repr

/-- Where a path goes when the instruction at `pc` completes. -/
def pathEnd (w : Nat → Nat) (pc : Nat) : List (Nat × Nat) → List (Nat × List (Nat × Nat))
  | [] => [(pc + 1, [])]
  | (l, n) :: ls =>
    if bitsN (w l) 18 6 = pc then
      let back := if n = 6 then [(l + 1, (l, 6) :: ls), (l + 1, (l, 5) :: ls)] else if 1 < n then [(l + 1, (l, n - 1) :: ls)] else []
      if 1 < n then back else pathEnd w pc ls
    else [(pc + 1, (l, n) :: ls)]
/-- The points that follow a point. A direct LOOP starts with its trips, an indirect one with any count. -/
def pathNext (w : Nat → Nat) (x : PathPt) : List PathPt :=
  let i := w x.pc
  let go (q : Nat) : List PathPt := (pathEnd w x.pc x.loops).map fun p => ⟨p.1, p.2, q⟩
  match uOp i with
  | 1 =>
    let ns := if bitN i 25 then [1, 2, 3, 4, 5, 6] else [Nat.min 6 (bitsN i 0 16)]
    ns.map fun n => ⟨x.pc + 1, (x.pc, n) :: x.loops, x.quick + 1⟩
  | 4 => [⟨bitsN i 0 6, x.loops, x.quick + 1⟩]
  | 5 => go (x.quick + 1)
  | 6 => []
  | _ => go 0
/-- Follow every path; `fuel` bounds the points. The first bad point found: past pc 63, or after five quick instructions.
(DEDUCED, log 87) -/
def pathWalk (w : Nat → Nat) : Nat → List PathPt → List PathPt → Option Nat
  | 0, _, _ => none
  | _ + 1, _, [] => none
  | fuel + 1, seen, x :: xs =>
    if 63 < x.pc ∨ 5 ≤ x.quick then some (Nat.min x.pc 63)
    else if seen.contains x then pathWalk w fuel seen xs
    else pathWalk w fuel (x :: seen) (xs ++ pathNext w x)

/-- R48: the first bad pc of a tile's program, E-0431. -/
def progBadPc (kind : Nat) (w : Nat → Nat) : Option Nat :=
  match firstIn 0 64 fun pc => wordMal kind (w pc) || loopMal w pc with
  | some pc => some pc
  | none => pathWalk w 2000000 [] [⟨0, [], 0⟩]
/--
(DEDUCED, log 87) -/
def PCtx.r48 (c : PCtx) : Option LdErr :=
  (c.tiles).findSome? fun x => (progBadPc (tgKind x.target) fun pc => x.word pc).map fun pc => c.tileErr x 0x0431 pc

/-! ## Partitions in words (R54, R80, R117, R129) -/

/-- Modes of the descriptors a Vintage's program FIREs in an MX tile.
(DEDUCED, log 18) -/
def State.firedModes (s : State) (r : TileRef) (v : Nat) : List Nat :=
  (List.range 64).filterMap fun pc =>
    let w := (s.progWord r v pc).toNat
    if uOp w = 2 then some (bitsW (s.opd r v (bitsN w 24 4)) 0 4) else none
/-- The largest S of the modes fired; 16 when none is fired (R80). -/
def State.setS (s : State) (r : TileRef) (v : Nat) : Nat :=
  let ms := s.firedModes r v
  if ms.isEmpty then 16 else maxN (ms.map setWords)
/-- Is a partition empty? -/
def State.partEmpty (s : State) (r : TileRef) (v g : Nat) : Bool := decide (s.partHi r v g < s.partLo r v g)
/-- The word ranges, first and last, that the generators of a tile address in its memory: MX AG0 and AG1 in the weight store, MM AG0 to
AG3. -/
def State.genRanges (s : State) (r : TileRef) (v : Nat) : List (Nat × Nat × Nat) :=
  match kindOf r.k with
  | .mx =>
    let S := s.setS r v
    (if s.partEmpty r v 0 then [] else [(0, S * s.partLo r v 0, S * s.partHi r v 0 + S - 1)]) ++
      (if s.partEmpty r v 1 then [] else [(1, s.partLo r v 1, s.partHi r v 1)])
  | .mm => (List.range 4).filterMap fun g =>
    let (lo, n) := s.partWords r v g
    if n = 0 then none else some (g, lo, lo + n - 1)
  | _ => []
/-- Placed Vintages but `v`. -/
def State.others (s : State) (v : Nat) : List Nat := s.placedList.filter (· != v)

/-- R54: overlap with a partition of another placed Vintage, E-0424. -/
def PCtx.r54 (c : PCtx) : Option LdErr :=
  c.tiles.findSome? fun x =>
    let r := c.ref x
    (c.st.genRanges r c.v).findSome? fun a =>
      if (c.st.others c.v).any fun w => c.st.usesTile r w && (c.st.genRanges r w).any fun b => rangesMeet a.2.1 a.2.2 b.2.1 b.2.2 then
        some (c.tileErr x 0x0424 (100 + a.1))
      else none

/-! ## MX checks (R56, R58, R61, R80, R85, R117, R118) -/

/-- Descriptor word `d` of a TILE section. -/
def PSec.opd (x : PSec) (d : Nat) : Nat := x.word (84 + d)
/-- Partition bounds of generator `g` in a TILE section. -/
def PSec.lo (x : PSec) (g : Nat) : Nat := bitsN (x.word (100 + g)) 0 16
def PSec.hi (x : PSec) (g : Nat) : Nat := bitsN (x.word (100 + g)) 16 16
def PSec.empty (x : PSec) (g : Nat) : Bool := decide (x.hi g < x.lo g)
/-- Does some descriptor stand in a mode for which `p` holds? -/
def PSec.anyMode (x : PSec) (p : Nat → Bool) : Bool := (List.range 16).any fun d => p (bitsN (x.opd d) 0 4)
/-- The FIREs of a TILE section: pc, descriptor and len. -/
def PSec.fires (x : PSec) : List (Nat × Nat × Nat) :=
  (List.range 64).filterMap fun pc =>
    let w := x.word pc
    if uOp w = 2 then some (pc, bitsN w 24 4, bitsN w 0 16 + 1) else none

/-- R56.
(DEDUCED, log 86) -/
def PCtx.r56 (c : PCtx) : Option LdErr :=
  c.eachTile 0 fun x _ =>
    if !x.empty 2 && ((decide (63 < x.hi 2) && x.anyMode fun m => decide (m < 2)) || (decide (31 < x.hi 2) && x.anyMode isCb) ||
        x.fires.any fun f => bitsN (x.opd f.2.1) 0 4 == 5 && decide (64 < x.hi 2 + f.2.2)) then some (0x0431, 102)
    else if !x.empty 1 && decide (2047 < x.hi 1) then some (0x0431, 101)
    else none
/-- R58. -/
def PCtx.r58 (c : PCtx) : Option LdErr :=
  c.eachTile 0 fun x _ => (List.range 16).findSome? fun d =>
    let w := x.opd d
    if bitsN w 0 4 = 5 ∧ bitsN w 6 6 ≠ 0 then some (0x0433, 84 + d)
    else if 5 < bitsN w 0 4 ∨ bitsN w 4 2 = 3 ∨ bitsN w 12 2 ≠ 0 ∨ bitsN w 14 18 ≠ 0 then some (0x0431, 84 + d)
    else none
/-- R61. -/
def PCtx.r61 (c : PCtx) : Option LdErr :=
  c.eachTile 0 fun _ r => if c.st.binOf r < c.st.fTop then some (0x0423, 0xFFFF) else none
/-- R62. -/
def PCtx.r62 (c : PCtx) : Option LdErr :=
  c.eachTile 2 fun x _ => (firstIn 0 16 fun d => decide (10 < bitsN (x.opd d) 0 5)).map fun d => (0x0431, 84 + d)

/-! ## MM checks (R63, R475, R114, R129) -/

/-- Read owner and write owner of bank `m` by the ownership word.
(DEDUCED, log 91) -/
def readOwner (w m : Nat) : Nat := bitsN w (2 * m) 2
/--
(DEDUCED, log 91) -/
def writeOwner (w m : Nat) : Nat := bitsN w (2 * m + 16) 2
/-- R63: a partition reaches a bank that its port does not own. -/
def PCtx.r63 (c : PCtx) : Option LdErr :=
  c.eachTile 1 fun x r => (c.st.genRanges r c.v).findSome? fun a =>
    let own := x.opd 4
    if (List.range 8).any fun m => rangesMeet a.2.1 a.2.2 (3072 * m) (3072 * m + 3071) &&
        (if a.1 < 2 then readOwner own m != a.1 else writeOwner own m != a.1 - 2) then some (0x0431, 100 + a.1)
    else none
/-- R475. -/
def PCtx.r475 (c : PCtx) : Option LdErr :=
  c.eachTile 1 fun x r =>
    match firstIn 0 16 fun d =>
        let w := x.opd d
        if d < 4 then decide (2 < bitsN w 0 3) || (bitsN w 0 3 == 1 && decide (2 ≤ d)) || (bitsN w 0 3 == 2 && decide (d < 2)) ||
          bitsN w 3 2 == 3 || bitsN w 5 27 != 0
        else if d = 4 then (List.range 8).any fun m => readOwner w m == 3 || writeOwner w m == 3
        else w != 0 with
    | some d => some (0x0431, 84 + d)
    | none => ((c.st.genRanges r c.v).find? fun a => decide (24575 < a.2.2)).map fun a => (0x0431, 100 + a.1)
/-- R80.
(DEDUCED, log 86) -/
def PCtx.r80 (c : PCtx) : Option LdErr :=
  c.eachTile 0 fun x r =>
    let S := c.st.setS r c.v
    if !x.empty 0 && decide (2047 < S * x.hi 0 + S - 1) then some (0x0431, 100) else none
/-- R85: bias and codebook blocks of the descriptors that have them, and AG2 in codebook modes.
(DEDUCED, log 86) -/
def PCtx.r85 (c : PCtx) : Option LdErr :=
  c.eachTile 0 fun x _ => (List.range 16).findSome? fun d =>
    let w := x.opd d
    let a := x.word (104 + d)
    let cb := isCb (bitsN w 0 4)
    let j := (x.hi 0 - x.lo 0) >>> bitsN a 24 4
    let bw := (if cb then 8 else 4) * (if bitN a 11 then 2 else 1)
    if !x.empty 0 && ((bitsN w 4 2 == 1 && decide (2047 < bitsN a 0 11 + bw * (j + 1) - 1)) ||
        (cb && decide (2047 < bitsN a 12 11 + 5 * (j + 1) - 1))) then some (0x0431, 104 + d)
    else if cb && !x.empty 2 && decide (31 < x.hi 2) then some (0x0431, 102)
    else none
/-- R90. -/
def PCtx.r90 (c : PCtx) : Option LdErr :=
  c.eachTile 2 fun x _ =>
    (firstIn 0 16 fun d => decide (bitsN (x.opd d) 0 5 < 5) && bitsN (x.opd d) 7 2 == 3).map fun d => (0x0431, 84 + d)
/-- R114: fill records.
(DESIGN CHOICE, log 183; DESIGN CHOICE, log 199) -/
def PCtx.r114 (c : PCtx) : Option LdErr :=
  c.eachTile 1 fun x r => (List.range 8).findSome? fun f =>
    let w0 := x.word (104 + 2 * f)
    let enc := bitsN (x.word (105 + 2 * f)) 8 2
    let lo := bitsN w0 0 15
    let hi := lo + bitsN w0 16 15
    let ratio (g : Nat) : Nat := if bitsN (x.opd g) 0 3 = 0 then 0 else bitsN (x.opd g) 3 2
    let home := (c.st.genRanges r c.v).filter fun a => decide (a.2.1 ≤ lo) && decide (hi ≤ a.2.2)
    if bitN w0 31 && (decide (24575 < hi) || home.isEmpty || enc == 3 || !(home.any fun a => ratio a.1 == enc)) then
      some (0x0431, 104 + 2 * f)
    else none
/-- R117.
(DEDUCED, log 86) -/
def PCtx.r117 (c : PCtx) : Option LdErr :=
  c.eachTile 0 fun x _ =>
    if !x.empty 0 && (x.fires.any fun f => bitsN (x.opd f.2.1) 0 4 == 5) && decide (2047 < 384 * x.hi 0 + 383) then some (0x0431, 100)
    else none
/-- R118. -/
def PCtx.r118 (c : PCtx) : Option LdErr :=
  c.eachTile 0 fun x _ => x.fires.findSome? fun f =>
    if bitsN (x.opd f.2.1) 0 4 == 5 && (!(f.2.2 == 32 || f.2.2 == 48 || f.2.2 == 64) || (!x.empty 2 && decide (63 < x.hi 2 + f.2.2 - 1))) then
      some (0x0431, f.1)
    else none

/-- R123: does a descriptor of functions 0x05–0x0A break the rule? -/
def sfDescBad (w : Nat) : Bool :=
  let fn := bitsN w 0 5
  let f2c := (2 <<< bitsN w 5 2) * (2 <<< bitsN w 5 2) * 2 ^ bitsN w 7 3
  let taps := bitsN w 5 2
  let w1 := bitsN w 19 4
  let w2 := bitsN w 23 4
  let w3 := bitsN w 27 4
  (decide (5 ≤ fn) && decide (fn ≤ 10) && BitVec.ofNat 32 w &&& sfBits fn != BitVec.ofNat 32 w) ||
  match fn with
  | 7 => taps == 3 || decide (16 < w1 + w2 + w3) || (taps == 0 && w1 != 0) || (decide (taps < 2) && (w2 != 0 || w3 != 0))
  | 9 => taps == 3 || decide (32 < f2c) || (bitN w 10 && f2c != 16)
  | 10 => taps == 3 || decide (32 < f2c)
  | _ => false
def PCtx.r123 (c : PCtx) : Option LdErr :=
  c.eachTile 2 fun x _ => (firstIn 0 16 fun d => sfDescBad (x.opd d)).map fun d => (0x0431, 84 + d)
/-- R129. -/
def PCtx.r129 (c : PCtx) : Option LdErr :=
  c.eachTile 1 fun x _ =>
    (firstIn 0 4 fun g => !x.empty g && (bitsN (x.opd g) 0 3 == 1 || bitsN (x.opd g) 0 3 == 2) && bitsN (x.opd g) 3 2 == 1 &&
      x.lo g % 3 != 0).map fun g => (0x0431, 100 + g)

/-! ## Slot Tables (R141) -/

/-- The switch points of a Vintage in ascending Terrace, logical Row, kind and index; bridge points have logical Row 0 and kind 6 (Table 7.5).
Each with its local logical Row, kind and index. -/
def PCtx.points (c : PCtx) : List (PointRef × Nat × Nat × Nat × Nat) :=
  (List.range 4).flatMap fun t =>
    (List.range 8).flatMap fun k =>
      (if bitN c.mask (8 * t + k) && decide (c.st.physRow t c.v k < 9) then
        (List.range 13).map fun j => (.row (Fin.ofNat 4 t) (Fin.ofNat 9 (c.st.physRow t c.v k)) (Fin.ofNat 13 j), t, k, 5, j)
      else []) ++
      (if k = 0 then (List.range 3).map fun j => (.bridge (Fin.ofNat 4 t) (Fin.ofNat 3 j), t, 0, 6, j) else [])
/-- The SLOTS section of a point: its directory index. -/
def PCtx.slotsIdx (c : PCtx) (t k kind j : Nat) : Nat :=
  ((c.secs.find? fun x => x.kind == 0x12 && x.target == tgOf t k kind j).map PSec.idx).getD 0xFFFF
/-- An error at a switch point.
(DEDUCED, log 94) -/
def PCtx.pointErr (c : PCtx) (code t k kind j rec1 port : Nat) : LdErr :=
  let row := if kind = 6 then 15 else c.physOf t k
  let unit := if kind = 6 then t + 128 * row + 2048 * 5 + 2 ^ 14 * j + 2 ^ 18 * port else ldrUnit t k row 5 j port
  ⟨code, c.slotsIdx t k kind j, rec1, unit⟩
/-- An error at a point reached by a trace. -/
def PCtx.pointErrAt (c : PCtx) (p : PointRef) (sl port : Nat) : LdErr :=
  match c.points.find? fun x => x.1 == p with
  | some (_, t, k, kind, j) => c.pointErr 0x0441 t k kind j sl port
  | none =>
    match p with
    | .row t r j => ⟨0x0441, 0xFFFF, sl, t + 128 * r + 2048 * 5 + 2 ^ 14 * j + 2 ^ 18 * port⟩
    | .bridge t j => ⟨0x0441, 0xFFFF, sl, t + 128 * 15 + 2048 * 5 + 2 ^ 14 * j + 2 ^ 18 * port⟩

/-- Input ports of a point (Table 5.1): how many, from 0. -/
def insOf : PointRef → Nat
  | .row _ _ j => if j.val < 10 then 9 else 12
  | .bridge _ j => if j.val = 2 then 2 else 14
/-- Is an input port of a point connected? The west port of point 0 is not. -/
def inOk (p : PointRef) (i : Nat) : Bool :=
  decide (i < insOf p) && !(match p with | .row _ _ j => j.val == 0 && i == 4 | .bridge _ _ => false)
/-- Is an output port of a point connected? -/
def outOk (s : State) (v : Nat) (p : PointRef) (o : Nat) : Bool := (nextOf s v p o 0).isSome
/-- Is an output port an MM MW port? -/
def isMW : PointRef → Nat → Bool
  | .row _ _ j, o => decide (j.val < 8) && (o == 6 || o == 7)
  | .bridge _ _, _ => false
/-- The connections in force of an entry. -/
def PCtx.conns (c : PCtx) (p : PointRef) (sl : Nat) : List Word := ((List.range 4).map (c.st.conn p c.v sl)).filter connEn
/-- Is one connection in force badly formed? -/
def connBad (s : State) (v : Nat) (p : PointRef) (w : Word) : Bool :=
  let mr := isMR p (connIn w)
  let mw := (outsOf w).filter (isMW p)
  !inOk p (connIn w) || connMask w == 0 || !((outsOf w).all (outOk s v p)) ||
    (mr && !mw.isEmpty && connSel w != 0) || (mw.length == 2 && connSel w != 0) || decide (16 < connSel w) ||
    (connSel w != 0 && !mr && mw.isEmpty)
/-- The port at fault in an entry: the first of a bad connection, or of two that clash. -/
def entryBad (s : State) (v : Nat) (p : PointRef) : List Word → Option Nat
  | [] => none
  | w :: ws =>
    if connBad s v p w then some (connIn w)
    else
      match (ws.find? fun u => connIn u == connIn w) with
      | some _ => some (connIn w)
      | none =>
        match (outsOf w).find? fun o => ws.any fun u => bitN (connMask u) o with
        | some o => some o
        | none => entryBad s v p ws

/-- What a trace finds: hops with connection words and sinks, or the point, slot and port where it breaks. -/
inductive Traced where
  | ok (hops : List Hop) (sinks : List SnkRef)
  | broken (p : PointRef) (sl port : Nat)
deriving DecidableEq, Repr

/-- Trace from the input of a point in the slot of ac `a`; `seen` are the points crossed, and `sel` chooses at a source's own port. -/
def traceCk (s : State) (v F : Nat) : Nat → List PointRef → PointRef → Nat → Nat → Option Word → Traced
  | 0, _, p, inp, a, _ => .broken p (a % F) inp
  | fuel + 1, seen, p, inp, a, first =>
    let here := match first with
      | some w => some w
      | none => ((List.range 4).map (s.conn p v (a % F))).find? fun w => connEn w && connIn w == inp
    match here with
    | none => .broken p (a % F) inp
    | some w =>
      if seen.contains p then .broken p (a % F) inp
      else
        (outsOf w).foldl (fun acc o =>
          match acc with
          | .broken .. => acc
          | .ok hs ks =>
            match nextOf s v p o (connSel w) with
            | some (.sink k, _, _) => .ok hs (ks ++ [k])
            | some (.point q i, link, _) =>
              match traceCk s v F fuel (p :: seen) q i (a + 1 + connReg w + link) none with
              | .ok hs' ks' => .ok (hs ++ hs') (ks ++ ks')
              | b => b
            | none => .broken p (a % F) inp) (.ok [⟨p, inp, w⟩] [])

/-- Is an input port fed by a source at the point itself: a tile output, a cask, logic cells, or the Hub behind an IO tile? -/
def srcPort : PointRef → Nat → Bool
  | .row _ _ j, i => if j.val < 8 then i < 4 || i == 8 else if j.val < 10 then i < 4 || i == 8 else if j.val = 10 then i < 8 || i == 11 else false
  | .bridge _ j, i => j.val != 2 && (i == 9 || i == 10)
/-- The source a connection takes at its point: the port, and for an MR port the sel. -/
def srcTag (p : PointRef) (w : Word) : Nat × Nat :=
  let i := connIn w
  if isMR p i && connSel w != 0 then (16, connSel w) else (i, 0)

/-- Every route from a source, in ascending order of points, slots and connections. -/
def PCtx.traces (c : PCtx) : List (PointRef × (Nat × Nat) × Traced) :=
  c.points.flatMap fun (p, _) => (List.range c.F).flatMap fun sl =>
    ((c.conns p sl).filter fun w => srcPort p (connIn w)).map fun w =>
      (p, srcTag p w, traceCk c.st c.v c.F 200 [] p (connIn w) sl (some w))
/-- The circuits of the Vintage: source, hops and sinks, each once. -/
def PCtx.circuits (c : PCtx) : List (PointRef × (Nat × Nat) × List Hop × List SnkRef) :=
  (c.traces.filterMap fun (p, g, t) => match t with | .ok hs ks => some (p, g, hs, ks) | .broken .. => none).dedup

/-- R141: frame lengths first (E-0442), then entries, traces, and circuits per source and sink (E-0441). -/
def PCtx.r141 (c : PCtx) : Option LdErr :=
  match (c.secs.find? fun x => x.kind == 0x12 && bitsN (x.word 0) 0 8 + 1 != c.F) with
  | some x =>
    some { c.pointErr 0x0442 (tgT x.target) (tgK x.target) (tgKind x.target) (tgI x.target) 0xFFFF 0 with sect := x.idx }
  | none =>
    let recBad (x : PSec) : Option Nat := firstIn 0 ((x.body.length - 4) / 20) fun i => decide (255 < x.word (1 + 5 * i))
    match c.secs.findSome? fun x => if x.kind = 0x12 then (recBad x).map fun i => (x, i) else none with
    | some (x, i) => some { c.pointErr 0x0441 (tgT x.target) (tgK x.target) (tgKind x.target) (tgI x.target) i 0 with sect := x.idx }
    | none =>
      match c.points.findSome? fun (p, t, k, kind, j) => (List.range 256).findSome? fun sl =>
          (entryBad c.st c.v p (c.conns p sl)).map fun port => c.pointErr 0x0441 t k kind j sl port with
      | some e => some e
      | none =>
        match c.traces.findSome? fun (_, _, t) => match t with | .broken p sl port => some (c.pointErrAt p sl port) | .ok .. => none with
        | some e => some e
        | none =>
          let cs := c.circuits
          let perSrc (x : PointRef × (Nat × Nat) × List Hop × List SnkRef) : Nat :=
            (cs.filter fun y => y.1 == x.1 && y.2.1 == x.2.1).length
          let shared (x : PointRef × (Nat × Nat) × List Hop × List SnkRef) : Bool :=
            x.2.2.2.any fun k => (cs.filter fun y => y.2.2.2.contains k).length != 1
          (cs.find? fun x => decide ((if c.elastic then 1 else 8) < perSrc x) || (c.elastic && shared x)).map fun x =>
            c.pointErrAt x.1 0xFFFF x.2.1.1

/-! ## Casks (R153, R230) -/

/-- The records of the CASKS sections in directory order: section, record, cask index and descriptor words. -/
def PCtx.caskRecs (c : PCtx) : List (PSec × Nat × Nat × Word × Word) :=
  (c.secs.filter fun x => x.kind == 0x13).flatMap fun x => (List.range (x.body.length / 12)).map fun i =>
    (x, i, x.word (3 * i), BitVec.ofNat 32 (x.word (3 * i + 1)), BitVec.ofNat 32 (x.word (3 * i + 2)))
/-- The cask a record names. -/
def PCtx.caskRef (c : PCtx) (x : PSec) (i : Nat) : CaskRef :=
  let r := c.ref x
  ⟨r.t, r.row, Fin.ofNat 8 (tgI x.target), Fin.ofNat 16 i⟩
/-- An error at a cask record. -/
def PCtx.caskErr (c : PCtx) (x : PSec) (code rec1 cask : Nat) : LdErr :=
  let t := tgT x.target
  let k := tgK x.target
  ⟨code, x.idx, rec1, ldrUnit t k (c.physOf t k) 6 (cask % 16) 0⟩
/-- Is a record for a cask enabled for another Vintage, of those for which `p` holds?
(DEDUCED, log 92) -/
def PCtx.takenBy (c : PCtx) (k : CaskRef) (p : Nat → Bool) : Bool :=
  c.st.caskEn k && (List.range 4).any fun w => w != c.v && p w && c.st.caskUse k w
/-- Does a record agree with the cask as it stands, in base, bound, class, pkt, pkt_len_m1 and threshold_m1 (R230)?
(DEDUCED, log 92) -/
def PCtx.caskSame (c : PCtx) (k : CaskRef) (d0 d1 : Word) : Bool :=
  c.st.desc0 k &&& 0x7FFF7FFF == d0 &&& 0x7FFF7FFF && c.st.desc1 k &&& 0xFFFFFF0F == d1 &&& 0xFFFFFF0F
/-- Does a record share a cask with another placed Vintage (R230)? -/
def PCtx.caskJoins (c : PCtx) (x : PSec) (k : CaskRef) (d0 d1 : Word) : Bool :=
  x.flags % 2 == 1 && c.takenBy k c.st.isPlaced && c.caskSame k d0 d1
/-- The casks that the records create or share, as step 10 writes them: cask, descriptor, whether it is shared. -/
def PCtx.caskWrites (c : PCtx) : List (Nat × Word × Word × Bool) :=
  c.caskRecs.map fun (x, _, n, d0, d1) => let k := c.caskRef x n; (caskKey k, d0, d1, c.caskJoins x k d0 d1)
/-- R153: a cask of the Vintage badly formed, E-0443.
(DEDUCED, log 91) -/
def PCtx.caskBad (c : PCtx) (k : CaskRef) : Bool :=
  let s := c.fin
  let own := (s.opd (caskTile k) c.v 4).toNat
  let lo := s.caskBase k
  let hi := lo + s.caskBound k - 1
  s.caskBound k == 0 || decide (24575 < hi) || decide (4 < s.caskClass k) || (s.caskPriv k && s.caskPkt k) ||
    (s.caskPkt k && decide (s.caskLenM1 k < s.caskThrM1 k)) ||
    (List.range 8).any fun m => rangesMeet lo hi (3072 * m) (3072 * m + 3071) && !(readOwner own m == 2 && writeOwner own m == 2)
/-- Does the region of a cask overlap another enabled cask, or a partition of a placed Vintage or of this one (E-0424)? The cask of the
same index that a placed Vintage uses is another enabled cask, except for a record with the shared flag.
(DEDUCED, log 92) -/
def PCtx.caskClash (c : PCtx) (k : CaskRef) (shared : Bool) : Bool :=
  let s := c.fin
  let lo := s.caskBase k
  let hi := lo + s.caskBound k - 1
  let meets (t : State) (o : CaskRef) : Bool := rangesMeet lo hi (t.caskBase o) (t.caskBase o + t.caskBound o - 1)
  ((List.range 16).any fun i =>
    let o : CaskRef := { k with c := Fin.ofNat 16 i }
    (i != k.c.val && s.caskEn o && meets s o) || (!(i == k.c.val && shared) && c.takenBy o c.st.isPlaced && meets c.st o)) ||
    ((c.v :: s.others c.v).any fun w => s.usesTile (caskTile k) w && (s.genRanges (caskTile k) w).any fun a => rangesMeet lo hi a.2.1 a.2.2)
/-- A connection of the Vintage that names a cask it does not have.
(DEDUCED, log 94) -/
def PCtx.connCask (c : PCtx) : Option LdErr :=
  c.points.findSome? fun (p, t, k, kind, j) =>
    match p with
    | .bridge .. => none
    | .row t' r j' =>
      (List.range 256).findSome? fun sl => (c.conns p sl).findSome? fun w =>
        let o : CaskRef := ⟨t', r, Fin.ofNat 8 j', Fin.ofNat 16 (connSel w - 1)⟩
        if connSel w != 0 && !(c.fin.caskEn o && c.fin.caskUse o c.v) then some (c.pointErr 0x0443 t k kind j sl 0) else none
/-- A generator partition of the Vintage that meets an enabled cask of another one, E-0424.
(DEDUCED, log 92) -/
def PCtx.genClash (c : PCtx) : Option LdErr :=
  c.eachTile 1 fun _ r =>
    ((c.st.genRanges r c.v).find? fun a => (List.range 16).any fun i =>
      let o : CaskRef := ⟨r.t, r.row, Fin.ofNat 8 (idxOf r.k), Fin.ofNat 16 i⟩
      c.fin.caskEn o && !c.fin.caskUse o c.v &&
        rangesMeet a.2.1 a.2.2 (c.fin.caskBase o) (c.fin.caskBase o + c.fin.caskBound o - 1)).map fun a => (0x0424, 100 + a.1)
/-- R153: the casks of the records, the connections, and the overlaps. -/
def PCtx.r153 (c : PCtx) : Option LdErr :=
  match c.caskRecs.findSome? fun (x, i, n, d0, _) =>
      if 15 < n then some (c.caskErr x 0x0443 i n)
      else if bitW d0 31 && c.caskBad (c.caskRef x n) then some (c.caskErr x 0x0443 i n) else none with
  | some e => some e
  | none =>
    match c.connCask with
    | some e => some e
    | none =>
      match c.caskRecs.findSome? fun (x, i, n, d0, _) =>
          if bitW d0 31 && c.caskClash (c.caskRef x n) (x.flags % 2 == 1) then some (c.caskErr x 0x0424 i n) else none with
      | some e => some e
      | none => c.genClash
/-- R230: a record for a cask of another Vintage that it does not share, or of which a field differs.
(DEDUCED, log 92) -/
def PCtx.r230 (c : PCtx) : Option LdErr :=
  c.caskRecs.findSome? fun (x, i, n, d0, d1) =>
    let k := c.caskRef x n
    if c.takenBy k (fun _ => true) && !(x.flags % 2 == 1 && c.caskSame k d0 d1) then some (c.caskErr x 0x0443 i n) else none

/-! ## RK units, cycles, unit table, logic cells (R160, R165, R185, R222) -/

/-- R160. -/
def PCtx.r160 (c : PCtx) : Option LdErr :=
  c.eachTile 3 fun x _ =>
    (firstIn 0 16 fun u =>
      let w := x.opd u
      let kind := bitsN w 0 3
      if 4 ≤ u then w != 0
      else decide (5 < kind) || bitsN w 28 4 != 0 ||
        ((kind == 1 || kind == 2) && (u % 2 == 1 || bitsN (x.opd (u + 1)) 0 3 != 0)) ||
        (kind == 5 && decide (bitsN w 20 4 < bitsN w 24 4))).map fun u => (0x0431, 84 + u)

/-- The cycle entries in directory order: section, entry, words.
(DEDUCED, log 95) -/
def PCtx.cycles (c : PCtx) : List (PSec × Nat) :=
  ((c.secs.filter fun x => x.kind == 0x14).flatMap fun x => (List.range (x.body.length / 32)).map fun i => (x, i)).take 32
/-- Word `w` of a cycle entry. -/
def cycWordOf (e : PSec × Nat) (w : Nat) : Nat := e.1.word (8 * e.2 + w)
/-- Member locators of a cycle entry. -/
def cycMembers (e : PSec × Nat) : List Nat :=
  (List.range (bitsN (cycWordOf e 0) 16 4)).map fun m => bitsN (cycWordOf e (1 + m / 2)) (16 * (m % 2)) 16
/-- Does a locator name a cask enabled for the Vintage? -/
def PCtx.locOk (c : PCtx) (l : Nat) : Bool :=
  decide (bitsN l 2 4 < 9) && l / 8192 == 0 && c.fin.caskEn (ofLoc l) && c.fin.caskUse (ofLoc l) c.v
/-- R165, E-0445. -/
def PCtx.r165 (c : PCtx) : Option LdErr :=
  (c.cycles.find? fun e =>
    let d := bitsN (cycWordOf e 0) 0 16
    let n := bitsN (cycWordOf e 0) 16 4
    let base := cycWordOf e 5
    let size := bitsN (cycWordOf e 6) 0 16
    n == 0 || decide (8 < n) || !c.locOk d || !(cycMembers e).all c.locOk || !(cycMembers e).contains d || c.fin.caskPriv (ofLoc d) ||
      decide (c.st.hyperCap < base + 288 * size) ||
      c.cycles.any fun f => bitsN (cycWordOf f 0) 0 16 == d && !(cycWordOf f 5 == base && bitsN (cycWordOf f 6) 0 16 == size)).map fun e =>
    LdErr.at 0x0445 e.1.idx e.2

/-- R185: event ports.
(DEDUCED, log 96) -/
def PCtx.r185 (c : PCtx) : Option LdErr :=
  tileTargets.findSome? fun g =>
    match c.secs.find? fun x => x.kind == 0x15 && x.target == g with
    | none => none
    | some x =>
      let e := bitsN (x.word 0) 0 4
      if e != 15 && decide (nth 0 [2, 1, 2, 4] (tgKind g) < e) then some (c.tileErr x 0x0431 0) else none

/-- R222: the first bad word of an LCROW section, E-0447. -/
def PCtx.r222 (c : PCtx) : Option LdErr :=
  ((List.range 4).flatMap fun t => (List.range 8).map fun k => tgOf t k 0 0).findSome? fun g =>
    match c.secs.find? fun x => x.kind == 0x16 && x.target == g with
    | none => none
    | some x =>
      let t := tgT g
      let rows := ((List.range 8).filter fun k => bitN c.mask (8 * t + k)).map fun k => c.st.physRow t c.v k
      let bad (i : Nat) : Bool :=
        let w := x.word i
        if i < 8192 then (i % 4 == 2 && decide (2 ^ 30 ≤ w)) || (i % 4 == 3 && decide (2 ^ 21 ≤ w))
        else if i % 64 < 32 then decide (2 ^ 15 ≤ w) || (bitsN w 0 2 == 1 && !rows.contains (bitsN w 2 4))
        else decide (2 ^ 6 ≤ w)
      (firstIn 0 12288 bad).map fun i => ⟨0x0447, x.idx, i, ldrUnit t (tgK g) (c.physOf t (tgK g)) 7 0 0⟩

/-! ## Graft, aggregator (R235, R291, R296) -/

/-- Is a width of a head in range? -/
def widthOk (n : Nat) : Bool := n % 16 == 0 && decide (16 ≤ n) && decide (n ≤ 512)
/-- Is a header field out of range (Table 8.1), or does the length not follow from it? -/
def gHdrBad (b : List Byte) : Bool :=
  let h := gHdr b
  !widthOk h.D || decide (2 < h.L) || !(h.r == 4 || h.r == 8 || h.r == 16) ||
    (if h.L = 0 then h.N1 != 0 else !widthOk h.N1) || (if h.L < 2 then h.N2 != 0 else !widthOk h.N2) ||
    !(decide (2 ≤ h.K) && decide (h.K ≤ 256)) || !(decide (1 ≤ h.n) && decide (h.n ≤ 256)) ||
    !(decide (64 ≤ h.poolCap) && decide (h.poolCap ≤ 65536)) || !(decide (256 ≤ h.featCap) && decide (h.featCap ≤ 1048576)) ||
    !(decide (1 ≤ h.b1) && decide (h.b1 ≤ 8)) || !(decide (1 ≤ h.b2) && decide (h.b2 ≤ 16)) || h.eps == 0 || decide (31 < h.lrE) ||
    decide (15 < h.sba1) || decide (15 < h.sba2) || !(decide (1 ≤ h.nHead) && decide (h.nHead ≤ 64)) ||
    !(decide (1 ≤ h.nGraft) && decide (h.nGraft ≤ 128)) || leAt b 0x1F 1 != 0 || leAt b 0x24 28 != 0 || b.length != h.off 8
/-- Graft-tile target `i`. -/
def graftTarget (b : List Byte) (i : Nat) : Nat := leAt b ((gHdr b).off 7 + 4 * i) 4
/-- Is a head-tile record refused?
(DEDUCED, log 97) -/
def PCtx.headBad (c : PCtx) (h : HeadRec) : Bool :=
  let r := c.st.targetTile c.v h.target
  let w := (c.st.opd r c.v h.d).toNat
  let lo := c.st.partLo r c.v 0
  let hi := c.st.partHi r c.v 0
  let base := bitsW (c.st.agw r c.v 0 0) 0 16
  let inside (b : Nat) : Bool := decide (lo ≤ b) && decide (b + h.nSets ≤ hi + 1)
  !tgTile h.target || tgKind h.target != 0 || decide (15 < h.d) || bitsN w 0 4 != 0 || !(bitsN w 4 2 == 1 || bitsN w 4 2 == 2) ||
    bitW (c.st.aux r c.v h.d) 11 || !inside h.base0 || !inside h.base1 || !(base == h.base0 || base == h.base1)
/-- Tiles that the ports of a circuit touch, as numbers. -/
def circTiles (s : State) (v : Nat) (x : PointRef × (Nat × Nat) × List Hop × List SnkRef) : List Nat :=
  let snk := x.2.2.2.filterMap fun k => match k with | .tile r _ => some (tileKey r) | _ => none
  let src := allTiles.filter fun r => (List.range 4).any fun o =>
    let e := srcEntry s v (.tile r (Fin.ofNat 4 o))
    e.1 == x.1 && x.2.1.1 != 16 && e.2.1.contains x.2.1.1 && decide (o < (match kindOf r.k with | .mx => 1 | .mm => 2 | .sf => 2 | .rk => 4))
  src.map tileKey ++ snk
/-- R235, E-0448: a Graft tile is used outside the section when a circuit joins it to a tile that the section does not list.
(DEDUCED, log 97) -/
def PCtx.r235 (c : PCtx) : Option LdErr :=
  match c.secs.find? fun x => x.kind == 0x22 with
  | none => none
  | some x =>
    let b := x.body
    if gHdrBad b then some (.at 0x0448 x.idx 0xFFFF)
    else
      let hs := (List.range (gHdr b).nHead).map (headRec b)
      let gs := (List.range (gHdr b).nGraft).map (graftTarget b)
      let key (g : Nat) : Nat := tileKey (c.st.targetTile c.v g)
      let listed := gs.map key ++ hs.map fun h => key h.target
      match firstIn 0 hs.length fun i => c.headBad (headRec b i) with
      | some i => some (.at 0x0448 x.idx i)
      | none =>
        (firstIn 0 gs.length fun i =>
          let g := nth 0 gs i
          !tgTile g || (hs.any fun h => h.target == g) ||
            c.circuits.any fun y => let ts := circTiles c.st c.v y; ts.contains (key g) && ts.any fun n => !listed.contains n).map fun i =>
          LdErr.at 0x0448 x.idx i

/-- R291: a crop that waits for lines beyond the lookahead, E-0449. -/
def PCtx.r291 (c : PCtx) : Option LdErr :=
  let rep := match c.secs.find? fun x => x.kind == 1 with | some x => x.body | none => []
  let oy := c.st.fgetS (F.VRD_CROP_OFS_V_oy c.v)
  let h : Int := c.st.fget (F.VRD_CROP_V_h_m1 c.v) + 1
  if oy + h > (leAt rep 0x10 2 + leAt rep 8 2 : Nat) then
    some (.at 0x0449 (((c.secs.find? fun x => x.kind == 0x20).map PSec.idx).getD 0xFFFF) 0xFFFF)
  else none
/-- R296: HUBCFG and CLASSMAP. -/
def PCtx.r296 (c : PCtx) : Option LdErr :=
  let hubRec (x : PSec) (i : Nat) : Bool :=
    let o := x.word (2 * i)
    let v := BitVec.ofNat 32 (x.word (2 * i + 1))
    !(o == 0x70004 || o == 0x70008 || o == 0x7000C || o == 0x70010) || (v &&& ~~~ accMask (· == .rw) o) != 0
  let mapBad (x : PSec) (i : Nat) : Bool :=
    let w := x.word i
    if i < 256 then decide (16 ≤ w) else if i < 272 then decide (256 ≤ w) else decide (2 ^ 20 ≤ w)
  c.secs.findSome? fun x =>
    if x.kind = 0x20 then
      if x.body.length % 8 ≠ 0 then some (.at 0x0449 x.idx 0xFFFF)
      else (firstIn 0 (x.body.length / 8) (hubRec x)).map fun i => LdErr.at 0x0449 x.idx i
    else if x.kind = 0x21 then
      if x.body.length ≠ 1092 then some (.at 0x0449 x.idx 0xFFFF)
      else (firstIn 0 273 (mapBad x)).map fun i => LdErr.at 0x0449 x.idx i
    else none

/-- Step 8 (R227): the first check that fails. -/
def PCtx.checks (c : PCtx) : Option LdErr :=
  [PCtx.r48, PCtx.r54, PCtx.r56, PCtx.r58, PCtx.r61, PCtx.r62, PCtx.r63, PCtx.r475, PCtx.r80, PCtx.r85, PCtx.r90, PCtx.r114, PCtx.r117,
   PCtx.r118, PCtx.r123, PCtx.r129, PCtx.r141, PCtx.r153, PCtx.r230, PCtx.r160, PCtx.r165, PCtx.r185, PCtx.r222, PCtx.r235, PCtx.r291, PCtx.r296].findSome? fun f => f c

end Sys2Proof.Machine
end

