-- ==== Sys2Proof/Machine/Place.lean ====
section
/-!
DEFINITION. Machine/Place.lean: PLACE (07 R213–R219, R223–R231; 01 R19; 02 R72; 08 R236): steps 1–9 when it is taken, steps 10 and 11
at PLACE_DONE.
-/
namespace Sys2Proof.Machine

/-! ## The staging copy: patches and relocations (R216–R219) -/

/-- Replace `bs.length` bytes at `o`. -/
def putAt (b : List Byte) (o : Nat) (bs : List Byte) : List Byte := b.take o ++ bs ++ b.drop (o + bs.length)
/-- Every section of an image, with its vmask; the contents change as patches and relocations are applied. -/
abbrev Staged := List (Nat × PSec)
/-- The sections of an image. -/
def stagedOf (im : List Byte) : Staged := (sectsOf im).map fun x => (x.vmask, ⟨x.idx, x.kind, x.flags, x.target, x.body im⟩)
/-- Replace the contents of section `i`. -/
def Staged.put (xs : Staged) (i : Nat) (b : List Byte) : Staged := xs.map fun x => if x.2.idx = i then (x.1, { x.2 with body := b }) else x
/-- Section `i`. -/
def Staged.get (xs : Staged) (i : Nat) : Option (Nat × PSec) := xs.find? fun x => x.2.idx == i
/-- The records of the sections of a kind that apply to variant `k`, in directory order: section, record, its 16 bytes. -/
def Staged.recs (xs : Staged) (k kind : Nat) : List (Nat × Nat) :=
  (xs.filter fun x => x.2.kind == kind && bitN x.1 k).flatMap fun x => (List.range (x.2.body.length / 16)).map fun i => (x.2.idx, i)
/-- Record `i` of section `j` as it stands. -/
def Staged.rec (xs : Staged) (j i : Nat) : List Byte :=
  match xs.get j with | some x => (x.2.body.drop (16 * i)).take 16 | none => []
/-- Write a bit field of the 32-bit word at byte `o`. -/
def putField (b : List Byte) (o lo w v : Nat) : List Byte :=
  let x := leAt b o 4
  putAt b o (bytesOf 4 (x - bitsN x lo w * 2 ^ lo + v * 2 ^ lo))

/-- Apply one patch record (R216): the new copy, none when the record is refused. -/
def patchOne (vb : List Byte) (k : Nat) (xs : Staged) (r : List Byte) : Option Staged :=
  let lo := leAt r 2 1
  let w := leAt r 3 1
  let o := leAt r 4 4
  let p := leAt r 12 1
  let sg := leAt r 13 1
  match xs.get (leAt r 0 2) with
  | none => none
  | some x =>
    if !bitN x.1 k then some xs
    else if 15 < p ∨ 1 < sg ∨ x.2.body.length < o + 4 ∨ o % 4 ≠ 0 ∨ 32 < lo + w ∨ w = 0 then none
    else
      let v : Int := signed 32 (leAt r 8 4) + signed 16 (leAt r 14 2) * varParam vb k p
      let fits := if sg = 0 then decide (0 ≤ v) && decide (v < (2 ^ w : Nat))
        else decide (-(2 ^ (w - 1) : Nat) ≤ v) && decide (v < (2 ^ (w - 1) : Nat))
      if fits then some (xs.put x.2.idx (putField x.2.body o lo w (unsigned w v))) else none
/-- Apply the patch records in directory order; the record at fault otherwise. -/
def patchAll (vb : List Byte) (k : Nat) : List (Nat × Nat) → Staged → Except LdErr Staged
  | [], xs => .ok xs
  | (j, i) :: rs, xs =>
    match patchOne vb k xs (xs.rec j i) with
    | some ys => patchAll vb k rs ys
    | none => .error (.at 0x0408 j i)

/-- The map a PLACE relocates by: the physical Row of a Terrace and local logical Row of the row_mask. -/
abbrev RowMap := Nat → Nat → Option Nat
/-- Relocate a logical Terrace address (R217, R219); none when it is not one. -/
def relocAddr (m : RowMap) (a : Nat) : Option Nat :=
  if inTerrace a then (m (terOf a) (rowOf a)).map fun p => a - rowOf a * 2 ^ 24 + p * 2 ^ 24 else none

/-- Apply one relocation record (R219), none when it is refused. `base` and `len` are the Vintage's HyperRAM region.
(DEDUCED, log 89) -/
def relocOne (m : RowMap) (base len k : Nat) (xs : Staged) (r : List Byte) : Option Staged :=
  let o := leAt r 4 4
  let pos := leAt r 3 1
  match xs.get (leAt r 0 2) with
  | none => none
  | some x =>
    let b := x.2.body
    let put (bs : List Byte) : Staged := xs.put x.2.idx (putAt b o bs)
    let inReg (u : Nat) : Bool := decide (base ≤ u) && decide (u < base + len)
    if !bitN x.1 k then some xs
    else
      match leAt r 2 1 with
      | 1 => if b.length < o + 5 then none else (relocAddr m (leAt b o 5)).map fun a => put (bytesOf 5 a)
      | 2 =>
        if b.length < o + 2 then none
        else
          let l := leAt b o 2
          (m (bitsN l 0 2) (bitsN l 2 4)).map fun p => put (bytesOf 2 (l - bitsN l 2 4 * 4 + p * 4))
      | 3 => if b.length < o + 4 ∨ !inReg (leAt b o 4 + base) then none else some (put (bytesOf 4 (leAt b o 4 + base)))
      | 4 =>
        let a := leAt b o 5
        if b.length < o + 5 ∨ !(decide (hyperBase ≤ a) && inReg (a - hyperBase + base)) then none else some (put (bytesOf 5 (a + base)))
      | 5 =>
        if b.length < o + 4 ∨ 28 < pos then none
        else (m (tgT x.2.target) (bitsN (leAt b o 4) pos 4)).map fun p => xs.put x.2.idx (putField b o pos 4 p)
      | _ => none
/-- Apply the relocation records.
(DEDUCED, log 88) -/
def relocAll (m : RowMap) (base len k : Nat) : List (Nat × Nat) → Staged → Except LdErr Staged
  | [], xs => .ok xs
  | (j, i) :: rs, xs =>
    match relocOne m base len k xs (xs.rec j i) with
    | some ys => relocAll m base len k rs ys
    | none => .error (.at 0x0407 j i)

/-- The section and where its bytes go for a WEIGHT section (R217), none when they do not lie in one memory of a Row of the row_mask.
(DEDUCED, log 89) -/
def weightPlace (m : RowMap) (x : PSec) : Option (Nat × Nat) :=
  let a := leAt x.body 0 5
  let d := x.body.drop 8
  match relocAddr m a with
  | none => none
  | some p =>
    let o := a % 0x01000000
    let room := if o < 0x00800000 then 0xC0000 - o % 0x00100000 else if o < 0x00900000 then 0x10000 - o % 0x00010000 else 0
    if d.length ≤ room ∧ o < 0x00900000 ∧ (0x00800000 ≤ o ∨ o % 0x00100000 < 0xC0000) then some (x.idx, p) else none
/-- Place every WEIGHT section.
(DEDUCED, log 88) -/
def weightsAll (m : RowMap) : List PSec → Except LdErr (List (Nat × Nat))
  | [] => .ok []
  | x :: xs =>
    if x.body.length ≤ 8 then weightsAll m xs
    else
      match weightPlace m x with
      | none => .error (.at 0x0407 x.idx 0xFFFF)
      | some w => match weightsAll m xs with | .ok ws => .ok (w :: ws) | .error e => .error e

/-- Rewrite a connection of a bridge point to physical Rows (R218): the new word, and the port that a connection in force names without a
Row to take. -/
def bridgeConn (m : Nat → Option Nat) (w : Nat) : Nat × Option Nat :=
  let en := bitN w 20
  let i := bitsN w 16 4
  let port (o : Nat) : Option Nat := if o < 8 then m o else if o = 8 then none else some o
  let outs := (List.range 16).filter (bitN w)
  let mask := ((outs.map fun o => (port o).getD o).dedup.map fun o => 2 ^ o).foldl (· + ·) 0
  let bad := if en then (i :: outs).find? fun o => (port o).isNone else none
  (w / 2 ^ 20 * 2 ^ 20 + 2 ^ 16 * (port i).getD i + mask, bad)
/-- Rewrite the SLOTS section of a bridge point; the record and port at fault. -/
def bridgeSlots (m : Nat → Option Nat) (b : List Byte) : List Byte × Option (Nat × Nat) :=
  (List.range ((b.length - 4) / 20)).foldl (fun acc i => (List.range 4).foldl (fun acc c =>
    let o := 4 + 20 * i + 4 + 4 * c
    let (w, bad) := bridgeConn m (leAt acc.1 o 4)
    (putAt acc.1 o (bytesOf 4 w), match acc.2 with | some e => some e | none => bad.map fun p => (i, p))) acc) (b, none)
/-- Rewrite the Slot Tables of bridge points 0 and 1, whose ports 0–8 are spines.
(DEDUCED, log 88) -/
def bridgeAll (m : RowMap) : List PSec → Except LdErr (List PSec)
  | [] => .ok []
  | x :: xs =>
    let go (y : PSec) : Except LdErr (List PSec) := match bridgeAll m xs with | .ok ys => .ok (y :: ys) | .error e => .error e
    if x.kind = 0x12 ∧ tgKind x.target = 6 ∧ tgI x.target < 2 then
      match bridgeSlots (m (tgT x.target)) x.body with
      | (b, none) => go { x with body := b }
      | (_, some (i, p)) =>
        .error ⟨0x0441, x.idx, i, tgT x.target + 128 * 15 + 2048 * 5 + 2 ^ 14 * tgI x.target + 2 ^ 18 * p⟩
    else go x

/-! ## Variants and maps (R213–R215, R19) -/

/-- Good and unretired Rows of a Terrace. -/
def State.freeRows (s : State) (t : Nat) : List Nat :=
  (List.range 9).filter fun p => s.rowGood t p && !bitN (s.fget (F.TER_ROW_STATUS_row_retired t)) p
/-- Local logical Rows of a row_mask in a Terrace. -/
def maskRows (mask t : Nat) : List Nat := (List.range 8).filter fun k => bitN mask (8 * t + k)
/-- The first entry that R19 refuses: Terrace, local logical Row, code.
(DEDUCED, log 99) -/
def State.mapBad (s : State) (v mask : Nat) : Option (Nat × Nat × Nat) :=
  let ents := (List.range 4).flatMap fun t => (maskRows mask t).map fun k => (t, k)
  match ents.find? fun (t, k) => !(s.freeRows t).contains (s.physRow t v k) with
  | some (t, k) => some (t, k, 0x0421)
  | none => (ents.find? fun (t, k) => (maskRows mask t).any fun j => decide (j < k) && s.physRow t v j == s.physRow t v k).map
      fun (t, k) => (t, k, 0x0422)
/-- Is a variant eligible (R213)? -/
def State.eligible (s : State) (v mask : Nat) (remap : Bool) : Bool :=
  if remap then (List.range 4).all fun t => decide ((maskRows mask t).length ≤ (s.freeRows t).length) else (s.mapBad v mask).isNone
/-- The error of R19 at an entry.
(DEDUCED, log 99) -/
def State.mapErr (s : State) (v t k code : Nat) : LdErr :=
  let p := s.physRow t v k
  ⟨code, 0xFFFF, 0xFFFF, ldrUnit t k (if p < 9 then p else 15) 0 0 0⟩
/-- Write the map of a Vintage for a row_mask (R214). -/
def State.remapRows (s : State) (v mask : Nat) : State :=
  (List.range 4).foldl (fun s t =>
    let ks := maskRows mask t
    let ps := s.freeRows t
    let ent (k : Nat) : Nat := if ks.contains k then nth 15 ps ((ks.filter fun j => decide (j < k)).length) else 15
    s.setReg (R.TER_ROW_MAP_V t v) (BitVec.ofNat 32 (((List.range 8).map fun k => ent k * 2 ^ (4 * k)).foldl (· + ·) 0))) s

/-- E-0428 (R225).
(DEDUCED, log 90) -/
def State.regionBad (s : State) (v base len : Nat) : Bool :=
  let (bo, bn) := s.slotPlace 0
  if len = 0 then decide (s.hyperCap < base)
  else base % 4096 != 0 || decide (s.hyperCap < base + len) || (decide (0 < bn) && rangesMeet base (base + len - 1) bo (bo + 4 * bn - 1)) ||
    (s.placedList.filter (· != v)).any fun w =>
      let p := s.placedRec w
      decide (0 < p.len) && rangesMeet base (base + len - 1) p.base (p.base + p.len - 1)

/-! ## Step 9: the per-Vintage registers -/

/-- Write `vals` as the indirect words from `lo` of a unit; each codeword is written whole, so no error and no poison stays in it. -/
def State.putWords (s : State) (sp : Space) (u lo n : Nat) (vals : List Nat) : State :=
  let s := { s with words := dropRange (wordKey sp u lo) n s.words, poison := dropRange (wordCw sp u lo) (n / 2) s.poison,
                    upset := dropRange (wordCw sp u lo) (n / 2) s.upset }
  (List.range vals.length).foldl (fun s i => s.setWord sp u (lo + i) (let w := BitVec.ofNat 32 (nth 0 vals i); w &&& wordBits sp u (lo + i) w)) s
/-- The words of a list of bytes. -/
def wordsOf : Nat → List Byte → List Nat
  | 0, _ => []
  | n + 1, b => leAt b 0 4 :: wordsOf n (b.drop 4)
/-- Words `lo` to `lo + n - 1` of a section. -/
def PSec.words (x : PSec) (lo n : Nat) : List Nat := wordsOf n (x.body.drop (4 * lo))

/-- Latency classes of a tile kind. -/
def classesOf : TileKind → List LatClass
  | .mx => [.mx1, .mx2, .mx3, .mx4, .mx5]
  | .mm => [.mm1, .mm2, .mm3, .mm4]
  | .sf => [.sf1, .sf2, .sf3]
  | .rk => [.rk1]
/-- DELAY_PAD for a compatibility level (R72).
(DEDUCED, log 21) -/
def State.padWord (s : State) (level : Nat) (cs : List LatClass) : Word :=
  BitVec.ofNat 32 ((cs.map fun c => (latLevel level c - s.partLat c) * 2 ^ (3 * padIdx c)).foldl (· + ·) 0)
/-- Write the DELAY_PAD of every tile a Vintage uses and of the IO tiles.
(DEDUCED, log 21) -/
def State.writePads (s : State) (v level : Nat) : State :=
  let s := (allTiles.filter fun r => s.usesTile r v).foldl (fun s r =>
    s.setReg (R.MX_DELAY_PAD_V (tb r) v) (s.padWord level (classesOf (kindOf r.k)))) s
  (List.range 32).foldl (fun s i => s.setReg (R.MX_DELAY_PAD_V (ioBase (i / 8) (i % 8)) v) (s.padWord level [.io1, .io2])) s

/-- Write a TILE section (R211, Table 7.6).
(DEDUCED, log 96) -/
def State.writeTile (s : State) (v : Nat) (r : TileRef) (x : PSec) : State :=
  let u := tileKey r
  let s := s.putWords .param u (v * 0x40) 64 (x.words 0 64)
  let s := s.putWords .param u (0x100 + v * 4) 4 (x.words 64 4)
  let s := s.putWords .param u (0x110 + v * 0x10) 16 (x.words 68 16)
  let s := s.putWords .param u (0x150 + v * 0x10) 16 (x.words 84 16)
  let s := s.putWords .param u (0x190 + v * 4) 4 (x.words 100 4)
  match kindOf r.k with
  | .rk => s
  | .sf =>
    let s := s.putWords .param u (0x1A0 + v * 0x80) 128 (x.words 104 128)
    let s := s.putWords .param u (0x3A0 + v * 0x10) 16 (x.words 232 16)
    s.putWords .ptab u (v * 512) 512 (x.words 248 512)
  | _ => s.putWords .param u (0x1A0 + v * 0x10) 16 (x.words 104 16)

/-- The section of a kind that targets a tile under the Vintage's map. -/
def secFor (s : State) (v kind : Nat) (secs : List PSec) (r : TileRef) : Option PSec :=
  secs.find? fun x => x.kind == kind && s.targetTile v x.target == r
/-- Tiles: use_v, parameter words, unit-table entry and cask peaks. A tile without a TILE section is not used (R211). -/
def State.writeTiles (s : State) (v : Nat) (secs : List PSec) : State :=
  allTiles.foldl (fun s r =>
    let tile := secFor s v 0x10 secs r
    let unit := secFor s v 0x15 secs r
    let s := s.fsetBit (F.MX_SEQ_CTRL_use_v (tb r)) v tile.isSome
    let s := match tile with | some x => s.writeTile v r x | none => s
    let s := s.putWords .unit r.t (8 * ((v * 9 + r.row) * 30 + r.k)) 8
      (match tile, unit with | some _, some u => u.words 0 8 | _, _ => [])
    if kindOf r.k = .mm then
      s.putWords .unit r.t (0x2200 + (v * 9 + r.row) * 64 + idxOf r.k * 8) 8 (match unit with | some u => u.words 8 8 | none => [])
    else s) s

/-- Every switch point. -/
def allPoints : List PointRef :=
  (List.range 4).flatMap fun t =>
    ((List.range 9).flatMap fun p => (List.range 13).map fun j => .row (Fin.ofNat 4 t) (Fin.ofNat 9 p) (Fin.ofNat 13 j)) ++
      (List.range 3).map fun j => .bridge (Fin.ofNat 4 t) (Fin.ofNat 3 j)
/-- The point a SLOTS section targets. -/
def State.targetPoint (s : State) (v target : Nat) : PointRef :=
  let t := Fin.ofNat 4 (tgT target)
  if tgKind target = 6 then .bridge t (Fin.ofNat 3 (tgI target))
  else .row t (Fin.ofNat 9 (s.physRow (tgT target) v (tgK target))) (Fin.ofNat 13 (tgI target))
/-- Slot Tables and frame lengths (R141). -/
def State.writeSlots (s : State) (v fr : Nat) (secs : List PSec) : State :=
  let s := allPoints.foldl (fun s p =>
    (s.fset (F.SP_FRAME_f_m1 (pointBase p) v) (fr - 1)).putWords .slot (pointKey p) (v * 1024) 1024 []) s
  secs.foldl (fun s x =>
    if x.kind = 0x12 then
      let p := s.targetPoint v x.target
      (List.range ((x.body.length - 4) / 20)).foldl (fun s i =>
        let sl := x.word (1 + 5 * i)
        if 255 < sl then s else s.putWords .slot (pointKey p) (v * 1024 + sl * 4) 4 (x.words (2 + 5 * i) 4)) s
    else s) s

/-- Logic-cell configuration and trees, cycle entries, Hub configuration and class map. -/
def State.writeRest (s : State) (v : Nat) (secs : List PSec) : State :=
  let rowSec (t p : Nat) : Option PSec := secs.find? fun x => x.kind == 0x16 && tgT x.target == t && s.physRow t v (tgK x.target) == p
  let s := (List.range 36).foldl (fun s i =>
    s.putWords .lcCfg i (v * 0x3000) 0x3000 (match rowSec (i / 9) (i % 9) with | some x => x.words 0 12288 | none => [])) s
  let s := (List.range 4).foldl (fun s t =>
    let w := match secs.find? fun x => x.kind == 0x17 && x.target == t with | some x => x.word 0 | none => 0
    s.setReg (R.TER_LC_TREE_V t v) (BitVec.ofNat 32 w &&& accMask (· == .rw) (R.TER_LC_TREE_V t v))) s
  let cyc := ((secs.filter fun x => x.kind == 0x14).flatMap fun x => x.words 0 (x.body.length / 4)).take 256
  let s := s.putWords .cycle v 0 256 cyc
  secs.foldl (fun s x =>
    if x.kind = 0x20 then
      (List.range (x.body.length / 8)).foldl (fun s i =>
        let o := x.word (2 * i)
        if 0x70004 ≤ o ∧ o ≤ 0x70010 then s.setReg (o + v * 0x100) (BitVec.ofNat 32 (x.word (2 * i + 1))) else s) s
    else if x.kind = 0x21 then s.putWords .cmap v 0 273 (x.words 0 273)
    else s) s

/-- Step 9 but for the Graft partition. -/
def State.writePlacement (s : State) (v fr level : Nat) (secs : List PSec) : State :=
  (((s.writeTiles v secs).writePads v level).writeSlots v fr secs).writeRest v secs

/-! ## Step 10: cask descriptors -/

/-- A cask by its number. -/
def caskOf (k : Nat) : CaskRef :=
  ⟨Fin.ofNat 4 (k / 1152), Fin.ofNat 9 (k / 128 % 9), Fin.ofNat 8 (k / 16 % 8), Fin.ofNat 16 (k % 16)⟩
/-- Write the casks that records create, add the Vintage to shared ones, and take it from the others (R230).
(DEDUCED, log 93) -/
def State.placeCasks (s : State) (v : Nat) (casks : List (Nat × Word × Word × Bool)) (drop : List Nat) : State :=
  let s := drop.foldl (fun s k =>
    let d1 := s.word .desc k 1
    let new := d1 &&& ~~~ (BitVec.ofNat 32 (2 ^ (4 + v)))
    let s := s.setWord .desc k 1 new
    if bitsW new 4 4 = 0 then s.setWord .desc k 0 (s.word .desc k 0 &&& 0x7FFFFFFF) else s) s
  casks.foldl (fun s (k, d0, d1, shared) =>
    if shared then s.setWord .desc k 1 (s.word .desc k 1 ||| BitVec.ofNat 32 (2 ^ (4 + v)))
    else (s.setWord .desc k 0 d0).setWord .desc k 1 ((d1 &&& 0xFFFFFF0F) ||| BitVec.ofNat 32 (2 ^ (4 + v)))) s

/-! ## The Graft partition (R236) -/

/-- The head digest. -/
def headDigest (b : List Byte) : List Byte :=
  let h := gHdr b
  let n := (h.blocks.take 5).foldl (· + ·) 0
  (sha256 (b.take 0x1D ++ (b.drop 64).take n)).take 8
/-- Bind a head: the same digest leaves the state; another starts the state from the section, and every queued Graft command completes with
E-0D01. The pool comes along as it is (R250), its entries cut or filled with zeros to the new head's width.
(DEDUCED, log 97) -/
def State.bindHead (s : State) (slot base len : Nat) (meas b dg : List Byte) : State :=
  if s.grf.bound == some dg then s
  else
    let (es, s) := s.poolEntries
    let s := s.mapGrf fun g => { g with
      bound := some dg, base := base, len := len, sect := b, slot := slot, meas := meas, mode := .uninit, poolHead := 0, poolLen := 0 }
    let s := es.foldl (fun s e => s.appendPool ((e.1 ++ List.replicate (gHdr b).entry 0).take (gHdr b).entry) e.2) s
    let qs := s.grf.queue
    let s := s.featsDropped.mapGrf fun g => { g with queue := [], stage := [], stepping := false, changed := [], feats := [] }
    let s := s.graftInit.2
    qs.foldl (fun s q => s.complete q.tag (if q.commit then 0x0A else 9) 0x0D01 0 q.irq) s

/-- A Vintage with the bound head has been placed. The state goes on in the region where it is while a placed Vintage with that head holds it;
else the new Vintage is the one that holds the bound section, and the store and the pool come to its region (R236, R239).
(DEDUCED, log 97) -/
def State.rehome (s : State) (p : PlacedSt) (v : Nat) : State :=
  if s.grf.bound != some p.digest || p.graft.isEmpty || (s.placedList.any fun w => w != v && s.hasBound w && (s.placedRec w).base == s.grf.base) then s
  else
    let s := if s.grf.base = p.base ∧ s.grf.len = p.len then s else s.moveGraft p.base p.len
    s.mapGrf fun g => { g with sect := p.graft, slot := p.slot, meas := p.meas }

/-! ## PLACE is taken: steps 1–9 -/

/-- The operands of PLACE (Table 11.6). -/
structure PlaceOps where
  slot : Nat
  v : Nat
  variant : Nat
  remap : Bool
  base : Nat
deriving DecidableEq, Repr
def placeOps (e : CmdEntry) : PlaceOps := ⟨CmdF e 8 1, CmdF e 9 1, CmdF e 10 1, bitN (CmdF e 11 1) 0, CmdF e 12 4⟩

/-- The row_mask of every variant, in order. -/
def masksOf (im : List Byte) : List Nat := (List.range (nVar im)).map (varMask (variants im))

/-- Step 4: the selected variant, or an error (R213). -/
def State.pickVariant (s : State) (o : PlaceOps) (masks : List Nat) : Except LdErr Nat :=
  if o.variant = 0xFF then
    match (List.range masks.length).find? fun k => s.eligible o.v (nth 0 masks k) o.remap with
    | some k => .ok k
    | none => .error (.plain 0x0425)
  else if masks.length ≤ o.variant then .error (.plain 0x0425)
  else if s.eligible o.v (nth 0 masks o.variant) o.remap then .ok o.variant
  else if o.remap then .error (.plain 0x0425)
  else
    match s.mapBad o.v (nth 0 masks o.variant) with
    | some (t, k, code) => .error (s.mapErr o.v t k code)
    | none => .error (.plain 0x0425)

/-- Steps 5–8 over an image with its variant selected and its map written: the checks' context and the WEIGHT sections' places.
(DEDUCED, log 98) -/
def State.stagePlace (s : State) (o : PlaceOps) (im : List Byte) (k : Nat) : Except LdErr (PCtx × List (Nat × List Byte)) :=
  let vb := variants im
  let mask := varMask vb k
  let rep := match (sectsOf im).find? fun x => x.kind == 1 && x.applies k with | some x => x.body im | none => []
  let len := leAt rep 0x1C 4
  match s.mapBad o.v mask with
  | some (t, j, code) => .error (s.mapErr o.v t j code)
  | none =>
    if s.regionBad o.v o.base len then .error (.plain 0x0428)
    else if s.fTop < leAt rep 0x18 1 then .error (.plain 0x0429)
    else
      let m : RowMap := fun t j => if j < 8 ∧ bitN mask (8 * t + j) = true then some (s.physRow t o.v j) else none
      let xs := stagedOf im
      match patchAll vb k (xs.recs k 0xF1) xs with
      | .error e => .error e
      | .ok xs =>
        let apply (xs : Staged) : List PSec := (xs.filter fun x => bitN x.1 k).map (·.2)
        match weightsAll m ((apply xs).filter fun x => x.kind == 0x11) with
        | .error e => .error e
        | .ok ws =>
          match bridgeAll m (apply xs) with
          | .error e => .error e
          | .ok ys =>
            let xs : Staged := xs.map fun x => match ys.find? fun y => y.idx == x.2.idx with | some y => (x.1, y) | none => x
            match relocAll m o.base len k (xs.recs k 0xF0) xs with
            | .error e => .error e
            | .ok xs =>
              let secs := apply xs
              let ws := ws.map fun (i, p) => (p, match xs.get i with | some x => x.2.body.drop 8 | none => [])
              let fr := leAt rep 0x1B 1 + 1
              let st := s.writePlacement o.v fr (leAt im 0x12 1) secs
              let c0 : PCtx := { old := s, st := st, fin := st, v := o.v, secs := secs, mask := mask, F := fr,
                                 elastic := bitN (leAt im 0x13 1) 0 }
              let recs := c0.caskWrites
              let drop := (List.range 4608).filter fun n => s.caskUse (caskOf n) o.v && !(recs.any fun x => x.1 == n)
              let c := { c0 with fin := st.placeCasks o.v recs drop }
              match c.checks with
              | some e => .error e
              | none => .ok (c, ws)

/-- The loader's record of a placement (R223, R225, R236). -/
def PCtx.record (c : PCtx) (o : PlaceOps) (im : List Byte) (k : Nat) : PlacedSt :=
  let rep := match c.secs.find? fun x => x.kind == 1 with | some x => x.body | none => []
  let g := match c.secs.find? fun x => x.kind == 0x22 with | some x => x.body | none => []
  let lcBytes (i : Nat) : List Byte :=
    match c.secs.find? fun x => x.kind == 0x16 && tgT x.target == i / 9 && c.st.physRow (i / 9) c.v (tgK x.target) == i % 9 with
    | some x => x.body
    | none => List.replicate 49152 0
  { slot := o.slot, variant := k, netId := leAt im 0x30 4, rowMask := c.mask, report := rep, base := o.base, len := leAt rep 0x1C 4,
    fMin := leAt rep 0x18 1, digests := (List.range 36).map fun i => (sha256 (lcBytes i)).take 8, graft := g,
    digest := if g.isEmpty then [] else headDigest g, meas := measure im }

/-- PLACE completes with an error. -/
def State.placeFail (s : State) (e : LdErr) (variant : Nat) : State :=
  ((s.fset F.HUB_LDR_STATUS_variant variant).ldrEnd (some e)).serialDone e.code 0

/-- Words of a tile that a TILE section writes (Table 7.6). -/
def tileWords : TileKind → Nat
  | .sf => 760
  | .rk => 104
  | _ => 120
/-- Bytes that step 9 writes: of every tile its use_v register and its unit-table entry, of one the Vintage uses its parameter words and
DELAY_PAD; of every switch point its frame length and Slot Table; the pads of the IO tiles, the logic-cell configuration and trees, the cycle
entries, the Hub configuration, the class map and the Graft section.
(DESIGN CHOICE, log 85) -/
def PCtx.bytes9 (c : PCtx) : Nat :=
  let used := (c.secs.filter fun x => x.kind == 0x10).map fun x => tileWords (kindOf (c.st.targetTile c.v x.target).k) + 1
  let hub := (c.secs.filter fun x => x.kind == 0x20).map fun x => x.body.length / 8
  let maps := (c.secs.filter fun x => x.kind == 0x21).length * 273
  let graft := (c.secs.filter fun x => x.kind == 0x22).map fun x => x.body.length
  let mms := (allTiles.filter fun r => kindOf r.k == .mm).length
  4 * (9 * allTiles.length + 8 * mms + sumN used + 1025 * allPoints.length + 32 + 36 * 0x3000 + 4 + 256 + sumN hub + maps) + sumN graft

/-- Does the image's latency level leave a class below what the part needs (R227 step 3)? -/
def State.latShort (s : State) (lv : Nat) : Bool :=
  [LatClass.mx1, .mx2, .mx3, .mx4, .mx5, .sf1, .sf2, .sf3, .mm1, .mm2, .mm3, .mm4, .rk1, .io1, .io2].any fun c =>
    decide (latLevel lv c < s.partLat c)

/-- PLACE is taken (R227): steps 1–9.
(DEDUCED, log 98) -/
def placeTake (s : State) (cmd : Cmd) : State :=
  let o := placeOps cmd.e
  let named := if o.variant = 0xFF then 0 else o.variant
  let s := (s.ldrStart 2 o.slot).fset F.HUB_LDR_STATUS_vintage o.v
  if s.vLocked o.v then s.placeFail (.plain 0x0426) named
  else
    let s0 := s
    let s := s.unplace o.v
    let sl := nth SlotSt.init s.hrm.slots o.slot
    let (at0, room) := s.slotPlace o.slot
    if decide (0 < room) && !s.rangeGood at0 room then s.placeFail (.plain 0x0414) named
    else if !sl.valid then s.placeFail (.plain 0x0411) named
    else
      let (im, poison, s) := readHyper (s.inOrder (hyperBase + at0) sl.len) (hyperBase + at0) sl.len 5
      if poison then (s.slotInvalid o.slot).placeFail (.plain 0x0414) named
      else
        let lv := leAt im 0x12 1
        if s.latShort lv then s.placeFail (.plain 0x0412) named
        else
          match s.pickVariant o (masksOf im) with
          | .error e => s.placeFail e named
          | .ok k =>
            let mask := nth 0 (masksOf im) k
            let s := if o.remap then s.remapRows o.v mask else s
            match s.stagePlace o im k with
            | .error e => s.placeFail e k
            | .ok (c, ws) =>
              let rec1 := c.record o im k
              let s := s.writePlacement o.v c.F lv c.secs
              let s := if rec1.graft.isEmpty then s else s.bindHead o.slot rec1.base rec1.len sl.meas rec1.graft rec1.digest
              let s := (s.setReg R.HUB_LDR_PROG (BitVec.ofNat 32 c.bytes9)).fset F.HUB_LDR_STATUS_variant k
              let casks := c.caskWrites
              let drop := (List.range 4608).filter fun n => s.caskUse (caskOf n) o.v && !(casks.any fun x => x.1 == n)
              let bins := (c.tiles.filter fun x => tgKind x.target == 0).map fun x => s.binOf (c.ref x)
              let rows := (List.range 4).flatMap fun t => (maskRows mask t).map fun j => (t, j, s.physRow t o.v j)
              let p : PlaceSt :=
                { v := o.v, bins := bins, weights := ws, casks := casks, dropCasks := drop, rec1 := rec1, elastic := c.elastic,
                  compat := lv, rows := rows, touched := false }
              s0.settleRows (s.mapHrm fun h => { h with placing := some p })

/-! ## PLACE_DONE: steps 10 and 11 -/

/-- What stops a PLACE at its end (Table 7.11): a write of the host, a Row retired, or the slot lost.
(DESIGN CHOICE, log 100) -/
def State.placeLate (s : State) (p : PlaceSt) : Option LdErr :=
  if p.touched then some (.plain 0x0427)
  else if !(nth SlotSt.init s.hrm.slots p.rec1.slot).valid then some (.plain 0x0414)
  else
    (p.rows.find? fun (t, _, r) => bitN (s.fget (F.TER_ROW_STATUS_row_retired t)) r).map fun (t, k, _) => s.mapErr p.v t k 0x0421

/-- In an ACLK period of a PLACE some bytes of step 10 are written, and HUB.LDR_PROG counts them (R229); how many is open.
(DESIGN CHOICE, log 85) -/
def State.placeTick (s : State) : State :=
  match s.hrm.placing with
  | some p =>
    match p.weights with
    | (a, bs) :: rest =>
      let (n, s) := s.freshBelow (bs.length + 1)
      let s := (writeChip s a (bs.take n) false).mapHrm fun h => { h with
        placing := some { p with weights := if n = bs.length then rest else (a + n, bs.drop n) :: rest } }
      s.setReg R.HUB_LDR_PROG (s.reg R.HUB_LDR_PROG + BitVec.ofNat 32 n)
    | [] => s
  | none => s

/-- The maintenance writes end, the digests are computed, and PLACE completes (R227 steps 10 and 11, R418).
(DESIGN CHOICE, log 85; DESIGN CHOICE, log 100) -/
def placeDone (s : State) : State :=
  match s.hrm.placing with
  | none => s
  | some p =>
    let old := s
    let s := s.mapHrm fun h => { h with placing := none }
    -- How far the writes got when the slot was lost is open.
    let lost := !(nth SlotSt.init s.hrm.slots p.rec1.slot).valid
    let (m, s) := if lost then s.freshBelow (p.weights.length + 1) else (p.weights.length, s)
    let s := (p.weights.take m).foldl (fun s w => writeChip s w.1 w.2 false) s
    let s := if lost then s else s.placeCasks p.v p.casks p.dropCasks
    let n := ((p.weights.take m).map fun w => w.2.length).foldl (· + ·) 0 + (if lost then 0 else 8 * (p.casks.length + p.dropCasks.length))
    let s := s.setReg R.HUB_LDR_PROG (s.reg R.HUB_LDR_PROG + BitVec.ofNat 32 n)
    let s := match s.placeLate p with
    | some e => (old.settleRows (s.ldrEnd (some e))).serialDone e.code 0
    | none =>
      let s := s.mapHrm fun h => { h with placed := setNth h.placed p.v p.rec1 }
      let s := (s.fsetBit F.HUB_VNT_STATUS_placed p.v true).fsetBit F.HUB_VNT_STATUS_elastic p.v p.elastic
      let s := (s.fset (F.HUB_VNT_STATUS_compat p.v) p.compat).rehome p.rec1 p.v
      let s := if p.v = s.activeV ∧ !s.job.running then s.releaseRows else s
      (s.ldrEnd none).serialDone 0 p.rec1.variant
    if s.pci.d3Wait then s.enterD3 else s

end Sys2Proof.Machine
end

