-- ==== Sys2Proof/Machine/Commands.lean ====
section
/-!
DEFINITION. Machine/Commands.lean: the command processor (11 R324–R328): taking commands from ring 0 in order, their checks, their
effects, and the commands that move it on.
-/
namespace Sys2Proof

/-- A command's tag. -/
def Cmd.tag (c : Cmd) : Nat := c.e.tag.toNat
/-- A command's irq flag. -/
def Cmd.irq (c : Cmd) : Bool := c.e.flags.getLsbD 0
/-- Operand bytes of a command. -/
def Cmd.f (c : Cmd) (o n : Nat) : Nat := Machine.CmdF c.e o n

end Sys2Proof

namespace Sys2Proof.Machine

/-! ## The processor's counts -/

/-- 1 for a value that is there.
(DESIGN CHOICE, log 101) -/
def one {α : Type} (x : Option α) : Nat := if x.isSome then 1 else 0
/-- Commands taken and not complete; a switch of the governor's own owes no completion. -/
def State.inHand (s : State) : Nat :=
  one s.cp.serial + (match s.sw with | some w => if w.tag = govTag then 0 else 1 | none => 0) + one s.swWait +
    s.grf.queue.length + one s.cp.barrier + one s.cp.snap + one s.cp.attest + s.cp.replay.length + one s.job.endReq
/-- Completions owed to the host (PCI.CP_STATUS.owed, R327). -/
def State.owed (s : State) : Nat := s.cp.comps.length + s.inHand
/-! ## Checks (R325, Table 11.6) -/

/-- Operand bytes Table 11.6 names, by opcode: first byte and count. -/
def namedBytes (op : Nat) : List (Nat × Nat) :=
  match op with
  | 0x00 => [(8, 8)]
  | 0x01 => [(8, 1), (12, 4), (16, 8)]
  | 0x02 => [(8, 4), (12, 4)]
  | 0x03 => [(8, 2), (10, 1), (12, 4)]
  | 0x04 => [(8, 4)]
  | 0x05 => [(8, 1), (9, 1), (12, 4)]
  | 0x07 => [(8, 1), (12, 4), (16, 4)]
  | 0x08 => [(8, 2)]
  | 0x09 => [(8, 2), (10, 1), (12, 2), (16, 8)]
  | 0x0A => [(8, 1), (9, 1), (12, 4)]
  | 0x0B => [(8, 4)]
  | 0x0C => [(8, 4), (16, 5)]
  | 0x0D => [(8, 1), (12, 2), (16, 8), (24, 4), (28, 6), (34, 2)]
  | 0x0E => [(8, 1), (9, 1), (12, 4), (16, 8)]
  | 0x0F => [(8, 32), (40, 8), (48, 4)]
  | _ => []
/-- Is a reserved bit of an entry set: flags 7:1, bytes 7:4, or an operand byte the table does not name? -/
def reservedSet (c : Cmd) : Bool :=
  c.e.flags.toNat / 2 != 0 || c.e.rsv != 0 ||
    (List.range 56).any fun i => c.f (8 + i) 1 != 0 && !((namedBytes c.op).any fun x => decide (x.1 ≤ 8 + i) && decide (8 + i < x.1 + x.2))
/-- Is an operand outside its range, or a reserved bit of a named byte set?
(DEDUCED, log 103) -/
def outOfRange (c : Cmd) : Bool :=
  match c.op with
  | 0x01 => decide (3 < c.f 8 1)
  | 0x02 => decide (3 < c.f 8 1) || decide (3 < c.f 9 1) || (decide (7 < c.f 10 1) && c.f 10 1 != 0xFF) || decide (1 < c.f 11 1)
  | 0x03 => decide (3 < c.f 10 1)
  | 0x05 => decide (3 < c.f 8 1) || decide (1 < c.f 9 1)
  | 0x07 => decide (2 < c.f 8 1)
  | 0x08 => !capOk (c.f 8 2)
  | 0x09 => decide (256 < c.f 8 2) || decide (1 < c.f 10 1)
  | 0x0A => decide (3 < c.f 8 1) || decide (1 < c.f 9 1)
  | 0x0C => c.f 16 5 % 4096 != 0
  | 0x0D => decide (3 < c.f 8 1)
  | 0x0E => decide (2 < c.f 8 1) || decide (3 < c.f 9 1)
  | _ => false
/-- Does a command complete with E-0102? -/
def malformed (c : Cmd) : Bool := reservedSet c || outOfRange c

/-! ## Effects of well-formed commands -/

/-- A command taken completes.
(DEDUCED, log 102) -/
def State.answer (s : State) (c : Cmd) (code result : Nat) : State := s.complete c.tag c.op code result c.irq

/-- NOP: at once, echoing bytes 15:8. -/
def takeNop (s : State) (c : Cmd) : State := s.answer c 0 (c.f 8 8)

/-- A loader command: E-0C21 when the Cellarmaster does not run (R414). -/
def takeLoad (s : State) (c : Cmd) : State :=
  if s.cmRuns then loadBlendTake (s.mapCp fun x => { x with serial := some c }) c else s.answer c 0x0C21 0
def takePlace (s : State) (c : Cmd) : State :=
  if s.cmRuns then placeTake (s.mapCp fun x => { x with serial := some c }) c else s.answer c 0x0C21 0

/-- START_JOB (R52, R326): a job that passes every check starts its fills. -/
def takeStart (s : State) (c : Cmd) : State :=
  let B := c.f 8 2
  let code := s.startCode B
  if code ≠ 0 then s.answer c code 0
  else (s.mapCp fun x => { x with serial := some c }).beginJob c.tag B (bitN (c.f 10 1) 0) (bitN (c.f 10 1) 1) (c.f 12 4)

/-- END_JOB (R194, R330). A device that takes no lines in its system job reaches no boundary, and its job ends at once (R368).
(DEDUCED, log 106) -/
def takeEnd (s : State) (c : Cmd) : State :=
  if !s.job.running then s.answer c 0x0109 0
  else if s.job.endReq.isSome then s.answer c 0x0103 0
  else
    let s := s.mapJob fun j => { j with endReq := some (c.tag, c.irq, c.f 8 4) }
    if s.job.system && s.trl.noLines then s.finishJob 0 0 else s

/-- SWITCH_VINTAGE (R186). -/
def takeSwitch (s : State) (c : Cmd) : State := switchTake s c.tag c.irq (c.f 8 1) (bitN (c.f 9 1) 0) (c.f 12 4)

/-- FENCE (R303): it waits for the writes issued before it.
(DESIGN CHOICE, log 105) -/
def takeFence (s : State) (c : Cmd) : State :=
  if s.str.writes.isEmpty then s.answer c 0 0
  else (s.mapStr fun x => { x with fenceTo := some x.nextWrite }).mapCp fun x => { x with serial := some c }
/-- HINT_PHASE (R400). -/
def takeHint (s : State) (c : Cmd) : State := (s.setHint (c.f 8 1) (c.f 12 4) (c.f 16 4)).answer c 0 0
/-- SET_CAP (R397): the cap is held; the hysteresis stays.
(DEDUCED, log 137) -/
def takeCap (s : State) (c : Cmd) : State := (s.fset F.PWR_CAP_cap (c.f 8 2)).answer c 0 0

/-- GRAFT_SUBMIT enters the Graft queue with the list its channel read (R241). -/
def takeSubmit (s : State) (c : Cmd) : State :=
  s.graftEnter
    { commit := false, tag := c.tag, irq := c.irq, reset := bitN (c.f 10 1) 0, steps := c.f 12 2, list := c.data.take (8 * c.f 8 2),
      bad := c.bad, target := 0, band := none, appended := false, done := 0, staging := false, staged := false, armed := none }
/-- GRAFT_COMMIT enters the Graft queue (R251). -/
def takeCommit (s : State) (c : Cmd) : State :=
  s.graftEnter
    { commit := true, tag := c.tag, irq := c.irq, reset := false, steps := 0, list := [], bad := 0, target := c.f 8 1,
      band := if bitN (c.f 9 1) 0 then some (c.f 12 4) else none, appended := false, done := 0, staging := false, staged := false,
      armed := none }

/-- BARRIER (R373, R407). -/
def takeBarrier (s : State) (c : Cmd) : State :=
  if s.cp.barrier.isSome then s.answer c 0x0103 0
  else
    let b : BarrierSt := { tag := c.tag, irq := c.irq, id := c.f 8 4, sent := true, dst := 0, band := none, block := none }
    ((s.mapCp fun x => { x with barrier := some b }).mapPwr fun p => { p with ramp := 0 }).arriveSelf (c.f 8 4) 0
/-- SNAPSHOT (R375).
(DEDUCED, log 108) -/
def takeSnapshot (s : State) (c : Cmd) : State :=
  if s.cp.snap.isSome then s.answer c 0x0103 0
  else
    let b : BarrierSt := { tag := c.tag, irq := c.irq, id := c.f 8 4, sent := true, dst := c.f 16 5, band := none, block := none }
    (s.mapCp fun x => { x with snap := some b }).arriveSelf (c.f 8 4) 1

/-- REPLAY_PUSH (R328).
(DEDUCED, log 104) -/
def takeReplay (s : State) (c : Cmd) : State :=
  if !s.replayJob || !s.camOn (c.f 8 1) then s.answer c 0x0110 0
  else if c.bad ≠ 0 then s.answer c c.bad 0
  else if c.f 12 2 = 0 then s.answer c 0 0
  else
    let r : ReplaySt :=
      { tag := c.tag, irq := c.irq, cam := c.f 8 1, lines := c.f 12 2, stride := c.f 24 4, pos := c.f 28 6, step := c.f 34 2, taken := 0,
        data := c.data, bad := 0 }
    s.mapCp fun x => { x with replay := x.replay ++ [r] }

/-- HUB.VNT_STATUS as it reads: a job runs, a switch is armed or in transition. -/
def State.vntShow (s : State) : Nat :=
  (s.reg R.HUB_VNT_STATUS).toNat % 2 ^ 24 + (if s.job.running then 2 ^ 24 else 0) + (match s.sw with | some w => if w.armed then 2 ^ 25 else 0 | none => 0)
/-- QUERY (R325): kind 0 answers in the result; kinds 1 and 2 write at most the buffer and answer the full length.
(DEDUCED, log 103) -/
def takeQuery (s : State) (c : Cmd) : State :=
  let give (bs : List Byte) : State :=
    (if (bs.take (c.f 12 4)).isEmpty then s else s.post (c.f 16 8) (bs.take (c.f 12 4))).answer c 0 bs.length
  if !s.cmRuns then s.answer c 0x0C21 0
  else match c.f 8 1 with
    | 0 => s.answer c 0 (s.partInfo + 2 ^ 32 * s.vntShow)
    | 1 => if s.isPlaced (c.f 9 1) then give (s.placedRec (c.f 9 1)).report else s.answer c 0x0701 0
    | _ => give s.summary

/-- ATTEST (R431): the fields are captured as it is taken. -/
def takeAttest (s : State) (c : Cmd) : State :=
  if s.cp.attest.isSome then s.answer c 0x0103 0
  else if !s.cmRuns then s.answer c 0x0C21 0
  else if s.fuse.lc = 0 || s.fuse.lc = 3 || s.idBank.isNone then s.answer c 0x0C30 8240
  else if c.f 48 4 < 8240 then s.answer c 0x0C31 8240
  else s.mapCp fun x => { x with attest := some ⟨c.tag, c.irq, c.f 40 8, s.attestFields (bytesOf 32 (c.f 8 32))⟩ }

/-- What a well-formed command does when it is taken. -/
def State.takeOk (s : State) (c : Cmd) : State :=
  match c.op with
  | 0x00 => takeNop s c
  | 0x01 => takeLoad s c
  | 0x02 => takePlace s c
  | 0x03 => takeStart s c
  | 0x04 => takeEnd s c
  | 0x05 => takeSwitch s c
  | 0x06 => takeFence s c
  | 0x07 => takeHint s c
  | 0x08 => takeCap s c
  | 0x09 => takeSubmit s c
  | 0x0A => takeCommit s c
  | 0x0B => takeBarrier s c
  | 0x0C => takeSnapshot s c
  | 0x0D => takeReplay s c
  | 0x0E => takeQuery s c
  | _ => takeAttest s c
/-- Take one command: it is checked before it acts (R325). -/
def State.takeCmd (s : State) (c : Cmd) : State :=
  if 0x0F < c.op then s.answer c 0x0101 0
  else if malformed c then s.answer c 0x0102 0
  else s.takeOk c

/-! ## Taking commands in ring order (R324, R325, R327) -/

/-- Must the processor hold a REPLAY_PUSH until a place frees? -/
def State.replayFull (s : State) (c : Cmd) : Bool :=
  c.op == 0x0D && !malformed c && s.replayJob && s.camOn (c.f 8 1) && c.bad == 0 && decide (16 ≤ s.cp.replay.length)
/-- Does the processor wait under R327 (PCI.CP_STATUS.held)? -/
def State.cpHeld (s : State) : Bool :=
  s.cp.serial.isNone && (decide (48 ≤ s.owed) || (match s.cp.cmds with | c :: _ => s.replayFull c | [] => false))
/-- Does a PLACE wait for a HyperRAM channel that initialises (R349): one under its image, or any while a bound head has entries to move?
(DEDUCED, log 127) -/
def State.placeWaits (s : State) (c : Cmd) : Bool :=
  let (o, room) := s.slotPlace (c.f 8 1)
  c.op == 2 && !malformed c && (s.waitsInit (hyperBase + o) room || (s.grf.bound.isSome && (List.range 4).any s.chanInit))
/-- Take commands while the processor may; `n` bounds them.
(DEDUCED, log 107) -/
def State.pumpCmds (s : State) : Nat → State
  | 0 => s
  | n + 1 =>
    match s.cp.cmds with
    | [] => s
    | c :: rest =>
      if s.cp.serial.isSome || s.cpHeld || s.placeWaits c then s
      else
        let s := s.mapCp fun x => { x with cmds := rest }
        let s := s.setReg (R.PCI_RING_CONS 0) (s.reg (R.PCI_RING_CONS 0) + 1)
        (s.takeCmd c).pumpCmds n
/-- Take what can be taken now. -/
def State.pump (s : State) : State := s.pumpCmds s.cp.cmds.length

/-- The processor reads an entry of ring 0 that the host has published, and takes what it may. An entry the host has not published is not
there to be read. -/
def State.command (s : State) (c : Cmd) : State :=
  if s.ringOn 0 && decide (s.cp.cmds.length < s.ringHeld 0) then (s.mapCp fun x => { x with cmds := x.cmds ++ [c] }).pump else s

/-- A command row: its opcode, its entry, and what a read of host memory on its channel delivered. -/
def runCmd (op : Nat) (e : CmdEntry) (data : List Byte) (bad : Nat) (s : State) : Host.Outcome State Fault Refusal :=
  .next (s.command ⟨op, e, data, bad⟩)

/-- NOP. -/
def execNop (e : CmdEntry) (s : State) : Host.Outcome State Fault Refusal := runCmd 0x00 e [] 0 s
/-- LOAD_BLEND. -/
def execLoadBlend (e : CmdEntry) (s : State) : Host.Outcome State Fault Refusal := runCmd 0x01 e [] 0 s
/-- PLACE. -/
def execPlace (e : CmdEntry) (s : State) : Host.Outcome State Fault Refusal := runCmd 0x02 e [] 0 s
/-- START_JOB. -/
def execStartJob (e : CmdEntry) (s : State) : Host.Outcome State Fault Refusal := runCmd 0x03 e [] 0 s
/-- END_JOB. -/
def execEndJob (e : CmdEntry) (s : State) : Host.Outcome State Fault Refusal := runCmd 0x04 e [] 0 s
/-- SWITCH_VINTAGE. -/
def execSwitchVintage (e : CmdEntry) (s : State) : Host.Outcome State Fault Refusal := runCmd 0x05 e [] 0 s
/-- FENCE. -/
def execFence (e : CmdEntry) (s : State) : Host.Outcome State Fault Refusal := runCmd 0x06 e [] 0 s
/-- HINT_PHASE. -/
def execHintPhase (e : CmdEntry) (s : State) : Host.Outcome State Fault Refusal := runCmd 0x07 e [] 0 s
/-- SET_CAP. -/
def execSetCap (e : CmdEntry) (s : State) : Host.Outcome State Fault Refusal := runCmd 0x08 e [] 0 s
/-- GRAFT_SUBMIT. -/
def execGraftSubmit (e : CmdEntry) (data : List Byte) (bad : Nat) (s : State) : Host.Outcome State Fault Refusal := runCmd 0x09 e data bad s
/-- GRAFT_COMMIT. -/
def execGraftCommit (e : CmdEntry) (s : State) : Host.Outcome State Fault Refusal := runCmd 0x0A e [] 0 s
/-- BARRIER. -/
def execBarrier (e : CmdEntry) (s : State) : Host.Outcome State Fault Refusal := runCmd 0x0B e [] 0 s
/-- SNAPSHOT. -/
def execSnapshot (e : CmdEntry) (s : State) : Host.Outcome State Fault Refusal := runCmd 0x0C e [] 0 s
/-- REPLAY_PUSH. -/
def execReplayPush (e : CmdEntry) (data : List Byte) (bad : Nat) (s : State) : Host.Outcome State Fault Refusal := runCmd 0x0D e data bad s
/-- QUERY. -/
def execQuery (e : CmdEntry) (s : State) : Host.Outcome State Fault Refusal := runCmd 0x0E e [] 0 s
/-- ATTEST. -/
def execAttest (e : CmdEntry) (s : State) : Host.Outcome State Fault Refusal := runCmd 0x0F e [] 0 s

/-! ## Commands after which the processor goes on -/

/-- LOAD_BLEND_DONE. -/
def execLoadBlendDone (image : List Byte) (bad : Nat) (s : State) : Host.Outcome State Fault Refusal := .next (loadDone s image bad).pump
/-- PLACE_DONE. -/
def execPlaceDone (s : State) : Host.Outcome State Fault Refusal := .next (placeDone s).pump
/-- FILL_RECORDS_DONE: a system job then arrives for its start (R368). -/
def fillsDone (s : State) : State :=
  let t := fillRecordsDoneEff s
  (if t.trl.waitStart && !s.trl.waitStart then t.arriveSelf t.job.number 2 else t).pump
def execFillRecordsDone (s : State) : Host.Outcome State Fault Refusal := .next (fillsDone s)
/-- LINE_COMPLETE: a REPLAY_PUSH that ends frees its place. -/
def execLineComplete (s : State) : Host.Outcome State Fault Refusal := .next (lineCompleteEff s).pump
/-- A HyperRAM channel fails; a FENCE may have waited only for writes that are now not made, and the next command is taken. -/
def State.channelFail (s : State) (c cause : Nat) : State := (failChannel s c cause).pump
/-- HYPERRAM_CHANNEL_FAIL: cause 1 initialisation, 2 no strobe, 3 uncorrectable rate. -/
def execHyperramChannelFail (c : Fin 4) (cause : Fin 3) (s : State) : Host.Outcome State Fault Refusal :=
  .next (s.channelFail c (cause + 1))
/-- HYPERRAM_INIT_DONE: a PLACE that waited for the channel is taken. -/
def execHyperramInitDone (c : Fin 4) (s : State) : Host.Outcome State Fault Refusal := .next (hyperramInitDoneEff s c).pump
/-- CELLARMASTER_RESTART. -/
def execCellarmasterRestart (s : State) : Host.Outcome State Fault Refusal := .next (s.cmRestart 1).pump
/-- WATCHDOG_EXPIRY.
(DESIGN CHOICE, log 162) -/
def execWatchdogExpiry (s : State) : Host.Outcome State Fault Refusal := .next (watchdogExpiryEff s).pump

end Sys2Proof.Machine
end

