-- ==== Sys2Proof/Machine/RegRead.lean ====
section
/-!
DEFINITION. Machine/RegRead.lean: what a read of BAR0 gives: the values registers show, words behind an address and a data register
(17 R473), latched high words (R6) and fields that clear as they are read (R8).
-/
namespace Sys2Proof.Machine

/-- 1 for true. -/
def b2n (b : Bool) : Nat := if b then 1 else 0
/-- Write fields of a word. -/
def putAll (w : Word) (l : List (Fld × Nat)) : Word := l.foldl (fun w x => x.1.put w x.2) w
/-- A word from a number. -/
def wordN (n : Nat) : Word := BitVec.ofNat 32 n

/-! ## Tile windows (02–05) -/

/-- The number of a sequencer state in SEQ_STATUS. -/
def seqNum : SeqState → Nat
  | .idle => 0 | .firing => 1 | .waiting => 2 | .stalled => 3 | .halted => 4 | .faulted => 5
/-- The state a tile shows: one that runs an IDLE is idle, one that waits for its drain is stalled (R119).
(DEDUCED, log 148; DEDUCED, log 169) -/
def State.seqShow (s : State) (r : TileRef) : Nat :=
  let x := s.tile r
  if s.drainLate r && (x.st == .firing || x.st == .waiting) then 3
  else if x.st == .firing && x.fire.isNone && bitsN (s.progWord r x.vint x.pc).toNat 28 4 == 0 then 0 else seqNum x.st
/-- Remaining trips of a counter, 0 when no loop holds it. -/
def remTrips (x : TileSt) (c : Nat) : Nat := ((x.loops.find? fun l => l.ctr == c).map LoopSt.rem).getD 0
/-- Cask of an MM tile that MM.CASK_SEL selects. -/
def State.selCask (s : State) (r : TileRef) : CaskRef :=
  ⟨r.t, r.row, Fin.ofNat 8 (idxOf r.k), Fin.ofNat 16 (s.fget (F.MM_CASK_SEL_cask (tb r)))⟩
/-- Does an SF tile's gain show the reciprocal: some element-wise descriptor of its Vintage has adapt = 2? (SF.GAIN)
(DEDUCED, log 119) -/
def State.showsRcp (s : State) (r : TileRef) : Bool :=
  !s.isLead r (s.tile r).vint && (List.range 16).any fun d =>
    let w := s.opd r (s.tile r).vint d
    decide (bitsW w 0 4 ≤ 4) && bitsW w 7 2 == 2

/-- What a register of a tile window shows. -/
def State.tileView (s : State) (r : TileRef) (o : Nat) (w : Word) : Word :=
  let x := s.tile r
  let b := tb r
  match kindOf r.k, o with
  | _, 0x04 =>
    wordN (x.pc + 2 ^ 8 * x.vint + 2 ^ 10 * s.seqShow r + 2 ^ 16 * lineCount x.latch + 2 ^ 20 * bandCount x.latch)
  | _, 0x08 => wordN (remTrips x 0 + 2 ^ 16 * remTrips x 1)
  | _, 0x0C => wordN (remTrips x 2 + 2 ^ 16 * remTrips x 3)
  | .mx, 0x40 => wordN (s.binOf r)
  | .mx, 0x48 => wordN (x.gain + 2 ^ 16 * x.gainTag + 2 ^ 20 * b2n x.gainPend.isSome)
  | .mm, 0x44 => s.word .desc (caskKey (s.selCask r)) 0
  | .mm, 0x48 => s.word .desc (caskKey (s.selCask r)) 1
  | .mm, 0x4C =>
    let k := s.cask (s.selCask r)
    wordN (k.cnt + 2 ^ 16 * b2n k.rWait + 2 ^ 17 * b2n (decide (0 < k.ringWords) || !k.refill.isEmpty))
  | .mm, 0x50 => wordN (s.cask (s.selCask r)).hwm
  | .mm, 0x54 => wordN ((s.cask (s.selCask r)).ringWords + (s.cask (s.selCask r)).refill.length)
  | .sf, 0x50 => wordN (nth 0 x.collObs (s.fget (F.SF_COLL_SEL_lane b)) + 2 ^ 16 * (x.collBand % 65536))
  | .sf, 0x54 => wordN ((if s.showsRcp r then x.rcp else x.gain) + 2 ^ 16 * x.gainTag)
  | .sf, 0x5C => wordN (x.mLast + 2 ^ 16 * b2n x.limited + 2 ^ 17 * b2n x.clamped)
  | .rk, 0x40 =>
    wordN (((List.range 4).map fun u => 4 ^ u * (b2n (nth none x.tokens u).isSome + 2 * b2n (x.headAt u s.arr.runAc).isSome)).foldl
      (· + ·) 0)
  | _, _ => w

/-! ## Terrace control, switch points, logic cells -/

/-- The tile TERn.LDG_SEL names. -/
def State.ldgTile (s : State) (t : Fin 4) : Option TileRef :=
  let row := s.fget (F.TER_LDG_SEL_row t)
  let k := s.fget (F.TER_LDG_SEL_unit t)
  if h : row < 9 ∧ k < 30 then some ⟨t, ⟨row, h.1⟩, ⟨k, h.2⟩⟩ else none
/-- The lowest-numbered tile of a Terrace that the active Vintage uses. -/
def State.firstTile (s : State) (t : Fin 4) : Option TileRef :=
  ((List.range 270).map fun i => (⟨t, Fin.ofNat 9 (i / 30), Fin.ofNat 30 i⟩ : TileRef)).find? fun r => s.usesTile r s.activeV

/-- What a register of Terrace control shows. -/
def State.terView (s : State) (t : Fin 4) (o : Nat) (w : Word) : Word :=
  match o with
  | 0x00 => w ||| wordN (nth 0 s.fuse.rowGood t)
  | 0x8C =>
    match s.ldgTile t with
    | some r =>
      let x := s.tile r
      let n := match s.fget (F.TER_LDG_SEL_what t) with
        | 0 => x.obs.fire | 1 => x.obs.idle | 2 => x.obs.stall | _ => 0
      wordN (Nat.min n (2 ^ 24 - 1) + 2 ^ 24 * (x.obsBand % 256))
    | none => 0
  | 0x90 =>
    w ||| wordN (2 ^ 16 * (((s.firstTile t).map fun r => (s.tile r).bandsClosed % 65536).getD 0))
  | _ => w

/-- What a register of a switch point shows.
(DEDUCED, log 119) -/
def State.pointView (s : State) (p : PointRef) (o : Nat) (w : Word) : Word :=
  if o = 0x0C then wordN (s.arr.runAc % s.frameLen p s.activeV + 2 ^ 8 * s.activeV) else w

/-- What a register of a Row's logic cells shows. -/
def State.lcView (s : State) (t row : Nat) (o : Nat) (w : Word) : Word :=
  if o = 0 then w ||| wordN ((s.lcRow t row).stage + 2 ^ 2 * s.activeV) else w

/-! ## Power and clock domains (Tables 1.3, 1.4, R382, R385) -/

/-- Is Row `n` in retention: not powered, while it keeps its contents (R385)? -/
def State.rowRet (s : State) (n : Nat) : Bool := !s.rowOn n && s.rowKept n
/-- The power domains powered.
(DEDUCED, log 116) -/
def State.pdOn (s : State) : Nat :=
  let ter := (List.range 4).map fun t =>
    let rows := (List.range 9).map fun p => b2n (s.rowOn (9 * t + p)) * 2 ^ p
    let sum := rows.foldl (· + ·) 0
    2 ^ (11 * t) * (sum + (if s.pwr.park then 0 else 2 ^ 9) + 2 ^ 10)
  ter.foldl (· + ·) 0 + 2 ^ 44 + 2 ^ 45 + 2 ^ 46 + (if s.pwr.park then 0 else 2 ^ 47) + 2 ^ 48
/-- The power domains in retention. -/
def State.pdRet (s : State) : Nat :=
  ((List.range 36).map fun i => b2n (s.rowRet i) * 2 ^ (11 * (i / 9) + i % 9)).foldl (· + ·) 0
/-- The clock domains running: those derived from ACLK in Run and while the filler runs, the logic-cell and Hub engine clocks but in Park, a
downlink's clock while it is locked, and the others always.
(DEDUCED, log 116) -/
def State.cdRun (s : State) : Nat :=
  let a := (s.arr.clocked || s.job.running || s.fillerRuns || s.pwr.ramp != 0) && !s.pwr.park && !s.pwr.tripped
  let ter := (List.range 4).map fun t => 2 ^ (5 * t) * ((if a then 0xD else 0) + (if s.pwr.park then 0 else 2) + 0x10)
  ter.foldl (· + ·) 0 + 2 ^ 20 * s.fget F.ING_LINK_STATUS_lock + (2 ^ 39 - 2 ^ 28) + (if s.pwr.park then 0 else 2 ^ 39)

/-! ## Blocks below the Terraces -/

/-- D of the root as it stands (R373): ⌈(N − 1)/2⌉ in an intact ring, on a chain the farthest device's hops from the root.
(DEDUCED, log 117) -/
def State.rootD (s : State) : Nat :=
  if s.intact then s.trl.n / 2
  else
    -- On a chain, hops from this device give each device's place; the root is `h` hops away on its port.
    let side (p h : Nat) : Int := if p = 0 then -(h : Int) else h
    let at1 := (s.trl.dev, (0 : Int)) :: s.trl.seen.map fun x => (x.1, side x.2.1 x.2.2)
    let root := ((at1.find? fun x => x.1 == s.trl.rootDev).map (·.2)).getD 0
    maxN (at1.map fun x => (x.2 - root).natAbs)
/-- The route-map entry of a device (TRL.MAP_DATA). -/
def State.mapData (s : State) (d : Nat) : Nat :=
  if d = s.trl.dev ∧ s.inSystem then 1
  else match s.trl.seen.find? fun x => x.1 == d with
    | some (_, p, h) => 1 + 2 * p + 4 * h
    | none => 0
/-- The statistic VRD.STAT_SEL selects (R295). -/
def State.statData (s : State) : Nat :=
  let i := s.fget F.VRD_STAT_SEL_item
  match s.fget F.VRD_STAT_SEL_what with
  | 0 => nth 0 s.vrd.last i
  | 1 => nth 0 s.vrd.total i
  | 2 => sget zeroN s.vrd.lastHist (256 * s.fget F.VRD_STAT_SEL_plane + i)
  | _ => 0
/-- The switch in hand as HUB.VNT_SWITCH shows it. Before arming, b is the first band at or after the requested one whose boundary has
not been armed or passed (R187).
(DEDUCED, log 149) -/
def State.switchShow (s : State) : Nat :=
  match s.sw with
  | some w =>
    let b := if w.armed then w.band else Nat.max w.band (s.ing.nextStart / s.job.bandLen + 1)
    w.target + 4 * b2n w.armed + 8 * b2n s.swWait.isSome + 2 ^ 8 * (b % 2 ^ 24)
  | none => 8 * b2n s.swWait.isSome
/-- The key slot SEC.KEY_CTRL selects. -/
def State.selKey (s : State) : KeySlot := nth ⟨false, false, false, []⟩ s.fuse.keys (s.fget F.SEC_KEY_CTRL_slot)
/-- A probe sample; with no index written yet the memory reads 0. -/
def State.probeAt (s : State) : Nat := sget zeroN s.sec.probe (s.fget F.HUB_PRB_ADDR_index)

/-- What a register of the HUB block shows. -/
def State.hubView (s : State) (o : Nat) (w : Word) : Word :=
  match o with
  | 0x000 => wordN s.partInfo
  | 0x600 =>
    F.HUB_DLD_STATUS_spilled.put w (b2n (s.arr.casks.any fun x => decide (0 < x.2.ringWords) || !x.2.refill.isEmpty))
  | 0x610 => wordN s.arr.elast
  | 0x614 => wordN (s.arr.elast / 2 ^ 32)
  | 0x618 => wordN s.arr.runAc
  | 0x61C => wordN (s.arr.runAc / 2 ^ 32)
  | 0x620 => wordN s.arr.holdAc
  | 0x624 => wordN (s.arr.holdAc / 2 ^ 32)
  | 0x630 => wordN s.vntShow
  | 0x634 => wordN s.switchShow
  | 0x704 =>
    wordN (b2n (s.sec.probeRun && !s.sec.probeTrig) + 2 * b2n s.sec.probeTrig + 4 * b2n s.sec.probeDone +
      2 ^ 16 * (s.sec.probeLast % 65536))
  | 0x71C => wordN s.probeAt
  | 0x720 => wordN (s.probeAt / 2 ^ 32)
  | 0x904 => wordN (s.grfShow + 2 ^ 4 * s.grf.queue.length + 2 ^ 9 * b2n s.grf.bound.isSome)
  | 0x908 => wordN s.grf.step
  | 0x90C => wordN s.grf.poolLen
  | _ => w

/-- What a register of the PCI block shows.
(DEDUCED, log 154) -/
def State.pciView (s : State) (o : Nat) (w : Word) : Word :=
  if o = R.PCI_CP_STATUS then
    wordN (((s.cp.serial.map Cmd.tag).getD 0) + 2 ^ 16 * s.owed + 2 ^ 24 * b2n s.cp.serial.isSome + 2 ^ 25 * b2n s.cpHeld)
  else w

/-- What a register of the Stream engine shows. -/
def State.strView (s : State) (o : Nat) (w : Word) : Word :=
  let n := (o - 0x10000) / 0x100
  if 0x11000 ≤ o then w
  else match (o - 0x10000) % 0x100 with
    | 0x00 => wordN (2 * b2n (s.chan n).stop)
    | 0x04 => w ||| wordN (s.chanState n + 8 * b2n (s.chan n).shadow.isSome)
    | _ => w

/-- What a register of the power block shows. -/
def State.pwrView (s : State) (o : Nat) (w : Word) : Word :=
  match o with
  | 0x30008 =>
    putAll w [(F.PWR_FREQ_STATUS_wanted, s.wanted), (F.PWR_FREQ_STATUS_floor, s.floorBin),
      (F.PWR_FREQ_STATUS_low_bin, s.lowBin.getD 0), (F.PWR_FREQ_STATUS_pending, b2n s.changeArmed),
      (F.PWR_FREQ_STATUS_deferred, b2n s.pwr.deferred)]
  | 0x30010 =>
    putAll w [(F.PWR_GOV_level, s.govLevel), (F.PWR_GOV_b_cap, s.pwr.bCap), (F.PWR_GOV_b_therm, s.pwr.bTherm)]
  | 0x3002C => putAll w [(F.PWR_LOAM_active, b2n (s.fillerRuns || s.pwr.ramp != 0))]
  | 0x30040 => wordN (s.pwr.energy / 1000)
  | 0x30044 => wordN (s.pwr.energy / 1000 / 2 ^ 32)
  | 0x30048 => wordN (s.pwr.jobNj / 1000)
  | 0x3004C => wordN (s.pwr.jobNj / 1000 / 2 ^ 32)
  | 0x30054 =>
    let x := nth (0, 0) s.pwr.tel (s.fget F.PWR_TEL_SEL_reg)
    wordN (x.1 % 65536 + 2 ^ 16 * (x.2 / 10))
  | 0x30080 => wordN s.pdOn
  | 0x30084 => wordN (s.pdOn / 2 ^ 32)
  | 0x30088 => wordN s.pdRet
  | 0x3008C => wordN (s.pdRet / 2 ^ 32)
  | 0x30090 => wordN s.cdRun
  | 0x30094 => wordN (s.cdRun / 2 ^ 32)
  | _ => w

/-- What a register of the security block shows. -/
def State.secView (s : State) (o : Nat) (w : Word) : Word :=
  match o with
  | 0x40000 => wordN (s.fuse.lc + 2 ^ 2 * s.fuse.banks + 2 ^ 4 * b2n s.fuse.idValid)
  | 0x40004 => wordN (2 ^ 16 * b2n s.sec.trans.isSome)
  | 0x40008 => w ||| wordN (2 ^ 16 * s.fuse.svnFloor)
  | 0x40030 =>
    putAll w [(⟨0, 8, 1⟩, b2n s.selKey.written), (⟨0, 9, 1⟩, b2n s.selKey.dbg), (⟨0, 10, 1⟩, b2n s.selKey.revoked)]
  | _ => w

/-- What a register of the Trellis block shows.
(DEDUCED, log 117) -/
def State.trlView (s : State) (o : Nat) (w : Word) : Word :=
  match o with
  | 0x50008 =>
    wordN (s.trl.phase + 8 * b2n (s.portUp 0) + 16 * b2n (s.portUp 1) + 32 * b2n (s.trl.holds.any HoldSt.active) + 64 * s.rootD +
      2 ^ 16 * s.systemBin s.curBand)
  | 0x50018 => wordN s.trl.time
  | 0x5001C => wordN (s.trl.time / 2 ^ 32 % 65536)
  | 0x5002C => wordN (s.mapData (s.fget F.TRL_MAP_ADDR_dev))
  | _ => w

/-- What the register at a BAR0 offset below the Terraces shows. -/
def State.blockView (s : State) (o : Nat) (w : Word) : Word :=
  if o < 0x8000 then s.hubView o w
  else if o < 0x10000 then s.pciView o w
  else if o < 0x20000 then s.strView o w
  else if o < 0x30000 then
    (if o = R.STP_POS_LO then wordN s.lin.pos else if o = R.STP_POS_HI then wordN (s.lin.pos / 2 ^ 32 % 65536) else w)
  else if o < 0x40000 then s.pwrView o w
  else if o < 0x50000 then s.secView o w
  else if o < 0x60000 then s.trlView o w
  else if o < 0x70000 then (if o = R.HRM_CAP then wordN (s.hyperCap / 4096) else w)
  else if o = R.VRD_STAT_DATA then wordN s.statData
  else w

/-! ## Windows that are no registers -/

/-- Word at byte `o` of some bytes. -/
def wordAt (bs : List Byte) (o : Nat) : Word := wordN (ofBytes ((bs.drop o).take 4))
/-- The windows of Table 15.6 and the mailbox buffers: the identity window gives the identity key (R429), the key window the key of a
written slot and otherwise the bytes to program, the response window is write-only and reads 0.
(DEDUCED, log 49; DEDUCED, log 118) -/
def State.windowView (s : State) (o : Nat) : Option Word :=
  if 0x41200 ≤ o ∧ o < 0x41220 then some (wordAt s.idKey (o - 0x41200))
  else if keyWin ≤ o ∧ o < keyWin + 32 then some (if s.selKey.written then wordAt s.selKey.key (o - keyWin) else s.reg o)
  else if 0x42000 ≤ o ∧ o < 0x42000 + 7856 then some 0
  else if (0x41000 ≤ o ∧ o < 0x41100) ∨ (0x41300 ≤ o ∧ o < 0x41340) ∨ (0x21000 ≤ o ∧ o < 0x23000) then some (s.reg o)
  else none

/-- What a BAR0 offset shows, but for words behind an address register. Write-only bits read 0. -/
def State.view (s : State) (o : Nat) : Word :=
  match s.windowView o with
  | some w => w
  | none =>
    let w := s.reg o &&& ~~~ accMask (fun a => a == .wo) o
    match placeOf o with
    | .unmapped => 0
    | .empty => 0
    | .hub => s.blockView o w
    | .ter n r => s.terView (Fin.ofNat 4 n) r w
    | .tile t row k r => s.tileView ⟨Fin.ofNat 4 t, Fin.ofNat 9 row, Fin.ofNat 30 k⟩ r w
    | .point p r => s.pointView p r w
    | .io _ _ _ => w
    | .lc t row r => s.lcView t row r w

/-! ## Words behind an address and a data register (R473) -/

/-- What a data register reaches. -/
inductive IndAt where
  /-- A stored word, and the Vintage whose placement state it is. -/
  | word (sp : Space) (u i : Nat) (v : Option Nat)
  /-- The high word of a probe sample. -/
  | sample
  /-- An index that names no word. -/
  | reserved
deriving DecidableEq, Repr

/-- A data register: its address register, the width of the index that autoinc moves, and what it reaches. -/
structure IndReg where
  addr : Nat
  width : Nat
  tgt : IndAt
deriving DecidableEq, Repr

/-- The Vintage of a parameter word, none where the space is reserved (Table 2.5).
(DESIGN CHOICE, log 175) -/
def paramV (k : TileKind) (i : Nat) : Option Nat :=
  if i < 0x100 then some (i / 0x40)
  else if i < 0x110 then some ((i - 0x100) / 4)
  else if i < 0x150 then some ((i - 0x110) / 0x10)
  else if i < 0x190 then some ((i - 0x150) / 0x10)
  else if i < 0x1A0 then some ((i - 0x190) / 4)
  else match k with
    | .mx => if i < 0x1E0 then some ((i - 0x1A0) / 0x10) else none
    | .mm => if i < 0x1E0 then some ((i - 0x1A0) / 0x10) else none
    | .sf => if i < 0x3A0 then some ((i - 0x1A0) / 0x80) else if i < 0x3E0 then some ((i - 0x3A0) / 0x10) else none
    | .rk => none
/-- The Vintage of a unit-table word.
(DEDUCED, log 112) -/
def unitV (i : Nat) : Option Nat :=
  if i < 8640 then some (i / 2160) else if 0x2200 ≤ i ∧ i < 11008 then some ((i - 0x2200) / 576) else none
/-- A word when the index names one. -/
def indWord (sp : Space) (u i : Nat) (v : Option Nat) : IndAt :=
  if v.isSome then .word sp u i v else .reserved

/-- The data register at a BAR0 offset, when there is one. -/
def State.indOf (s : State) (o : Nat) : Option IndReg :=
  let a := (s.reg (o - 4)).toNat
  match placeOf o with
  | .tile t row k r =>
    let u := (t * 9 + row) * 30 + k
    if r = 0x14 then some ⟨o - 4, 10, indWord .param u (a % 1024) (paramV (kindOf k) (a % 1024))⟩
    else if r = 0x44 ∧ kindOf k = .sf then some ⟨o - 4, 11, indWord .ptab u (a % 2048) (some (a % 2048 / 512))⟩
    else none
  | .point p r => if r = 0x08 then some ⟨o - 4, 12, indWord .slot (pointKey p) (a % 4096) (some (a % 4096 / 1024))⟩ else none
  | .ter n r => if r = 0x84 then some ⟨o - 4, 14, indWord .unit n (a % 16384) (unitV (a % 16384))⟩ else none
  | .lc t row r =>
    let i := a % 16384
    let v := bitsN a 17 2
    if r = 0x08 then
      some ⟨o - 4, 14,
        if bitN a 16 then (if i < 64 then .word .probe (t * 9 + row) i none else .reserved)
        else if i < 12288 then .word .lcCfg (t * 9 + row) (v * 0x3000 + i) (some v) else .reserved⟩
    else none
  | .hub =>
    if o = R.VRD_CMAP_DATA then
      some ⟨o - 4, 9, if a % 512 ≤ 272 then .word .cmap (bitsN a 9 2) (a % 512) (some (bitsN a 9 2)) else .reserved⟩
    else if o = R.STR_PROG_DATA then some ⟨o - 4, 8, .word .prog 0 (a % 256) none⟩
    else if o = R.HUB_PRB_DATA_HI then some ⟨R.HUB_PRB_ADDR, 16, .sample⟩
    else none
  | _ => none

/-- An access to the data register moves an enabled autoinc index (R473). -/
def State.autoinc (s : State) (x : IndReg) : State :=
  let a := s.reg x.addr
  if bitW a 31 then s.setReg x.addr (Fld.put ⟨x.addr, 0, x.width⟩ a (a.toNat + 1)) else s

/-- A control word that cannot be corrected is read (R440, Table 16.1).
(DEDUCED, log 114) -/
def State.ctlBad (s : State) (p : Place) (key : Nat) : State :=
  let ecc := s.ctlEcc (keyRow key) 0x0804 false
  match p with
  | .tile t row k _ => ecc.tileDead ⟨Fin.ofNat 4 t, Fin.ofNat 9 row, Fin.ofNat 30 k⟩ 0x0804
  | .point q _ => ((ecc.note 0x0804).terFault (pointLoc s q 0) 0x0804).stopJob
  | .lc t row _ => (s.countUncRow (keyRow key)).lcBad t row
  | _ => (ecc.note 0x0804).stopJob

/-- Read a stored word of a space (R437–R440); one whose codeword is only poisoned raises nothing (R439).
(DEDUCED, log 114) -/
def State.ctlRead (s : State) (p : Place) (sp : Space) (u i : Nat) : Word × State :=
  let key := wordKey sp u i
  if !keyCoded key then (s.word sp u i, s)
  else
    (s.ctl sp u i,
     match s.cwRs (wordCw sp u i) with
     | .good _ => s
     | .corrected _ =>
       let s1 := s.countCorrRow (keyRow key)
       match p with | .lc t row _ => s1.fcount (F.LC_STATUS_corr (lcBase t row)) 1 | _ => s1
     | .bad => s.ctlBad p key)

/-- Write a stored word: the codeword is read for its other word first (R439). -/
def State.ctlWrite (s : State) (sp : Space) (u i : Nat) (v : Word) : State :=
  let v := v &&& wordBits sp u i v
  let key := wordKey sp u i
  let cw := wordCw sp u i
  let j := if i % 2 = 0 then i + 1 else i - 1
  if !keyCoded key then s.setWord sp u i v
  else match s.cwRs cw with
    | .good r => ((s.setWord sp u i v).setWord sp u j (s.word sp u j ^^^ halfOf r j)).mend cw
    | .corrected r =>
      (((s.countCorrRow (keyRow key)).setWord sp u i v).setWord sp u j (s.word sp u j ^^^ halfOf r j)).mend cw
    | .bad =>
      let s1 := (((s.note 0x0801).ctlEcc (keyRow key) 0x0801 false).setWord sp u i v).setWord sp u j
        (s.word sp u j ^^^ halfOf (s.upsetAt cw) j)
      (s1.setPoison cw true).setUpset cw 0

/-! ## Reads (R6, R8, R314, R384) -/

/-- Is an offset in a window that Park closes: STR, ING, FFC, RSH, SLC, VRD and the Terraces (R384)? -/
def parkClosed (o : Nat) : Bool :=
  (decide (0x10000 ≤ o) && decide (o < 0x2C000)) || (decide (0x70000 ≤ o) && decide (o < 0x100000))
/-- Is an offset inside the window of a Row that is not good (R39)? -/
def State.badRow (s : State) (o : Nat) : Bool :=
  match placeOf o with
  | .tile t row _ _ => !s.rowGood t row
  | .point (.row t row _) _ => !s.rowGood t row
  | .lc t row _ => !s.rowGood t row
  | .empty =>
    let r := (o - 0x80000) % 0x20000
    decide (0x80000 ≤ o) && decide (0x2000 ≤ r) && decide (r < 0x1D000) && !s.rowGood ((o - 0x80000) / 0x20000) ((r - 0x2000) / 0x3000)
  | _ => false
/-- The reason for which an access is a violation before anything else is looked at: unmapped, parked, in recovery, or JTAG without its
unlock (R314, R384, R421, R433). -/
def State.barred (s : State) (src : AccSrc) (o : Nat) : Option Nat :=
  if placeOf o = .unmapped || s.badRow o then some 0
  else if s.pwr.park && parkClosed o then some 0
  else if s.recovery && src == .bar0 && !(decide (o < 0x10000) || (decide (0x40000 ≤ o) && decide (o < 0x50000))) then some 0
  else if src == .jtag && !s.debugOpen 1 then some 5
  else none

/-- Low words of 64-bit quantities whose read latches the high word at the next offset (R6). -/
def isLow (o : Nat) : Bool :=
  [0x610, 0x618, 0x620, 0x708, 0x710, 0x71C, 0x2C004, 0x50018, 0x30040, 0x30048, 0x30080, 0x30088, 0x30090].contains o ||
    (decide (0x8100 ≤ o) && decide (o < 0x81A0) && (o - 0x8100) % 0x20 == 0)
/-- Latch a high word until the next read of it. -/
def State.latchHigh (s : State) (o : Nat) (w : Word) : State :=
  s.mapCp fun x => { x with latch := (o, w) :: x.latch.filter fun y => y.1 != o }
/-- RC fields of the register at an offset clear (R8).
(DEDUCED, log 150) -/
def State.readClear (s : State) (o : Nat) : State :=
  let s := s.setReg o (s.reg o &&& ~~~ accMask (fun a => a == .rc) o)
  match placeOf o with
  | .tile t row k r =>
    if kindOf k = .mm ∧ r = 0x50 then
      let c := s.selCask ⟨Fin.ofNat 4 t, Fin.ofNat 9 row, Fin.ofNat 30 k⟩
      s.setCask c { s.cask c with hwm := (s.cask c).cnt }
    else s
  | _ => s

/-- A read of BAR0 or the register space that is not barred. -/
def State.readReg (s : State) (o : Nat) : Word × State :=
  match s.indOf o with
  | some x =>
    match x.tgt with
    | .word sp u i _ =>
      let (w, s1) := s.ctlRead (placeOf o) sp u i
      (w, s1.autoinc x)
    | .sample =>
      let w := (s.cp.latch.find? fun y => y.1 == o).map (·.2) |>.getD (s.view o)
      (w, (s.mapCp fun c => { c with latch := c.latch.filter fun y => y.1 != o }).autoinc x)
    | .reserved => (0, s.autoinc x)
  | none =>
    match s.cp.latch.find? fun y => y.1 == o with
    | some (_, w) => (w, s.mapCp fun c => { c with latch := c.latch.filter fun y => y.1 != o })
    | none =>
      let w := s.view o
      let s1 := if isLow o then s.latchHigh (o + 4) (s.view (o + 4)) else s
      (w, s1.readClear o)

/-- A read of an aligned word: a reset in progress answers nothing; a violation ends in Completer Abort (R314).
(DESIGN CHOICE, log 120) -/
def State.regRead (s : State) (src : AccSrc) (o : Nat) : State :=
  if 0 < s.rstRank then s
  else match s.barred src o with
    | some r => (s.violate src o false r).readAbort src
    | none =>
      let (w, s1) := s.readReg o
      s1.mapCp fun c => { c with resp := .value w.toNat }

end Sys2Proof.Machine
end

