-- ==== Sys2Proof/Machine/RegWrite.lean ====
section
/-!
DEFINITION. Machine/RegWrite.lean: what a write of the register space does: access codes (R7, R9), lock rules (R314), placement state
(R472), and the registers whose writes act.
-/
namespace Sys2Proof.Machine

/-! ## Access codes (Table 0.2) -/

/-- Clearing the valid bit of a fault capture clears what it captured. -/
def State.clearCapture (s : State) (o : Nat) (v : Word) : State :=
  if !bitW v 31 then s
  else match placeOf o with
    | .tile _ _ k r => if r = 0x28 ∨ (kindOf k = .mm ∧ r = 0x58) then s.setReg o 0 else s
    | .ter n r => if r = 0x40 then ((s.setReg o 0).setReg (R.TER_FAULT_BAND n) 0).setReg (R.TER_FAULT_AUX n) 0 else s
    | .hub => if o = R.HUB_DLD_STATUS then s.fset F.HUB_DLD_STATUS_fail 0 else s
    | _ => s
/-- A write by access codes: RW and, before Sealed, RWS bits take the value; W1C bits clear; RO, WO and RC bits ignore it. A set-only
bit with an action of its own acts elsewhere; TERn.ROW_STATUS keeps its set bits. From Sealed on a write that would change an RWS bit is
logged (R9, R314). -/
def State.storeReg (s : State) (src : AccSrc) (o : Nat) (v : Word) : State :=
  let old := s.reg o
  let rws := accMask (fun a => a == .rws) o
  let rw := accMask (fun a => a == .rw) o ||| (if s.sealed then 0 else rws)
  let w1c := accMask (fun a => a == .w1c) o &&& v
  let w1s := match placeOf o with | .ter _ 0 => accMask (fun a => a == .w1s) o &&& v | _ => 0
  let s := if s.sealed && (old ^^^ v) &&& rws != 0 then s.violate src o true 2 else s
  (s.setReg o ((old &&& ~~~ (rw ||| w1c)) ||| (v &&& rw) ||| w1s)).clearCapture o v

/-! ## Placement state (R20, R44, R142, R154, R185, R188, R472) -/

/-- A write that reaches the placement state of Vintages: dropped and logged when one is locked, otherwise done, and it marks them
unplaced; a PLACE that runs learns that its target was written. -/
def State.placeTouch (s : State) (src : AccSrc) (o : Nat) (vs : List Nat) (k : State → State) : State :=
  if vs.any s.vLocked then s.violate src o true 1
  else
    let s := s.settleRows (k (vs.foldl (fun s v => s.unplace v) s))
    match s.hrm.placing with
    | some p => if vs.contains p.v then s.mapHrm fun h => { h with placing := some { p with touched := true } } else s
    | none => s

/-- Vintages whose field of `w` bits each differs between two words. -/
def changedV (w : Nat) (a b : Word) : List Nat := (List.range 4).filter fun v => bitsW a (w * v) w != bitsW b (w * v) w

/-- A cask descriptor write (R154): word `i` of the selected cask. -/
def State.caskDescWrite (s : State) (src : AccSrc) (o : Nat) (c : CaskRef) (i : Nat) (v : Word) : State :=
  let v := if i = 0 then v &&& 0xFFFF7FFF else v
  let old := s.word .desc (caskKey c) i
  let before := (List.range 4).filter (s.caskUse c)
  let after := if i = 1 then (List.range 4).filter fun x => bitW v (4 + x) else before
  let vs := before ++ after.filter fun x => !before.contains x
  if vs.any s.vLocked then s.violate src o true 1
  else if old = v then s
  else s.placeTouch src o vs fun s => s.setWord .desc (caskKey c) i v

/-- A write of a data register (R473): the index moves whatever the write does. -/
def State.indWrite (s : State) (src : AccSrc) (o : Nat) (x : IndReg) (v : Word) : State :=
  match x.tgt with
  | .sample => s
  | .reserved => s.autoinc x
  | .word sp u i (some w) => (s.placeTouch src o [w] fun s => s.ctlWrite sp u i v).autoinc x
  | .word .probe u i none =>
    (if s.debugOpen 0 then s.setWord .probe u i (v &&& 0xFFF) else s.violate src o true 5).autoinc x
  | .word sp u i none => (s.ctlWrite sp u i v).autoinc x

/-! ## Registers of the blocks whose writes act -/

/-- Setting a mask bit while its status bit is 1 raises the vector (R322). -/
def irqMaskEff (s : State) (v : Word) : State :=
  let old := s.reg R.HUB_IRQ_MASK
  let s := s.setReg R.HUB_IRQ_MASK (v &&& accMask (fun a => a == .rw) R.HUB_IRQ_MASK)
  (List.range 6).foldl (fun s k =>
    if bitW v k && !bitW old k && bitN (s.fget irqBits) k then s.raiseVec (irqVector k) else s) s

/-- A write of PCI.RINGr_CFG (R317, R318, R320): en rises with a size in range and both indices become 0; en falls on ring 0 and the
processor takes no more commands.
(DEDUCED, log 111) -/
def ringCfgEff (s : State) (src : AccSrc) (r : Nat) (v : Word) : State :=
  let n := bitsW v 0 5
  if s.ringOn r then
    if n ≠ s.fget (F.PCI_RING_CFG_log2size r) then s.violateOpen src (R.PCI_RING_CFG r) true
    else if bitW v 8 then s
    else
      let s := s.fset (F.PCI_RING_CFG_en r) 0
      if r = 0 then s.mapCp fun c => { c with cmds := [] } else s
  else
    let go := bitW v 8 && decide (6 ≤ n) && decide (n ≤ 16)
    let s := s.setReg (R.PCI_RING_CFG r) (wordN (n + (if go then 2 ^ 8 else 0)))
    if go then
      let s := (s.setReg (R.PCI_RING_PROD r) 0).setReg (R.PCI_RING_CONS r) 0
      if r = 0 then s.mapCp fun c => { c with cmds := [] } else s
    else s

/-- A write of HUB.RST_CTRL: of several resets asked for together the broadest acts.
(DEDUCED, log 110) -/
def rstCtrlEff (s : State) (v : Word) (failed : List (Fin 4 × Fin 8)) : State :=
  if bitW v 3 then coldResetEff s .register failed
  else if bitW v 2 then warmResetEff s .register failed
  else
    let s := if bitW v 0 then arrayResetEff s failed else s
    if bitW v 1 then (s.cmRestart 1).pump else s

/-- A write of SEC.KEY_CTRL (R428, R9). -/
def keyCtrlEff (s : State) (src : AccSrc) (v : Word) : State :=
  let s := if bitW v 5 then keyRevokeEff s v else s.fset F.SEC_KEY_CTRL_slot (bitsW v 0 3)
  if s.sealed then
    if bitW v 4 || bitsW v 3 1 != s.fget F.SEC_KEY_CTRL_dbg then s.violate src R.SEC_KEY_CTRL true 2 else s
  else if bitW v 4 then keyProgramEff s v
  else s.fset F.SEC_KEY_CTRL_dbg (bitsW v 3 1)
/-- A write of SEC.LC_CTRL (R426, R428).
(DEDUCED, log 110) -/
def lcCtrlEff (s : State) (v : Word) (failed : List (Fin 4 × Fin 8)) : State :=
  lifeCycleEff (if bitW v 2 then svnUpEff s else s) v failed
/-- A write of SEC.DBG_CTRL (R432).
(DEDUCED, log 110) -/
def dbgCtrlEff (s : State) (v : Word) : State :=
  let s := s.fset F.SEC_DBG_CTRL_scope (bitsW v 0 4)
  let s := if bitW v 4 then debugChallengeEff s v else s
  if bitW v 5 then debugSubmitEff s else s

/-- A write of TRL.CFG (R353). -/
def trlCfgEff (s : State) (v : Word) (root : Nat) : State :=
  if bitW v 17 then trellisBringUpEff s v root
  else if s.inSystem then trellisOffEff s v
  else s.setReg R.TRL_CFG (v &&& 0x13F3F)
/-- A write of TRL.CTRL (R364, R367, R376).
(DEDUCED, log 110) -/
def trlCtrlEff (s : State) (v : Word) (now : Nat) : State :=
  let s := if bitW v 0 then syncEff s else s
  let s := if bitW v 1 then calibrationEff s now else s
  if bitW v 2 then sysResetEff s else s

/-- A write of STR.CHn_CTRL: channels 0–7 are not the host's (R297); go acts before stop.
(DEDUCED, log 110) -/
def chCtrlEff (s : State) (src : AccSrc) (o n : Nat) (v : Word) : State :=
  if n < 8 then s.violateOpen src o true
  else
    let s := if bitW v 0 then streamGoEff s n else s
    if bitW v 1 then streamStopEff s n else s

/-- Registers that a running job locks (R278, R282). -/
def jobLocked (o : Nat) : Bool :=
  (decide (0x20000 ≤ o) && decide (o < 0x20044)) || (decide (0x28000 ≤ o) && decide (o < 0x28030)) ||
    o == R.SLC_CFG || o == R.SLC_NBR || o == R.STP_STAMP_CFG || (List.range 8).any fun r => o == R.HUB_SS_R r

/-- A write of a marker's STP.MRK_CFG (R277): once enabled its ball is driven; the write ends the hold that a warm reset left.
(DEDUCED, log 50) -/
def mrkCfgEff (s : State) (src : AccSrc) (o k : Nat) (v : Word) : State :=
  let s := s.storeReg src o v
  s.mapLin fun l => { l with driven := if bitW v 0 then Nat.lor l.driven (2 ^ k) else l.driven, safe := clearBit l.safe k }

/-- A write of a register of the HUB and PCI blocks. -/
def hubWrite (s : State) (src : AccSrc) (o : Nat) (v : Word) (env : WriteEnv) : State :=
  if o = R.HUB_IRQ_MASK then irqMaskEff s v
  else if o = R.HUB_PRB_CTRL then probeCtrlEff s src v
  else if o = R.HUB_RST_CTRL then rstCtrlEff s v env.failed
  else if 0x8100 ≤ o ∧ o < 0x81A0 then
    let r := (o - 0x8100) / 0x20
    match (o - 0x8100) % 0x20 with
    | 0x00 => if s.ringOn r then s.violateOpen src o true else s.storeReg src o v
    | 0x04 => if s.ringOn r then s.violateOpen src o true else s.storeReg src o v
    | 0x08 => ringCfgEff s src r v
    | _ => s.storeReg src o v
  else s.storeReg src o v

/-- A write of a register of the Stream engine. -/
def strWrite (s : State) (src : AccSrc) (o : Nat) (v : Word) : State :=
  let n := (o - 0x10000) / 0x100
  let r := (o - 0x10000) % 0x100
  if 0x11000 ≤ o then s.storeReg src o v
  else if r = 0 then chCtrlEff s src o n v
  else if 0x40 ≤ r ∧ r < 0x80 ∧ n < 8 then s.violateOpen src o true
  else s.storeReg src o v

/-- A write of a register of Ingest, Flat-field, Reshuffle, Slicer and Stamp. -/
def ingWrite (s : State) (src : AccSrc) (o : Nat) (v : Word) (env : WriteEnv) : State :=
  if 0x20080 ≤ o ∧ o < 0x20090 then mailboxSendEff s ((o - 0x20080) / 4) v
  else if 0x2C100 ≤ o ∧ o < 0x2C180 ∧ o % 16 = 0 then triggerSoftwareEff s ((o - 0x2C100) / 16) v env.now
  else if 0x2C200 ≤ o ∧ o < 0x2C300 ∧ o % 16 = 0 then mrkCfgEff s src o ((o - 0x2C200) / 16) v
  else s.storeReg src o v

/-- A write of a register of the power block. -/
def pwrWrite (s : State) (src : AccSrc) (o : Nat) (v : Word) (env : WriteEnv) : State :=
  if o = R.PWR_FREQ then freqWriteEff s v
  else if o = R.PWR_CAP then capWriteEff s v
  else if o = R.PWR_LOAM then loamWriteEff s v
  else if o = R.PWR_STATE then (if bitW v 2 then wakeEff s env.failed else s)
  else s.storeReg src o v

/-- A write of a register or window of the security block (Table 15.6). -/
def secWrite (s : State) (src : AccSrc) (o : Nat) (v : Word) (env : WriteEnv) : State :=
  if o = R.SEC_LC_CTRL then lcCtrlEff s v env.failed
  else if o = R.SEC_KEY_CTRL then keyCtrlEff s src v
  else if o = R.SEC_DBG_CTRL then dbgCtrlEff s v
  else if o = R.SEC_FL_CTRL then s.flashStart src (bitsW v 0 2)
  else if keyWin ≤ o ∧ o < keyWin + 32 then
    (if s.sealed then (if s.view o = v then s else s.violate src o true 2) else s.setReg o v)
  else if (pageWin ≤ o ∧ o < pageWin + 256) ∨ (0x42000 ≤ o ∧ o < 0x42000 + 7856) then s.setReg o v
  else s.storeReg src o v

/-- A write of a register of the Trellis block. -/
def trlWrite (s : State) (src : AccSrc) (o : Nat) (v : Word) (env : WriteEnv) : State :=
  if o = R.TRL_CFG then trlCfgEff s v env.root
  else if o = R.TRL_CTRL then trlCtrlEff s v env.now
  else if o = R.TRL_RETIRE then trellisRetireEff s v
  else s.storeReg src o v

/-- A write of a register of the HyperRAM block. -/
def hrmWrite (s : State) (src : AccSrc) (o : Nat) (v : Word) : State :=
  if o = R.HRM_BSTORE then bstoreWriteEff s v
  else if o = R.HRM_CROP_BASE then cropStoreWriteEff s false v
  else if o = R.HRM_CROP_SIZE then cropStoreWriteEff s true v
  else if 0x60040 ≤ o ∧ o < 0x60080 ∧ o % 16 = 4 then
    (let c := (o - 0x60040) / 16; if bitW v 8 then (s.fset (F.HRM_CH_STATUS_force_fail c) 1).channelFail c 4 else s)
  else s.storeReg src o v

/-- A write of a register of the verdict blocks: a bank of settings is placement state (R286). -/
def vrdWrite (s : State) (src : AccSrc) (o : Nat) (v : Word) : State :=
  if o < 0x70400 ∧ (regAt o).isSome then s.placeTouch src o [(o - 0x70000) / 256] fun s => s.storeReg src o v
  else s.storeReg src o v

/-- A write below the Terrace windows. An offset without a register drops it (R10). -/
def State.blockWrite (s : State) (src : AccSrc) (o : Nat) (v : Word) (env : WriteEnv) : State :=
  if s.job.running && jobLocked o && (regAt o).isSome then s.violate src o true 1
  else if o < 0x10000 then (if (regAt o).isSome then hubWrite s src o v env else s)
  else if o < 0x20000 then (if (regAt o).isSome then strWrite s src o v else s)
  else if 0x21000 ≤ o ∧ o < 0x23000 then (if (o - 0x21000) % 0x800 < 0x400 then s.setReg o v else s)
  else if o < 0x30000 then (if (regAt o).isSome then ingWrite s src o v env else s)
  else if o < 0x40000 then (if (regAt o).isSome then pwrWrite s src o v env else s)
  else if o < 0x50000 then (if (regAt o).isSome || (s.windowView o).isSome then secWrite s src o v env else s)
  else if o < 0x60000 then (if (regAt o).isSome then trlWrite s src o v env else s)
  else if o < 0x70000 then (if (regAt o).isSome then hrmWrite s src o v else s)
  else if (regAt o).isSome then vrdWrite s src o v
  else s

/-- A write of a tile's register (R44, R472). -/
def State.tileWrite (s : State) (src : AccSrc) (r : TileRef) (o a : Nat) (v : Word) : State :=
  if a = 0 then
    (let vs := changedV 1 (s.reg o) v
     if vs.isEmpty then s else s.placeTouch src o vs fun s => s.storeReg src o v)
  else if 0x18 ≤ a ∧ a < 0x28 then s.placeTouch src o [(a - 0x18) / 4] fun s => s.storeReg src o v
  else if kindOf r.k = .mm ∧ a = 0x44 then s.caskDescWrite src o (s.selCask r) 0 v
  else if kindOf r.k = .mm ∧ a = 0x48 then s.caskDescWrite src o (s.selCask r) 1 v
  else s.storeReg src o v

/-- A write of an aligned word that no access rule bars. -/
def State.writeReg (s : State) (src : AccSrc) (o : Nat) (v : Word) (env : WriteEnv) : State :=
  match s.indOf o with
  | some x => s.indWrite src o x v
  | none =>
    match placeOf o with
    | .hub => s.blockWrite src o v env
    | .tile t row k a =>
      if (regAt o).isSome then s.tileWrite src ⟨Fin.ofNat 4 t, Fin.ofNat 9 row, Fin.ofNat 30 k⟩ o a v else s
    | .point _ a =>
      if a = 0 then
        (let vs := changedV 8 (s.reg o) v
         if vs.isEmpty then s else s.placeTouch src o vs fun s => s.storeReg src o v)
      else if (regAt o).isSome then s.storeReg src o v else s
    | .io _ _ a =>
      if 0x18 ≤ a ∧ a < 0x28 then s.placeTouch src o [(a - 0x18) / 4] fun s => s.storeReg src o v
      else if (regAt o).isSome then s.storeReg src o v else s
    | .ter _ a =>
      if (0x10 ≤ a ∧ a < 0x20) ∨ (0xA0 ≤ a ∧ a < 0xB0) then s.placeTouch src o [a % 16 / 4] fun s => s.storeReg src o v
      else if (regAt o).isSome then s.storeReg src o v else s
    | .lc _ _ _ => if (regAt o).isSome then s.storeReg src o v else s
    | _ => s

/-- A write of the register space from a source: a reset in progress takes none; a violation is dropped and logged (R314, R316).
(DESIGN CHOICE, log 120) -/
def State.regWrite (s : State) (src : AccSrc) (o : Nat) (v : Word) (env : WriteEnv) : State :=
  if 0 < s.rstRank then s
  else if o % 4 ≠ 0 then s.violate src o true 3
  else match s.barred src o with
    | some r => s.violate src o true r
    | none => s.writeReg src o v env

end Sys2Proof.Machine
end

