-- ==== Sys2Proof/Machine/Access.lean ====
section
/-!
DEFINITION. Machine/Access.lean: accesses through BAR0, BAR2 and BAR4 (11.2, 11.3) and every row that is a write of one register.
-/
namespace Sys2Proof.Machine

/-- What a write outside the rows that carry it finds: the time as last known, no crossing that fails. -/
def State.plainEnv (s : State) : WriteEnv := { now := s.trl.time, failed := [], root := 0 }
/-- A host write of a register by BAR0. -/
def State.hostWrite (s : State) (o : Nat) (v : Word) : State := s.regWrite .bar0 o v s.plainEnv
/-- Answer the last host read. -/
def State.respond (s : State) (r : Resp) : State := s.mapCp fun c => { c with resp := r }

/-! ## BAR4 (Table 11.4, R318) -/

/-- Does a BAR4 offset name a word of the MSI-X table? -/
def inMsix (o : Nat) : Bool := decide (msixTab ≤ o) && decide (o < 0x8200) && o % 4 == 0
/-- The host's end of a ring: the producer index of ring 0, the consumer index of the others. -/
def hostEnd (r : Nat) : Nat := if r = 0 then R.PCI_RING_PROD 0 else R.PCI_RING_CONS r
/-- The furthest value a doorbell may carry: cons + size for ring 0, prod for the others. -/
def State.bellLimit (s : State) (r : Nat) : Word :=
  if r = 0 then s.reg (R.PCI_RING_CONS 0) + wordN (2 ^ s.fget (F.PCI_RING_CFG_log2size 0)) else s.reg (R.PCI_RING_PROD r)
/-- Is a doorbell valid (R318)? -/
def State.bellOk (s : State) (r : Nat) (v : Word) : Bool :=
  s.ringOn r && decide ((v - s.reg (hostEnd r)).toNat ≤ (s.bellLimit r - s.reg (hostEnd r)).toNat)
/-- Does a BAR4 offset name a doorbell? -/
def isBell (o : Nat) : Bool := decide (o < 0x14) && o % 4 == 0

/-- A 32-bit write of BAR4 (R318): a valid doorbell moves the host's end, and the processor reads the new entries of ring 0, `read` being
those it has read from host memory. -/
def bar4Write (s : State) (o : Nat) (v : Word) (read : List Cmd) : State :=
  if 0 < s.rstRank then s
  else if isBell o then
    let r := o / 4
    if s.bellOk r v then
      let s := s.setReg (hostEnd r) v
      if r = 0 then (s.mapCp fun c => { c with cmds := c.cmds ++ read.take (s.ringHeld 0 - c.cmds.length) }).pump else s
    else s.violate .bar4 o true 6
  else if inMsix o then (s.setBar4 o v).unpend
  else if o = 0x9000 then s
  else s.violate .bar4 o true 0
/-- A 32-bit read of BAR4: a doorbell gives the host's end; the pending-bit array shows the vectors pending under a mask.
(PRESUMED, log 113) -/
def bar4Read (s : State) (o : Nat) : State :=
  if 0 < s.rstRank then s
  else if isBell o then s.respond (.value (s.reg (hostEnd (o / 4))).toNat)
  else if inMsix o then s.respond (.value (s.bar4Word o).toNat)
  else if o = 0x9000 then s.respond (.value (if s.pci.msixEn then s.pci.pend else 0))
  else (s.violate .bar4 o false 0).readAbort .bar4

/-- DOORBELL. -/
def execDoorbell (off : Nat) (v : Word) (read : List Cmd) (s : State) : Host.Outcome State Fault Refusal := .next (bar4Write s off v read)

/-! ## Register accesses (R5–R10, R314, R473) -/

/-! ## The configuration space (Tables 11.1, 11.2) -/

/-- Memory sizes of the BARs: 1 MiB, 16 MiB, 64 KiB. -/
def barSize (i : Nat) : Nat := nth 0 [2 ^ 20, 2 ^ 24, 2 ^ 16] i
/-- Low bits of the BARs: 64-bit memory, with bit 3 for prefetchable. -/
def barType (i : Nat) : Nat := nth 0 [4, 12, 4] i
/-- A word of the configuration space: the values of Tables 11.1 and 11.2 in the layout of PCI Express. Words that those tables give no value
read 0.
(PRESUMED, log 173) -/
def State.configWord (s : State) (o : Nat) : Nat :=
  let p := s.pci
  let bar (i : Nat) : Nat := nth 0 p.bars i
  match o with
  | 0x00 => 0x1F4E + 2 ^ 16 * 0x6400
  | 0x04 => 0x00100000
  | 0x08 => s.fuse.stepping + 2 ^ 8 * 0x120000
  | 0x10 => bar 0 % 2 ^ 32 + barType 0
  | 0x14 => bar 0 / 2 ^ 32
  | 0x18 => bar 1 % 2 ^ 32 + barType 1
  | 0x1C => bar 1 / 2 ^ 32
  | 0x20 => bar 2 % 2 ^ 32 + barType 2
  | 0x24 => bar 2 / 2 ^ 32
  | 0x2C => p.subsys
  | 0x34 => 0x40
  | 0x40 => 0x5001 + 2 ^ 16 * 3
  | 0x44 => 8 + (if p.d3 then 3 else 0)
  | 0x50 => 0x7005 + 2 ^ 16 * (0x18A + b2n p.msiEn + 16 * p.msiLog2)
  | 0x54 => p.msiAddr % 2 ^ 32
  | 0x58 => p.msiAddr / 2 ^ 32
  | 0x5C => p.msiData
  | 0x60 => p.msiMask
  | 0x64 => if p.msixEn then 0 else p.pend
  | 0x70 => 0xB010 + 2 ^ 16 * 2
  | 0x74 => 0x10000001
  | 0x78 => 32 * (p.mps / 256) + 2 ^ 12 * (if p.mrrs ≤ 128 then 0 else if p.mrrs ≤ 256 then 1 else if p.mrrs ≤ 512 then 2 else if p.mrrs ≤ 1024 then 3
      else if p.mrrs ≤ 2048 then 4 else 5)
  | 0x7C => 0xC12
  | 0x80 => p.aspm
  | 0xB0 => 0x0011 + 2 ^ 16 * (31 + 2 ^ 14 * b2n p.msixMask + 2 ^ 15 * b2n p.msixEn)
  | 0xB4 => 0x8004
  | 0xB8 => 0x9004
  | 0x100 => 0x14010001
  | 0x104 => p.aer
  | 0x140 => 0x00010003
  | 0x144 => s.fuse.serial % 2 ^ 32
  | 0x148 => s.fuse.serial / 2 ^ 32 % 2 ^ 32
  | _ => 0

/-- A read from a source. A read of the configuration space has no side effect; until the release it is answered with Configuration Request
Retry Status (R422). -/
def readFrom (s : State) (src : AccSrc) (o : Nat) : State :=
  if src = .config then s.respond (if s.sec.released then .value (s.configWord (o % 4096 / 4 * 4)) else .retry)
  else if src = .bar4 then bar4Read s o
  else if o % 4 ≠ 0 then (if 0 < s.rstRank then s else (s.violate src o false 3).readAbort src)
  else s.regRead src o

/-- REGISTER_WRITE: until the release no configuration request writes (R422). -/
def registerWriteEff (s : State) (w : RegWrite) (env : WriteEnv) : State :=
  if !s.sec.released && (match w with | .word _ _ _ => false | .msixTable _ _ => false | _ => true) then s.respond .retry
  else match w with
  | .word src o v => if src = .config then s else s.regWrite src o v env
  | .msixTable o v => bar4Write s o v []
  | .msi en n addr data mask =>
    ({ s with pci := { s.pci with msiEn := en, msiLog2 := n, msiAddr := addr % 2 ^ 64, msiData := data % 2 ^ 16, msiMask := mask % 2 ^ 32 } }).unpend
  | .msix en mask => ({ s with pci := { s.pci with msixEn := en, msixMask := mask } }).unpend
  | .link mps mrrs aspm => { s with pci := { s.pci with mps := mps, mrrs := mrrs, aspm := aspm } }
  | .bar i base => { s with pci := { s.pci with bars := setNth s.pci.bars i (base % 2 ^ 64 / barSize i * barSize i) } }
  | .aer clear => { s with pci := { s.pci with aer := Nat.land s.pci.aer (Nat.xor (2 ^ 32 - 1) (clear % 2 ^ 32)) } }
/-- REGISTER_WRITE. -/
def execRegisterWrite (w : RegWrite) (env : WriteEnv) (s : State) : Host.Outcome State Fault Refusal := .next (registerWriteEff s w env)
/-- LOW_WORD_READ. -/
def execLowWordRead (src : AccSrc) (off : Nat) (s : State) : Host.Outcome State Fault Refusal := .next (readFrom s src off)
/-- RC_FIELD_READ. -/
def execRcFieldRead (src : AccSrc) (off : Nat) (s : State) : Host.Outcome State Fault Refusal := .next (readFrom s src off)
/-- INDIRECT_DATA_ACCESS: a write or a read of a data register. -/
def execIndirectDataAccess (src : AccSrc) (off : Nat) (wr : Option Word) (s : State) : Host.Outcome State Fault Refusal :=
  .next (match wr with
    | some v => s.regWrite src off v s.plainEnv
    | none => readFrom s src off)

/-- BAR0_INVALID_ACCESS (R314): unaligned or of another width, or where nothing is mapped. -/
def bar0InvalidEff (s : State) (write : Bool) (off len : Nat) : State :=
  let bad (r : Nat) : State :=
    let s := s.violate .bar0 off write r
    if write then s else s.readAbort .bar0
  if 0 < s.rstRank then s
  else if len ≠ 4 ∨ off % 4 ≠ 0 then bad 3
  else match s.barred .bar0 off with
    | some r => bad r
    | none => s
/-- BAR0_INVALID_ACCESS. -/
def execBar0InvalidAccess (write : Bool) (off len : Nat) (s : State) : Host.Outcome State Fault Refusal :=
  .next (bar0InvalidEff s write off len)

/-! ## BAR2 (R315) -/

/-- Write the enabled bytes of codeword `a` (R315, R439). -/
def maskCw (s : State) (a : Nat) (m : List (Option Byte)) : State :=
  if m.all Option.isNone then s
  else if m.length = 8 ∧ m.all Option.isSome then writeCw s a 0 (m.filterMap id) false
  else
    let (old, p, s) := readCw s a
    let new := (List.range 8).map fun i => (nth none m i).getD (nth 0 old i)
    ((s.putBytes a new).setPoison a p).setUpset a 0
/-- Write enabled bytes over successive codewords. -/
def maskCws (s : State) : Nat → Nat → List (Option Byte) → State
  | 0, _, _ => s
  | n + 1, a, m => if m.isEmpty then s else maskCws (maskCw s a (m.take 8)) n (a + 8) (m.drop 8)
/-- First and last byte of the flat-field tables of a bank of camera `c` (R263). -/
def ffBank (c k : Nat) : Nat × Nat := (ffAddr c k 0 0, ffAddr c k 0 0 + 0x1FFFF)
/-- Does a write meet tables of the bank in use by a job (R266)? -/
def State.ffInUse (s : State) (a n : Nat) : Bool :=
  s.job.running && s.ing.ffBand.isSome && (List.range 4).any fun c =>
    let (lo, hi) := ffBank c (s.fget F.FFC_CTRL_bank_active)
    rangesMeet a (a + n - 1) lo hi
/-- Is a BAR2 range inside the open window, and outside a job anywhere in it, in a job in region 6 or the flat-field tables? -/
def State.bar2Ok (s : State) (a n : Nat) : Bool :=
  let lo := s.fget F.PCI_BAR2_WIN_base * 65536
  s.fbit F.PCI_BAR2_WIN_en && decide (lo ≤ a) && decide (a + n ≤ lo + s.fget F.PCI_BAR2_WIN_size * 65536) && decide (a + n ≤ 0x1000000) &&
    (!s.job.running || s.inRegion 6 a n || decide (0xF00000 ≤ a))

/-- BAR2_ACCESS: bit errors strike first; an access without bytes does nothing.
(DEDUCED, log 133) -/
def bar2Eff (s : State) (off len : Nat) (wr : Option (List (Option Byte))) (hits : List Upset) : State :=
  let bad (s : State) (r : Nat) : State :=
    match wr with
    | some _ => s.violate .bar2 off true r
    | none => (s.violate .bar2 off false r).readAbort .bar2
  let s := s.strike hits
  if 0 < s.rstRank || len == 0 then s
  else if s.pwr.park then bad s 0
  else if !s.bar2Ok off len then bad s 4
  else match wr with
    | some m =>
      if s.ffInUse off len then bad s 1
      else
        let m := List.replicate (off % 8) none ++ m.take len
        maskCws s (m.length / 8 + 1) (off / 8 * 8) m
    | none =>
      let (bs, p, s) := readChip s off len
      (if p then s.note 0x0106 else s).respond (.bytes bs p)
/-- BAR2_ACCESS. -/
def execBar2Access (off len : Nat) (wr : Option (List (Option Byte))) (hits : List Upset) (s : State) :
    Host.Outcome State Fault Refusal := .next (bar2Eff s off len wr hits)

/-! ## Rows that are a host write of one register -/

/-- RING_ENABLE: a write of PCI.RINGr_CFG. -/
def execRingEnable (r : Fin 5) (v : Word) (s : State) : Host.Outcome State Fault Refusal := .next (s.hostWrite (R.PCI_RING_CFG r) v)
/-- IRQ_MASK_WRITE. -/
def execIrqMaskWrite (v : Word) (s : State) : Host.Outcome State Fault Refusal := .next (s.hostWrite R.HUB_IRQ_MASK v)
/-- STREAM_GO: go of a host channel. -/
def execStreamGo (n : Fin 8) (s : State) : Host.Outcome State Fault Refusal := .next (s.hostWrite (R.STR_CH_CTRL (8 + n)) 1)
/-- STREAM_STOP: stop of a host channel. -/
def execStreamStop (n : Fin 8) (s : State) : Host.Outcome State Fault Refusal := .next (s.hostWrite (R.STR_CH_CTRL (8 + n)) 2)
/-- MAILBOX_SEND: a write of ING.MBX_CTRLc with go = 1. -/
def execMailboxSend (c : Fin 4) (v : Word) (s : State) : Host.Outcome State Fault Refusal :=
  .next (s.hostWrite (R.ING_MBX_CTRL c) (v ||| 0x400))
/-- TRIGGER_SOFTWARE: a write of STP.TRG_CFGk at time `now`. -/
def execTriggerSoftware (k : Fin 8) (v : Word) (now : Nat) (s : State) : Host.Outcome State Fault Refusal :=
  .next (s.regWrite .bar0 (R.STP_TRG_CFG k) v { now := now, failed := [], root := 0 })
/-- FORCE_FAIL: force_fail of a HyperRAM channel. -/
def execForceFail (c : Fin 4) (s : State) : Host.Outcome State Fault Refusal := .next (s.hostWrite (R.HRM_CH_STATUS c) 0x100)
/-- BSTORE_WRITE. -/
def execBstoreWrite (v : Word) (s : State) : Host.Outcome State Fault Refusal := .next (s.hostWrite R.HRM_BSTORE v)
/-- CROP_STORE_WRITE: HRM.CROP_BASE, or with `size` HRM.CROP_SIZE. -/
def execCropStoreWrite (size : Bool) (v : Word) (s : State) : Host.Outcome State Fault Refusal :=
  .next (s.hostWrite (if size then R.HRM_CROP_SIZE else R.HRM_CROP_BASE) v)
/-- FREQ_WRITE. -/
def execFreqWrite (v : Word) (s : State) : Host.Outcome State Fault Refusal := .next (s.hostWrite R.PWR_FREQ v)
/-- LOAM_WRITE. -/
def execLoamWrite (v : Word) (s : State) : Host.Outcome State Fault Refusal := .next (s.hostWrite R.PWR_LOAM v)
/-- WAKE: PWR.STATE.wake. -/
def execWake (failed : List (Fin 4 × Fin 8)) (s : State) : Host.Outcome State Fault Refusal :=
  .next (s.regWrite .bar0 R.PWR_STATE 4 { now := s.trl.time, failed := failed, root := 0 })
/-- PROBE_ARM: a write of HUB.PRB_CTRL with arm = 1. -/
def execProbeArm (v : Word) (s : State) : Host.Outcome State Fault Refusal := .next (s.hostWrite R.HUB_PRB_CTRL (v ||| 1))
/-- PROBE_FORCE: a write of HUB.PRB_CTRL with force = 1. -/
def execProbeForce (v : Word) (s : State) : Host.Outcome State Fault Refusal := .next (s.hostWrite R.HUB_PRB_CTRL (v ||| 2))
/-- LIFE_CYCLE_TRANSITION: a write of SEC.LC_CTRL. -/
def execLifeCycleTransition (v : Word) (failed : List (Fin 4 × Fin 8)) (s : State) : Host.Outcome State Fault Refusal :=
  .next (s.regWrite .bar0 R.SEC_LC_CTRL v { now := s.trl.time, failed := failed, root := 0 })
/-- SVN_UP: SEC.LC_CTRL.svn_up. -/
def execSvnUp (s : State) : Host.Outcome State Fault Refusal := .next (s.hostWrite R.SEC_LC_CTRL 4)
/-- KEY_PROGRAM: a write of slot, dbg and prog = 1 in SEC.KEY_CTRL. -/
def execKeyProgram (v : Word) (s : State) : Host.Outcome State Fault Refusal :=
  .next (s.hostWrite R.SEC_KEY_CTRL ((v &&& 0xF) ||| 0x10))
/-- KEY_REVOKE: a write of slot and revoke = 1 in SEC.KEY_CTRL. -/
def execKeyRevoke (v : Word) (s : State) : Host.Outcome State Fault Refusal :=
  .next (s.hostWrite R.SEC_KEY_CTRL ((v &&& 0xF) ||| 0x20))
/-- FLASH_READ_PAGE: SEC.FL_CTRL.op = 1. -/
def execFlashReadPage (s : State) : Host.Outcome State Fault Refusal := .next (s.hostWrite R.SEC_FL_CTRL 1)
/-- FLASH_PROGRAM_PAGE: op = 2. -/
def execFlashProgramPage (s : State) : Host.Outcome State Fault Refusal := .next (s.hostWrite R.SEC_FL_CTRL 2)
/-- FLASH_ERASE: op = 3. -/
def execFlashErase (s : State) : Host.Outcome State Fault Refusal := .next (s.hostWrite R.SEC_FL_CTRL 3)
/-- DEBUG_CHALLENGE: a write of SEC.DBG_CTRL with a scope and chal = 1. -/
def execDebugChallenge (v : Word) (s : State) : Host.Outcome State Fault Refusal :=
  .next (s.hostWrite R.SEC_DBG_CTRL ((v &&& 0xF) ||| 0x10))
/-- DEBUG_SUBMIT: SEC.DBG_CTRL.submit, with the scope as it stands. -/
def execDebugSubmit (s : State) : Host.Outcome State Fault Refusal :=
  .next (s.hostWrite R.SEC_DBG_CTRL ((s.reg R.SEC_DBG_CTRL &&& 0xF) ||| 0x20))
/-- SYNC: TRL.CTRL.sync. -/
def execSync (s : State) : Host.Outcome State Fault Refusal := .next (s.hostWrite R.TRL_CTRL 1)
/-- CALIBRATION: TRL.CTRL.cal at time `now`, in 0.5 ns. -/
def execCalibration (now : Nat) (s : State) : Host.Outcome State Fault Refusal :=
  .next (s.regWrite .bar0 R.TRL_CTRL 2 { now := now, failed := [], root := 0 })
/-- SYS_RESET: TRL.CTRL.sys_reset. -/
def execSysReset (s : State) : Host.Outcome State Fault Refusal := .next (s.hostWrite R.TRL_CTRL 4)
/-- TRELLIS_BRING_UP: a write of TRL.CFG with en = 1; `root` is the number of the board's root. -/
def execTrellisBringUp (v : Word) (root : Fin 64) (s : State) : Host.Outcome State Fault Refusal :=
  .next (s.regWrite .bar0 R.TRL_CFG (v ||| 0x20000) { now := s.trl.time, failed := [], root := root })
/-- TRELLIS_RETIRE: a write of TRL.RETIRE with go = 1. -/
def execTrellisRetire (v : Word) (s : State) : Host.Outcome State Fault Refusal := .next (s.hostWrite R.TRL_RETIRE (v ||| 2))

end Sys2Proof.Machine
end

