-- ==== Sys2Proof/Machine/Stream.lean ====
section
/-!
DEFINITION. Machine/Stream.lean: what the Stream engine's channels do (10 R299–R307): bursts, completions of host reads, halts, ends of
descriptors; the transfers of channels 0–7; accepted HyperRAM writes; the device's rings (11 R319, R320, R323).
-/
namespace Sys2Proof.Machine

/-! ## Bytes of a burst -/

/-- Source byte of destination byte `t` of a run (R300). -/
def unshuffle (d : DescW) (run t : Nat) : Nat :=
  match dC d 20 2 with
  | 2 => let e := 2 ^ dC d 22 3; (t % e) * (run / e) + t / e
  | _ => t
/-- Is a descriptor's shuffle the bit-plane split? -/
def isSplit (d : DescW) : Bool := dC d 20 2 == 1
/-- Source bytes, as offsets in the run, from which destination byte `t` of a bit-plane split is built: byte `(run / 8)·b + j` takes bit b
of source bytes 8j to 8j + 7. -/
def splitSrc (run t : Nat) : List Nat := (List.range 8).map fun i => 8 * (t % (run / 8)) + i
/-- Destination byte `t` of a bit-plane split from its eight source bytes. -/
def splitByte (run t : Nat) (bs : List Byte) : Byte :=
  BitVec.ofNat 8 (packI 1 (bs.map fun b => if b.getLsbD (t / (run / 8)) then 1 else 0))

/-- Source addresses that a burst of `k` destination bytes from byte `off` of its run needs, in destination order. -/
def burstSrcs (d : DescW) (run sa off k : Nat) : List Nat :=
  if isSplit d then (List.range k).flatMap fun i => (splitSrc run (off + i)).map fun t => (sa + t) % 2 ^ 40
  else (List.range k).map fun i => (sa + unshuffle d run (off + i)) % 2 ^ 40
/-- Group eight elements at a time. -/
def eights {α : Type} : Nat → List α → List (List α)
  | 0, _ => []
  | n + 1, xs => if xs.isEmpty then [] else xs.take 8 :: eights n (xs.drop 8)
/-- The destination bytes of a burst, with their poison, from the bytes of its sources. -/
def burstBytes (d : DescW) (run off : Nat) (xs : List (Byte × Bool)) : List (Byte × Bool) :=
  if isSplit d then
    let gs := eights xs.length xs
    (List.range gs.length).map fun i =>
      let g := nth [] gs i
      (splitByte run (off + i) (g.map (·.1)), g.any (·.2))
  else xs

/-- Keep the first of equal elements. -/
def distinct : List Nat → List Nat
  | xs => xs.foldl (fun acc x => if acc.contains x then acc else acc ++ [x]) []
/-- First byte of the codeword, block or register a source byte lies in. -/
def unitOf (a : Nat) : Nat := if inHyper a then a / 32 * 32 else if isRegs a then a / 4 * 4 else a / 8 * 8
/-- Read the units of a burst, each once. -/
def readUnits (s : State) : List Nat → List (Nat × List Byte × Bool) × State
  | [] => ([], s)
  | u :: us =>
    let (bs, p, s) :=
      if inHyper u then readBlock s u 0
      else if isRegs u then (let (w, s) := s.readReg (u - 0x800000000); (bytesOf 4 w.toNat, false, s))
      else readCw s u
    let (rest, s) := readUnits s us
    ((u, bs, p) :: rest, s)
/-- A byte out of units; its poison is that of the 32-byte granule (R307). -/
def pickByte (us : List (Nat × List Byte × Bool)) (a : Nat) : Byte × Bool :=
  let b := ((us.find? fun u => u.1 == unitOf a).map fun u => nth 0 u.2.1 (a - u.1)).getD 0
  (b, us.any fun u => u.2.2 && u.1 / 32 == a / 32)

/-- A HyperRAM channel runs its transactions in order: the writes issued to the blocks' channels come before a read (R344).
(DEDUCED, log 127) -/
def State.readOrder (s : State) (us : List Nat) : State := (us.filter inHyper).foldl (fun s u => s.inOrder u 32) s

/-- May a Stream-engine read of these bytes proceed (R36)? Registers are read by whole words (R5).
(DEDUCED, log 122) -/
def State.srcsOk (s : State) (as : List Nat) : Bool :=
  as.all fun a => if isRegs a then (s.barred .stream (a - 0x800000000 - a % 4)).isNone && as.length % 4 == 0 && (as.head?.getD 0) % 4 == 0
    else s.addrOk a
/-- A burst at a register that is barred, or not of whole words, is a violation too (R314).
(DEDUCED, log 122) -/
def State.regViol (s : State) (a : Nat) (write : Bool) (n : Nat) : State :=
  if !isRegs a then s
  else if a % 4 ≠ 0 ∨ n % 4 ≠ 0 then s.violate .stream a write 3
  else match s.barred .stream (a - 0x800000000) with
    | some r => s.violate .stream a write r
    | none => s

/-! ## Limits and readiness (R301, R302) -/

/-- The most bytes of a burst on one side.
(DEDUCED, log 121) -/
def sideLimit (s : State) (a : Nat) (dst : Bool) : Nat :=
  if isHost a then (if dst then s.tlpMax else Nat.min 512 s.pci.mrrs)
  else if inHyper a then 128
  else if isRemote a then 256 - a % 32
  else if isRegs a then 4
  else 256
/-- Bytes of a burst on one side from address `a`: no more than its limit, and none beyond a multiple of 4 GiB, where a range of Table 1.5
may end and where addresses wrap (R299). -/
def sideBytes (s : State) (a : Nat) (dst : Bool) : Nat := Nat.min (sideLimit s a dst) (2 ^ 32 - a % 2 ^ 32)
/-- Bytes of the next burst of a channel: as many as its run and the limits of both sides allow; a byte of a bit-plane split has eight
source bytes.
(DEDUCED, log 121) -/
def State.burstLen (s : State) (d : DescW) (w : Walk) : Nat :=
  let (sa, da) := runAt d w
  let sa := if dC d 20 2 = 0 then (sa + w.off) % 2 ^ 40 else sa
  let ks := if isSplit d then sideBytes s sa false / 8 else sideBytes s sa false
  Nat.max 1 (Nat.min (s.runLen d w - w.off) (Nat.min ks (sideBytes s ((da + w.off) % 2 ^ 40) true)))
/-- Read tags in use. -/
def State.readTags (s : State) : Nat := (s.str.chans.map fun c => c.reads.length).foldl (· + ·) 0
/-- Is a write tag of the HyperRAM channel of `a` free? -/
def State.writeTag (s : State) (a : Nat) : Bool :=
  !inHyper a ||
    decide ((s.str.writes.filter fun w => s.chanOf (w.addr - hyperBase) == s.chanOf (a - hyperBase)).length < 16)
/-- Does a ring-mode channel wait at its slot (R299)?
(DEDUCED, log 123) -/
def State.ringWait (s : State) (n : Nat) (d : DescW) (w : Walk) : Bool :=
  dC d 0 2 == 2 &&
    (let pos := (w.slot0 + w.i2) % 256
     if dBit d 19 then pos == s.fget (F.STR_CH_RING_head n)
     else w.i0 == 0 && w.off == 0 && (pos + 256 - s.fget (F.STR_CH_RING_tail n)) % 256 == dF d 8 2 + 1)
/-- The class of a channel's bursts: 0 read, 1 write, 2 remote (R301). -/
def burstClass (d : DescW) (w : Walk) : Nat :=
  let da := (runAt d w).2
  if isRemote da then 2 else if isHost da || inHyper da then 1 else 0
/-- May a host channel issue its next burst? Accesses to a HyperRAM channel that initialises wait (R349). -/
def State.burstReady (s : State) (n : Nat) : Bool :=
  let c := s.chan n
  match c.active with
  | none => false
  | some d =>
    let (sa, da) := runAt d c.walk
    let a := (da + c.walk.off) % 2 ^ 40
    let k := s.burstLen d c.walk
    !c.halted && !c.walk.done && c.fence.isEmpty && !((s.pace n d).chan n).paused && !s.ringWait n d c.walk && !s.waitsInit a k &&
      !s.waitsInit sa (s.runLen d c.walk) &&
      (if (burstSrcs d (s.runLen d c.walk) sa c.walk.off k).any isHost then decide (s.readTags < 32) else s.writeTag a && c.reads.isEmpty)

/-- The burst that channel 6 would write of a captured snapshot (R375): its address and bytes; the first waits for the writes a FENCE in hand
marks (R303). -/
def State.snapNext (s : State) : Option (Nat × List (Byte × Bool)) :=
  match s.cp.snap with
  | some q =>
    match q.block with
    | some blk =>
      let m := (s.chan 6).moved
      let bs := (blk.drop m).take 128
      let fenced := decide (m = 0) &&
        (match s.str.fenceTo with | some n => s.str.writes.any fun w => decide (w.no < n) | none => false)
      if bs.isEmpty || fenced || !s.writeTag (q.dst + m) || s.waitsInit (q.dst + m) bs.length then none else some (q.dst + m, bs)
    | none => none
  | none => none
/-- The defect record that ring 3 can take: the oldest, once its crop has been cut or reported absent. -/
def State.defectNext (s : State) : Option (RecSt × List RecSt) :=
  match s.vrd.dq with
  | [] => none
  | x :: xs => if s.ringFree 3 && !(s.vrd.reqs.any fun q => q.seq == x.seq) then some (x, xs) else none
/-- The crop that channel 3 can move a burst of now, with the place it goes to (R302, R349); with none it is dropped. -/
def State.cropNext (s : State) : Option (CropSt × Option (Nat × Nat)) :=
  match s.cropOut with
  | none => none
  | some c =>
    match s.cropPlace c with
    | none => some (c, none)
    | some (p, x) =>
      let a := s.cropAddr p c.bytes.length x
      if s.writeTag a && !s.waitsInit a 128 then some (c, some (p, x)) else none
/-- The burst of a waiting feature entry that channel 4 can write now: its address and bytes (R240, R302, R349). -/
def State.featNext (s : State) : Option (Nat × List Byte) :=
  match s.grf.wait with
  | [] => none
  | e :: _ =>
    let a := (s.featSlot (leAt e 0 4)).2 + s.grf.featSent
    let bs := (e.drop s.grf.featSent).take 128
    if s.pwr.deferBg || !s.writeTag a || s.waitsInit a bs.length then none else some (a, bs)
/-- Must the next chunk of the oldest crop wait for a channel that initialises (R349)? -/
def State.chunkWaits (s : State) : Bool :=
  match s.vrd.crops with
  | [] => false
  | c :: _ => c.pages.isSome && (s.cropHas c).any fun q => s.waitsInit (hyperBase + s.pageOff q) 4096
/-- The class in which a channel is ready to move a burst, if it is (R297, R301). What commands bring through channel 7 came with them. -/
def State.readyClass (s : State) (n : Nat) : Option Nat :=
  let is (b : Bool) (k : Nat) : Option Nat := if b then some k else none
  match n with
  | 0 => is (!s.vrd.vq.isEmpty && s.ringFree 2) 1
  | 1 => is s.defectNext.isSome 1
  | 2 => is (!s.vrd.crops.isEmpty && s.ringFree 4 && !s.chunkWaits) 1
  | 3 => is s.cropNext.isSome 1
  | 4 => is s.featNext.isSome 1
  | 5 => is ((s.msgNext 0).isSome || (s.msgNext 1).isSome) 2
  | 6 => is s.snapNext.isSome 1
  | 7 => none
  | _ =>
    match (s.chan n).active with
    | some d => is (s.burstReady n) (burstClass d (s.chan n).walk)
    | none => none
/-- The priority of a channel: R297 fixes those of channels 0–5 and leaves those of 6 and 7 open.
(DESIGN CHOICE, log 128) -/
def State.prioOf (s : State) (n : Nat) : Nat :=
  if n < 6 then nth 0 [3, 3, 1, 1, 0, 3] n
  else if n < 8 then Config.cmdPrio n % 4
  else match (s.chan n).active with | some d => dC d 6 2 | none => 0
/-- Does another ready channel of the class go first: one of higher priority, or of the same priority that has waited for its turn longer
(R301)?
(DESIGN CHOICE, log 128) -/
def State.outranked (s : State) (n k : Nat) : Bool :=
  (List.range 16).any fun m =>
    m != n && s.readyClass m == some k &&
      (decide (s.prioOf n < s.prioOf m) || (s.prioOf m == s.prioOf n && decide (nth 0 s.str.served m < nth 0 s.str.served n)))
/-- A channel has had its turn. -/
def State.serve (s : State) (n : Nat) : State :=
  s.mapStr fun x => { x with turn := x.turn + 1, served := setNth x.served n (x.turn + 1) }

/-! ## Halts (R306) -/

/-- Record where a channel stands: loop indices and the offset in the run.
(DEDUCED, log 124) -/
def State.setRes (s : State) (n : Nat) (w : Walk) (off : Nat) : State :=
  (s.setReg (R.STR_CH_RES0 n) (wordN (w.i0 + 2 ^ 16 * w.i1))).setReg (R.STR_CH_RES1 n) (wordN (w.i2 + 2 ^ 16 * off))
/-- A channel halts at a burst: later data is discarded, shadow and chain are kept. -/
def State.haltChan (s : State) (n : Nat) (w : Walk) (code : Nat) : State :=
  let c := s.chan n
  ((s.setChan n { c with halted := true, reads := [], walk := w }).setRes n w w.off).strErr n code

/-! ## Writing a burst -/

/-- Cut bytes at 32-byte boundaries of their destination. -/
def granules : Nat → Nat → List (Byte × Bool) → List (Nat × List Byte × Bool)
  | 0, _, _ => []
  | n + 1, a, xs =>
    if xs.isEmpty then []
    else
      let k := 32 - a % 32
      (a, (xs.take k).map (·.1), (xs.take k).any (·.2)) :: granules n (a + k) (xs.drop k)
/-- Queue a HyperRAM write of a channel (R344). -/
def State.queueWrite (s : State) (n a : Nat) (bs : List Byte) (poison : Bool) : State :=
  let no := s.str.nextWrite
  let s := s.mapStr fun x => { x with writes := x.writes ++ [⟨no, n, a, bs, poison⟩], nextWrite := no + 1 }
  let c := s.chan n
  s.setChan n { c with waitAll := c.waitAll ++ [no] }
/-- Queue a HyperRAM write whose granules keep their poison (R307). -/
def State.putHyper (s : State) (n a : Nat) (xs : List (Byte × Bool)) : State :=
  if xs.any (·.2) then (granules xs.length a xs).foldl (fun s g => s.queueWrite n g.1 g.2.1 g.2.2) s
  else s.queueWrite n a (xs.map (·.1)) false
/-- May a write of `k` bytes at `a` proceed: host memory, a device of the census, or memory outside the Blend store (R36, R343, R360)? -/
def State.dstOk (s : State) (a k : Nat) : Bool :=
  if isHost a then decide (a + k ≤ 2 ^ 40)
  else if isRemote a then
    (let dev := bitsN a 32 6
     decide (a % 2 ^ 32 + k ≤ 2 ^ 32) && (dev == s.trl.dev || (s.trl.seen.any fun x => x.1 == dev)))
  else if isRegs a then a % 4 == 0 && k == 4 && (s.barred .stream (a - 0x800000000)).isNone
  else s.spanOk a k && !s.hitsBstore a k
/-- A write that may not proceed: what else it raises.
(DEDUCED, log 122) -/
def State.dstViol (s : State) (a k : Nat) : State := if isRemote a then s.trlErr 0x0913 else s.regViol a true k

/-- A remote write (R360): to another device, or to every device when it names the sender. -/
def State.sendRemote (s : State) (a : Nat) (xs : List (Byte × Bool)) : State :=
  let gs := granules 10 a xs
  let mask := packI 1 (gs.map fun g => if g.2.2 then 1 else 0)
  let dev := bitsN a 32 6
  let m : TrlMsg := { kind := 1, dest := dev, origin := s.trl.dev, addr := a % 2 ^ 32, aux := (xs.length - 1) + 2 ^ 16 * mask,
                      data := xs.map (·.1) }
  if dev = s.trl.dev then (s.sendBoth m).remoteWrite (a % 2 ^ 32) mask (xs.map (·.1)) else s.sendMsg m

/-- Write a burst where it goes (R307): host memory takes zeros for poisoned granules; a write to the flat-field tables in use is dropped
(R266). -/
def State.putBurst (s : State) (n a : Nat) (xs : List (Byte × Bool)) : State :=
  if isHost a then s.post a (xs.map fun x => if x.2 then 0 else x.1)
  else if isRemote a then s.sendRemote a xs
  else if isRegs a then s.regWrite .stream (a - 0x800000000) (wordN (ofBytes (xs.map (·.1)))) s.plainEnv
  else if inHyper a then s.putHyper n a xs
  else if s.ffInUse a xs.length then s.violate .stream a true 1
  else (granules xs.length a xs).foldl (fun s g => writeChip s g.1 g.2.1 g.2.2) s

/-- The ring end a ring-mode channel moves when a slot is done (R299).
(DEDUCED, log 123) -/
def State.slotDone (s : State) (n : Nat) (d : DescW) (w : Walk) (k : Nat) : State :=
  let x := s.walkOn d w k
  if dC d 0 2 = 2 ∧ (x.done = true ∨ x.i2 ≠ w.i2) then
    if dBit d 19 then s.fset (F.STR_CH_RING_tail n) (s.fget (F.STR_CH_RING_tail n) + 1)
    else s.fset (F.STR_CH_RING_head n) (s.fget (F.STR_CH_RING_head n) + 1)
  else s
/-- Index of the first poisoned byte. -/
def firstBad : List (Byte × Bool) → Nat
  | [] => 0
  | x :: xs => if x.2 then 0 else 1 + firstBad xs

/-- A burst's data is written: `w` is its place, `a` its destination. -/
def State.deliverBurst (s : State) (n : Nat) (d : DescW) (w : Walk) (a : Nat) (xs : List (Byte × Bool)) : State :=
  let s := s.putBurst n a xs
  let s := s.setChan n { s.chan n with lastDst := a + xs.length - 1 }
  let s := if isHost a && xs.any (·.2) then (s.setRes n w (w.off + firstBad xs)).strErr n 0x0A14 else s
  (s.slotDone n d w xs.length).delivered n xs.length

/-! ## STREAM_BURST -/

/-- The unfenced HyperRAM read of a burst meets a write range of a descriptor armed earlier (R303). -/
def State.overlapCheck (s : State) (n : Nat) (d : DescW) (as : List Nat) : State :=
  let hs := as.filter inHyper
  match hs with
  | [] => s
  | h :: _ =>
    if dBit d 8 then s else s.readCheck n (s.chan n).order (hs.foldl Nat.min h) (maxN hs)

/-- The bytes of a burst from its sources in order: host memory gave `hs`, the others are read here. -/
def State.gather (s : State) (as : List Nat) (hs : List Byte) : List (Byte × Bool) × State :=
  let ints := as.filter fun a => !isHost a
  let us := distinct (ints.map unitOf)
  let (us, s) := readUnits (s.readOrder us) us
  let step (acc : List (Byte × Bool) × List Byte) (a : Nat) : List (Byte × Bool) × List Byte :=
    if isHost a then (acc.1 ++ [(nth 0 acc.2 0, false)], acc.2.drop 1) else (acc.1 ++ [pickByte us a], acc.2)
  ((as.foldl step ([], hs)).1, s)

/-- A host channel moves one burst, or asks host memory for it. With every burst done, a barrier asks for the final read of the word that
holds the last written byte (R304). -/
def hostBurst (s : State) (n : Nat) : State :=
  let c := s.chan n
  match c.active with
  | none => s
  | some d =>
    let s := s.pace n d
    let c' := s.chan n
    if c.walk.done && !c.halted then
      if dBit d 9 && isHost c.lastDst && c.barRead == 0 && c.reads.isEmpty && decide (s.readTags < 32) then
        s.setChan n { c' with barRead := 1, reads := [⟨[], c.lastDst / 4 * 4, 4, c.walk, true⟩] }
      else s
    else if !s.burstReady n || s.outranked n (burstClass d c.walk) then s
    else
      let s := s.serve n
      let k := s.burstLen d c.walk
      let (sa, da) := runAt d c.walk
      let run := s.runLen d c.walk
      let as := burstSrcs d run sa c.walk.off k
      let ints := as.filter fun a => !isHost a
      let a := (da + c.walk.off) % 2 ^ 40
      if !s.srcsOk ints then (s.regViol (ints.head?.getD 0) false ints.length).haltChan n c.walk 0x0A12
      else if ints.length < as.length then
        s.setChan n { c' with walk := s.walkOn d c.walk k, reads := c'.reads ++ [⟨as, a, k, c.walk, false⟩] }
      else if !s.dstOk a k then (s.dstViol a k).haltChan n c.walk 0x0A12
      else
        let (xs, s) := (s.overlapCheck n d as).gather as []
        let xs := burstBytes d run c.walk.off xs
        let s := s.setChan n { s.chan n with walk := s.walkOn d c.walk k }
        s.deliverBurst n d c.walk a xs

/-! ## The device's rings (R319, R320, R323) -/

/-- Ring 1: the oldest completion; a place in the queue frees and the processor goes on (R327). -/
def completionWrite (s : State) : State := if s.cp.comps.isEmpty || !s.ringFree 1 then s else s.compOut.pump

/-- Ring 2: the oldest verdict record. -/
def verdictWrite (s : State) : State :=
  match s.vrd.vq with
  | [] => s
  | x :: xs => if s.ringFree 2 then (s.mapVrd fun v => { v with vq := xs }).writeEntry 2 x.bytes [] false else s
/-- Ring 3: the oldest defect record, once its crop has been cut or reported absent. -/
def defectWrite (s : State) : State :=
  match s.defectNext with
  | some (x, xs) => (s.mapVrd fun v => { v with dq := xs }).writeEntry 3 x.bytes [] false
  | none => s

/-- Payload bytes of a crop chunk (Table 11.12). -/
def chunkMax : Nat := 4064
/-- The blocks of a stored crop from byte `x` on: a poisoned block is delivered as zeros; and the byte of the first that was (R307). -/
def cropBlocks (s : State) (p len : Nat) : Nat → Nat → List Byte × Option Nat × State
  | _, 0 => ([], none, s)
  | x, n + 1 =>
    let a := s.cropAddr p len x
    let (b, bad, s) := readBlock ((s.readCheck 2 s.str.nextOrder a (a + 31)).inOrder a 32) a 4
    let (bs, q, s) := cropBlocks s p len (x + 32) n
    ((if bad then List.replicate 32 0 else b) ++ bs, if bad then some x else q, s)
/-- The next payload of a crop, from region 4 or from the crop store. E-0A14 comes with the coordinates of the first poisoned granule: its
offset in the crop.
(DEDUCED, log 130) -/
def cropPiece (s : State) (c : CropSt) : List Byte × State :=
  match c.pages with
  | some (p, n) =>
    let k := Nat.min chunkMax (n - c.sent)
    let (bs, bad, s) := cropBlocks s p n c.sent (cdiv k 32)
    (bs.take k, match bad with | some x => (s.setRes 2 Walk.init (x % 65536)).strErr 2 0x0A14 | none => s)
  | none => ((c.bytes.drop c.sent).take chunkMax, s)
/-- Ring 4: the next chunk of the oldest crop (R294, R332, Table 11.12); a crop reported absent is one chunk without payload.
(DEDUCED, log 130) -/
def cropWrite (s : State) : State :=
  match s.vrd.crops with
  | [] => s
  | c :: cs =>
    if !s.ringFree 4 || s.chunkWaits then s
    else
      let total := match c.pages with | some (_, n) => n | none => c.bytes.length
      let (piece, s) := cropPiece s c
      let last := decide (total ≤ c.sent + piece.length)
      let flags := 2 * b2n (c.sent == 0) + 4 * b2n last + 8 * b2n (c.absent != 0)
      let head := bytesOf 1 0x12 ++ bytesOf 1 flags ++ bytesOf 2 piece.length ++ bytesOf 4 c.seq ++ bytesOf 4 c.sent ++ bytesOf 4 total ++
        bytesOf 2 c.absent ++ List.replicate 14 0
      let s := if last then (s.mapVrd fun v => { v with crops := cs }).cropStoreFree
        else s.mapVrd fun v => { v with crops := { c with sent := c.sent + piece.length } :: cs }
      s.writeEntry 4 head piece false

/-- DEVICE_RING_WRITE: one entry goes into a free slot. Ring 0 is the host's; in D3hot the function writes nothing.
(DESIGN CHOICE, log 157) -/
def deviceRingWriteEff (s : State) (r : Nat) : State :=
  if 0 < s.rstRank || s.pci.d3 then s
  else match r with
    | 1 => completionWrite s
    | 2 => verdictWrite s
    | 3 => defectWrite s
    | 4 => cropWrite s
    | _ => s
/-- DEVICE_RING_WRITE. -/
def execDeviceRingWrite (r : Fin 5) (s : State) : Host.Outcome State Fault Refusal := .next (deviceRingWriteEff s r)
/-- RING_IRQ_TIMER: time_us has passed since the first unsignalled entry. -/
def ringIrqTimerEff (s : State) (r : Nat) : State :=
  if 0 < r ∧ 0 < nth 0 s.cp.unsig r ∧ s.fget (F.PCI_RING_IRQ_time_us r) ≠ 0 then s.ringVec r else s
/-- RING_IRQ_TIMER.
(DESIGN CHOICE, log 162) -/
def execRingIrqTimer (r : Fin 5) (s : State) : Host.Outcome State Fault Refusal := .next (ringIrqTimerEff s r)

/-! ## Channels 0–7 (R297) -/

/-- A SNAPSHOT's transfer ends: it completes with the bytes written, or with a code. -/
def State.snapEnd (s : State) (q : BarrierSt) (code : Nat) : State :=
  let n := (s.chan 6).moved
  let s := (s.setChan 6 ChanSt.init).mapCp fun c => { c with snap := none }
  (s.complete q.tag 0x0C code n q.irq).pump
/-- Channel 6 writes the next burst of a captured snapshot (R375). A destination on a failed channel ends it with E-0812 (Table 12.4).
(DESIGN CHOICE, log 131) -/
def snapBurst (s : State) : State :=
  match s.cp.snap, s.snapNext with
  | some q, some (a, bs) =>
    if inHyper a && !s.hitsBstore a bs.length && s.onFailed a bs.length then (s.strErr 6 0x0A12).snapEnd q 0x0812
    else if !(inHyper a && s.spanOk a bs.length) || s.hitsBstore a bs.length then (s.strErr 6 0x0A12).snapEnd q 0x0A12
    else (s.putHyper 6 a bs).delivered 6 bs.length
  | _, _ => s
/-- Channel 3 writes the next 128 bytes of a crop into the crop store (R294, R301, R342): the last page is padded with zeros. -/
def cropWriteBack (s : State) : State :=
  match s.cropNext with
  | none => s
  | some (c, none) => s.cropNoPlace c
  | some (c, some (p, x)) =>
    let n := c.bytes.length
    let s := s.queueWrite 3 (s.cropAddr p n x) (((c.bytes.drop x).take 128 ++ List.replicate 128 0).take 128) false
    let s := if x = 0 then s.mapVrd fun v => { v with nextPage := (p + cdiv n 4096) % Nat.max s.cropPages 1 } else s
    s.putCrop c (if 4096 * cdiv n 4096 ≤ x + 128 then { c with bytes := [], pages := some (p, n), wb := none } else { c with wb := some (p, x + 128) })
/-- Channel 4 writes the next bytes of the oldest waiting feature entry (R240); the entry is in the store once it is whole.
(DEDUCED, log 39) -/
def featBurst (s : State) : State :=
  match s.grf.wait, s.featNext with
  | e :: es, some (a, bs) =>
    let (k, _) := s.featSlot (leAt e 0 4)
    let m := s.grf.featSent + bs.length
    (s.queueWrite 4 a bs false).mapGrf fun g =>
      if e.length ≤ m then { g with feats := sset zeroF g.feats k true, wait := es, featSent := 0 }
      else { g with feats := sset zeroF g.feats k false, featSent := m }
  | _, _ => s
/-- One burst of a channel of a Hub engine or of a command. LOAD_BLEND and REPLAY_PUSH bring what channel 7 read with them. -/
def engineBurst (s : State) (n : Nat) : State :=
  match n with
  | 0 => deviceRingWriteEff s 2
  | 1 => deviceRingWriteEff s 3
  | 2 => deviceRingWriteEff s 4
  | 3 => cropWriteBack s
  | 4 => featBurst s
  | 5 => s.pumpMsgs
  | 6 => snapBurst s
  | _ => s

/-- STREAM_BURST: bit errors strike what it reads first. -/
def streamBurstEff (s : State) (n : Nat) (hits : List Upset) : State :=
  let s := s.strike hits
  if s.pwr.park || decide (0 < s.rstRank) then s
  else if n < 8 then
    match s.readyClass n with
    | some k => if s.outranked n k then s else engineBurst (s.serve n) n
    | none => s
  else hostBurst s n
/-- STREAM_BURST. -/
def execStreamBurst (n : Fin 16) (hits : List Upset) (s : State) : Host.Outcome State Fault Refusal := .next (streamBurstEff s n hits)

/-! ## Host reads (R304, R306) -/

/-- PCIE_READ_COMPLETION: the oldest read of a channel ends well and its data is written; the bytes stand in the order asked for.
(DESIGN CHOICE, log 125; DESIGN CHOICE, log 164) -/
def readCompletionEff (s : State) (n : Nat) (bs : List Byte) : State :=
  let c := s.chan n
  match c.active, c.reads with
  | some d, q :: qs =>
    if q.barrier then s.setChan n { c with reads := qs, barRead := 2 }
    else
      let hs := q.srcs.filter isHost
      if bs.length < hs.length || !s.writeTag q.dst || s.waitsInit q.dst q.n then s
      else if !s.dstOk q.dst q.n then (s.dstViol q.dst q.n).haltChan n q.place 0x0A12
      else
        let (xs, s) := (s.setChan n { c with reads := qs }).gather q.srcs (bs.take hs.length)
        s.deliverBurst n d q.place q.dst (burstBytes d (s.runLen d q.place) q.place.off xs)
  | _, _ => s
/-- PCIE_READ_COMPLETION. -/
def execPcieReadCompletion (n : Fin 16) (bs : List Byte) (s : State) : Host.Outcome State Fault Refusal := .next (readCompletionEff s n bs)
/-- A channel's oldest read ends in an error.
(DEDUCED, log 126) -/
def readFail (s : State) (n code : Nat) : State :=
  match (s.chan n).reads with
  | q :: _ => s.haltChan n q.place code
  | [] => s
/-- READ_COMPLETION_ERROR: a PCIe completion error. -/
def execReadCompletionError (n : Fin 16) (s : State) : Host.Outcome State Fault Refusal := .next (readFail s n 0x0A10)
/-- COMPLETION_TIMEOUT. -/
def execCompletionTimeout (n : Fin 16) (s : State) : Host.Outcome State Fault Refusal := .next (readFail s n 0x0A11)

/-! ## Ends of descriptors (R304, R305) -/

/-- Has a channel's active descriptor completed? -/
def State.descDone (s : State) (n : Nat) (d : DescW) : Bool :=
  let c := s.chan n
  !c.halted && c.walk.done && c.reads.isEmpty &&
    (!dBit d 9 || (c.waitAll.isEmpty && (!isHost c.lastDst || c.barRead == 2)))
/-- The descriptor a chain goes on with: its words as host memory gave them, or as internal memory holds them; none when its address is
not reachable. -/
def State.nextDesc (s : State) (d : DescW) (next : List Word) : Option (DescW × State) :=
  let a := dF d 0x38 5
  if isHost a then some ((List.range 16).map (nth 0 next), s)
  else if s.spanOk a 64 then
    let (bs, _, s) := readInt (s.inOrder a 64) a 64 0
    some ((List.range 16).map fun i => wordAt bs (4 * i), s)
  else none
/-- A chained descriptor is armed; one that is refused ends the chain (R298).
(DEDUCED, log 129) -/
def State.chainOn (s : State) (n : Nat) (d : DescW) : State :=
  let code := s.descCode d
  if code = 0 then (s.activateDesc n d (s.fenceOf d) s.str.nextOrder).nextArm else (s.strErr n code).chanIdle n

/-- Must the descriptor a chain goes on with wait for a HyperRAM channel that initialises (R349)? -/
def State.chainWaits (s : State) (n : Nat) (d : DescW) : Bool :=
  !(s.chan n).stop && (s.chan n).shadow.isNone && bitN (descNat d) 511 && s.waitsInit (dF d 0x38 5) 64
/-- DESCRIPTOR_COMPLETE: the full event; then stop, shadow, chain or idle. `next` is the descriptor a chain into host memory names. -/
def descriptorCompleteEff (s : State) (n : Nat) (next : List Word) : State :=
  if n = 6 then
    match s.cp.snap with
    | some q => (match q.block with | some b => if b.length ≤ (s.chan 6).moved then s.snapEnd q 0 else s | none => s)
    | none => s
  else match (s.chan n).active with
    | none => s
    | some d =>
      if !s.descDone n d || s.chainWaits n d then s
      else
        let s := if dBit d 11 then (s.fset (F.STR_CH_STATUS_full n) 1).chanVec n else s
        let c := s.chan n
        if c.stop then s.chanIdle n
        else match c.shadow with
          | some e => (s.setChan n { c with shadow := none, shadowFence := [] }).activateDesc n e c.shadowFence c.shadowOrder
          | none =>
            if bitN (descNat d) 511 then
              match s.nextDesc d next with
              | some (e, s) => s.chainOn n e
              | none => (s.strErr n 0x0A12).chanIdle n
            else s.chanIdle n
/-- DESCRIPTOR_COMPLETE. -/
def execDescriptorComplete (n : Fin 16) (next : List Word) (s : State) : Host.Outcome State Fault Refusal :=
  .next (descriptorCompleteEff s n next)

/-! ## Accepted writes (R303, R344) -/

/-- HYPERRAM_WRITE_ACCEPTED: the controller of a channel finishes its oldest write; a channel that initialises lets it wait (R349). -/
def writeAcceptedEff (s : State) (ch : Nat) : State :=
  match (if s.chanInit ch then none else s.str.writes.find? fun w => s.chanOf (w.addr - hyperBase) == some ch) with
  | some w => (s.acceptWrite w).pump
  | none => s
/-- HYPERRAM_WRITE_ACCEPTED. -/
def execHyperramWriteAccepted (ch : Fin 4) (s : State) : Host.Outcome State Fault Refusal := .next (writeAcceptedEff s ch)

end Sys2Proof.Machine
end

