-- ==== Sys2Proof/Machine/Tick.lean ====
section
/-!
DEFINITION. Machine/Tick.lean: the rows of the array that are one event at one unit, and what passes in one ACLK period (R137, R180–R182,
R166, R395, R396).
-/
namespace Sys2Proof.Machine

/-! ## Rows of the array -/

/-- IDLE (R45). -/
def execIdle (t : TileRef) (s : State) : Host.Outcome State Fault Refusal := .next (idleEff s t)
/-- LOOP (R46). -/
def execLoop (t : TileRef) (s : State) : Host.Outcome State Fault Refusal := .next (loopEff s t)
/-- FIRE (R49). -/
def execFire (t : TileRef) (s : State) : Host.Outcome State Fault Refusal := .next (fireEff s t)
/-- WAIT_LINE (R50). -/
def execWaitLine (t : TileRef) (s : State) : Host.Outcome State Fault Refusal := .next (waitLineEff s t)
/-- JUMP (R45). -/
def execJump (t : TileRef) (s : State) : Host.Outcome State Fault Refusal := .next (jumpEff s t)
/-- ROT (R53). -/
def execRot (t : TileRef) (s : State) : Host.Outcome State Fault Refusal := .next (rotEff s t)
/-- HALT (R45). -/
def execHalt (t : TileRef) (s : State) : Host.Outcome State Fault Refusal := .next (haltEff s t)
/-- FIRING (R68). -/
def execFiring (t : TileRef) (hits : List Upset) (s : State) : Host.Outcome State Fault Refusal := .next (firingEff s t hits)
/-- DRAIN_DONE (R59). -/
def execDrainDone (t : TileRef) (s : State) : Host.Outcome State Fault Refusal := .next (drainDoneEff s t)
/-- JOIN (R162). -/
def execJoin (t : TileRef) (u : Fin 4) (s : State) : Host.Outcome State Fault Refusal := .next (joinEff s t u)
/-- CASK_WORD_WRITE (R151). -/
def execCaskWordWrite (c : CaskRef) (s : State) : Host.Outcome State Fault Refusal := .next (caskWordWriteEff s c)
/-- CASK_WORD_READ (R151). -/
def execCaskWordRead (c : CaskRef) (flip : Bool) (hits : List Upset) (s : State) : Host.Outcome State Fault Refusal :=
  .next (caskWordReadEff s c flip hits)
/-- BROADCAST_EVENT (R177). -/
def execBroadcastEvent (t : TileRef) (s : State) : Host.Outcome State Fault Refusal := .next (broadcastEventEff s t)
/-- PARTIAL_ENTRY_SEND (R100). -/
def execPartialEntrySend (t : TileRef) (s : State) : Host.Outcome State Fault Refusal := .next (partialEntrySendEff s t)
/-- GAIN_ENTRY_SEND (R101). -/
def execGainEntrySend (t : TileRef) (s : State) : Host.Outcome State Fault Refusal := .next (gainEntrySendEff s t)

/-! ## One ac of the array -/

/-- Every tile in state 3 counts the ac (R183, MX.STALL_CNT), and so does one whose drain lacks a P-in flit (R119). -/
def State.countStalls (s : State) : State :=
  s.arr.tiles.foldl (fun s (n, x) =>
    let r := tileOfKey n
    if s.drainLate r && x.st != .stalled then s.drainStall r
    else if x.st == .stalled then
      (s.setTile r { x with led := { x.led with stall := x.led.stall + 1 } }).fcount (F.MX_STALL_CNT_stall_ac (tb r)) 1
    else s) s

/-- Does a circuit end in a cask for which it holds no credit? -/
def State.blockedAt (s : State) (c : CaskRef) (ci : Circuit) : Bool := ci.sinks.any fun q => q.1 == .cask c && s.credit ci q.1 == 0
/-- Does a writer of a cask present a flit without credit for it (R166)? A flit that has presented itself is bound to its circuit
(R147); a cask presents its words in the slots of its circuit.
(DEDUCED, log 132) -/
def State.writerWaits (s : State) (c : CaskRef) : Bool :=
  let bound (e : Option OutEntry) : Bool := match e with
    | some x => (match x.bound with | some ci => s.blockedAt c ci | none => false)
    | none => false
  (s.arr.tiles.any fun x => x.2.outq.any fun q => bound q.head?) ||
    (s.lcRows.any fun x => x.2.outq.any fun e => bound (some e.2)) ||
    (s.tx.boundTo.any fun x => s.blockedAt c x.2) ||
    (s.arr.casks.any fun x =>
      (decide (0 < x.2.cnt) || !x.2.refill.isEmpty) && (List.range 256).any fun j =>
        match circuitAt s s.activeV (.cask (caskOfKey x.1)) (s.arr.runAc + j) with
        | some ci => s.blockedAt c ci
        | none => false)
/-- The waiting-cycle detector counts the ac (R166).
(DEDUCED, log 132) -/
def State.countCycles (s : State) : State :=
  if !s.elastic then s
  else (List.range 32).foldl (fun s i =>
    if bitsW (s.cycWord i 0) 16 4 = 0 then s
    else
      let e := sget (fun _ => ⟨0, false⟩) s.arr.cycles i
      let n := if s.writerWaits (s.cycCask i) && !e.moved then e.wait + 1 else 0
      s.mapArr fun a => { a with cycles := sset (fun _ => ⟨0, false⟩) a.cycles i ⟨n, false⟩ }) s

/-- Memory writes become readable (R59, R63, Table 2.9). -/
def State.landWrites (s : State) : State :=
  let due := s.arr.delayed.filter fun d => decide (d.due ≤ s.arr.runAc)
  let s := s.mapArr fun a => { a with delayed := a.delayed.filter fun d => !decide (d.due ≤ a.runAc) }
  due.foldl (fun s d => writeChip s d.addr d.bytes d.poison) s

/-- A run ac passes (R137).
(DESIGN CHOICE, log 1) -/
def State.runTick (s : State) : State :=
  (s.countStalls.countCycles.mapArr fun a => { a with runAc := a.runAc + 1, emitted := [] }).landWrites.decantTick.bandStarts.drainHolds
/-- A held ac passes (R180): nothing moves on but, when the remote cause alone holds the array, what brings the input it waits for (R181).
(DESIGN CHOICE, log 1; DEDUCED, log 168) -/
def State.heldTick (s : State) : State :=
  let rem := s.remoteOnly
  s.mapArr fun a => { a with
    holdAc := a.holdAc + 1, emitted := [], remAc := if rem then a.remAc + 1 else a.remAc
    flights := a.flights.map fun y => if s.awaits y.circ then { y with skip := y.skip + 1 } else y
    creditFlights := a.creditFlights.map fun y => if s.awaits y.circ then { y with skip := y.skip + 1 } else y }

/-! ## One ACLK period -/

/-- Outside a job a wanted bin that is not in force opens its window at once (R393). -/
def State.idleFreq (s : State) : State :=
  if s.job.running || s.pwr.window.isSome || s.deferNow || s.wanted == s.binNow then s
  else (s.mapPwr fun p => { p with armed := [] }).openWindow s.wanted

/-- A period of the frequency window passes unless a settle is active (R395). -/
def State.windowTick (s : State) : State :=
  if s.pwr.settle then s else s.mapPwr fun p => { p with window := p.window.map fun w => (w.1 - 1, w.2) }

/-- Settle and hold limit in a period (R182, R396, R402).
(DESIGN CHOICE, log 1) -/
def State.powerTick (s : State) : State :=
  let causes := s.fbit F.HUB_HOLD_STATUS_remote || s.fbit F.HUB_HOLD_STATUS_system
  let s := s.mapArr fun a => { a with holdRun := if causes then a.holdRun + 1 else 0 }
  if s.pwr.settle then
    (s.fcount F.PWR_SETTLE_AC_count 1).mapPwr fun p => { p with tail := if p.low.take 4 |>.any id then p.tail else p.tail - 1 }
  else if s.pwr.sinceSettle < 256 then
    let s := s.mapPwr fun p => { p with sinceSettle := p.sinceSettle + 1 }
    if s.pwr.sinceSettle = 256 then s.deferredAct else s
  else s

/-- One ACLK period passes with no command waiting; a device in reset does nothing, a parked one only takes commands. Leaving Park and burning
an identity key end with it.
(DESIGN CHOICE, log 1; DESIGN CHOICE, log 73; DESIGN CHOICE, log 205) -/
def State.tick (s : State) : State :=
  if 0 < s.rstRank then s
  else if s.pwr.park then s.timeTick.transTick.pump
  else
    let s := if s.fget F.PWR_STATE_state = 3 then s.fset F.PWR_STATE_state 1 else s
    let s := (s.timeTick.transTick.placeTick.mapArr fun a => { a with period := a.period + 1 }).windowTick
    let s := if s.arr.clocked then (if s.held then s.heldTick else s.runTick) else s
    s.powerTick.idleFreq.pump

end Sys2Proof.Machine
end

