-- ==== Sys2Proof/Machine/Dispatch.lean ====
section
/-!
DEFINITION. Machine/Dispatch.lean: the effect of every command, one arm per row of the operation and event table.
-/
namespace Sys2Proof.Machine

/-- The effect of a command on everything but the queue. -/
def exec (i : Instr) (s : State) : Host.Outcome State Fault Refusal :=
  match i with
  | .nop e => Sys2Proof.Machine.execNop e s
  | .loadBlend e => Sys2Proof.Machine.execLoadBlend e s
  | .place e => Sys2Proof.Machine.execPlace e s
  | .startJob e => Sys2Proof.Machine.execStartJob e s
  | .endJob e => Sys2Proof.Machine.execEndJob e s
  | .switchVintage e => Sys2Proof.Machine.execSwitchVintage e s
  | .fence e => Sys2Proof.Machine.execFence e s
  | .hintPhase e => Sys2Proof.Machine.execHintPhase e s
  | .setCap e => Sys2Proof.Machine.execSetCap e s
  | .graftSubmit e data bad => Sys2Proof.Machine.execGraftSubmit e data bad s
  | .graftCommit e => Sys2Proof.Machine.execGraftCommit e s
  | .barrier e => Sys2Proof.Machine.execBarrier e s
  | .snapshot e => Sys2Proof.Machine.execSnapshot e s
  | .replayPush e data bad => Sys2Proof.Machine.execReplayPush e data bad s
  | .query e => Sys2Proof.Machine.execQuery e s
  | .attest e => Sys2Proof.Machine.execAttest e s
  | .attestDone => Sys2Proof.Machine.execAttestDone s
  | .doorbell off v read => Sys2Proof.Machine.execDoorbell off v read s
  | .registerWrite w env => Sys2Proof.Machine.execRegisterWrite w env s
  | .lowWordRead src off => Sys2Proof.Machine.execLowWordRead src off s
  | .rcFieldRead src off => Sys2Proof.Machine.execRcFieldRead src off s
  | .indirectDataAccess src off wr => Sys2Proof.Machine.execIndirectDataAccess src off wr s
  | .bar0InvalidAccess write off len => Sys2Proof.Machine.execBar0InvalidAccess write off len s
  | .bar2Access off len wr hits => Sys2Proof.Machine.execBar2Access off len wr hits s
  | .ringEnable r v => Sys2Proof.Machine.execRingEnable r v s
  | .irqMaskWrite v => Sys2Proof.Machine.execIrqMaskWrite v s
  | .coldReset c failed => Sys2Proof.Machine.execColdReset c failed s
  | .warmReset c failed => Sys2Proof.Machine.execWarmReset c failed s
  | .flr failed => Sys2Proof.Machine.execFlr failed s
  | .arrayReset failed => Sys2Proof.Machine.execArrayReset failed s
  | .cellarmasterRestart => Sys2Proof.Machine.execCellarmasterRestart s
  | .watchdogExpiry => Sys2Proof.Machine.execWatchdogExpiry s
  | .wipeDone => Sys2Proof.Machine.execWipeDone s
  | .boot => Sys2Proof.Machine.execBoot s
  | .logicCellRelease t row => Sys2Proof.Machine.execLogicCellRelease t row s
  | .d3hotEntry => Sys2Proof.Machine.execD3hotEntry s
  | .wake failed => Sys2Proof.Machine.execWake failed s
  | .sync => Sys2Proof.Machine.execSync s
  | .syncPulse => Sys2Proof.Machine.execSyncPulse s
  | .calibration now => Sys2Proof.Machine.execCalibration now s
  | .sysReset => Sys2Proof.Machine.execSysReset s
  | .trellisBringUp v root => Sys2Proof.Machine.execTrellisBringUp v root s
  | .censusTimeout => Sys2Proof.Machine.execCensusTimeout s
  | .trellisRetire v => Sys2Proof.Machine.execTrellisRetire v s
  | .freqWrite v => Sys2Proof.Machine.execFreqWrite v s
  | .loamWrite v => Sys2Proof.Machine.execLoamWrite v s
  | .streamGo n => Sys2Proof.Machine.execStreamGo n s
  | .streamStop n => Sys2Proof.Machine.execStreamStop n s
  | .mailboxSend c v => Sys2Proof.Machine.execMailboxSend c v s
  | .triggerSoftware k v now => Sys2Proof.Machine.execTriggerSoftware k v now s
  | .forceFail c => Sys2Proof.Machine.execForceFail c s
  | .hyperramChannelFail c cause => Sys2Proof.Machine.execHyperramChannelFail c cause s
  | .bstoreWrite v => Sys2Proof.Machine.execBstoreWrite v s
  | .cropStoreWrite size v => Sys2Proof.Machine.execCropStoreWrite size v s
  | .lifeCycleTransition v failed => Sys2Proof.Machine.execLifeCycleTransition v failed s
  | .svnUp => Sys2Proof.Machine.execSvnUp s
  | .keyProgram v => Sys2Proof.Machine.execKeyProgram v s
  | .keyRevoke v => Sys2Proof.Machine.execKeyRevoke v s
  | .flashReadPage => Sys2Proof.Machine.execFlashReadPage s
  | .flashProgramPage => Sys2Proof.Machine.execFlashProgramPage s
  | .flashErase => Sys2Proof.Machine.execFlashErase s
  | .flashOpDone => Sys2Proof.Machine.execFlashOpDone s
  | .debugChallenge v => Sys2Proof.Machine.execDebugChallenge v s
  | .debugSubmit => Sys2Proof.Machine.execDebugSubmit s
  | .debugVerifyDone => Sys2Proof.Machine.execDebugVerifyDone s
  | .probeArm v => Sys2Proof.Machine.execProbeArm v s
  | .probeForce v => Sys2Proof.Machine.execProbeForce v s
  | .probeTrigger mesh => Sys2Proof.Machine.execProbeTrigger mesh s
  | .probeCaptureDone mesh => Sys2Proof.Machine.execProbeCaptureDone mesh s
  | .jtagBoundaryScan hold failed => Sys2Proof.Machine.execJtagBoundaryScan hold failed s
  | .encoderEdge a b a' b' now => Sys2Proof.Machine.execEncoderEdge a b a' b' now s
  | .triggerTimer k now => Sys2Proof.Machine.execTriggerTimer k now s
  | .markerWidthExpiry k => Sys2Proof.Machine.execMarkerWidthExpiry k s
  | .streamPacket p => Sys2Proof.Machine.execStreamPacket p s
  | .replyOrEventPacket c ev bs => Sys2Proof.Machine.execReplyOrEventPacket c ev bs s
  | .heartbeatTimeout c => Sys2Proof.Machine.execHeartbeatTimeout c s
  | .linkLockLost l => Sys2Proof.Machine.execLinkLockLost l s
  | .linkRelock l => Sys2Proof.Machine.execLinkRelock l s
  | .lineComplete => Sys2Proof.Machine.execLineComplete s
  | .lineTimeout c => Sys2Proof.Machine.execLineTimeout c s
  | .haloTimeout line plane right => Sys2Proof.Machine.execHaloTimeout line plane right s
  | .lineStart => Sys2Proof.Machine.execLineStart s
  | .frequencyChange => Sys2Proof.Machine.execFrequencyChange s
  | .idle t => Sys2Proof.Machine.execIdle t s
  | .loop t => Sys2Proof.Machine.execLoop t s
  | .fire t => Sys2Proof.Machine.execFire t s
  | .waitLine t => Sys2Proof.Machine.execWaitLine t s
  | .waitBand t hits => Sys2Proof.Machine.execWaitBand t hits s
  | .jump t => Sys2Proof.Machine.execJump t s
  | .rot t => Sys2Proof.Machine.execRot t s
  | .halt t => Sys2Proof.Machine.execHalt t s
  | .firing t hits => Sys2Proof.Machine.execFiring t hits s
  | .drainDone t => Sys2Proof.Machine.execDrainDone t s
  | .join t u => Sys2Proof.Machine.execJoin t u s
  | .flitEmission src => Sys2Proof.Machine.execFlitEmission src s
  | .creditArrival src snk => Sys2Proof.Machine.execCreditArrival src snk s
  | .flitArrival n code eg => Sys2Proof.Machine.execFlitArrival n code eg s
  | .caskWordWrite c => Sys2Proof.Machine.execCaskWordWrite c s
  | .caskWordRead c flip hits => Sys2Proof.Machine.execCaskWordRead c flip hits s
  | .caskPointerMismatch c rp wp cnt => Sys2Proof.Machine.execCaskPointerMismatch c rp wp cnt s
  | .broadcastEvent t => Sys2Proof.Machine.execBroadcastEvent t s
  | .partialEntrySend t => Sys2Proof.Machine.execPartialEntrySend t s
  | .gainEntrySend t => Sys2Proof.Machine.execGainEntrySend t s
  | .decant cyc => Sys2Proof.Machine.execDecant cyc s
  | .refill c => Sys2Proof.Machine.execRefill c s
  | .switchComplete => Sys2Proof.Machine.execSwitchComplete s
  | .remoteHoldRelease => Sys2Proof.Machine.execRemoteHoldRelease s
  | .holdLimitExpiry => Sys2Proof.Machine.execHoldLimitExpiry s
  | .jobEnd => Sys2Proof.Machine.execJobEnd s
  | .fillRecordsDone => Sys2Proof.Machine.execFillRecordsDone s
  | .verdictVector t io src => Sys2Proof.Machine.execVerdictVector t io src s
  | .featureVector t io src => Sys2Proof.Machine.execFeatureVector t io src s
  | .cropCut => Sys2Proof.Machine.execCropCut s
  | .streamBurst n hits => Sys2Proof.Machine.execStreamBurst n hits s
  | .descriptorComplete n next => Sys2Proof.Machine.execDescriptorComplete n next s
  | .readCompletionError n => Sys2Proof.Machine.execReadCompletionError n s
  | .completionTimeout n => Sys2Proof.Machine.execCompletionTimeout n s
  | .deviceRingWrite r => Sys2Proof.Machine.execDeviceRingWrite r s
  | .ringIrqTimer r => Sys2Proof.Machine.execRingIrqTimer r s
  | .frame p f => Sys2Proof.Machine.execFrame p f s
  | .segmentDown p => Sys2Proof.Machine.execSegmentDown p s
  | .remoteWrite => Sys2Proof.Machine.execRemoteWrite s
  | .fetchAdd => Sys2Proof.Machine.execFetchAdd s
  | .haloWrite => Sys2Proof.Machine.execHaloWrite s
  | .caskWrite => Sys2Proof.Machine.execCaskWrite s
  | .caskCredit => Sys2Proof.Machine.execCaskCredit s
  | .census => Sys2Proof.Machine.execCensus s
  | .time now res => Sys2Proof.Machine.execTime now res s
  | .arrive => Sys2Proof.Machine.execArrive s
  | .release => Sys2Proof.Machine.execRelease s
  | .start => Sys2Proof.Machine.execStart s
  | .line0 far => Sys2Proof.Machine.execLine0 far s
  | .throttle => Sys2Proof.Machine.execThrottle s
  | .holdOn => Sys2Proof.Machine.execHoldOn s
  | .holdOff => Sys2Proof.Machine.execHoldOff s
  | .repair => Sys2Proof.Machine.execRepair s
  | .reset => Sys2Proof.Machine.execReset s
  | .systemStartTick now => Sys2Proof.Machine.execSystemStartTick now s
  | .systemHoldTick now => Sys2Proof.Machine.execSystemHoldTick now s
  | .repairTick now => Sys2Proof.Machine.execRepairTick now s
  | .graftStep => Sys2Proof.Machine.execGraftStep s
  | .graftStepEnd poisoned => Sys2Proof.Machine.execGraftStepEnd poisoned s
  | .commitStagingDone poisoned => Sys2Proof.Machine.execCommitStagingDone poisoned s
  | .commitComplete => Sys2Proof.Machine.execCommitComplete s
  | .telemetrySample ans => Sys2Proof.Machine.execTelemetrySample ans s
  | .thermalSample readings => Sys2Proof.Machine.execThermalSample readings s
  | .thermalTrip => Sys2Proof.Machine.execThermalTrip s
  | .supplyWarning k => Sys2Proof.Machine.execSupplyWarning k s
  | .settleEnd => Sys2Proof.Machine.execSettleEnd s
  | .brownOutTimeout failed => Sys2Proof.Machine.execBrownOutTimeout failed s
  | .loamRampStep => Sys2Proof.Machine.execLoamRampStep s
  | .hyperramScrub off hits => Sys2Proof.Machine.execHyperramScrub off hits s
  | .hyperramScrubLate => Sys2Proof.Machine.execHyperramScrubLate s
  | .hyperramInitDone c => Sys2Proof.Machine.execHyperramInitDone c s
  | .sramScrub w hits endPass => Sys2Proof.Machine.execSramScrub w hits endPass s
  | .sramScrubLate => Sys2Proof.Machine.execSramScrubLate s
  | .eccWindowEval => Sys2Proof.Machine.execEccWindowEval s
  | .powerRemoval => Sys2Proof.Machine.execPowerRemoval s
  | .resetBallRelease b => Sys2Proof.Machine.execResetBallRelease b s
  | .d3hotExit failed => Sys2Proof.Machine.execD3hotExit failed s
  | .trellisPortUp p all chain => Sys2Proof.Machine.execTrellisPortUp p all chain s
  | .heartbeatPacket c => Sys2Proof.Machine.execHeartbeatPacket c s
  | .mailboxSent c => Sys2Proof.Machine.execMailboxSent c s
  | .triggerPulseEnd k => Sys2Proof.Machine.execTriggerPulseEnd k s
  | .supplyRecovery k => Sys2Proof.Machine.execSupplyRecovery k s
  | .loadBlendDone image bad => Sys2Proof.Machine.execLoadBlendDone image bad s
  | .placeDone => Sys2Proof.Machine.execPlaceDone s
  | .hyperramWriteAccepted ch => Sys2Proof.Machine.execHyperramWriteAccepted ch s
  | .pcieReadCompletion n bs => Sys2Proof.Machine.execPcieReadCompletion n bs s
  | .rowPowerUpDone => Sys2Proof.Machine.execRowPowerUpDone s
  | .hintMarginStart => Sys2Proof.Machine.execHintMarginStart s
  | .lineRecordingStart => Sys2Proof.Machine.execLineRecordingStart s
  | .logicCellCycle t row tree mesh io => Sys2Proof.Machine.execLogicCellCycle t row tree mesh io s

end Sys2Proof.Machine
end

