-- ==== Sys2Proof/Machine/Step.lean ====
section
/-!
DEFINITION. Machine/Step.lean: one step of the block: the command at the front of the queue, or one ACLK period.
-/
namespace Sys2Proof.Machine

/-- The state without the command at the front of its queue. -/
def State.rest (s : State) : State := { s with pending := s.pending.tail }

/-- Put a command at the front of the queue. -/
def State.front (s : State) (i : Instr) : State := { s with pending := i :: s.pending }

/-- One step: the front command acts on the state with the rest of the queue; with no command waiting one ACLK period passes.
(DESIGN CHOICE, log 1; DESIGN CHOICE, log 2) -/
def step (s : State) : Host.Outcome State Fault Refusal :=
  match s.pending with
  | i :: _ => exec i s.rest
  | [] => .next s.tick

/-- The command that a word spells, at the front of the queue; no row of the table gives bits, so no word spells one.
(DESIGN CHOICE, log 2) -/
def State.withFetchWord (s : State) (nbits w : Nat) : State :=
  match decodeTableWord nbits w with
  | some i => s.front i
  | none => s

end Sys2Proof.Machine
end

