-- ==== Sys2Proof/WellFormed.lean ====
section
/-!
DEFINITION. WellFormed.lean: which operands a command can carry. The host and the fabric send only such commands; the
meanings are total, so a statement needs well-formedness only where it says so.
-/
namespace Sys2Proof

/-- Does an access of `len` bytes at `off` lie in an aperture of `size` bytes (R38, R310)? -/
def inAperture (size off len : Nat) : Bool := decide (1 ≤ len ∧ off + len ≤ size)

/-- A result code of a read is 16 bits wide; 0 says that the read succeeded (R306). -/
def codeOk (c : Nat) : Bool := decide (c < 2 ^ 16)

/-- A number of 16 bits. -/
def below16 (n : Nat) : Bool := decide (n < 2 ^ 16)

/-- An error pattern fits its codeword: 36 bytes of a HyperRAM block (R340), 11 bytes of an on-chip codeword
(R437) and, in bits 88–90, the three copies of its poison bit (R439). -/
def Upset.wf (u : Upset) : Bool :=
  if 0x0100000000 ≤ u.addr ∧ u.addr < 0x0120000000 then decide (u.addr % 32 = 0 ∧ u.pat < 2 ^ 288)
  else decide (u.pat < 2 ^ 91)

/-- A command as read from ring 0 has a one-byte opcode (R324). -/
def Cmd.wf (c : Cmd) : Bool := decide (c.op < 256) && codeOk c.bad

/-- The bytes written are as many as the access is long; a byte is absent where its byte enable is 0. -/
def writeLen (len : Nat) : Option (List (Option Byte)) → Bool
  | none => true
  | some bs => decide (bs.length = len)

/-- A register-space write names an offset of its aperture, and sizes that PCI Express has (Tables 11.1, 11.4). -/
def RegWrite.wf : RegWrite → Bool
  | .word _ off _ => inAperture (2 ^ 20) off 4
  | .msixTable off _ => inAperture (2 ^ 16) off 4
  | .msi _ _ addr data mask => decide (addr % 4 = 0 ∧ addr < 2 ^ 64 ∧ data < 2 ^ 16 ∧ mask < 2 ^ 32)
  | .msix _ _ => true
  | .bar _ base => decide (base < 2 ^ 64)
  | .aer clear => decide (clear < 2 ^ 32)
  | .link mps mrrs _ => [128, 256].contains mps && [128, 256, 512, 1024, 2048, 4096].contains mrrs

/-- Pixels of at most 12 bits (R257). -/
def StreamPkt.wf (p : StreamPkt) : Bool := p.px.all fun v => decide (v < 2 ^ 12)

/-- A frame has 256 bytes in four codewords of 64, each with its error pattern (R354, R355). -/
def FrameIn.wf (f : FrameIn) : Bool :=
  decide (f.bytes.length = 256) && decide (f.err.length = 4) && f.err.all fun e => decide (e < 2 ^ 512)

/-- The scrubber reads whole codewords (R441). -/
def ScrubAt.wf : ScrubAt → Bool
  | .mem a => decide (a % 8 = 0 ∧ a < 2 ^ 40)
  | .ctl _ => true
  | .cellar _ => true

/-- Well-formed commands. -/
def Instr.wf : Instr → Bool
  | .nop _ => true
  | .loadBlend _ => true
  | .place _ => true
  | .startJob _ => true
  | .endJob _ => true
  | .switchVintage _ => true
  | .fence _ => true
  | .hintPhase _ => true
  | .setCap _ => true
  | .graftSubmit _ _ bad => codeOk bad
  | .graftCommit _ => true
  | .barrier _ => true
  | .snapshot _ => true
  | .replayPush _ _ bad => codeOk bad
  | .query _ => true
  | .attest _ => true
  | .attestDone => true
  | .doorbell off _ read => inAperture (2 ^ 16) off 4 && read.all Cmd.wf
  | .registerWrite w _ => w.wf
  | .lowWordRead _ off => inAperture (2 ^ 20) off 4
  | .rcFieldRead _ off => inAperture (2 ^ 20) off 4
  | .indirectDataAccess _ off _ => inAperture (2 ^ 20) off 4
  | .bar0InvalidAccess _ off len => inAperture (2 ^ 20) off len
  | .bar2Access off len wr hits => inAperture (2 ^ 24) off len && writeLen len wr && hits.all Upset.wf
  | .ringEnable _ _ => true
  | .irqMaskWrite _ => true
  | .coldReset _ _ => true
  | .warmReset _ _ => true
  | .flr _ => true
  | .arrayReset _ => true
  | .cellarmasterRestart => true
  | .watchdogExpiry => true
  | .wipeDone => true
  | .boot => true
  | .logicCellRelease _ _ => true
  | .d3hotEntry => true
  | .wake _ => true
  | .sync => true
  | .syncPulse => true
  | .calibration _ => true
  | .sysReset => true
  | .trellisBringUp _ _ => true
  | .censusTimeout => true
  | .trellisRetire _ => true
  | .freqWrite _ => true
  | .loamWrite _ => true
  | .streamGo _ => true
  | .streamStop _ => true
  | .mailboxSend _ _ => true
  | .triggerSoftware _ _ _ => true
  | .forceFail _ => true
  | .hyperramChannelFail _ _ => true
  | .bstoreWrite _ => true
  | .cropStoreWrite _ _ => true
  | .lifeCycleTransition _ _ => true
  | .svnUp => true
  | .keyProgram _ => true
  | .keyRevoke _ => true
  | .flashReadPage => true
  | .flashProgramPage => true
  | .flashErase => true
  | .flashOpDone => true
  | .debugChallenge _ => true
  | .debugSubmit => true
  | .debugVerifyDone => true
  | .probeArm _ => true
  | .probeForce _ => true
  | .probeTrigger _ => true
  | .probeCaptureDone _ => true
  | .jtagBoundaryScan _ _ => true
  | .encoderEdge a b a' b' _ => (a, b) != (a', b')
  | .triggerTimer _ _ => true
  | .markerWidthExpiry _ => true
  | .streamPacket p => p.wf
  | .replyOrEventPacket _ _ bs => decide (bs.length ≤ 1024)
  | .heartbeatTimeout _ => true
  | .linkLockLost _ => true
  | .linkRelock _ => true
  | .lineComplete => true
  | .lineTimeout _ => true
  | .haloTimeout _ _ _ => true
  | .lineStart => true
  | .frequencyChange => true
  | .idle _ => true
  | .loop _ => true
  | .fire _ => true
  | .waitLine _ => true
  | .waitBand _ hits => hits.all Upset.wf
  | .jump _ => true
  | .rot _ => true
  | .halt _ => true
  | .firing _ hits => hits.all Upset.wf
  | .drainDone _ => true
  | .join _ _ => true
  | .flitEmission _ => true
  | .creditArrival _ _ => true
  | .flitArrival _ _ _ => true
  | .caskWordWrite _ => true
  | .caskWordRead _ _ hits => hits.all Upset.wf
  | .caskPointerMismatch _ rp wp cnt => below16 rp && below16 wp && below16 cnt
  | .broadcastEvent _ => true
  | .partialEntrySend _ => true
  | .gainEntrySend _ => true
  | .decant _ => true
  | .refill _ => true
  | .switchComplete => true
  | .remoteHoldRelease => true
  | .holdLimitExpiry => true
  | .jobEnd => true
  | .fillRecordsDone => true
  | .verdictVector _ _ _ => true
  | .featureVector _ _ _ => true
  | .cropCut => true
  | .streamBurst _ hits => hits.all Upset.wf
  | .descriptorComplete _ next => decide (next.length = 0 ∨ next.length = 16)
  | .readCompletionError _ => true
  | .completionTimeout _ => true
  | .deviceRingWrite _ => true
  | .ringIrqTimer _ => true
  | .frame _ f => f.wf
  | .segmentDown _ => true
  | .remoteWrite => true
  | .fetchAdd => true
  | .haloWrite => true
  | .caskWrite => true
  | .caskCredit => true
  | .census => true
  | .time _ _ => true
  | .arrive => true
  | .release => true
  | .start => true
  | .line0 _ => true
  | .throttle => true
  | .holdOn => true
  | .holdOff => true
  | .repair => true
  | .reset => true
  | .systemStartTick _ => true
  | .systemHoldTick _ => true
  | .repairTick _ => true
  | .graftStep => true
  | .graftStepEnd _ => true
  | .commitStagingDone _ => true
  | .commitComplete => true
  | .telemetrySample ans => decide (ans.length = 8)
  | .thermalSample readings => decide (readings.length = 18)
  | .thermalTrip => true
  | .supplyWarning _ => true
  | .settleEnd => true
  | .brownOutTimeout _ => true
  | .loamRampStep => true
  | .hyperramScrub off hits => decide (off % 32 = 0 ∧ off < 2 ^ 29) && hits.all Upset.wf
  | .hyperramScrubLate => true
  | .hyperramInitDone _ => true
  | .sramScrub w hits _ => w.wf && hits.all Upset.wf
  | .sramScrubLate => true
  | .eccWindowEval => true
  | .powerRemoval => true
  | .resetBallRelease _ => true
  | .d3hotExit _ => true
  | .trellisPortUp _ _ _ => true
  | .heartbeatPacket _ => true
  | .mailboxSent _ => true
  | .triggerPulseEnd _ => true
  | .supplyRecovery _ => true
  | .loadBlendDone _ bad => codeOk bad
  | .placeDone => true
  | .hyperramWriteAccepted _ => true
  | .pcieReadCompletion _ _ => true
  | .rowPowerUpDone => true
  | .hintMarginStart => true
  | .lineRecordingStart => true
  | .logicCellCycle _ _ _ _ _ => true

end Sys2Proof
end

