-- ==== Sys2Proof/Safety.lean ====
section
/-!
DEFINITION. Safety.lean: the predicates in which statements are made: when the command processor takes a command, when an access is
let through, what stays as it was, and the invariants of the block.
-/
namespace Sys2Proof.Machine

/-! ## Taking commands -/

/-- The command processor is about to take what it reads next: ring 0 is enabled and holds a published entry, nothing is waiting
before it, no command is being executed and fewer than 48 completions are owed (R324, R325, R327). -/
abbrev State.takes (s : State) : Prop :=
  s.ringOn 0 = true ∧ s.cp.cmds = [] ∧ 0 < s.ringHeld 0 ∧ s.cp.serial = none ∧ s.owed < 48

/-- The state with one entry of ring 0 consumed. -/
def State.consumed (s : State) : State := s.setReg (R.PCI_RING_CONS 0) (s.reg (R.PCI_RING_CONS 0) + 1)

/-- The completion entry of a command (Table 11.9). -/
def doneEntry (op : Nat) (e : CmdEntry) (code result : Nat) : Comp :=
  { kind := 1, tag := e.tag.toNat, op := op, code := code, result := result, irq := e.flags.getLsbD 0 }

/-- The state in which a PLACE that no job locks reads its slot (R227 step 1). -/
def State.placeStart (s : State) (e : CmdEntry) : State :=
  let o := placeOps e
  let s := (s.consumed.mapCp fun x => { x with serial := some ⟨2, e, [], 0⟩ }).ldrStart 2 o.slot
  (s.fset F.HUB_LDR_STATUS_vintage o.v).unplace o.v

/-- The completions waiting for ring 1 have grown by one entry. -/
def State.answered (s t : State) (c : Comp) : Prop := t.cp.comps = s.cp.comps ++ [c]

/-! ## Accesses -/

/-- A host access of the register at an offset is let through: no reset is in progress and no rule bars it (R314). -/
abbrev State.hostOk (s : State) (o : Nat) : Prop := s.rstRank = 0 ∧ s.barred .bar0 o = none

/-! ## What stays -/

/-- Every register but those named reads as before. -/
def State.regsBut (s t : State) (os : List Nat) : Prop := ∀ o, o ∉ os → t.reg o = s.reg o

/-- Every byte of memory, its poison and its error pattern are as before. -/
def State.sameMem (s t : State) : Prop :=
  (∀ a, t.byte a = s.byte a) ∧ (∀ a, t.poisoned a = s.poisoned a) ∧ ∀ a, t.upsetAt a = s.upsetAt a

/-- Tile `r` stands as `x`, every other tile as before, and no register or memory has changed. -/
def State.onlyTile (s t : State) (r : TileRef) (x : TileSt) : Prop :=
  t.tile r = x ∧ (∀ q, q ≠ r → t.tile q = s.tile q) ∧ s.regsBut t [] ∧ s.sameMem t

/-! ## Sequencers and the fabric -/

/-- The control words of these codewords read without error (R439). -/
abbrev State.readsClean (s : State) (row : Option (Nat × Nat)) (cws : List Nat) : Prop := s.seeCws row true cws = (false, s)

/-- Tile `r` may act, no FIRE of it is open, and the micro-instruction it stands at has opcode `op` and reads without error, as do the words
it names (R45, R65). -/
abbrev State.standsAt (s : State) (r : TileRef) (op : Nat) : Prop :=
  s.seqReady r = true ∧ (s.tile r).fire = none ∧ s.progBad r = false ∧ uOp (s.curWord r) = op ∧
    s.readsClean (some (r.t, r.row)) (s.instrCws r (s.curWord r))

/-- Flit `f` of a source takes circuit `c` in the present ac, in which the source has sent none yet, and every credit counter of the circuit
is above 0 (R140, R145, R147). -/
abbrev State.mayEmit (s : State) (src : SrcRef) (f : Flit) (c : Circuit) : Prop :=
  circuitAt s (s.carryV f.tag) src (s.srcAc src) = some c ∧ s.arr.emitted.contains (hubPort src) = false ∧ ∀ x ∈ c.sinks, s.credit c x.1 ≠ 0

/-- The four codewords of the 32-byte word at `a` are without error. -/
abbrev State.cleanWord (s : State) (a : Nat) : Prop := a % 8 = 0 ∧ ∀ i < 4, s.upsetAt (a + 8 * i) = 0

/-! ## Invariants -/

/-- A tile has its five input stages, four output ports, four token registers and four generators. -/
def TileSt.shaped (x : TileSt) : Prop := x.stages.length = 5 ∧ x.outq.length = 4 ∧ x.tokens.length = 4 ∧ x.rot.length = 4

/-- Every group of like units has the number of units the spec gives it. -/
def State.shaped (s : State) : Prop :=
  (s.ing.cams.length = 4 ∧ s.lin.trg.length = 8 ∧ s.lin.mrk.length = 16 ∧ s.str.chans.length = 16) ∧
  (s.trl.ports.length = 2 ∧ s.trl.egress.length = 16 ∧ s.tx.ingress.length = 16 ∧ s.cp.unsig.length = 5) ∧
  (s.pwr.tel.length = 8 ∧ s.pwr.silent.length = 8 ∧ s.pwr.low.length = 5 ∧ s.hrm.slots.length = 4 ∧ s.fuse.keys.length = 8) ∧
  (∀ r, (s.tile r).shaped) ∧ ∀ t row, (s.lcRow t row).cyc.length = 4

/-- A memory in canonical form: addresses rise strictly and no byte listed is 0, which an unlisted address reads as. -/
abbrev Memory.wf (m : SMap Byte) : Bool := swf zeroB m

/-- The sparse stores stand in their canonical form: addresses rise strictly and no entry equals what an unlisted address reads as. -/
abbrev State.storesWf (s : State) : Prop :=
  swf regDefault s.regs = true ∧ swf zeroW s.words = true ∧ Memory.wf s.mem = true ∧ swf zeroF s.poison = true ∧
    swf zeroN s.upset = true

/-- Key slot `l` is key slot `k` later: what a fuse holds stays (R425, R428). -/
def KeySlot.le (k l : KeySlot) : Prop :=
  (k.written = true → l.written = true ∧ l.key = k.key ∧ l.dbg = k.dbg) ∧ (k.revoked = true → l.revoked = true)

/-- The fuse block `g` is the fuse block `f` later: what manufacturing fused is the same, and what the life cycle burns only grows. -/
def Fuses.le (f g : Fuses) : Prop :=
  (g.stepping = f.stepping ∧ g.gradeH = f.gradeH ∧ g.rowGood = f.rowGood ∧ g.fbin = f.fbin ∧ g.serial = f.serial ∧ g.fwFused = f.fwFused ∧
    g.volts = f.volts) ∧
  f.lc ≤ g.lc ∧ f.svnFloor ≤ g.svnFloor ∧ f.banks ≤ g.banks ∧ (f.idValid = true → g.idValid = true) ∧ f.idSeed <+: g.idSeed ∧
  ∀ k, (nth ⟨false, false, false, []⟩ f.keys k).le (nth ⟨false, false, false, []⟩ g.keys k)

end Sys2Proof.Machine
end

