-- ==== Sys2Proof/Certificates/Slice0/Obligations.lean ====
section
/-!
DEFINITION. Obligations.lean: the statements for the provers. Each is a proposition named `Obligations.<Name>`; its docstring says what it
states. They speak of `exec` and `step` of the model, in the predicates of Safety.lean.
-/
open Sys2Proof Sys2Proof.Machine

/-- O1 (tier 1). With a command at the front of its queue the block's step is `exec` of that command on the state with the rest of the queue; with an
empty queue one ACLK period passes (the model's choice, log entry 1). -/
def Obligations.StepRunsTheFrontCommand : Prop :=
  (∀ (c : Instr) (s : State), step (s.front c) = exec c s) ∧
  (∀ s : State, s.pending = [] → step s = .next s.tick ∧ (0 < s.rstRank → s.tick = s))

/-- O2 (tier 1). In State.reset every register of a numbered offset reads its reset value, every on-chip byte reads 0 with no poison and no error, no
command waits, no job runs and no completion, message or posted write stands. -/
def Obligations.ResetLeaves : Prop :=
  (∀ o, State.reset.reg o = regDefault o) ∧ (∀ a, State.reset.byte a = 0 ∧ State.reset.poisoned a = false ∧ State.reset.upsetAt a = 0) ∧
    (∀ r, State.reset.tile r = TileSt.init) ∧ (∀ c, (State.reset.cask c).cnt = 0) ∧
    State.reset.pending = [] ∧ State.reset.job.running = false ∧ State.reset.cp.comps = [] ∧ State.reset.cp.out = [] ∧
    State.reset.irqOut = []

/-- O3 (tier 1). State.reset has every sparse store (registers, indirect words, memory, poison marks, error patterns) in canonical form and the right
number of units in every group of like units. -/
def Obligations.InvariantsAtReset : Prop :=
  State.reset.storesWf ∧ State.reset.shaped

/-- O4 (tier 3). If the sparse stores of a state stand in canonical form and a step answers a next state, they stand in canonical form there. -/
def Obligations.StoresStayCanonical : Prop :=
  ∀ s t : State, s.storesWf → step s = .next t → t.storesWf

/-- O5 (tier 3). If every group of like units (cameras, triggers, markers, channels, ports, streams, rings, regulators, supplies, slots, key slots,
the stages and ports of every tile, the counters of every Row) has the spec's number of units and a step answers a next state, it has that number
there. -/
def Obligations.UnitsStayInNumber : Prop :=
  ∀ s t : State, s.shaped → step s = .next t → t.shaped

/-- O6 (tier 3). Whatever a step does, what manufacturing fused is unchanged and what the life cycle burns (state, seed banks, svn fuses, key slots)
only grows: no reset, wipe or command takes a burned fuse back. -/
def Obligations.FusesOnlyBurn : Prop :=
  ∀ s t : State, step s = .next t → s.fuse.le t.fuse

/-- O7 (tier 1). When the command processor takes a NOP with no reserved bit set, exec answers the state in which the consumer index of ring 0 is one
higher and a completion with code 0 echoes operand bytes 15:8; nothing else changes. -/
def Obligations.NopCompletes : Prop :=
  ∀ (e : CmdEntry) (s : State), s.takes → e.flags.toNat < 2 → e.rsv = 0 → e.ops.toNat < 2 ^ 64 →
    exec (.nop e) s = .next { s.consumed with cp := { s.cp with comps := s.cp.comps ++ [doneEntry 0 e 0 e.ops.toNat] } }

/-- O8 (tier 2). A command of any opcode of Table 11.6 with a reserved bit set or an operand out of range completes with E-0102: the consumer index of
ring 0 advances, one completion entry is queued, and the job's first error, an open result value and nothing else change. -/
def Obligations.MalformedCommandRefused : Prop :=
  ∀ (e : CmdEntry) (data : List Byte) (bad : Nat) (s : State), s.takes → ∀ x ∈ ([(0, .nop e), (1, .loadBlend e), (2, .place e), (3, .startJob e),
      (4, .endJob e), (5, .switchVintage e), (6, .fence e), (7, .hintPhase e), (8, .setCap e), (9, .graftSubmit e data bad),
      (10, .graftCommit e), (11, .barrier e), (12, .snapshot e), (13, .replayPush e data bad), (14, .query e), (15, .attest e)] : List (Nat × Instr)),
    (reservedSet ⟨x.1, e, [], 0⟩ = true ∨ outOfRange ⟨x.1, e, [], 0⟩ = true) →
    ∃ t res, exec x.2 s = .next t ∧ s.answered t (doneEntry x.1 e 0x0102 res) ∧
      t = { s.consumed with cp := t.cp, free := t.free, job := { s.job with firstErr := t.job.firstErr } } ∧
      t.cp = { s.cp with comps := t.cp.comps }

/-- O9 (tier 1). SET_CAP writes PWR.CAP.cap and leaves the hysteresis as it is (the model's choice, log entry 137); HINT_PHASE code 0 cancels the hint
and its margin, codes 1 and 2 replace the hint, but a range of bands that has passed leaves none; each completes at once with code 0 and changes no
other register and no memory. -/
def Obligations.PowerCommandsComplete : Prop :=
  (∀ (e : CmdEntry) (s : State), s.takes → malformed ⟨8, e, [], 0⟩ = false →
    ∃ t, exec (.setCap e) s = .next t ∧ t.fget F.PWR_CAP_cap = CmdF e 8 2 ∧ t.fget F.PWR_CAP_hyst = s.fget F.PWR_CAP_hyst ∧
      s.answered t (doneEntry 8 e 0 0) ∧ s.regsBut t [R.PWR_CAP, R.PCI_RING_CONS 0] ∧ s.sameMem t) ∧
  (∀ (e : CmdEntry) (s : State), s.takes → malformed ⟨7, e, [], 0⟩ = false →
    ∃ t, exec (.hintPhase e) s = .next t ∧ s.answered t (doneEntry 7 e 0 0) ∧ s.regsBut t [R.PCI_RING_CONS 0] ∧ s.sameMem t ∧
      (CmdF e 8 1 = 0 → t.pwr.hint = none ∧ t.pwr.margin = 0) ∧
      (CmdF e 8 1 ≠ 0 → s.job.running = true → CmdF e 16 4 ≠ 0 → CmdF e 12 4 + CmdF e 16 4 ≤ s.curBand →
        t.pwr.hint = none ∧ t.pwr.margin = 0) ∧
      (CmdF e 8 1 ≠ 0 → (s.job.running = false ∨ CmdF e 16 4 = 0 ∨ s.curBand < CmdF e 12 4 + CmdF e 16 4) →
        t.pwr.hint = some (CmdF e 8 1, CmdF e 12 4, CmdF e 16 4)))

/-- O10 (tier 1). A FENCE with no HyperRAM write outstanding completes at once; with one outstanding it stays in hand, marking the writes issued
before it. HYPERRAM_WRITE_ACCEPTED on the channel of the only such write, here one whole block outside the Blend store, stores its bytes and no other,
removes it and completes the FENCE with code 0; on a channel that initialises it waits. -/
def Obligations.FenceWaitsForWrites : Prop :=
  (∀ (e : CmdEntry) (s : State), s.takes → malformed ⟨6, e, [], 0⟩ = false →
    (s.str.writes = [] → ∃ t, exec (.fence e) s = .next t ∧ s.answered t (doneEntry 6 e 0 0) ∧ t.str = s.str ∧
      s.regsBut t [R.PCI_RING_CONS 0] ∧ s.sameMem t) ∧
    (s.str.writes ≠ [] → ∃ t, exec (.fence e) s = .next t ∧ t.cp.serial = some ⟨6, e, [], 0⟩ ∧ t.cp.comps = s.cp.comps ∧
      t.str = { s.str with fenceTo := some s.str.nextWrite } ∧ s.regsBut t [R.PCI_RING_CONS 0] ∧ s.sameMem t)) ∧
  (∀ (ch : Fin 4) (e : CmdEntry) (w : HyperWr) (n : Nat) (s : State), s.str.writes = [w] → s.chanOf (w.addr - hyperBase) = some ch.val →
      s.chanInit ch = false → s.str.fenceTo = some n → w.no < n → s.cp.serial = some ⟨6, e, [], 0⟩ → s.cp.cmds = [] →
      w.addr % 32 = 0 → w.bytes.length = 32 → s.spanOk w.addr 32 = true → s.hitsBstore w.addr 32 = false →
    ∃ t, exec (.hyperramWriteAccepted ch) s = .next t ∧ t.str.writes = [] ∧ t.str.fenceTo = none ∧ t.cp.serial = none ∧
      s.answered t (doneEntry 6 e 0 0) ∧ t.bytesAt w.addr 32 = w.bytes ∧ t.poisoned w.addr = w.poison ∧
      (∀ a, (a < w.addr ∨ w.addr + 32 ≤ a) → t.byte a = s.byte a) ∧ s.regsBut t []) ∧
  (∀ (ch : Fin 4) (w : HyperWr) (s : State), s.str.writes = [w] → s.chanOf (w.addr - hyperBase) = some ch.val → s.chanInit ch = true →
    exec (.hyperramWriteAccepted ch) s = .next s)

/-- O11 (tier 2). A START_JOB whose checks pass leaves a job that fills, with its number, band length and kinds from the command, the array's counts
at 0, no cask or wire holding a flit, PWR.STATE.state 0, and the command in hand with no completion yet; FILL_RECORDS_DONE then ends filling,
completes START_JOB with code 0, and a job that is no system job has the array clocked. -/
def Obligations.StartJobStartsTheFills : Prop :=
  (∀ (e : CmdEntry) (s : State), s.takes → malformed ⟨3, e, [], 0⟩ = false → s.consumed.startCode (CmdF e 8 2) = 0 →
    ∃ t, exec (.startJob e) s = .next t ∧ t.job.running = true ∧ t.job.filling = true ∧ t.job.number = CmdF e 12 4 ∧
      t.job.bandLen = CmdF e 8 2 ∧ t.job.replay = bitN (CmdF e 10 1) 0 ∧ t.job.system = bitN (CmdF e 10 1) 1 ∧
      t.cp.serial = some ⟨3, e, [], 0⟩ ∧ t.cp.comps = s.cp.comps ∧ t.arr.runAc = 0 ∧ t.arr.casks = [] ∧ t.arr.flights = [] ∧
      t.fget F.PWR_STATE_state = 0 ∧ s.regsBut t [R.PWR_STATE, R.PCI_RING_CONS 0] ∧ s.sameMem t) ∧
  (∀ (e : CmdEntry) (s : State), s.takes → malformed ⟨3, e, [], 0⟩ = false → s.consumed.startCode (CmdF e 8 2) ≠ 0 →
    ∃ t res, exec (.startJob e) s = .next t ∧ s.answered t (doneEntry 3 e (s.consumed.startCode (CmdF e 8 2)) res) ∧
      t.job.running = s.job.running) ∧
  (∀ (e : CmdEntry) (s : State), s.job.filling = true → s.pwr.tripped = false → s.job.system = false → s.trl.waitStart = false →
    s.cp.serial = some ⟨3, e, [], 0⟩ → s.cp.cmds = [] →
    ∃ t, exec .fillRecordsDone s = .next t ∧ t.job.filling = false ∧ t.arr.clocked = true ∧ t.cp.serial = none ∧
      s.answered t (doneEntry 3 e 0 0))

/-- O12 (tier 2). After a START_JOB that passes its checks every tile whose use bit of the active Vintage is set stands at pc 0 of that Vintage,
started, with no loop open, empty latches, rot 0 and gain 1.0; every other tile stands as at reset. -/
def Obligations.StartedTilesStandAtPcZero : Prop :=
  ∀ (e : CmdEntry) (s : State) (r : TileRef), s.takes → malformed ⟨3, e, [], 0⟩ = false → s.consumed.startCode (CmdF e 8 2) = 0 →
    ∃ t, exec (.startJob e) s = .next t ∧
      (s.usesTile r s.activeV = true → (t.tile r).pc = 0 ∧ (t.tile r).vint = s.activeV ∧ (t.tile r).started = true ∧
        (t.tile r).st = .firing ∧ (t.tile r).loops = [] ∧ (t.tile r).latch = [] ∧ (t.tile r).rot = [0, 0, 0, 0] ∧ (t.tile r).gain = 0x4000) ∧
      (s.usesTile r s.activeV = false → t.tile r = TileSt.init)

/-- O13 (tier 1). END_JOB during a job with no END_JOB in hand records its tag, its irq flag and the band it names and changes nothing else but the
ring's index; without a job it completes with E-0109. SWITCH_VINTAGE outside a job to a placed Vintage whose Rows are not retired makes it active and
completes with the result 0xFFFF_FFFF; to a Vintage that is not placed it completes with E-0701 and the active Vintage stays. -/
def Obligations.EndJobAndSwitchOutsideJob : Prop :=
  (∀ (e : CmdEntry) (s : State), s.takes → malformed ⟨4, e, [], 0⟩ = false → s.job.running = true → s.job.endReq = none →
      s.job.system = false →
    exec (.endJob e) s = .next { s.consumed with job := { s.job with endReq := some (e.tag.toNat, e.flags.getLsbD 0, CmdF e 8 4) } }) ∧
  (∀ (e : CmdEntry) (s : State), s.takes → malformed ⟨4, e, [], 0⟩ = false → s.job.running = false →
    ∃ t res, exec (.endJob e) s = .next t ∧ s.answered t (doneEntry 4 e 0x0109 res)) ∧
  (∀ (e : CmdEntry) (s : State), s.takes → malformed ⟨5, e, [], 0⟩ = false → s.job.running = false →
      s.isPlaced (CmdF e 8 1) = true → s.consumed.mapRetired (CmdF e 8 1) = false →
    ∃ t, exec (.switchVintage e) s = .next t ∧ t.activeV = CmdF e 8 1 ∧ s.answered t (doneEntry 5 e 0 0xFFFFFFFF) ∧
      s.regsBut t [R.HUB_VNT_STATUS, R.PCI_RING_CONS 0] ∧ s.sameMem t ∧ t.job = s.job) ∧
  (∀ (e : CmdEntry) (s : State), s.takes → malformed ⟨5, e, [], 0⟩ = false → s.isPlaced (CmdF e 8 1) = false →
    ∃ t res, exec (.switchVintage e) s = .next t ∧ s.answered t (doneEntry 5 e 0x0701 res) ∧ t.activeV = s.activeV)

/-- O14 (tier 1). With the Cellarmaster running, LOAD_BLEND marks its slot invalid and loading and stays in hand; LOAD_BLEND_DONE with a failed read
completes it with the read's code and the slot stays invalid; with an image that passes every check, no channel under it initialising and no write
outstanding, it stores the image in the slot, records its length, measurement, network_id and key_id, and completes with the first 8 bytes of the
measurement. PLACE of a Vintage that no job locks, where it need not wait for a channel that initialises, marks it unplaced; from a slot that is not
valid it completes with E-0411, or with E-0414 where the slot's range is not usable; from an image that passes every check of steps 1 to 9 it stays in
hand with the placement under way. PLACE_DONE after undisturbed writes marks the Vintage placed and completes PLACE with the variant. -/
def Obligations.LoaderCommands : Prop :=
  (∀ (e : CmdEntry) (s : State), s.takes → malformed ⟨1, e, [], 0⟩ = false → s.cmRuns = true →
    ∃ t, exec (.loadBlend e) s = .next t ∧ t.hrm.loading = some (CmdF e 8 1) ∧ t.cp.serial = some ⟨1, e, [], 0⟩ ∧
      t.cp.comps = s.cp.comps ∧ (nth SlotSt.init t.hrm.slots (CmdF e 8 1)).valid = false ∧ s.sameMem t) ∧
  (∀ (e : CmdEntry) (im : List Byte) (bad : Nat) (s : State), s.hrm.loading = some (CmdF e 8 1) → s.cp.serial = some ⟨1, e, [], 0⟩ →
      s.cp.cmds = [] → bad ≠ 0 →
    ∃ t res, exec (.loadBlendDone im bad) s = .next t ∧ t.hrm.loading = none ∧ t.cp.serial = none ∧ t.hrm.slots = s.hrm.slots ∧
      s.answered t (doneEntry 1 e bad res) ∧ s.sameMem t) ∧
  (∀ (e : CmdEntry) (im : List Byte) (slot : Nat) (s : State), s.shaped → s.hrm.loading = some slot → slot < 4 →
      s.cp.serial = some ⟨1, e, [], 0⟩ → s.cp.cmds = [] → 0 < (s.slotPlace slot).2 →
      s.rangeGood (s.slotPlace slot).1 (s.slotPlace slot).2 = true → s.imageBad im (CmdF e 12 4) = none →
      s.waitsInit (hyperBase + (s.slotPlace slot).1) im.length = false → s.str.writes = [] →
    let a := hyperBase + (s.slotPlace slot).1
    ∃ t, exec (.loadBlendDone im 0) s = .next t ∧ t.hrm.loading = none ∧ t.cp.serial = none ∧
      nth SlotSt.init t.hrm.slots slot = ⟨true, im.length, measure im, leAt im 0x30 4, leAt im 0x28 8⟩ ∧ t.bytesAt a im.length = im ∧
      s.answered t (doneEntry 1 e 0 (leAt (measure im) 0 8))) ∧
  (∀ (e : CmdEntry) (s : State), s.takes → malformed ⟨2, e, [], 0⟩ = false → s.cmRuns = true → s.job.running = false →
      s.placeWaits ⟨2, e, [], 0⟩ = false → (nth SlotSt.init s.hrm.slots (CmdF e 8 1)).valid = false →
    let k := s.slotPlace (CmdF e 8 1)
    ∃ t res, exec (.place e) s = .next t ∧ t.isPlaced (CmdF e 9 1) = false ∧
      s.answered t (doneEntry 2 e (if 0 < k.2 ∧ s.rangeGood k.1 k.2 = false then 0x0414 else 0x0411) res) ∧
      (s.isPlaced (CmdF e 9 1) = false → s.sameMem t)) ∧
  (∀ (e : CmdEntry) (im : List Byte) (k : Nat) (c : PCtx) (ws : List (Nat × List Byte)) (s s1 : State), s.takes →
      malformed ⟨2, e, [], 0⟩ = false → s.cmRuns = true → s.job.running = false → s.placeWaits ⟨2, e, [], 0⟩ = false →
      s.str.fenceTo = none →
    let o := placeOps e
    let at0 := s.slotPlace o.slot
    (nth SlotSt.init s.hrm.slots o.slot).valid = true → (at0.2 = 0 ∨ s.rangeGood at0.1 at0.2 = true) →
      readHyper ((s.placeStart e).inOrder (hyperBase + at0.1) (nth SlotSt.init s.hrm.slots o.slot).len) (hyperBase + at0.1)
        (nth SlotSt.init s.hrm.slots o.slot).len 5 = (im, false, s1) →
      s1.latShort (leAt im 0x12 1) = false → s1.pickVariant o (masksOf im) = .ok k →
      (if o.remap then s1.remapRows o.v (nth 0 (masksOf im) k) else s1).stagePlace o im k = .ok (c, ws) →
    ∃ t p, exec (.place e) s = .next t ∧ t.hrm.placing = some p ∧ p.v = o.v ∧ p.weights = ws ∧ p.rec1 = c.record o im k ∧
      p.touched = false ∧ t.isPlaced o.v = false ∧ t.cp.serial = some ⟨2, e, [], 0⟩ ∧ t.cp.comps = s.cp.comps ∧
      t.fget F.HUB_LDR_STATUS_variant = k) ∧
  (∀ (e : CmdEntry) (p : PlaceSt) (s : State), s.hrm.placing = some p → s.cp.serial = some ⟨2, e, [], 0⟩ → s.cp.cmds = [] → p.v < 4 →
      p.weights = [] → p.casks = [] → p.dropCasks = [] → p.rows = [] → p.touched = false →
      (nth SlotSt.init s.hrm.slots p.rec1.slot).valid = true → p.v ≠ s.activeV → s.pci.d3Wait = false →
    ∃ t, exec .placeDone s = .next t ∧ t.isPlaced p.v = true ∧ t.hrm.placing = none ∧ s.answered t (doneEntry 2 e 0 p.rec1.variant))

/-- O15 (tier 1). While background traffic is deferred and the Graft queue is empty, GRAFT_SUBMIT and GRAFT_COMMIT enter it with the operands of the
command and no completion; with 16 commands queued either completes with E-0D07. REPLAY_PUSH in a replay job for an enabled camera, with its data read
and at least one line, stays in hand behind the pushes before it. -/
def Obligations.QueueingCommands : Prop :=
  (∀ (e : CmdEntry) (data : List Byte) (bad : Nat) (s : State), s.takes → malformed ⟨9, e, data, bad⟩ = false → s.grf.queue = [] →
      s.pwr.deferBg = true →
    ∃ t q, exec (.graftSubmit e data bad) s = .next t ∧ t.grf.queue = [q] ∧ q.commit = false ∧ q.tag = e.tag.toNat ∧
      q.irq = e.flags.getLsbD 0 ∧ q.reset = bitN (CmdF e 10 1) 0 ∧ q.steps = CmdF e 12 2 ∧ q.list = data.take (8 * CmdF e 8 2) ∧ q.bad = bad ∧ t.cp.comps = s.cp.comps ∧
      s.sameMem t ∧ s.regsBut t [R.PCI_RING_CONS 0]) ∧
  (∀ (e : CmdEntry) (s : State), s.takes → malformed ⟨0x0A, e, [], 0⟩ = false → s.grf.queue = [] → s.pwr.deferBg = true →
    ∃ t q, exec (.graftCommit e) s = .next t ∧ t.grf.queue = [q] ∧ q.commit = true ∧ q.tag = e.tag.toNat ∧ q.irq = e.flags.getLsbD 0 ∧
      q.target = CmdF e 8 1 ∧ q.band = (if bitN (CmdF e 9 1) 0 then some (CmdF e 12 4) else none) ∧ t.cp.comps = s.cp.comps ∧ s.sameMem t ∧
      s.regsBut t [R.PCI_RING_CONS 0]) ∧
  (∀ (e : CmdEntry) (data : List Byte) (bad : Nat) (s : State), s.takes → malformed ⟨9, e, data, bad⟩ = false →
      16 ≤ s.grf.queue.length →
    ∃ t res, exec (.graftSubmit e data bad) s = .next t ∧ s.answered t (doneEntry 9 e 0x0D07 res) ∧ t.grf = s.grf) ∧
  (∀ (e : CmdEntry) (s : State), s.takes → malformed ⟨0x0A, e, [], 0⟩ = false → 16 ≤ s.grf.queue.length →
    ∃ t res, exec (.graftCommit e) s = .next t ∧ s.answered t (doneEntry 0x0A e 0x0D07 res) ∧ t.grf = s.grf) ∧
  (∀ (e : CmdEntry) (data : List Byte) (s : State), s.takes → malformed ⟨0x0D, e, data, 0⟩ = false → s.replayJob = true →
      s.camOn (CmdF e 8 1) = true → CmdF e 12 2 ≠ 0 → s.cp.replay.length < 16 →
    ∃ t r, exec (.replayPush e data 0) s = .next t ∧ t.cp.replay = s.cp.replay ++ [r] ∧ r.tag = e.tag.toNat ∧ r.cam = CmdF e 8 1 ∧
      r.lines = CmdF e 12 2 ∧ r.stride = CmdF e 24 4 ∧ r.pos = CmdF e 28 6 ∧ r.step = CmdF e 34 2 ∧ r.data = data ∧
      t.cp.comps = s.cp.comps ∧ s.sameMem t ∧ s.regsBut t [R.PCI_RING_CONS 0])

/-- O16 (tier 1). On a device that is no part of a ring, where nothing has arrived and no barrier is in hand, a BARRIER releases at once and completes
with its id; a SNAPSHOT is released at once with a band two after the current one, keeps its destination and stays in hand until the state is captured
and written. -/
def Obligations.BarrierAndSnapshotAlone : Prop :=
  (∀ (e : CmdEntry) (s : State), s.takes → malformed ⟨0x0B, e, [], 0⟩ = false → s.cp.barrier = none → s.inSystem = false →
      s.trl.arrivals = [] → s.fbit F.PWR_LOAM_en = false →
    ∃ t, exec (.barrier e) s = .next t ∧ t.cp.barrier = none ∧ s.answered t (doneEntry 0x0B e 0 (CmdF e 8 4)) ∧ t.trl.arrivals = [] ∧
      s.sameMem t ∧ s.regsBut t [R.PCI_RING_CONS 0]) ∧
  (∀ (e : CmdEntry) (s : State), s.takes → malformed ⟨0x0C, e, [], 0⟩ = false → s.cp.snap = none → s.inSystem = false →
      s.trl.arrivals = [] →
    ∃ t b, exec (.snapshot e) s = .next t ∧ t.cp.snap = some b ∧ b.id = CmdF e 8 4 ∧ b.dst = CmdF e 16 5 ∧ b.tag = e.tag.toNat ∧
      b.band = some (s.curBand + 2) ∧ b.block = none ∧ t.cp.comps = s.cp.comps ∧ t.trl.arrivals = [] ∧ s.sameMem t ∧
      s.regsBut t [R.PCI_RING_CONS 0])

/-- O17 (tier 1). With the Cellarmaster running, QUERY kind 0 completes with the part and Vintage status; kind 1 writes the performance report of a
placed Vintage and kind 2 the job summary, cut to the buffer, to the address of the command, and completes with its full length; kind 1 for a Vintage
that is not placed completes with E-0701. ATTEST in Provisioned or Sealed with a valid identity and a large enough buffer captures the fields of the
report for the nonce of the command, with its tag, irq flag and address, and stays in hand; ATTEST_DONE writes the fields and the signature of their
digest by the newest identity bank (SLH-DSA written out from FIPS 205, log entry 72) to the host and completes ATTEST with 8,240. -/
def Obligations.QueryAndAttest : Prop :=
  (∀ (e : CmdEntry) (s : State), s.takes → malformed ⟨0x0E, e, [], 0⟩ = false → s.cmRuns = true → CmdF e 8 1 = 0 →
    ∃ t, exec (.query e) s = .next t ∧ s.answered t (doneEntry 0x0E e 0 (s.partInfo + 2 ^ 32 * s.vntShow)) ∧ s.sameMem t ∧
      s.regsBut t [R.PCI_RING_CONS 0] ∧ t.cp.out = s.cp.out) ∧
  (∀ (e : CmdEntry) (s : State), s.takes → malformed ⟨0x0E, e, [], 0⟩ = false → s.cmRuns = true → CmdF e 8 1 = 1 →
    let bs := (s.placedRec (CmdF e 9 1)).report.take (CmdF e 12 4)
    (s.isPlaced (CmdF e 9 1) = true →
      ∃ t, exec (.query e) s = .next t ∧ s.answered t (doneEntry 0x0E e 0 (s.placedRec (CmdF e 9 1)).report.length) ∧
        t.cp.out = (if bs.isEmpty then s else s.post (CmdF e 16 8) bs).cp.out ∧ s.sameMem t ∧ s.regsBut t [R.PCI_RING_CONS 0]) ∧
    (s.isPlaced (CmdF e 9 1) = false →
      ∃ t res, exec (.query e) s = .next t ∧ s.answered t (doneEntry 0x0E e 0x0701 res) ∧ t.cp.out = s.cp.out ∧ s.sameMem t)) ∧
  (∀ (e : CmdEntry) (s : State), s.takes → malformed ⟨0x0E, e, [], 0⟩ = false → s.cmRuns = true → CmdF e 8 1 = 2 →
    ∃ t, exec (.query e) s = .next t ∧ s.answered t (doneEntry 0x0E e 0 s.summary.length) ∧
      t.cp.out = (if CmdF e 12 4 = 0 then s else s.post (CmdF e 16 8) (s.summary.take (CmdF e 12 4))).cp.out ∧ s.sameMem t ∧
      s.regsBut t [R.PCI_RING_CONS 0]) ∧
  (∀ (e : CmdEntry) (s : State), s.takes → malformed ⟨0x0F, e, [], 0⟩ = false → s.cmRuns = true → s.cp.attest = none →
      (s.fuse.lc = 1 ∨ s.fuse.lc = 2) → s.idBank.isSome = true → 8240 ≤ CmdF e 48 4 →
    ∃ t, exec (.attest e) s = .next t ∧
      t.cp.attest = some ⟨e.tag.toNat, e.flags.getLsbD 0, CmdF e 40 8, s.attestFields (bytesOf 32 (CmdF e 8 32))⟩ ∧ t.cp.comps = s.cp.comps ∧ s.sameMem t ∧ s.regsBut t [R.PCI_RING_CONS 0]) ∧
  (∀ (a : AttestSt) (s : State), s.cp.attest = some a →
    ∃ t rnd, exec .attestDone s = .next t ∧ t.cp.attest = none ∧
      t.cp.out = (s.post a.addr (a.fields ++ slhSign (s.idBank.getD []) (bytesOf 16 rnd) (sha256 a.fields))).cp.out ∧
      s.answered t { kind := 1, tag := a.tag, op := 0x0F, code := 0, result := 8240, irq := a.irq } ∧ s.sameMem t ∧ s.regsBut t [])

/-- O18 (tier 2). A write of a HUB register below 0x8000 that no row of its own takes, that no rule bars and that no job locks, before Sealed, leaves
exactly this: bits with code RW or RWS take the value, W1C bits written as 1 clear, all other bits and everything else in the device stay. -/
def Obligations.RegisterWriteByAccessCodes : Prop :=
  ∀ (src : AccSrc) (o : Nat) (v : Word) (env : WriteEnv) (s : State), src ≠ .config → s.rstRank = 0 → s.barred src o = none →
    s.sealed = false → o < 0x8000 → o % 4 = 0 → (regAt o).isSome = true → (s.job.running && jobLocked o) = false →
    o ∉ [R.HUB_IRQ_MASK, R.HUB_PRB_CTRL, R.HUB_RST_CTRL, R.HUB_PRB_DATA_HI, R.HUB_DLD_STATUS] →
    exec (.registerWrite (.word src o v) env) s = .next (s.setReg o
      ((s.reg o &&& ~~~((accMask (fun a => a == .rw) o ||| accMask (fun a => a == .rws) o) ||| (accMask (fun a => a == .w1c) o &&& v))) |||
        (v &&& (accMask (fun a => a == .rw) o ||| accMask (fun a => a == .rws) o))))

/-- O19 (tier 2). LOW_WORD_READ of the low word of a 64-bit quantity answers it and latches the high word, and the next read of the high word answers
the latched value and uses it up. RC_FIELD_READ answers the register and clears its RC bits; its other bits, every other register and memory stay. -/
def Obligations.ReadsLatchAndClear : Prop :=
  (∀ (src : AccSrc) (o : Nat) (s : State), src ≠ .bar4 → src ≠ .config → s.rstRank = 0 → s.barred src o = none → isLow o = true →
      (s.cp.latch.find? fun y => y.1 == o) = none →
    ∃ t, exec (.lowWordRead src o) s = .next t ∧ t.cp.resp = .value (s.view o).toNat ∧
      t.cp.latch.find? (fun y => y.1 == o + 4) = some (o + 4, s.view (o + 4)) ∧ s.regsBut t [o] ∧ s.sameMem t) ∧
  (∀ (src : AccSrc) (o : Nat) (w : Word) (s : State), src ≠ .bar4 → src ≠ .config → s.rstRank = 0 → s.barred src o = none → o % 4 = 0 →
      s.indOf o = none →
      (s.cp.latch.find? fun y => y.1 == o) = some (o, w) →
    ∃ t, exec (.lowWordRead src o) s = .next t ∧ t.cp.resp = .value w.toNat ∧ t.cp.latch.find? (fun y => y.1 == o) = none ∧
      s.regsBut t [] ∧ s.sameMem t) ∧
  (∀ (src : AccSrc) (o : Nat) (s : State), src ≠ .bar4 → src ≠ .config → s.rstRank = 0 → s.barred src o = none → o % 4 = 0 → s.indOf o = none →
      isLow o = false → (s.cp.latch.find? fun y => y.1 == o) = none →
    ∃ t, exec (.rcFieldRead src o) s = .next t ∧ t.cp.resp = .value (s.view o).toNat ∧
      t.reg o = s.reg o &&& ~~~ accMask (fun a => a == .rc) o ∧ s.regsBut t [o] ∧ s.sameMem t)

/-- O20 (tier 2). Outside a job, with no error in its codeword, a write of a data register stores the defined bits of the value in the word that its
address register selects, marks the Vintage whose placement state the word is unplaced, and, when bit 31 of the address register is 1, advances the
index within its width; with bit 31 at 0 the address register stays. -/
def Obligations.IndirectWriteAndAutoinc : Prop :=
  ∀ (src : AccSrc) (o u i addr width : Nat) (sp : Space) (vo : Option Nat) (v : Word) (s : State), s.rstRank = 0 → s.barred src o = none →
    o % 4 = 0 → s.job.running = false → s.hrm.placing = none → s.indOf o = some ⟨addr, width, .word sp u i vo⟩ → sp ≠ .probe →
    s.upsetAt (wordCw sp u i) = 0 →
    ∃ t, exec (.indirectDataAccess src o (some v)) s = .next t ∧ t.word sp u i = v &&& wordBits sp u i v ∧
      (∀ w, vo = some w → w < 4 → t.isPlaced w = false) ∧
      (bitW (s.reg addr) 31 = true → bitsW (t.reg addr) 0 width = (bitsW (s.reg addr) 0 width + 1) % 2 ^ width ∧
        bitW (t.reg addr) 31 = true) ∧
      (bitW (s.reg addr) 31 = false → t.reg addr = s.reg addr) ∧ s.regsBut t [addr, R.HUB_VNT_STATUS] ∧
      ((∀ w, vo = some w → s.isPlaced w = false) → ∀ a, t.byte a = s.byte a)

/-- O21 (tier 1). An unaligned or wrong-width BAR0 access is a violation: a read answers Completer Abort, the count goes up, the first one is captured
with its address, source 0, direction and reason 3; an access of 4 aligned bytes that is barred is logged in the same way with the reason that bars
it, which is 0 at an unmapped offset. A BAR2 access outside the open window is a violation with source 1 and reason 4. A doorbell value outside its
ring is a violation with source 2 and reason 6. No other register and no memory changes. -/
def Obligations.BadAccessesAreLogged : Prop :=
  (∀ (write : Bool) (off len : Nat) (s : State), s.rstRank = 0 → (len ≠ 4 ∨ off % 4 ≠ 0) → s.fbit F.HUB_VIOL_INFO_valid = false → off < 2 ^ 20 →
    ∃ t, exec (.bar0InvalidAccess write off len) s = .next t ∧ t.fbit F.HUB_VIOL_INFO_valid = true ∧ t.fget F.HUB_VIOL_INFO_source = 0 ∧
      t.fget F.HUB_VIOL_INFO_write = (if write then 1 else 0) ∧ t.fget F.HUB_VIOL_INFO_reason = 3 ∧ t.fget F.HUB_VIOL_ADDR_addr = off ∧
      t.fget F.HUB_VIOL_COUNT_count = satAdd F.HUB_VIOL_COUNT_count.w (s.fget F.HUB_VIOL_COUNT_count) 1 ∧
      (write = false → t.cp.resp = .abort) ∧ s.sameMem t ∧
      s.regsBut t [R.HUB_VIOL_INFO, R.HUB_VIOL_ADDR, R.HUB_VIOL_COUNT, R.HUB_IRQ_STATUS]) ∧
  (∀ (write : Bool) (off r : Nat) (s : State), s.rstRank = 0 → off % 4 = 0 → s.barred .bar0 off = some r →
      s.fbit F.HUB_VIOL_INFO_valid = false → off < 2 ^ 20 →
    ∃ t, exec (.bar0InvalidAccess write off 4) s = .next t ∧ t.fbit F.HUB_VIOL_INFO_valid = true ∧ t.fget F.HUB_VIOL_INFO_source = 0 ∧
      t.fget F.HUB_VIOL_INFO_write = (if write then 1 else 0) ∧ t.fget F.HUB_VIOL_INFO_reason = r ∧ t.fget F.HUB_VIOL_ADDR_addr = off ∧
      t.fget F.HUB_VIOL_COUNT_count = satAdd F.HUB_VIOL_COUNT_count.w (s.fget F.HUB_VIOL_COUNT_count) 1 ∧
      (write = false → t.cp.resp = .abort) ∧ s.sameMem t ∧
      s.regsBut t [R.HUB_VIOL_INFO, R.HUB_VIOL_ADDR, R.HUB_VIOL_COUNT, R.HUB_IRQ_STATUS]) ∧
  (∀ (off : Nat) (s : State), placeOf off = .unmapped → s.barred .bar0 off = some 0) ∧
  (∀ (off len : Nat) (s : State), s.rstRank = 0 → 0 < len → s.pwr.park = false → s.bar2Ok off len = false →
      s.fbit F.HUB_VIOL_INFO_valid = false →
    ∃ t, exec (.bar2Access off len none []) s = .next t ∧ t.fget F.HUB_VIOL_INFO_source = 1 ∧ t.fget F.HUB_VIOL_INFO_reason = 4 ∧
      t.cp.resp = .abort ∧ s.sameMem t ∧ s.regsBut t [R.HUB_VIOL_INFO, R.HUB_VIOL_ADDR, R.HUB_VIOL_COUNT, R.HUB_IRQ_STATUS]) ∧
  (∀ (off : Nat) (v : Word) (s : State), s.rstRank = 0 → isBell off = true → s.bellOk (off / 4) v = false →
      s.fbit F.HUB_VIOL_INFO_valid = false →
    ∃ t, exec (.doorbell off v []) s = .next t ∧ t.fget F.HUB_VIOL_INFO_source = 2 ∧ t.fget F.HUB_VIOL_INFO_reason = 6 ∧ s.sameMem t ∧
      s.regsBut t [R.HUB_VIOL_INFO, R.HUB_VIOL_ADDR, R.HUB_VIOL_COUNT, R.HUB_IRQ_STATUS])

/-- O22 (tier 2). Inside the open window, with no error standing in the codewords touched, a BAR2 read answers the bytes stored, with error poisoning
when a codeword is poisoned, and changes no byte and no register; a write of one whole aligned codeword stores its bytes unpoisoned and leaves every
byte outside it as it was. -/
def Obligations.ApertureReadsAndWrites : Prop :=
  (∀ (off len : Nat) (s : State), s.rstRank = 0 → 0 < len → s.pwr.park = false → s.bar2Ok off len = true → (∀ a, s.upsetAt a = 0) →
    ∃ t p, exec (.bar2Access off len none []) s = .next t ∧ t.cp.resp = .bytes (s.bytesAt off len) p ∧
      (p = true ↔ ∃ a, a % 8 = 0 ∧ off < a + 8 ∧ a < off + len ∧ s.poisoned a = true) ∧ s.sameMem t ∧ s.regsBut t []) ∧
  (∀ (off : Nat) (bs : List Byte) (s : State), s.rstRank = 0 → bs.length = 8 → off % 8 = 0 → s.pwr.park = false → s.bar2Ok off 8 = true →
      s.job.running = false →
    ∃ t, exec (.bar2Access off 8 (some (bs.map some)) []) s = .next t ∧ t.bytesAt off 8 = bs ∧ t.poisoned off = false ∧
      (∀ a, (a < off ∨ off + 8 ≤ a) → t.byte a = s.byte a) ∧ s.regsBut t [])

/-- O23 (tier 1). A valid doorbell moves the host's end of its ring and nothing else of the registers. Setting en of a disabled ring with a size from
2^6 to 2^16 zeroes both indices; clearing en keeps the size and, on ring 0, drops what the processor has read but not taken. Setting a mask bit while
its status bit is 1 raises the vector of that bit; HUB.IRQ_MASK holds the value written. -/
def Obligations.HostRings : Prop :=
  (∀ (off : Nat) (v : Word) (s : State), s.rstRank = 0 → isBell off = true → 0 < off → s.bellOk (off / 4) v = true →
    exec (.doorbell off v []) s = .next (s.setReg (hostEnd (off / 4)) v)) ∧
  (∀ (r : Fin 5) (v : Word) (s : State), s.hostOk (R.PCI_RING_CFG r) → s.ringOn r = false → bitW v 8 = true → 6 ≤ bitsW v 0 5 →
      bitsW v 0 5 ≤ 16 →
    ∃ t, exec (.ringEnable r v) s = .next t ∧ t.ringOn r = true ∧ t.fget (F.PCI_RING_CFG_log2size r) = bitsW v 0 5 ∧
      t.reg (R.PCI_RING_PROD r) = 0 ∧ t.reg (R.PCI_RING_CONS r) = 0 ∧
      s.regsBut t [R.PCI_RING_CFG r, R.PCI_RING_PROD r, R.PCI_RING_CONS r] ∧ s.sameMem t) ∧
  (∀ (r : Fin 5) (v : Word) (s : State), s.hostOk (R.PCI_RING_CFG r) → s.ringOn r = true → bitW v 8 = false →
      bitsW v 0 5 = s.fget (F.PCI_RING_CFG_log2size r) →
    ∃ t, exec (.ringEnable r v) s = .next t ∧ t.ringOn r = false ∧ t.fget (F.PCI_RING_CFG_log2size r) = s.fget (F.PCI_RING_CFG_log2size r) ∧
      (r = 0 → t.cp.cmds = []) ∧ s.regsBut t [R.PCI_RING_CFG r] ∧ s.sameMem t) ∧
  (∀ (k : Fin 6) (s : State), s.hostOk R.HUB_IRQ_MASK → s.reg R.HUB_IRQ_MASK = 0 → bitN (s.fget irqBits) k = true → s.masked (irqVector k) = false →
    ∃ t, exec (.irqMaskWrite (BitVec.ofNat 32 (2 ^ k.val))) s = .next t ∧ t.irqOut = s.irqOut ++ (s.msgFor (irqVector k)).toList ∧
      t.reg R.HUB_IRQ_MASK = BitVec.ofNat 32 (2 ^ k.val) ∧ s.regsBut t [R.HUB_IRQ_MASK] ∧ s.sameMem t)

/-- O24 (tier 2). Where no cold reset is in progress, a cold reset by register, a JTAG hold instruction and the removal of power leave the fuses as
they were, every on-chip and HyperRAM byte at 0, no command, completion, job or Vintage, the Cellarmaster at state 1 and HUB.RST_STATUS with kind 0
and the cause (2, 4 and 0; for the removal of power that of the power-on to come, the model's choice, log entry 134); after the removal the device
stands in Off, and after a hold it is held until it leaves. -/
def Obligations.ColdResetKeepsOnlyFuses : Prop :=
  (∀ (failed : List (Fin 4 × Fin 8)) (s : State), s.rstLevel < 4 →
    ∃ t, exec (.coldReset .register failed) s = .next t ∧ t.fuse = s.fuse ∧ (∀ a, t.byte a = 0) ∧ t.cp.comps = [] ∧ t.cp.cmds = [] ∧
      t.job.running = false ∧ t.fget F.HUB_VNT_STATUS_placed = 0 ∧ t.fget F.HUB_CM_STATUS_state = 1 ∧ t.fget F.HUB_RST_STATUS_kind = 0 ∧
      t.fget F.HUB_RST_STATUS_cause = 2 ∧ t.sec.wiping = true ∧ (s.sec.flashOp = none → t.sec.flash = s.sec.flash)) ∧
  (∀ (failed : List (Fin 4 × Fin 8)) (s : State), s.sec.off = false →
    ∃ t, exec (.jtagBoundaryScan true failed) s = .next t ∧ t.sec.heldJtag = true ∧ t.rstRank = 4 ∧ t.fuse = s.fuse ∧ (∀ a, t.byte a = 0) ∧
      t.cp.comps = [] ∧ t.cp.cmds = [] ∧ t.job.running = false ∧ t.fget F.HUB_VNT_STATUS_placed = 0 ∧ t.fget F.HUB_CM_STATUS_state = 1 ∧
      t.fget F.HUB_RST_STATUS_kind = 0 ∧ t.fget F.HUB_RST_STATUS_cause = 4 ∧ (s.sec.flashOp = none → t.sec.flash = s.sec.flash)) ∧
  (∀ s : State, ∃ t, exec .powerRemoval s = .next t ∧ t.sec.off = true ∧ t.rstRank = 4 ∧ t.fuse = s.fuse ∧ (∀ a, t.byte a = 0) ∧
      t.cp.comps = [] ∧ t.cp.cmds = [] ∧ t.job.running = false ∧ t.fget F.HUB_VNT_STATUS_placed = 0 ∧ t.fget F.HUB_CM_STATUS_state = 1 ∧
      t.fget F.HUB_RST_STATUS_kind = 0 ∧ t.fget F.HUB_RST_STATUS_cause = 0 ∧ (s.sec.flashOp = none → t.sec.flash = s.sec.flash))

/-- O25 (tier 2). A warm reset by register with no reset in progress, every sensor below 115 °C and HyperRAM not in the deep power-down of a Park
wipes on-chip SRAM, keeps HyperRAM's bytes, invalidates every Blend slot, counts itself and leaves HUB.RST_STATUS with kind 1 and cause 2. An FLR of a
device that is not parked keeps every byte outside the Terraces and leaves kind 2. Both keep the fuses, discard every command and completion and leave
no job and no Vintage placed. -/
def Obligations.WarmResetAndFlr : Prop :=
  (∀ (failed : List (Fin 4 × Fin 8)) (s : State), s.rstLevel = 0 → s.tooHot = false → (s.pwr.park && s.pwr.dpd) = false →
    ∃ t, exec (.warmReset .register failed) s = .next t ∧ t.fuse = s.fuse ∧ (∀ a, inHyper a = true → t.byte a = s.byte a) ∧
      (∀ a, inHyper a = false → t.byte a = 0) ∧ (∀ k < 4, (nth SlotSt.init t.hrm.slots k).valid = false) ∧ t.cp.comps = [] ∧ t.cp.cmds = [] ∧
      t.job.running = false ∧ t.fget F.HUB_VNT_STATUS_placed = 0 ∧ t.fget F.HUB_RST_STATUS_kind = 1 ∧ t.fget F.HUB_RST_STATUS_cause = 2 ∧
      t.fget F.HUB_RST_STATUS_warm_cnt = satAdd 8 (s.fget F.HUB_RST_STATUS_warm_cnt) 1 ∧ t.sec.wiping = true) ∧
  (∀ (failed : List (Fin 4 × Fin 8)) (s : State), s.rstLevel = 0 → s.pwr.park = false →
    ∃ t, exec (.flr failed) s = .next t ∧ t.fuse = s.fuse ∧ (∀ a, inTerrace a = false → t.byte a = s.byte a) ∧ t.cp.comps = [] ∧ t.cp.cmds = [] ∧
      t.job.running = false ∧ t.fget F.HUB_VNT_STATUS_placed = 0 ∧ t.fget F.HUB_RST_STATUS_kind = 2)

/-- O26 (tier 2). An array reset with no broader reset in progress ends a running job with a job-end entry of its tag with E-0C20, empties the array,
its tiles and its casks, keeps the fuses and the placed bits and, with no Graft command or feature entry waiting, every byte, and leaves
HUB.RST_STATUS with kind 3. Outside a job, with no settle and no frequency change to come, it returns every class V bit of a register to its reset
value and no other bit, but in the registers that show bridges, the Cellarmaster, the reset, interrupts, the security errors, the clock and the power
state. -/
def Obligations.ArrayResetReturnsClassV : Prop :=
  ∀ (failed : List (Fin 4 × Fin 8)) (s : State), s.rstLevel = 0 → s.storesWf →
    ∃ t, exec (.arrayReset failed) s = .next t ∧ t.fuse = s.fuse ∧ t.job.running = false ∧ t.arr.flights = [] ∧ t.arr.clocked = false ∧
      t.sw = none ∧ t.swWait = none ∧ t.fget F.HUB_VNT_STATUS_placed = s.fget F.HUB_VNT_STATUS_placed ∧
      t.fget F.HUB_RST_STATUS_kind = 3 ∧ (∀ r, t.tile r = TileSt.init) ∧ (∀ c, t.cask c = CaskSt.init) ∧
      (s.job.running = true → ∃ c ∈ t.cp.comps, c.kind = 2 ∧ c.op = 3 ∧ c.tag = s.job.tag ∧ c.code = 0x0C20) ∧
      (s.grf.wait = [] → s.grf.queue = [] → ∀ a, t.byte a = s.byte a) ∧
      (s.grf.wait = [] → s.grf.queue = [] → s.pwr.settle = false → s.wanted = s.binNow → s.job.running = false →
        ∀ o, o ∉ [R.HUB_CM_STATUS, R.HUB_RST_STATUS, R.SEC_ERR, R.HUB_IRQ_STATUS, R.PWR_FREQ_STATUS, R.HUB_HOLD_STATUS, R.PWR_GOV,
            R.PWR_STATE] → (∀ T j, T < 4 → j < 8 → o ≠ R.IO_BRIDGE_STATUS (ioBase T j)) →
          t.reg o = (s.reg o &&& ~~~ clsMask isV o) ||| (regDefault o &&& clsMask isV o))

/-- O27 (tier 1). A Cellarmaster restart with no reset and no restart in progress holds the Cellarmaster (state 1), counts itself and leaves
HUB.RST_STATUS kind 4 with cause 1, completing a loader command in hand with E-0C21; the watchdog's expiry does the same with cause 0 and E-0C22 when
it is enabled. BOOT does nothing while a ball, a JTAG hold, TEST_EN or missing power holds the device. BOOT of a reset device whose two boot headers
fail enters recovery: slot 2, state 3, result 0x0C01 for both slots, which SEC.ERR captures as the first error. BOOT with no wipe left over and no
restart in progress runs the first image, in the order of seq, that passes every check (state 2, its slot and svn shown), and enters recovery (state
3, slot 2, svn 0) when none passes; the BOOT that ends a restart shows an image that passes in the same way and sets HUB.IRQ_STATUS.cm, and leaves the
Cellarmaster held (state 3) when none passes; the firmware keys are open (Config.fwKey), so no image that passes can be written out here. -/
def Obligations.CellarmasterAndBoot : Prop :=
  (∀ s : State, s.rstLevel = 0 → s.sec.restart = false → s.cp.serial = none → s.cp.attest = none → s.cp.cmds = [] →
      s.hrm.placing = none → s.pci.d3Wait = false →
    ∃ t, exec .cellarmasterRestart s = .next t ∧ t.fget F.HUB_CM_STATUS_state = 1 ∧ t.sec.cm = 1 ∧ t.sec.restart = true ∧
      t.fget F.HUB_RST_STATUS_kind = 4 ∧ t.fget F.HUB_RST_STATUS_cause = 1 ∧
      t.fget F.HUB_CM_STATUS_restarts = satAdd F.HUB_CM_STATUS_restarts.w (s.fget F.HUB_CM_STATUS_restarts) 1 ∧ s.sameMem t) ∧
  (∀ (c : Cmd) (s : State), s.rstLevel = 0 → s.sec.restart = false → s.pci.d3Wait = false → s.cp.serial = some c → (c.op = 1 ∨ c.op = 2) → s.cp.attest = none →
      s.cp.cmds = [] →
    ∃ t res, exec .cellarmasterRestart s = .next t ∧ t.cp.serial = none ∧ s.answered t (doneEntry c.op c.e 0x0C21 res)) ∧
  (∀ s : State, s.rstLevel = 0 → s.sec.restart = false → s.cp.serial = none → s.cp.attest = none → s.cp.cmds = [] → s.pci.d3Wait = false →
      s.fget F.HUB_CM_WDT_timeout_ms ≠ 0 → s.cmRuns = true → s.fbit F.SEC_ERR_valid = false →
    ∃ t, exec .watchdogExpiry s = .next t ∧ t.fget F.HUB_CM_STATUS_state = 1 ∧ t.sec.restart = true ∧ t.fget F.SEC_ERR_code = 0x0C22 ∧
      t.fget F.HUB_RST_STATUS_kind = 4 ∧ t.fget F.HUB_RST_STATUS_cause = 0) ∧
  (∀ s : State, s.rstHeld = true → exec .boot s = .next s) ∧
  (∀ s : State, s.rstHeld = false → s.sec.released = false → s.sec.restart = false → bootHeadOk (s.flashBytes 0 64) = false →
      bootHeadOk (s.flashBytes 0x2000000 64) = false → s.fbit F.SEC_ERR_valid = false →
    ∃ t, exec .boot s = .next t ∧ t.recovery = true ∧ t.fget F.HUB_CM_STATUS_state = 3 ∧ t.fget F.SEC_ERR_code = 0x0C01 ∧
      t.fget F.SEC_BOOT_STATUS_slot = 2 ∧
      t.fget F.SEC_BOOT_CODE_code_a = 0x0C01 ∧ t.fget F.SEC_BOOT_CODE_code_b = 0x0C01 ∧ t.sec.boot = none) ∧
  (∀ s : State, s.rstHeld = false → s.sec.released = false → s.sec.restart = false → bitN s.sec.wipeDone s.fuse.lc = true →
    let ha := s.flashBytes 0 64
    let hb := s.flashBytes (bootBase 1) 64
    let p := s.bootPick (bootOrder ha hb) []
    ∃ t, exec .boot s = .next t ∧ t.sec.boot = p.2 ∧ t.recovery = p.2.isNone ∧
      t.fget F.HUB_CM_STATUS_state = (if p.2.isSome then 2 else 3) ∧
      (∀ b, p.2 = some b → t.fget F.SEC_BOOT_STATUS_slot = b.slot ∧ t.fget F.SEC_BOOT_STATUS_svn = b.svn % 2 ^ F.SEC_BOOT_STATUS_svn.w) ∧
      (p.2 = none → t.fget F.SEC_BOOT_STATUS_slot = 2 ∧ t.fget F.SEC_BOOT_STATUS_svn = 0)) ∧
  (∀ s : State, s.rstHeld = false → s.sec.released = true → s.sec.restart = true →
    let p := s.bootPick (bootOrder (s.flashBytes 0 64) (s.flashBytes (bootBase 1) 64)) []
    ∃ t, exec .boot s = .next t ∧ t.sec.restart = false ∧ t.fget F.HUB_CM_STATUS_state = (if p.2.isSome then 2 else 3) ∧
      (∀ b, p.2 = some b → t.sec.boot = some b ∧ t.fget F.SEC_BOOT_STATUS_slot = b.slot ∧ bitN (t.fget irqBits) 5 = true) ∧
      (p.2 = none → t.sec.boot = s.sec.boot))

/-- O28 (tier 1). WIPE_DONE outside a life-cycle transition ends the wipe and RESET_BALL_RELEASE ends the hold of its ball; nothing else changes. A
Row's logic cells whose running trees have each made 64 edges in the stage advance one stage and count again from 0. -/
def Obligations.WipeAndHoldsEnd : Prop :=
  (∀ s : State, s.sec.trans = none → exec .wipeDone s = .next { s with sec := { s.sec with wiping := false } }) ∧
  (∀ s : State, exec (.resetBallRelease 0) s = .next { s with sec := { s.sec with heldCold := false } } ∧
    exec (.resetBallRelease 1) s = .next { s with sec := { s.sec with heldWarm := false } } ∧
    exec (.resetBallRelease 2) s = .next { s with sec := { s.sec with heldPerst := false } }) ∧
  (∀ (t : Fin 4) (row : Fin 9) (s : State), (s.lcRow t row).go = true → (s.lcRow t row).stage < 3 → s.pwr.park = false →
      (∃ g < 4, s.treeRuns t g = true) → (∀ g < 4, s.treeRuns t g = true → 64 ≤ nth 0 (s.lcRow t row).cyc g) →
    exec (.logicCellRelease t row) s =
      .next (s.setLcRow t row { s.lcRow t row with stage := (s.lcRow t row).stage + 1, cyc := [0, 0, 0, 0] }))

/-- O29 (tier 1). A host write of D3hot with no PLACE in hand ends a running job: its job-end entry, with E-0108 where no error came before, goes to a
free slot of ring 1, or waits where there is none, and an END_JOB in hand completes with code 0; the device parks with cause 1 and has no job and no
deferred command. A write of D0 leaves the Park that D3hot entered (PWR.STATE reads 3 until the next ACLK period, the model's choice, log entry 205),
and a write of PWR.STATE.wake leaves a brown-out Park once no supply is below its warning level; where HyperRAM was kept, memory stays. -/
def Obligations.ParkEntryAndExit : Prop :=
  (∀ s : State, s.pwr.park = false → s.pci.d3 = false → s.hrm.placing = none →
    ∃ t, exec .d3hotEntry s = .next t ∧ t.pwr.park = true ∧ t.pci.d3 = true ∧ t.job.running = false ∧ t.sw = none ∧ t.swWait = none ∧
      t.cp.barrier = none ∧ t.cp.snap = none ∧ t.cp.attest = none ∧ t.cp.replay = [] ∧ t.grf.queue = [] ∧ t.fget F.PWR_STATE_state = 2 ∧
      t.fget F.PWR_STATE_cause = 1 ∧ t.fuse = s.fuse ∧
      (s.job.running = true → ∃ c : Comp, c.kind = 2 ∧ c.op = 3 ∧ c.tag = s.job.tag ∧
        c.code = (if s.job.firstErr = 0 then 0x0108 else s.job.firstErr) ∧ (s.ringFree 1 = false → c ∈ t.cp.comps) ∧
        (s.ringFree 1 = true → s.cp.comps = [] → ∃ w ∈ t.cp.out, w.addr = s.slotAddr 1 ∧
          w.bytes = setNth (compEntry c) 1 (BitVec.ofNat 8 (s.phaseBit 1)))) ∧
      (∀ tag irq b, s.job.running = true → s.job.endReq = some (tag, irq, b) → s.ringFree 1 = false →
        ({ kind := 1, tag := tag, op := 4, code := 0, result := 0, irq := irq } : Comp) ∈ t.cp.comps)) ∧
  (∀ (failed : List (Fin 4 × Fin 8)) (s : State), s.pwr.park = true → s.fget F.PWR_STATE_cause = 1 → s.pwr.dpd = false →
    ∃ t, exec (.d3hotExit failed) s = .next t ∧ t.pwr.park = false ∧ t.pci.d3 = false ∧ t.fget F.PWR_STATE_state = 3 ∧
      (s.grf.queue = [] → s.sameMem t)) ∧
  (∀ (failed : List (Fin 4 × Fin 8)) (s : State), s.hostOk R.PWR_STATE → s.pwr.park = true → s.fget F.PWR_STATE_cause = 2 →
      s.pwr.low.any id = false → s.pwr.dpd = false →
    ∃ t, exec (.wake failed) s = .next t ∧ t.pwr.park = false ∧ t.fget F.PWR_STATE_state = 3 ∧ (s.grf.queue = [] → s.sameMem t))

/-- O30 (tier 2). While the device is parked with no reset in progress, every BAR0 access at an offset that is not unmapped, of a window of STR, ING,
FFC, RSH, SLC, VRD or TERn, is a violation with reason 0 that changes no register but those of the violation log and the interrupt status, and no
memory, and so is every BAR2 access; of every source Park bars an access of these windows with reason 0 and no access of the HUB, PCI, PWR, SEC, TRL,
HRM and STP blocks. -/
def Obligations.ParkClosesBlocks : Prop :=
  (∀ (o : Nat) (v : Word) (env : WriteEnv) (s : State), s.pwr.park = true → s.rstRank = 0 → o % 4 = 0 → parkClosed o = true →
      s.fbit F.HUB_VIOL_INFO_valid = false →
    ∃ t, exec (.registerWrite (.word .bar0 o v) env) s = .next t ∧ t.fbit F.HUB_VIOL_INFO_valid = true ∧
      t.fget F.HUB_VIOL_INFO_reason = 0 ∧ t.fget F.HUB_VIOL_INFO_source = 0 ∧
      t.fget F.HUB_VIOL_INFO_write = 1 ∧
      s.regsBut t [R.HUB_VIOL_INFO, R.HUB_VIOL_ADDR, R.HUB_VIOL_COUNT, R.HUB_IRQ_STATUS] ∧ s.sameMem t) ∧
  (∀ (o : Nat) (s : State), s.pwr.park = true → s.rstRank = 0 → o % 4 = 0 → parkClosed o = true → s.fbit F.HUB_VIOL_INFO_valid = false →
    ∃ t, exec (.lowWordRead .bar0 o) s = .next t ∧ exec (.rcFieldRead .bar0 o) s = .next t ∧ t.cp.resp = .abort ∧
      t.fbit F.HUB_VIOL_INFO_valid = true ∧ t.fget F.HUB_VIOL_INFO_reason = 0 ∧ t.fget F.HUB_VIOL_INFO_source = 0 ∧
      t.fget F.HUB_VIOL_INFO_write = 0 ∧ s.regsBut t [R.HUB_VIOL_INFO, R.HUB_VIOL_ADDR, R.HUB_VIOL_COUNT, R.HUB_IRQ_STATUS] ∧ s.sameMem t) ∧
  (∀ (off len : Nat) (wr : Option (List (Option Byte))) (s : State), s.pwr.park = true → s.rstRank = 0 → 0 < len →
      s.fbit F.HUB_VIOL_INFO_valid = false →
    ∃ t, exec (.bar2Access off len wr []) s = .next t ∧ t.fget F.HUB_VIOL_INFO_reason = 0 ∧ t.fget F.HUB_VIOL_INFO_source = 1 ∧
      (wr = none → t.cp.resp = .abort) ∧ s.sameMem t ∧
      s.regsBut t [R.HUB_VIOL_INFO, R.HUB_VIOL_ADDR, R.HUB_VIOL_COUNT, R.HUB_IRQ_STATUS]) ∧
  (∀ (src : AccSrc) (o : Nat) (s : State), s.pwr.park = true →
    (parkClosed o = true → s.barred src o = some 0) ∧
    (parkClosed o = false → s.barred src o = { s with pwr := { s.pwr with park := false } }.barred src o)) ∧
  (∀ o : Nat, parkClosed o = true ↔ (0x10000 ≤ o ∧ o < 0x2C000) ∨ (0x70000 ≤ o ∧ o < 0x100000))

/-- O31 (tier 1). A write of TRL.CTRL.sync on the root drives one pulse and changes nothing else; a pulse sampled outside a system job sets the system
time to 0 and carries the trigger generators' last firings over to the new count (the model's choice, log 187), and during one raises E-0907 and
leaves the time. A write of cal on the root outside a job starts a calibration: cal reads 1. A write of sys_reset names a tick at or after the present
time for this device's reset. -/
def Obligations.SyncAndCalibration : Prop :=
  (∀ s : State, s.hostOk R.TRL_CTRL → s.trl.root = true → exec .sync s = .next { s with trl := { s.trl with pulses := s.trl.pulses + 1 } }) ∧
  (∀ s : State, s.systemJob = false →
    exec .syncPulse s = .next { s with
      trl := { s.trl with time := 0, frac := 0 }
      lin := { s.lin with trg := s.lin.trg.map fun x => { x with last := x.last.map (· - (s.trl.time : Int)) } } }) ∧
  (∀ s : State, s.systemJob = true → s.fbit F.TRL_ERR_valid = false →
    ∃ t, exec .syncPulse s = .next t ∧ t.trl = s.trl ∧ t.fget F.TRL_ERR_code = 0x0907 ∧ s.regsBut t [R.TRL_ERR, R.HUB_IRQ_STATUS] ∧ s.sameMem t) ∧
  (∀ (now : Nat) (s : State), s.hostOk R.TRL_CTRL → s.trl.root = true → s.job.running = false →
    ∃ t, exec (.calibration now) s = .next t ∧ t.fget F.TRL_CTRL_cal = 1 ∧ s.regsBut t [R.TRL_CTRL] ∧ s.sameMem t) ∧
  (∀ s : State, s.hostOk R.TRL_CTRL →
    ∃ t tick, exec .sysReset s = .next t ∧ t.trl.resetTick = some tick ∧ s.trl.time ≤ tick ∧ tick % 8 = 0 ∧ s.regsBut t [] ∧ s.sameMem t)

/-- O32 (tier 1). A write of TRL.CFG with en = 1 outside boost starts training with both ports down and the device's number, count and root bit from
the value; the last connected port to come up starts the census; a CENSUS token from another device records its origin with the port it came on, and
in a ring of two, where it came over both ports, with port 1; the last missing device makes the ring intact; a timeout of an incomplete census raises
E-0902 and marks the census failed. A write of TRL.RETIRE.go records the segment and a band at least two after the current one. -/
def Obligations.RingBringUp : Prop :=
  (∀ (v : Word) (root : Fin 64) (s : State), s.hostOk R.TRL_CFG → s.inSystem = false → s.fbit F.PWR_FREQ_boost = false →
    ∃ t, exec (.trellisBringUp v root) s = .next t ∧ t.inSystem = true ∧ t.trl.phase = 1 ∧ t.trl.dev = bitsW v F.TRL_CFG_dev.lo F.TRL_CFG_dev.w ∧
      t.trl.n = bitsW v F.TRL_CFG_n_m1.lo F.TRL_CFG_n_m1.w + 1 ∧ t.trl.rootDev = root ∧ t.portUp 0 = false ∧ t.portUp 1 = false ∧
      s.regsBut t [R.TRL_CFG] ∧ s.sameMem t) ∧
  (∀ (p : Fin 2) (chain : Bool) (s : State), s.inSystem = true → s.trl.phase = 1 → s.trl.ports.length = 2 → s.trl.seen.length + 1 ≠ s.trl.n →
    ∃ t, exec (.trellisPortUp p true chain) s = .next t ∧ t.portUp p = true ∧ t.trl.phase = 2 ∧ t.trl.chain = chain ∧ s.regsBut t [] ∧ s.sameMem t) ∧
  (∀ (p : Nat) (k : SyncTok) (s : State), s.trl.rxTok = [(p, k)] → k.kind = 1 → s.trl.phase = 2 → s.trl.censusBad = false →
      k.origin ≠ s.trl.dev → s.trl.seen = [] → s.trl.chain = false → k.hops = 1 → p < 2 →
    (s.trl.n = 2 → ∃ t, exec .census s = .next t ∧ t.trl.seen = [(k.origin, 1, 1)] ∧ t.trl.phase = 3 ∧ t.trl.rxTok = [] ∧ s.sameMem t) ∧
    (s.trl.n = 3 → ∃ t, exec .census s = .next t ∧ t.trl.seen = [(k.origin, p, 1)] ∧ t.trl.phase = 2 ∧ t.trl.rxTok = [] ∧ s.sameMem t)) ∧
  (∀ s : State, s.trl.phase = 2 → s.trl.seen.length + 1 ≠ s.trl.n → s.fbit F.TRL_ERR_valid = false →
    ∃ t, exec .censusTimeout s = .next t ∧ t.trl = { s.trl with censusBad := true } ∧ t.fget F.TRL_ERR_code = 0x0902 ∧ s.sameMem t) ∧
  (∀ (v : Word) (s : State), s.hostOk R.TRL_RETIRE → bitW v 1 = true →
    ∃ t, exec (.trellisRetire v) s = .next t ∧
      t.trl.retire = some (bitsW v 0 1, Nat.max (bitsW v 8 24) ((if s.job.running then s.curBand else 0) + 2)) ∧
      s.regsBut t [R.TRL_RETIRE] ∧ s.sameMem t)

/-- O33 (tier 1). One FRAME row is one frame time, in which the port also sends a frame (the model's choice, log entry 57). On a port that is up, a
frame that decodes without correction but is not the one expected changes nothing but the port's own sending; on a system that is not split the one
expected moves the port to the next number, ends its failures and any hold, and its token joins the tokens received; an uncorrectable frame raises
E-0910, starts a hold of this device and is asked for again, a second failed sending of the frame asked for counts, and while a port asks it every new
frame it sends carries the request and the number asked for. A segment that goes down on a port that is up and not retired raises E-0903, marks the
port down and, on an intact ring with no repair pending, names a repair tick for the segment's upstream device; on a chain it splits the system and
ends a job. -/
def Obligations.FramesAndSegments : Prop :=
  (∀ (p : Fin 2) (f : FrameIn) (bs : List Byte) (s : State), s.portUp p = true → decodeFrame f = some (bs, 0) → leAt bs 0 2 ≠ (s.port p).next →
    let s1 := s.pumpPort p 13
    exec (.frame p f) s = .next (s1.setPort p (s1.port p).send)) ∧
  (∀ (p : Fin 2) (f : FrameIn) (bs : List Byte) (n : Nat) (s : State), s.trl.ports.length = 2 → s.portUp p = true → s.trl.phase ≠ 5 →
      decodeFrame f = some (bs, n) → leAt bs 0 2 = (s.port p).next →
    ∃ t, exec (.frame p f) s = .next t ∧ (t.port p).next = ((s.port p).next + 1) % 65536 ∧ (t.port p).resend = false ∧
      (t.port p).fails = 0 ∧ (t.port p).hold = none ∧ (t.port p).out = ((s.pumpPort p 13).port p).send.out ∧
      t.trl.rxTok = s.trl.rxTok ++ (if bitN (leAt bs 4 1) 1 then [] else [(p.val, ⟨leAt bs 16 1, leAt bs 17 1, leAt bs 18 1, leAt bs 20 12⟩)]) ∧
      s.sameMem t) ∧
  (∀ (p : Fin 2) (f : FrameIn) (s : State), s.trl.ports.length = 2 → s.portUp p = true → decodeFrame f = none →
      s.fbit F.TRL_ERR_valid = false →
    ∃ t, exec (.frame p f) s = .next t ∧ t.fget F.TRL_ERR_code = 0x0910 ∧ s.sameMem t ∧ (t.port p).next = (s.port p).next ∧
      t.trl.rxTok = s.trl.rxTok ∧ t.trl.rxMsg = s.trl.rxMsg ∧
      (s.trl.phase ≠ 5 → (s.port p).resend = false → (t.port p).resend = true ∧ (t.port p).fails = 1 ∧
        (s.trl.holds = [] → ∃ no h, (t.port p).hold = some no ∧ t.trl.holds = [h] ∧ h.origin = s.trl.dev ∧ h.no = no)) ∧
      (s.trl.phase ≠ 5 → (s.port p).resend = true → leAt f.bytes 0 2 = (s.port p).next → (s.port p).fails < 3 →
        (t.port p).resend = true ∧ (t.port p).fails = (s.port p).fails + 1 ∧ (t.port p).down = false)) ∧
  (∀ x : PortSt, x.resend = true → x.again = 0 → x.next < 65536 → leAt x.send.out 2 2 = x.next ∧ bitN (leAt x.send.out 4 1) 0 = true) ∧
  (∀ (p : Fin 2) (s : State), (s.port p).up = true → (s.port p).down = false → (s.port p).retired = false → s.trl.phase ≠ 5 →
      s.trl.chain = true → s.trl.repair = none → s.trl.ports.length = 2 → s.fbit F.TRL_ERR_valid = false →
    ∃ t, exec (.segmentDown p) s = .next t ∧ (t.port p).down = true ∧ t.trl.phase = 5 ∧ t.job.running = false ∧
      t.fget F.TRL_ERR_code = 0x0903 ∧ (s.job.running = true → ∃ c ∈ t.cp.comps, c.kind = 2 ∧ c.op = 3 ∧ c.tag = s.job.tag)) ∧
  (∀ (p : Fin 2) (s : State), (s.port p).up = true → (s.port p).down = false → (s.port p).retired = false → s.trl.phase ≠ 5 →
      s.trl.chain = false → s.trl.repair = none → s.fbit F.TRL_ERR_valid = false → s.trl.ports.length = 2 →
    ∃ t tick, exec (.segmentDown p) s = .next t ∧ (t.port p).down = true ∧ t.trl.repair = some (tick, s.upstream p, false) ∧
      s.trl.time ≤ tick ∧ t.fget F.TRL_ERR_code = 0x0903 ∧ s.sameMem t)

/-- O34 (tier 2). A remote write message of at most 32 bytes inside one aligned 32-byte granule of region 6, with no poison, stores its bytes and
leaves every byte outside them; one outside region 6 writes nothing, raises E-0912 and is a violation with source 4. A fetch-add inside region 6, with
no error in its codeword and no reply asked for, stores the sum modulo the word and leaves every other byte; one that comes from the device's own
number raises E-0913 and adds nothing. -/
def Obligations.RemoteMessages : Prop :=
  (∀ (p : Nat) (m : TrlMsg) (s : State), s.trl.rxMsg = [(p, m)] → m.kind = 1 → m.aux = m.data.length - 1 → 0 < m.data.length →
      m.addr % 32 + m.data.length ≤ 32 → s.inRegion 6 m.addr m.data.length = true → (∀ a, s.upsetAt a = 0) →
    ∃ t, exec .remoteWrite s = .next t ∧ t.bytesAt m.addr m.data.length = m.data ∧ t.trl.rxMsg = [] ∧
      (∀ a, (a < m.addr ∨ m.addr + m.data.length ≤ a) → t.byte a = s.byte a) ∧ s.regsBut t []) ∧
  (∀ (p : Nat) (m : TrlMsg) (s : State), s.trl.rxMsg = [(p, m)] → m.kind = 1 →
      s.inRegion 6 m.addr (m.data.take (bitsN m.aux 0 16 + 1)).length = false → s.fbit F.HUB_VIOL_INFO_valid = false →
      s.fbit F.TRL_ERR_valid = false →
    ∃ t, exec .remoteWrite s = .next t ∧ t.fget F.TRL_ERR_code = 0x0912 ∧ t.fget F.HUB_VIOL_INFO_source = 4 ∧ s.sameMem t) ∧
  (∀ (p : Nat) (m : TrlMsg) (s : State), s.trl.rxMsg = [(p, m)] → m.kind = 2 → m.origin ≠ s.trl.dev → bitN m.aux 0 = false → bitsN m.aux 32 32 = 0xFFFFFFFF →
      m.addr % 4 = 0 → m.data.length = 4 → s.inRegion 6 m.addr 4 = true → (∀ a, s.upsetAt a = 0) →
    ∃ t, exec .fetchAdd s = .next t ∧ ofBytes (t.bytesAt m.addr 4) = (ofBytes (s.bytesAt m.addr 4) + ofBytes m.data) % 2 ^ 32 ∧
      t.trl.rxMsg = [] ∧ (∀ a, (a < m.addr ∨ m.addr + 4 ≤ a) → t.byte a = s.byte a) ∧ s.regsBut t []) ∧
  (∀ (p : Nat) (m : TrlMsg) (s : State), s.trl.rxMsg = [(p, m)] → m.kind = 2 → m.origin = s.trl.dev → s.fbit F.TRL_ERR_valid = false →
    ∃ t, exec .fetchAdd s = .next t ∧ t.fget F.TRL_ERR_code = 0x0913 ∧ t.trl.rxMsg = [] ∧ s.sameMem t)

/-- O35 (tier 1). A halo write that a held plane line waits for gives that line's halo the message's pixels, each poisoned as the mask says of its
group of 32, and is used up; one whose pixel count is not that of SLC.HALO is discarded; a cask write appends the flits of its data, with the side
records of its aux field, to its ingress buffer; a cask credit adds its credits to an egress that holds no flit. None of them changes a register or a
byte of memory. -/
def Obligations.RemoteStreamsAndHalos : Prop :=
  (∀ (p : Nat) (m : TrlMsg) (s : State), s.trl.rxMsg = [(p, m)] → m.kind = 4 → s.waitsHalo m.addr (bitsN m.aux 0 3) (bitN m.aux 3) = true →
      (m.data.take (bitsN m.aux 8 16)).length = s.fget (if bitN m.aux 3 then F.SLC_HALO_halo_r else F.SLC_HALO_halo_l) →
    let bs := m.data.take (bitsN m.aux 8 16)
    let px := (List.range bs.length).map fun i => ((nth 0 bs i).toInt, bitN (bitsN m.aux 24 8) (i / 32))
    ∃ t, exec .haloWrite s = .next t ∧ t.waitsHalo m.addr (bitsN m.aux 0 3) (bitN m.aux 3) = false ∧ t.trl.rxMsg = [] ∧
      t.ing.lines = s.ing.lines.map (fun l =>
        if l.line = m.addr ∧ l.plane = bitsN m.aux 0 3 ∧ bitN m.aux 3 = true ∧ l.haloR = none then { l with haloR := some px }
        else if l.line = m.addr ∧ l.plane = bitsN m.aux 0 3 ∧ bitN m.aux 3 = false ∧ l.haloL = none then { l with haloL := some px }
        else l) ∧ s.regsBut t [] ∧ s.sameMem t) ∧
  (∀ (p : Nat) (m : TrlMsg) (s : State), s.trl.rxMsg = [(p, m)] → m.kind = 4 →
      (m.data.take (bitsN m.aux 8 16)).length ≠ s.fget (if bitN m.aux 3 then F.SLC_HALO_halo_r else F.SLC_HALO_halo_l) →
    ∃ t, exec .haloWrite s = .next t ∧ t.ing = s.ing ∧ t.trl.rxMsg = [] ∧ s.regsBut t [] ∧ s.sameMem t) ∧
  (∀ (p : Nat) (m : TrlMsg) (s : State), s.trl.rxMsg = [(p, m)] → m.kind = 5 → s.tx.ingress.length = 16 →
    ∃ t, exec .caskWrite s = .next t ∧ nth [] t.tx.ingress (bitsN m.addr 0 4) = nth [] s.tx.ingress (bitsN m.addr 0 4) ++
        (List.range (Nat.min (m.data.length / 32) 4)).map (fun i =>
          { data := dataOf ((m.data.drop (32 * i)).take 32), tag := bitsN m.aux (16 * i + 2) 4, poison := bitN m.aux (16 * i + 1),
            last := bitN m.aux (16 * i + 6), evLine := bitN m.aux (16 * i + 7), evBand := bitN m.aux (16 * i + 8), smk := false }) ∧
      t.trl.rxMsg = [] ∧
      (∀ k, k ≠ bitsN m.addr 0 4 → nth [] t.tx.ingress k = nth [] s.tx.ingress k) ∧ s.regsBut t [] ∧ s.sameMem t) ∧
  (∀ (p : Nat) (m : TrlMsg) (s : State), s.trl.rxMsg = [(p, m)] → m.kind = 6 → s.trl.egress.length = 16 →
      (nth ⟨[], 0⟩ s.trl.egress (bitsN m.addr 0 4)).q = [] →
    ∃ t, exec .caskCredit s = .next t ∧ t.trl.rxMsg = [] ∧
      (nth ⟨[], 0⟩ t.trl.egress (bitsN m.addr 0 4)).credit = (nth ⟨[], 0⟩ s.trl.egress (bitsN m.addr 0 4)).credit + bitsN m.aux 0 16 ∧
      (∀ k, k ≠ bitsN m.addr 0 4 → nth ⟨[], 0⟩ t.trl.egress k = nth ⟨[], 0⟩ s.trl.egress k) ∧
      s.regsBut t [] ∧ s.sameMem t)

/-- O36 (tier 1). A START token for a system job that waits records its tick and bin, and the device waits on while that tick, put off by its trim, is
still to come; one that comes after it starts the array at once, at the START bin; its band length when it differs raises E-0905 and the device takes
no lines. A THROTTLE token records its device's bin for its band. A RELEASE token completes the barrier in hand of its id with that id. An ARRIVE
token joins the arrivals with the port it came on. A TIME token joins the calibration times; the one that closes a calibration gives the offset and
the trim from the transits of all segments, which come with the row (the model's choice, log entry 60), or raises E-0906 when they do not close or a
trim exceeds 31.5 ns. Outside a system job a LINE0 token is used up without effect on the line; in one the first LINE0 gives the position of line 0
and ends the keeping of lines. -/
def Obligations.SystemJobTokens : Prop :=
  (∀ (p : Nat) (k : SyncTok) (s : State), s.trl.rxTok = [(p, k)] → k.kind = 5 → k.hops ≤ 1 → s.job.running = true → s.job.system = true →
      s.trl.waitStart = true → bitsN k.value 80 8 = s.job.bandLen / 16 →
    ∃ t, exec .start s = .next t ∧ t.trl.start = some (bitsN k.value 32 48, bitsN k.value 88 8) ∧ t.trl.startBin = bitsN k.value 88 8 ∧
      t.trl.noLines = s.trl.noLines ∧ t.trl.rxTok = [] ∧ s.regsBut t [R.PWR_FREQ_STATUS] ∧ s.sameMem t ∧
      (s.trl.time < s.trimmed (bitsN k.value 32 48) → t.trl.waitStart = true ∧ t.arr.clocked = s.arr.clocked ∧ s.regsBut t []) ∧
      (s.trimmed (bitsN k.value 32 48) ≤ s.trl.time → s.trl.time < 2 ^ 64 → s.trl.noLines = false → bitsN k.value 88 8 < 32 →
        t.trl.waitStart = false ∧ t.arr.clocked = true ∧ t.fget F.PWR_FREQ_STATUS_bin = bitsN k.value 88 8)) ∧
  (∀ (p : Nat) (k : SyncTok) (s : State), s.trl.rxTok = [(p, k)] → k.kind = 5 → k.hops ≤ 1 → s.job.running = true → s.job.system = true →
      s.trl.waitStart = true → bitsN k.value 80 8 ≠ s.job.bandLen / 16 → s.fbit F.TRL_ERR_valid = false →
    ∃ t, exec .start s = .next t ∧ t.trl.noLines = true ∧ t.fget F.TRL_ERR_code = 0x0905) ∧
  (∀ (p : Nat) (k : SyncTok) (s : State), s.trl.rxTok = [(p, k)] → k.kind = 7 → k.hops ≤ 1 →
    ∃ t, exec .throttle s = .next t ∧ (k.origin, bitsN k.value 0 32, bitsN k.value 32 8) ∈ t.trl.anns ∧ t.trl.rxTok = [] ∧
      s.regsBut t [] ∧ s.sameMem t) ∧
  (∀ (p : Nat) (k : SyncTok) (b : BarrierSt) (s : State), s.trl.rxTok = [(p, k)] → k.kind = 4 → k.hops ≤ 1 → bitsN k.value 32 8 = 0 →
      s.cp.barrier = some b → bitsN k.value 0 32 = b.id →
    ∃ t, exec .release s = .next t ∧ t.cp.barrier = none ∧ t.trl.rxTok = [] ∧
      s.answered t { kind := 1, tag := b.tag, op := 0x0B, code := 0, result := b.id, irq := b.irq } ∧ s.regsBut t [] ∧ s.sameMem t) ∧
  (∀ (p : Nat) (k : SyncTok) (s : State), s.trl.rxTok = [(p, k)] → k.kind = 3 → s.arrived 2 (bitsN k.value 0 32) (bitsN k.value 32 8) = false →
      bitsN k.value 32 8 < 2 → p < 2 →
    ∃ t, exec .arrive s = .next t ∧
      t.trl.arrivals = s.trl.arrivals ++ [(p, bitsN k.value 0 32, bitsN k.value 32 8, bitsN k.value 40 8)] ∧ s.regsBut t [] ∧ s.sameMem t) ∧
  (∀ (p now : Nat) (k : SyncTok) (s : State), s.trl.rxTok = [(p, k)] → k.kind = 2 → k.hops ≤ 1 → s.trl.calSent = true →
    ∃ t, exec (.time now none) s = .next t ∧ t.trl.calTimes = s.trl.calTimes ++ [(p, bitsN k.value 0 64, now)] ∧ t.trl.rxTok = [] ∧
      s.regsBut t [] ∧ s.sameMem t) ∧
  (∀ (p now : Nat) (segs : List (Int × Int)) (k : SyncTok) (s : State), s.trl.rxTok = [(p, k)] → k.kind = 2 → k.hops ≤ 1 →
      s.trl.calSent = true →
    let s1 : State := { s with trl := { s.trl with rxTok := [], calTimes := s.trl.calTimes ++ [(p, bitsN k.value 0 64, now)] } }
    let os := (s1.offsets segs).1.map (· / 2)
    let far := os.any fun x => decide (63 < x - os.foldl min 0)
    ∃ t, exec (.time now (some segs)) s = .next t ∧ t.fget F.TRL_CTRL_cal = 0 ∧ t.trl.rxTok = [] ∧ s.sameMem t ∧
      ((s1.offsets segs).2 = true → far = false → t.fget F.TRL_SKEW_valid = 1 ∧
        (∀ x, os[s1.ringPos.1]? = some x → t.fget F.TRL_SKEW_trim = (x - os.foldl min 0).toNat ∧
          (-128 ≤ x → x < 128 → t.fgetS F.TRL_SKEW_offset = x))) ∧
      ((s1.offsets segs).2 = false ∨ far = true → t.reg R.TRL_SKEW = s.reg R.TRL_SKEW ∧
        (s.fbit F.TRL_ERR_valid = false → t.fget F.TRL_ERR_code = 0x0906))) ∧
  (∀ (p : Nat) (k : SyncTok) (far : Bool) (s : State), s.trl.rxTok = [(p, k)] → k.kind = 6 → k.hops ≤ 1 → s.systemJob = false →
    exec (.line0 far) s = .next { s with trl := { s.trl with rxTok := [] } }) ∧
  (∀ (p : Nat) (k : SyncTok) (far : Bool) (s : State), s.trl.rxTok = [(p, k)] → k.kind = 6 → k.hops ≤ 1 → s.systemJob = true →
      s.trl.line0 = none →
    ∃ t, exec (.line0 far) s = .next t ∧ t.trl.line0 = some (bitsN k.value 0 48) ∧ t.trl.rxTok = [] ∧ t.ing.kept = [] ∧
      (s.ing.kept = [] → s.regsBut t [] ∧ s.sameMem t ∧ t.ing = s.ing))

/-- O37 (tier 2). A HOLD_ON token adds its hold; the hold cause `system` of HUB.HOLD_STATUS is 1 exactly while a hold that has reached its tick and
not its end stands. HOLD_OFF gives the matching hold its end tick, and at SYSTEM_HOLD_TICK a hold whose tick has come turns on, one whose tick is
still to come stays off, and one whose end has come is gone; each tick is put off by the device's trim. -/
def Obligations.SystemHolds : Prop :=
  (∀ (p : Nat) (k : SyncTok) (s : State), s.trl.rxTok = [(p, k)] → k.kind = 8 → k.hops ≤ 1 → s.trl.holds = [] →
    ∃ t h, exec .holdOn s = .next t ∧ t.trl.holds = [h] ∧ h.origin = k.origin ∧ h.no = bitsN k.value 48 8 ∧ h.on = bitsN k.value 0 48 ∧
      h.off = none ∧ h.active = decide (s.trimmed (bitsN k.value 0 48) ≤ s.trl.time) ∧
      t.fbit F.HUB_HOLD_STATUS_system = h.active ∧ s.regsBut t [R.HUB_HOLD_STATUS, R.TRL_EVENT, R.HUB_IRQ_STATUS] ∧ s.sameMem t) ∧
  (∀ (p : Nat) (k : SyncTok) (h : HoldSt) (s : State), s.trl.rxTok = [(p, k)] → k.kind = 9 → k.hops ≤ 1 → s.trl.holds = [h] →
      h.origin = k.origin → h.no = bitsN k.value 48 8 → h.off = none → s.trl.time < s.trimmed (bitsN k.value 0 48) →
    ∃ t h', exec .holdOff s = .next t ∧ t.trl.holds = [h'] ∧ h'.off = some (bitsN k.value 0 48) ∧ s.regsBut t [R.HUB_HOLD_STATUS, R.TRL_EVENT, R.HUB_IRQ_STATUS] ∧
      s.sameMem t) ∧
  (∀ (now : Nat) (h : HoldSt) (o : Nat) (s : State), s.trl.holds = [h] → h.off = some o → s.trimmed o ≤ now → s.trl.time ≤ now → now < 2 ^ 64 →
    ∃ t, exec (.systemHoldTick now) s = .next t ∧ t.trl.holds = [] ∧ t.fbit F.HUB_HOLD_STATUS_system = false ∧ t.trl.time = now ∧
      s.regsBut t [R.HUB_HOLD_STATUS, R.TRL_EVENT, R.HUB_IRQ_STATUS] ∧ s.sameMem t) ∧
  (∀ (now : Nat) (h : HoldSt) (s : State), s.trl.holds = [h] → h.off = none → s.trl.time ≤ now → now < 2 ^ 64 →
    (s.trimmed h.on ≤ now →
      ∃ t, exec (.systemHoldTick now) s = .next t ∧ t.trl.holds = [{ h with active := true }] ∧
        t.fbit F.HUB_HOLD_STATUS_system = true ∧ (s.fbit F.HUB_HOLD_STATUS_system = false → bitN (t.fget F.TRL_EVENT_ev) 4 = true) ∧
        t.trl.time = now ∧ s.regsBut t [R.HUB_HOLD_STATUS, R.TRL_EVENT, R.HUB_IRQ_STATUS] ∧ s.sameMem t) ∧
    (now < s.trimmed h.on → h.active = false →
      ∃ t, exec (.systemHoldTick now) s = .next t ∧ t.trl.holds = [h] ∧ t.fbit F.HUB_HOLD_STATUS_system = false))

/-- O38 (tier 1). A REPAIR token on an intact ring with no repair pending records its tick, its upstream device and its kind; RESET records a tick not
yet past, and one already past that is no second copy resets the array at once. At the start tick, put off by the trim, a waiting system job runs its
array at the bin named; at E − 10 µs a system job whose start is known starts recording. At the repair tick, put off by the trim, the device stops new
messages and the repair is no longer pending. Before its tick nothing of these happens but that time goes on. -/
def Obligations.SystemTicks : Prop :=
  (∀ (p : Nat) (k : SyncTok) (s : State), s.trl.rxTok = [(p, k)] → k.kind = 0x0A → k.hops ≤ 1 → s.trl.repair = none → s.trl.chain = false → s.trl.phase ≠ 5 →
      s.trl.time < s.trimmed (bitsN k.value 16 48) → s.trl.time < 2 ^ 64 →
    ∃ t, exec .repair s = .next t ∧ t.trl.repair = some (bitsN k.value 16 48, bitsN k.value 0 8, bitN k.value 8) ∧ t.trl.rxTok = [] ∧
      s.regsBut t [] ∧ s.sameMem t) ∧
  (∀ (p : Nat) (k : SyncTok) (s : State), s.trl.rxTok = [(p, k)] → k.kind = 0x0B → k.hops ≤ 1 → s.trl.lastReset ≠ some (bitsN k.value 0 48) →
      s.trl.time ≤ s.trimmed (bitsN k.value 0 48) →
    ∃ t, exec .reset s = .next t ∧ t.trl.resetTick = some (bitsN k.value 0 48) ∧ s.regsBut t [] ∧ s.sameMem t) ∧
  (∀ (p : Nat) (k : SyncTok) (s : State), s.trl.rxTok = [(p, k)] → k.kind = 0x0B → k.hops ≤ 1 → s.trl.lastReset ≠ some (bitsN k.value 0 48) →
      s.trimmed (bitsN k.value 0 48) < s.trl.time →
    ∃ t, exec .reset s = .next t ∧ t.job.running = false ∧ t.fget F.HUB_RST_STATUS_kind = 3) ∧
  (∀ (now E bin : Nat) (s : State), s.trl.start = some (E, bin) → s.trl.waitStart = true → s.trl.noLines = false → s.job.running = true →
      bin < 32 → s.trl.time ≤ now → now < 2 ^ 64 →
    (s.trimmed E ≤ now →
      ∃ t, exec (.systemStartTick now) s = .next t ∧ t.arr.clocked = true ∧ t.trl.waitStart = false ∧ t.fget F.PWR_FREQ_STATUS_bin = bin ∧
        t.trl.time = now ∧ s.regsBut t [R.PWR_FREQ_STATUS] ∧ s.sameMem t) ∧
    (now < s.trimmed E → exec (.systemStartTick now) s = .next { s with trl := { s.trl with time := now } })) ∧
  (∀ s : State, s.trl.start.isSome = true → s.job.running = true → s.job.system = true →
    exec .lineRecordingStart s = .next { s with trl := { s.trl with recording := true } }) ∧
  (∀ (now tick up : Nat) (b : Bool) (s : State), s.trl.repair = some (tick, up, b) → s.isRoot = false →
      s.trl.time ≤ now → now < 2 ^ 64 →
    (s.trimmed tick ≤ now →
      ∃ t, exec (.repairTick now) s = .next t ∧ t.trl.repair = none ∧ t.trl.stopMsgs = true ∧ t.fbit F.HUB_HOLD_STATUS_system = true ∧
        t.trl.time = now ∧ s.sameMem t) ∧
    (now < s.trimmed tick → exec (.repairTick now) s = .next { s with trl := { s.trl with time := now } }))

/-- O39 (tier 1). A write of PWR.FREQ with boost in a ring is refused with E-0B02, and one below the floor, above the lowest bin of the MX tiles that
placed Vintages use, or with f_set above 20 with E-0B01; a refused write leaves the register. A write that is taken stores the mode and f_top. A write
of PWR.LOAM outside a job takes effect at once and inside one waits for the next boundary with the register as it was. -/
def Obligations.FrequencyAndLoamWrites : Prop :=
  (∀ (v : Word) (s : State), s.hostOk R.PWR_FREQ → s.freqCode v ≠ 0 → s.fbit F.PWR_ERR_valid = false →
    ∃ t, exec (.freqWrite v) s = .next t ∧ t.reg R.PWR_FREQ = s.reg R.PWR_FREQ ∧ t.fget F.PWR_ERR_code = s.freqCode v ∧ s.sameMem t) ∧
  (∀ (v : Word) (s : State), bitW v 16 = true → s.inSystem = true → s.freqCode v = 0x0B02) ∧
  (∀ (v : Word) (s : State), (bitW v 16 = false ∨ s.inSystem = false) →
    (fTopOf v < s.floorBin ∨ 20 < bitsW v 0 5 ∨ ∃ b, s.lowBin = some b ∧ b < fTopOf v) → s.freqCode v = 0x0B01) ∧
  (∀ (s : State) (r : TileRef), r ∈ allMx → (s.placedList.any fun w => s.usesTile r w) = true →
    ∃ b, s.lowBin = some b ∧ b ≤ s.binOf r) ∧
  (∀ (v : Word) (s : State), s.hostOk R.PWR_FREQ → s.freqCode v = 0 →
    ∃ t, exec (.freqWrite v) s = .next t ∧ t.reg R.PWR_FREQ = v &&& 0x11F1F ∧ t.fTop = fTopOf v ∧ s.sameMem t) ∧
  (∀ (v : Word) (s : State), s.hostOk R.PWR_LOAM → s.job.running = false →
    ∃ t, exec (.loamWrite v) s = .next t ∧ bitsW (t.reg R.PWR_LOAM) 0 7 = bitsW v 0 7 ∧ s.regsBut t [R.PWR_LOAM] ∧ s.sameMem t) ∧
  (∀ (v : Word) (s : State), s.hostOk R.PWR_LOAM → s.job.running = true →
    exec (.loamWrite v) s = .next { s with pwr := { s.pwr with loamNext := some v } })

/-- O40 (tier 2). At a telemetry sample the energy of the device grows by the sample power, in which every listed regulator counts with its answer or,
while it is silent, its last valid reading; an answer resets its run of silence and the tenth silent sample in a row of the only listed regulator
raises E-0B07. No byte of memory changes. -/
def Obligations.TelemetrySample : Prop :=
  (∀ (ans : List RegAnswer) (s : State), s.pwr.tel.length = 8 → s.pwr.silent.length = 8 →
    ∃ t, exec (.telemetrySample ans) s = .next t ∧
      t.pwr.energy = s.pwr.energy + ((List.range 8).map fun k =>
        if s.fbit (F.PWR_REG_present k) then
          (let x := (nth none ans k).getD (nth (0, 0) s.pwr.tel k); x.1 * x.2) else 0).foldl (· + ·) 0 ∧
      (∀ k < 8, s.fbit (F.PWR_REG_present k) = true → ∀ x, nth none ans k = some x → nth (0, 0) t.pwr.tel k = x ∧ nth 0 t.pwr.silent k = 0) ∧
      (∀ k < 8, s.fbit (F.PWR_REG_present k) = true → nth none ans k = none →
        nth (0, 0) t.pwr.tel k = nth (0, 0) s.pwr.tel k ∧ nth 0 t.pwr.silent k = nth 0 s.pwr.silent k + 1) ∧ s.sameMem t) ∧
  (∀ s : State, s.fbit F.PWR_ERR_valid = false → s.pwr.silent.length = 8 → nth 0 s.pwr.silent 0 = 9 → s.fbit (F.PWR_REG_present 0) = true →
    ∃ t, exec (.telemetrySample []) s = .next t ∧ t.fbit F.PWR_ERR_valid = true ∧ t.fget F.PWR_ERR_code = 0x0B07)

/-- O41 (tier 2). While T is 105 °C or above, every thermal sample with no warm reset waiting lowers b_therm by 1, down to the floor and without
waiting for fresh samples, and the entry above 105 °C raises E-0B08 and sets PWR.EVENT.twarn. Every sample keeps the last ten maxima, shows T, the
highest of them, in PWR.TEMP and holds its peak. A thermal trip stops the array clocks, ends the job, drops the markers' events and raises E-0B09. -/
def Obligations.ThermalControl : Prop :=
  (∀ (readings : List Int) (x : Int) (s : State), readings = [x] → 420 ≤ x → x < 2 ^ 15 → s.pwr.warmWait = none → s.pwr.temps = [] →
    ∃ t, exec (.thermalSample readings) s = .next t ∧
      t.pwr.bTherm = (if s.floorBin < s.pwr.bTherm then s.pwr.bTherm - 1 else s.pwr.bTherm) ∧ t.pwr.hot = true ∧
      (s.pwr.hot = false → bitN (t.fget F.PWR_EVENT_ev) 3 = true ∧ (s.fbit F.PWR_ERR_valid = false → t.fget F.PWR_ERR_code = 0x0B08)) ∧
      s.sameMem t) ∧
  (∀ (x : Int) (s : State), x < 420 → s.pwr.warmWait = none → s.pwr.temps = [] →
    ∃ t, exec (.thermalSample [x]) s = .next t ∧ t.pwr.hot = false) ∧
  (∀ (readings : List Int) (x T : Int) (s : State), maxI readings = some x → maxI ((x :: s.pwr.temps).take 10) = some T →
      (∀ y ∈ readings, -2 ^ 15 ≤ y ∧ y < 2 ^ 15) → (∀ y ∈ s.pwr.temps, -2 ^ 15 ≤ y ∧ y < 2 ^ 15) → s.pwr.warmWait = none →
    ∃ t, exec (.thermalSample readings) s = .next t ∧ t.pwr.temps = (x :: s.pwr.temps).take 10 ∧ t.pwr.sensors = readings ∧
      t.fgetS F.PWR_TEMP_t = T ∧ t.fgetS F.PWR_TEMP_t_peak = max (s.fgetS F.PWR_TEMP_t_peak) T ∧ t.pwr.hot = decide (420 ≤ T) ∧
      (420 ≤ T → t.pwr.bTherm = (if s.floorBin < s.pwr.bTherm then s.pwr.bTherm - 1 else s.pwr.bTherm)) ∧ s.sameMem t) ∧
  (∀ s : State, ∃ t, exec .thermalTrip s = .next t ∧ t.arr.clocked = false ∧ t.pwr.tripped = true ∧ t.job.running = false ∧
      bitN (t.fget F.PWR_EVENT_ev) 4 = true ∧ t.fbit F.PWR_ERR_valid = true ∧
      (s.fbit F.PWR_ERR_valid = false → t.fget F.PWR_ERR_code = 0x0B09) ∧ ∀ k, (t.mrk k).queue = [])

/-- O42 (tier 1). A VDD_T that falls below its warning level starts a settle, counts a droop and sets the settle hold cause; when the last VDD_T
recovers the tail of 256 periods starts; SETTLE_END after the tail ends the settle and its hold. Below warning for more than 1 ms parks the device
with cause 2, with policy Park, and ends a job. -/
def Obligations.SuppliesAndSettles : Prop :=
  (∀ (k : Supply) (s : State), k ≠ 4 → nth false s.pwr.low k = false → s.pwr.settle = false → s.pwr.low.length = 5 →
    ∃ t, exec (.supplyWarning k) s = .next t ∧ nth false t.pwr.low k = true ∧ t.pwr.settle = true ∧ t.fbit F.HUB_HOLD_STATUS_settle = true ∧
      t.fget F.PWR_DROOP_CNT_count = satAdd F.PWR_DROOP_CNT_count.w (s.fget F.PWR_DROOP_CNT_count) 1 ∧
      s.regsBut t [R.HUB_HOLD_STATUS, R.PWR_DROOP_CNT, R.PWR_EVENT, R.HUB_IRQ_STATUS] ∧ s.sameMem t) ∧
  (∀ (k : Supply) (s : State), k ≠ 4 → nth false s.pwr.low k = true → (setNth s.pwr.low k false).any id = false → s.pwr.settle = true →
    exec (.supplyRecovery k) s = .next { s with pwr := { s.pwr with low := setNth s.pwr.low k false, tail := 256 } }) ∧
  (∀ s : State, s.pwr.settle = true → s.terLow = false → s.pwr.tail = 0 →
    ∃ t, exec .settleEnd s = .next t ∧ t.pwr.settle = false ∧ t.fbit F.HUB_HOLD_STATUS_settle = false ∧ s.regsBut t [R.HUB_HOLD_STATUS] ∧
      s.sameMem t) ∧
  (∀ (failed : List (Fin 4 × Fin 8)) (s : State), s.pwr.low.any id = true → s.fbit F.PWR_SUPPLY_policy = false → s.pwr.park = false →
      s.fbit F.PWR_ERR_valid = false →
    ∃ t, exec (.brownOutTimeout failed) s = .next t ∧ t.pwr.park = true ∧ t.job.running = false ∧ t.fget F.PWR_STATE_cause = 2 ∧
      t.fget F.PWR_STATE_state = 2)

/-- O43 (tier 1). When the 64 periods of a frequency window have run, FREQUENCY_CHANGE sets the bin of the window, ends the frequency hold and closes
the window. A ramp step lowers the filler's ramp by one, and once it has ended and no filler runs PWR.LOAM.active reads 0. HINT_MARGIN_START puts the
margin of the hinted phase in force and sets the rails by it, with no hint it does nothing, and ROW_POWER_UP_DONE makes boundaries eligible. -/
def Obligations.ClockAndFiller : Prop :=
  (∀ (bin : Nat) (s : State), s.pwr.window = some (0, bin) → bin < 32 →
    ∃ t, exec .frequencyChange s = .next t ∧ t.binNow = bin ∧ t.pwr.window = none ∧ t.fbit F.HUB_HOLD_STATUS_freq = false ∧
      s.regsBut t [R.PWR_FREQ_STATUS, R.HUB_HOLD_STATUS, R.PWR_GOV] ∧ s.sameMem t) ∧
  (∀ s : State, (∀ bin, s.pwr.window ≠ some (0, bin)) → exec .frequencyChange s = .next s) ∧
  (∀ s : State, ∃ t, exec .loamRampStep s = .next t ∧ t.pwr = { s.pwr with ramp := s.pwr.ramp - 1 } ∧
      (s.pwr.ramp ≤ 1 → s.fillerRuns = false → bitsW (t.view R.PWR_LOAM) F.PWR_LOAM_active.lo F.PWR_LOAM_active.w = 0) ∧
      (s.fillerRuns = true ∨ 1 < s.pwr.ramp → bitsW (t.view R.PWR_LOAM) F.PWR_LOAM_active.lo F.PWR_LOAM_active.w = 1) ∧
      s.regsBut t [] ∧ s.sameMem t) ∧
  (∀ s : State, s.pwr.hint = none → exec .hintMarginStart s = .next s) ∧
  (∀ (phase b n : Nat) (s : State), s.pwr.hint = some (phase, b, n) →
    exec .hintMarginStart s = .next ((s.mapPwr fun p => { p with margin := s.hintMv phase }).setVolts)) ∧
  (∀ s : State, exec .rowPowerUpDone s = .next { s with pwr := { s.pwr with rowsReady := true } })

/-- O44 (tier 1). A write of go of a host channel with a valid staged descriptor makes it active on an idle channel and the shadow on a busy one
without a shadow; with a shadow waiting it is refused with E-0A03. A write of stop marks a moving channel to halt at its boundary. No other channel
and no memory changes. -/
def Obligations.StreamGoAndStop : Prop :=
  (∀ (n : Fin 8) (s : State), s.hostOk (R.STR_CH_CTRL (8 + n)) → s.descCode (s.staged16 (8 + n)) = 0 → (s.chan (8 + n)).active = none →
      s.str.chans.length = 16 →
    ∃ t, exec (.streamGo n) s = .next t ∧ (t.chan (8 + n)).active = some (s.staged16 (8 + n)) ∧ (t.chan (8 + n)).halted = false ∧
      (t.chan (8 + n)).moved = 0 ∧ (∀ m, m ≠ 8 + n.val → t.chan m = s.chan m) ∧ s.regsBut t [] ∧ s.sameMem t) ∧
  (∀ (n : Fin 8) (s : State), s.hostOk (R.STR_CH_CTRL (8 + n)) → s.descCode (s.staged16 (8 + n)) = 0 → (s.chan (8 + n)).active.isSome = true →
      (s.chan (8 + n)).halted = false → (s.chan (8 + n)).shadow = none → s.str.chans.length = 16 →
    ∃ t, exec (.streamGo n) s = .next t ∧ (t.chan (8 + n)).shadow = some (s.staged16 (8 + n)) ∧
      (t.chan (8 + n)).active = (s.chan (8 + n)).active ∧ (∀ m, m ≠ 8 + n.val → t.chan m = s.chan m) ∧ s.regsBut t [] ∧ s.sameMem t) ∧
  (∀ (n : Fin 8) (s : State), s.hostOk (R.STR_CH_CTRL (8 + n)) → s.descCode (s.staged16 (8 + n)) = 0 → (s.chan (8 + n)).active.isSome = true →
      (s.chan (8 + n)).halted = false → (s.chan (8 + n)).shadow.isSome = true → s.fbit (F.STR_CH_ERR_valid (8 + n)) = false →
    ∃ t, exec (.streamGo n) s = .next t ∧ t.str = s.str ∧ t.fget (F.STR_CH_ERR_code (8 + n)) = 0x0A03 ∧ s.sameMem t) ∧
  (∀ (n : Fin 8) (s : State), s.hostOk (R.STR_CH_CTRL (8 + n)) → (s.chan (8 + n)).active.isSome = true → (s.chan (8 + n)).halted = false →
      (s.chan (8 + n)).fence = [] →
    exec (.streamStop n) s = .next (s.setChan (8 + n) { s.chan (8 + n) with stop := true }))

/-- O45 (tier 2). A burst of a host channel whose sources lie in host memory issues one read of the burst's source bytes in order, for its destination
and place, moves the walk on and changes no memory; a read that ends in an error or has no completion halts its channel with E-0A10 or E-0A11; the
completion of a barrier's final read is used up and marks it done, and one of data from host memory for HyperRAM issues one write of the burst's bytes
at its place; a descriptor that is complete with stop set, and no interrupt asked for, leaves its channel idle, and otherwise hands over to the
shadow, which starts at its first byte. -/
def Obligations.StreamMoves : Prop :=
  (∀ (n : Fin 16) (d : DescW) (s : State), s.str.chans.length = 16 → 8 ≤ n.val → s.pwr.park = false → s.rstRank = 0 →
      (s.chan n).active = some d → (s.chan n).walk.done = false → s.burstReady n = true → s.outranked n (burstClass d (s.chan n).walk) = false →
      (burstSrcs d (s.runLen d (s.chan n).walk) (runAt d (s.chan n).walk).1 (s.chan n).walk.off
        ((s.pace n d).burstLen d (s.chan n).walk)).all isHost = true → s.pace n d = s →
    let w := (s.chan n).walk
    let k := s.burstLen d w
    ∃ t, exec (.streamBurst n []) s = .next t ∧ (t.chan n).walk = s.walkOn d w k ∧ (t.chan n).reads = (s.chan n).reads ++
        [⟨burstSrcs d (s.runLen d w) (runAt d w).1 w.off k, ((runAt d w).2 + w.off) % 2 ^ 40, k, w, false⟩] ∧
      (∀ m, m ≠ n.val → t.chan m = s.chan m) ∧ s.regsBut t [] ∧ s.sameMem t) ∧
  (∀ (n : Fin 16) (q : ReadReq) (qs : List ReadReq) (s : State), s.str.chans.length = 16 → (s.chan n).reads = q :: qs →
      s.fbit (F.STR_CH_ERR_valid n) = false →
    (∃ t, exec (.readCompletionError n) s = .next t ∧ (t.chan n).halted = true ∧ (t.chan n).reads = [] ∧
      t.fget (F.STR_CH_ERR_code n) = 0x0A10 ∧ s.sameMem t) ∧
    ∃ t, exec (.completionTimeout n) s = .next t ∧ (t.chan n).halted = true ∧ (t.chan n).reads = [] ∧
      t.fget (F.STR_CH_ERR_code n) = 0x0A11 ∧ s.sameMem t) ∧
  (∀ (n : Fin 16) (d : DescW) (q : ReadReq) (qs : List ReadReq) (s : State), (s.chan n).active = some d → (s.chan n).reads = q :: qs →
      q.barrier = true →
    ∀ bs, exec (.pcieReadCompletion n bs) s = .next (s.setChan n { s.chan n with reads := qs, barRead := 2 })) ∧
  (∀ (n : Fin 16) (d : DescW) (q : ReadReq) (qs : List ReadReq) (bs : List Byte) (s : State), s.str.chans.length = 16 →
      (s.chan n).active = some d → (s.chan n).reads = q :: qs → q.barrier = false → q.srcs.all isHost = true →
      bs.length = q.srcs.length → s.writeTag q.dst = true → inHyper q.dst = true → s.waitsInit q.dst q.n = false → s.dstOk q.dst q.n = true →
    ∃ t y, exec (.pcieReadCompletion n bs) s = .next t ∧ (t.chan n).reads = qs ∧ t.str.writes = s.str.writes ++ [y] ∧
      y.addr = q.dst ∧ y.bytes = (burstBytes d (s.runLen d q.place) q.place.off (bs.map fun b => (b, false))).map (·.1) ∧
      y.poison = false ∧ y.chan = n.val ∧ y.no = s.str.nextWrite ∧ (∀ m, m ≠ n.val → t.chan m = s.chan m) ∧
      s.regsBut t [R.STR_CH_RING n, R.STR_CH_BYTES n, R.STR_CH_STATUS n] ∧ s.sameMem t) ∧
  (∀ (n : Fin 16) (d : DescW) (next : List Word) (s : State), s.str.chans.length = 16 → n ≠ 6 → (s.chan n).active = some d →
      s.descDone n d = true → dBit d 11 = false → (s.chan n).stop = true →
    ∃ t, exec (.descriptorComplete n next) s = .next t ∧ (t.chan n).active = none ∧ (∀ m, m ≠ n.val → t.chan m = s.chan m) ∧ s.sameMem t) ∧
  (∀ (n : Fin 16) (d e : DescW) (next : List Word) (s : State), s.str.chans.length = 16 → n ≠ 6 → (s.chan n).active = some d →
      s.descDone n d = true → dBit d 11 = false → (s.chan n).stop = false → (s.chan n).shadow = some e →
    ∃ t, exec (.descriptorComplete n next) s = .next t ∧ (t.chan n).active = some e ∧ (t.chan n).shadow = none ∧ (t.chan n).moved = 0 ∧
      (t.chan n).walk = s.walkStart n e ∧ (∀ m, m ≠ n.val → t.chan m = s.chan m) ∧ s.sameMem t)

/-- O46 (tier 2). Outside D3hot, with a completion waiting, ring 1 enabled and a slot free, DEVICE_RING_WRITE posts the entry's 16 bytes at the slot
of the producer index, with the phase bit in its byte 1, advances the producer index by one and removes the completion. RING_IRQ_TIMER of a device
ring with unsignalled entries and a time raises the ring's vector and leaves none unsignalled. -/
def Obligations.RingWrites : Prop :=
  (∀ (c : Comp) (cs : List Comp) (s : State), s.rstRank = 0 → s.pci.d3 = false → s.cp.comps = c :: cs → s.ringFree 1 = true →
      s.cp.cmds = [] →
    ∃ t w, exec (.deviceRingWrite 1) s = .next t ∧ t.cp.comps = cs ∧ t.cp.out = s.cp.out ++ [w] ∧
      w.addr = (s.reg (R.PCI_RING_BASE_LO 1)).toNat + 2 ^ 32 * (s.reg (R.PCI_RING_BASE_HI 1)).toNat +
        (s.reg (R.PCI_RING_PROD 1)).toNat % 2 ^ s.fget (F.PCI_RING_CFG_log2size 1) * 16 ∧
      w.bytes = setNth (compEntry c) 1 (BitVec.ofNat 8 (s.phaseBit 1)) ∧ w.bytes.length = 16 ∧
      t.reg (R.PCI_RING_PROD 1) = s.reg (R.PCI_RING_PROD 1) + 1 ∧ s.regsBut t [R.PCI_RING_PROD 1] ∧ s.sameMem t) ∧
  (∀ (r : Fin 5) (s : State), 0 < r.val → 0 < nth 0 s.cp.unsig r → s.fget (F.PCI_RING_IRQ_time_us r) ≠ 0 → s.masked r = false →
      s.cp.unsig.length = 5 →
    ∃ t, exec (.ringIrqTimer r) s = .next t ∧ t.irqOut = s.irqOut ++ (s.msgFor r).toList ∧ nth 0 t.cp.unsig r = 0 ∧ s.regsBut t [] ∧ s.sameMem t)

/-- O47 (tier 2). Setting a bit of HUB.IRQ_STATUS that was 0 raises its vector exactly when its mask bit is 1; one that was 1 raises nothing; and
setting a mask bit raises the vector exactly when the status bit is already 1. -/
def Obligations.InterruptVectors : Prop :=
  (∀ (k : Fin 6) (s : State), s.masked (irqVector k) = false → bitN (s.fget irqBits) k = false →
    (s.irq k).irqOut = (if bitN (s.fget F.HUB_IRQ_MASK_en) k then s.irqOut ++ (s.msgFor (irqVector k)).toList else s.irqOut) ∧
      bitN ((s.irq k).fget irqBits) k = true) ∧
  (∀ (k : Fin 6) (s : State), bitN (s.fget irqBits) k = true → s.irq k = s) ∧
  (∀ (k : Fin 6) (s : State), s.hostOk R.HUB_IRQ_MASK → bitW (s.reg R.HUB_IRQ_MASK) k = false →
    ∃ t, exec (.irqMaskWrite (s.reg R.HUB_IRQ_MASK ||| BitVec.ofNat 32 (2 ^ k.val))) s = .next t ∧
      (s.masked (irqVector k) = false →
        t.irqOut = (if bitN (s.fget irqBits) k then s.irqOut ++ (s.msgFor (irqVector k)).toList else s.irqOut)) ∧
      (s.masked (irqVector k) = true → t.irqOut = s.irqOut ∧
        ∀ m, s.msgFor (irqVector k) = some m → bitN (s.fget irqBits) k = true → bitN t.pci.pend m.msg = true))

/-- O48 (tier 1). A channel that is present and has not failed goes to state 3 with its cause when it fails, and a forced failure has cause 4 and sets
force_fail; a channel that initialises becomes ready with zero in its blocks; with no Graft command queued neither changes other memory. A write of
HRM.BSTORE stores its fields and marks all four slots invalid. A write of HRM.CROP_BASE or CROP_SIZE with the crop store empty takes effect at once.
-/
def Obligations.HyperRamChannels : Prop :=
  (∀ (c : Fin 4) (cause : Fin 3) (s : State), s.chanAt c ≠ 0 → s.chanAt c ≠ 3 → s.cp.cmds = [] →
    ∃ t, exec (.hyperramChannelFail c cause) s = .next t ∧ t.chanAt c = 3 ∧ t.fget (F.HRM_CH_STATUS_state c) = 3 ∧
      t.fget (F.HRM_CH_STATUS_cause c) = cause.val + 1 ∧ (s.grf.queue = [] → s.sameMem t)) ∧
  (∀ (c : Fin 4) (s : State), s.hostOk (R.HRM_CH_STATUS c) → s.chanAt c ≠ 0 → s.chanAt c ≠ 3 → s.cp.cmds = [] →
    ∃ t, exec (.forceFail c) s = .next t ∧ t.chanAt c = 3 ∧ t.fget (F.HRM_CH_STATUS_state c) = 3 ∧ t.fget (F.HRM_CH_STATUS_cause c) = 4 ∧
      t.fbit (F.HRM_CH_STATUS_force_fail c) = true ∧ (s.grf.queue = [] → s.sameMem t)) ∧
  (∀ (c : Fin 4) (s : State), s.chanAt c = 1 → s.cp.cmds = [] →
    ∃ t, exec (.hyperramInitDone c) s = .next t ∧ t.chanAt c = 2 ∧ t.fget (F.HRM_CH_STATUS_state c) = 2 ∧ (s.grf.queue = [] →
      s.regsBut t [R.HRM_CH_STATUS c] ∧
      (∀ a, hyperBase + s.chanStart c ≤ a → a < hyperBase + s.chanStart c + s.chanCap c → t.byte a = 0 ∧ t.poisoned a = false) ∧
      (∀ a, (a < hyperBase + s.chanStart c ∨ hyperBase + s.chanStart c + s.chanCap c ≤ a) → t.byte a = s.byte a))) ∧
  (∀ (v : Word) (s : State), s.hostOk R.HRM_BSTORE →
    ∃ t, exec (.bstoreWrite v) s = .next t ∧ t.reg R.HRM_BSTORE = v &&& 0x007F01FF ∧
      (∀ k < 4, (nth SlotSt.init t.hrm.slots k).valid = false) ∧ s.regsBut t [R.HRM_BSTORE] ∧ s.sameMem t) ∧
  (∀ (size : Bool) (v : Word) (s : State), s.hostOk (if size then R.HRM_CROP_SIZE else R.HRM_CROP_BASE) → s.vrd.crops = [] →
      s.hrm.heldBase = none → s.hrm.heldSize = none →
    ∃ t, exec (.cropStoreWrite size v) s = .next t ∧ bitsW (t.reg (if size then R.HRM_CROP_SIZE else R.HRM_CROP_BASE)) 0 17 = bitsW v 0 17 ∧
      t.hrm.heldBase = none ∧ t.hrm.heldSize = none ∧ s.sameMem t)

/-- O49 (tier 2). The HyperRAM scrubber leaves a block without error as it is and writes a correctable one back with its errors gone, counting it; the
on-chip scrubber leaves a clean codeword as it is and writes a correctable one back with its errors gone, counting it; a late HyperRAM pass with the
scrubber enabled and a late on-chip pass raise E-0813 and E-0803, which become the first error of a job that has none, and set their late bits; with
the scrubber disabled nothing happens. A codeword of the Cellarmaster memories that the scrub corrects is counted, and one that it cannot correct
restarts the Cellarmaster. The ECC window's evaluation, while the Cellarmaster runs, clears the window counts of every Row and forgets the Rows with
uncorrectable words that wait for it; with no alert held, the first Row in order whose corrected count has reached a limit other than 0 raises the
alert with cause 1, and with none such the first waiting Row with cause 2 (of several Rows the model takes the first in order, log 81). -/
def Obligations.ScrubbersAndWindow : Prop :=
  (∀ (off : Nat) (s : State), off % 32 = 0 → s.upsetAt (hyperBase + off) = 0 → s.lastBlock ≠ some off → s.str.writes = [] →
    exec (.hyperramScrub off []) s = .next s) ∧
  (∀ (off : Nat) (c x : Nat) (s : State), off % 32 = 0 → s.str.writes = [] → s.fbit F.HRM_CTRL_scrub_en = true → s.pwr.deferBg = false →
      s.chanOf off = some c → s.chanReady c = true → s.upsetAt (hyperBase + off) ≠ 0 →
      rsDecode 36 (s.upsetAt (hyperBase + off)) = .corrected x → bitsN x 256 8 = 0 → s.lastBlock ≠ some off →
    let a := hyperBase + off
    ∃ t, exec (.hyperramScrub off []) s = .next t ∧ t.upsetAt a = 0 ∧ t.bytesAt a 32 = xorBytes (s.bytesAt a 32) x ∧
      t.poisoned a = s.poisoned a ∧ (∀ b, (b < a ∨ a + 32 ≤ b) → t.byte b = s.byte b) ∧
      t.fget (F.HRM_CH_ERR_corr c) = satAdd (F.HRM_CH_ERR_corr c).w (s.fget (F.HRM_CH_ERR_corr c)) 1 ∧ s.regsBut t [R.HRM_CH_ERR c]) ∧
  (∀ (a : Nat) (s : State), a % 8 = 0 → s.upsetAt a = 0 → exec (.sramScrub (.mem a) [] false) s = .next s) ∧
  (∀ (a r : Nat) (s : State), a % 8 = 0 → a < 0x01000000 → s.pwr.park = false → s.upsetAt a ≠ 0 → rsDecode 11 (s.upsetAt a) = .corrected r →
    ∃ t, exec (.sramScrub (.mem a) [] false) s = .next t ∧ t.upsetAt a = 0 ∧ t.bytesAt a 8 = xorBytes (s.bytesAt a 8) r ∧
      t.poisoned a = s.poisoned a ∧ (∀ b, (b < a ∨ a + 8 ≤ b) → t.byte b = s.byte b) ∧
      t.fget F.HUB_ECC_HUB_corr = satAdd F.HUB_ECC_HUB_corr.w (s.fget F.HUB_ECC_HUB_corr) 1 ∧ s.regsBut t [R.HUB_ECC_HUB]) ∧
  (∀ s : State, s.fbit F.HRM_CTRL_scrub_en = true →
    ∃ t, exec .hyperramScrubLate s = .next t ∧ t.fbit F.HRM_SCRUB_late = true ∧
      t.job = { s.job with firstErr := if (s.job.running || s.job.filling) && s.job.firstErr == 0 then 0x0813 else s.job.firstErr } ∧
      s.regsBut t [R.HRM_SCRUB] ∧ s.sameMem t) ∧
  (∀ s : State, s.fbit F.HRM_CTRL_scrub_en = false → exec .hyperramScrubLate s = .next s) ∧
  (∀ s : State, exec (.sramScrub (.cellar .clean) [] false) s = .next s) ∧
  (∀ s : State, ∃ t, exec (.sramScrub (.cellar .corrected) [] false) s = .next t ∧
      t.fget F.HUB_ECC_HUB_corr = satAdd F.HUB_ECC_HUB_corr.w (s.fget F.HUB_ECC_HUB_corr) 1 ∧ s.regsBut t [R.HUB_ECC_HUB] ∧ s.sameMem t) ∧
  (∀ s : State, s.rstLevel = 0 → s.sec.restart = false →
    ∃ t, exec (.sramScrub (.cellar .uncorrectable) [] false) s = .next t ∧ t.sec.restart = true ∧ t.fget F.HUB_CM_STATUS_state = 1 ∧
      t.fget F.HUB_RST_STATUS_kind = 4 ∧ t.fget F.HUB_RST_STATUS_cause = 0) ∧
  (∀ s : State, ∃ t, exec .sramScrubLate s = .next t ∧ t.fbit F.HUB_ECC_SCRUB_late = true ∧
      t.job = { s.job with firstErr := if (s.job.running || s.job.filling) && s.job.firstErr == 0 then 0x0803 else s.job.firstErr } ∧
      s.regsBut t [R.HUB_ECC_SCRUB] ∧ s.sameMem t) ∧
  (∀ s : State, s.cmRuns = true →
    ∃ t, exec .eccWindowEval s = .next t ∧ t.eccUnc = [] ∧ t.eccWin = List.replicate 36 0 ∧
      (∀ n < 4, ∀ p < 9, t.fget (F.TER_ROW_ECC_win_corr n p) = 0) ∧ s.sameMem t) ∧
  (∀ (k : Nat) (s : State), s.cmRuns = true → k < 36 → s.fget F.HUB_ECC_CFG_corr_limit ≠ 0 →
      (∀ i < k, nth 0 s.eccWin i < s.fget F.HUB_ECC_CFG_corr_limit) → s.fget F.HUB_ECC_CFG_corr_limit ≤ nth 0 s.eccWin k →
      s.fbit F.HUB_ECC_ALERT_valid = false →
    ∃ t, exec .eccWindowEval s = .next t ∧ t.fbit F.HUB_ECC_ALERT_valid = true ∧ t.fget F.HUB_ECC_ALERT_terrace = k / 9 ∧
      t.fget F.HUB_ECC_ALERT_row = k % 9 ∧ t.fget F.HUB_ECC_ALERT_cause = 1) ∧
  (∀ (T row : Nat) (l : List (Nat × Nat)) (s : State), s.cmRuns = true → s.eccUnc = (T, row) :: l → T < 4 → row < 9 →
      (s.fget F.HUB_ECC_CFG_corr_limit = 0 ∨ ∀ i < 36, nth 0 s.eccWin i < s.fget F.HUB_ECC_CFG_corr_limit) →
      s.fbit F.HUB_ECC_ALERT_valid = false →
    ∃ t, exec .eccWindowEval s = .next t ∧ t.fbit F.HUB_ECC_ALERT_valid = true ∧ t.fget F.HUB_ECC_ALERT_terrace = T ∧
      t.fget F.HUB_ECC_ALERT_row = row ∧ t.fget F.HUB_ECC_ALERT_cause = 2) ∧
  (∀ s : State, s.cmRuns = false → exec .eccWindowEval s = .next s)

/-- O50 (tier 2). A confirmed transition that no rule refuses runs in steps (the model's choice, log entry 73): one to Provisioned burns the next
identity bank, whose valid fuse comes last; then the next state is burned, every byte of on-chip SRAM and every block of HyperRAM is 0 and the wipe is
under way; its end burns the wipe-done fuse and stands as a cold reset of cause 3. One that is refused, not confirmed, or comes while a transition
runs leaves the fuses and memory alone, and a refused one gives its code. svn_up burns the svn fuses up to the booted image's, of which there are 32,
and changes nothing else. Programming an unwritten slot outside Sealed and Returned writes the key window's bytes and the debug bit and keeps the
revoked fuse; a written slot refuses with E-0C14. A revoked slot stays written. -/
def Obligations.FusesAndKeys : Prop :=
  (∀ (v : Word) (failed : List (Fin 4 × Fin 8)) (s : State), s.hostOk R.SEC_LC_CTRL → bitW v 2 = false → bitsW v 8 8 = 0xA5 →
      s.sec.trans = none → s.lcCode (bitsW v 0 2) = 0 →
    let g := bitsW v 0 2
    ∃ t, exec (.lifeCycleTransition v failed) s = .next t ∧ g = s.fuse.lc + 1 ∧ t.job = s.job ∧ s.regsBut t [] ∧
      (g = 1 → t.sec.trans = some ⟨1, true, failed⟩ ∧ s.sameMem t ∧ ∃ bank, bank.length = 64 ∧ t.fuse = { s.fuse with
        banks := s.fuse.banks + 1, bankOk := s.fuse.bankOk ++ [false], idSeed := s.fuse.idSeed ++ [bank] }) ∧
      (g ≠ 1 → t.sec.trans = some ⟨g, false, failed⟩ ∧ t.fuse = { s.fuse with lc := g } ∧ t.sec.wiping = true ∧ t.words = [] ∧
        (∀ a < hyperBase, t.byte a = 0) ∧ ∀ c < 4, ∀ a, hyperBase + s.chanStart c ≤ a →
          a < hyperBase + s.chanStart c + s.chanCap c → t.byte a = 0)) ∧
  (∀ (x : TransSt) (s : State), s.sec.trans = some x → x.burning = true →
    let t := s.transTick
    t.fuse = { s.fuse with bankOk := setNth s.fuse.bankOk (s.fuse.banks - 1) true, lc := x.target } ∧ t.sec.wiping = true ∧
      t.sec.trans = some { x with burning := false } ∧ s.regsBut t [] ∧ t.words = [] ∧ (∀ a < hyperBase, t.byte a = 0) ∧
      (∀ c < 4, ∀ a, hyperBase + s.chanStart c ≤ a → a < hyperBase + s.chanStart c + s.chanCap c → t.byte a = 0)) ∧
  (∀ (x : TransSt) (s : State), s.sec.trans = some x → x.burning = false → s.sec.wiping = true →
    ∃ t, exec .wipeDone s = .next t ∧ t.fuse = s.fuse ∧ t.sec.trans = none ∧
      t.sec.wipeDone = Nat.lor s.sec.wipeDone (2 ^ x.target) ∧ (∀ a, t.byte a = 0) ∧ t.job.running = false ∧
      t.fget F.HUB_RST_STATUS_kind = 0 ∧ t.fget F.HUB_RST_STATUS_cause = 3) ∧
  (∀ (v : Word) (failed : List (Fin 4 × Fin 8)) (s : State), s.hostOk R.SEC_LC_CTRL → bitW v 2 = false →
      bitsW v 8 8 ≠ 0xA5 ∨ s.sec.trans.isSome = true ∨ s.lcCode (bitsW v 0 2) ≠ 0 →
    ∃ t, exec (.lifeCycleTransition v failed) s = .next t ∧ t.fuse = s.fuse ∧ t.sec = s.sec ∧ s.sameMem t ∧
      (bitsW v 8 8 = 0xA5 → s.sec.trans = none → s.fbit F.SEC_ERR_valid = false →
        t.fget F.SEC_ERR_code = s.lcCode (bitsW v 0 2)) ∧
      (bitsW v 8 8 ≠ 0xA5 ∨ s.sec.trans.isSome = true → s.regsBut t [])) ∧
  (∀ (b : BootSt) (s : State), s.hostOk R.SEC_LC_CTRL → s.sec.boot = some b →
    exec .svnUp s = .next { s with fuse := { s.fuse with svnFloor := max s.fuse.svnFloor (min 32 b.svn) } }) ∧
  (∀ s : State, s.hostOk R.SEC_LC_CTRL → s.sec.boot = none → exec .svnUp s = .next s) ∧
  (∀ (v : Word) (s : State), s.hostOk R.SEC_KEY_CTRL → s.sealed = false → s.shaped →
    let k := bitsW v 0 3
    let old := nth ⟨false, false, false, []⟩ s.fuse.keys k
    ∃ t, exec (.keyProgram v) s = .next t ∧ s.sameMem t ∧
      (old.written = false → s.regsBut t [R.SEC_KEY_CTRL] ∧
        t.fuse = { s.fuse with keys := setNth s.fuse.keys k ⟨true, bitW v 3, old.revoked, s.winBytes keyWin 32⟩ }) ∧
      (old.written = true → t.fuse = s.fuse ∧ (s.fbit F.SEC_ERR_valid = false → t.fget F.SEC_ERR_code = 0x0C14))) ∧
  (∀ (v : Word) (s : State), s.hostOk R.SEC_KEY_CTRL → s.shaped →
    let k := bitsW v 0 3
    let old := nth ⟨false, false, false, []⟩ s.fuse.keys k
    ∃ t, exec (.keyRevoke v) s = .next t ∧ s.sameMem t ∧
      t.fuse = { s.fuse with keys := setNth s.fuse.keys k { old with revoked := true } } ∧
      (nth ⟨false, false, false, []⟩ t.fuse.keys k).usable = false)

/-- O51 (tier 2). With no operation running, a read, an aligned page program or an aligned block erase outside the booted slot starts: busy is 1 and
the operation is in hand; inside the booted slot an aligned program or erase gives E-0C05 and starts nothing; a request while one runs is a violation
of reason 1. FLASH_OP_DONE ends an operation with its code, and a program clears bits only. DEBUG_CHALLENGE stores a challenge for its scope and ends
a verification in progress, with E-0C33; DEBUG_SUBMIT with one consumes it and is busy, without one raises E-0C33; DEBUG_VERIFY_DONE sets the scope's
unlocked bits exactly when the response passes and raises E-0C32 otherwise. -/
def Obligations.FlashAndDebug : Prop :=
  (∀ s : State, s.hostOk R.SEC_FL_CTRL → s.fbit F.SEC_FL_CTRL_busy = false →
    let a := s.fget F.SEC_FL_ADDR_addr
    (∃ t, exec .flashReadPage s = .next t ∧ t.fbit F.SEC_FL_CTRL_busy = true ∧ t.sec.flashOp = some ⟨1, a, 0⟩ ∧
      t.sec.flash = s.sec.flash ∧ s.regsBut t [R.SEC_FL_CTRL] ∧ s.sameMem t) ∧
    (a % 256 = 0 → s.bootedAt a 256 = false → ∃ t, exec .flashProgramPage s = .next t ∧ t.fbit F.SEC_FL_CTRL_busy = true ∧
      t.sec.flashOp = some ⟨2, a, 0⟩ ∧ t.sec.flash = s.sec.flash ∧ s.regsBut t [R.SEC_FL_CTRL] ∧ s.sameMem t) ∧
    (a % 65536 = 0 → s.bootedAt a 65536 = false → ∃ t, exec .flashErase s = .next t ∧ t.fbit F.SEC_FL_CTRL_busy = true ∧
      t.sec.flashOp = some ⟨3, a, 0⟩ ∧ t.sec.flash = s.sec.flash ∧ s.regsBut t [R.SEC_FL_CTRL] ∧ s.sameMem t) ∧
    (a % 256 = 0 → s.bootedAt a 256 = true → ∃ t, exec .flashProgramPage s = .next t ∧ t.sec = s.sec ∧ s.sameMem t ∧
      t.fget F.SEC_FL_CTRL_code = 0x0C05 ∧ (s.fbit F.SEC_ERR_valid = false → t.fget F.SEC_ERR_code = 0x0C05)) ∧
    (a % 65536 = 0 → s.bootedAt a 65536 = true → ∃ t, exec .flashErase s = .next t ∧ t.sec = s.sec ∧ s.sameMem t ∧
      t.fget F.SEC_FL_CTRL_code = 0x0C05 ∧ (s.fbit F.SEC_ERR_valid = false → t.fget F.SEC_ERR_code = 0x0C05))) ∧
  (∀ s : State, s.hostOk R.SEC_FL_CTRL → s.fbit F.SEC_FL_CTRL_busy = true →
    exec .flashReadPage s = .next (s.violate .bar0 R.SEC_FL_CTRL true 1) ∧
      exec .flashProgramPage s = .next (s.violate .bar0 R.SEC_FL_CTRL true 1) ∧
      exec .flashErase s = .next (s.violate .bar0 R.SEC_FL_CTRL true 1)) ∧
  (∀ (f : FlashOp) (s : State), s.sec.flashOp = some f →
    ∃ t, exec .flashOpDone s = .next t ∧ t.sec.flashOp = none ∧ t.fbit F.SEC_FL_CTRL_busy = false ∧
      t.fget F.SEC_FL_CTRL_code = f.code % 65536 ∧ s.sameMem t ∧
      (f.op = 1 → t.winBytes pageWin 256 = s.flashBytes f.addr 256 ∧ t.sec.flash = s.sec.flash) ∧
      (f.op = 2 → t.flashBytes f.addr 256 = ((s.winBytes pageWin 256).zip (s.flashBytes f.addr 256)).map fun x => x.1 &&& x.2) ∧
      (f.op = 3 → t.flashBytes f.addr 65536 = List.replicate 65536 0xFF)) ∧
  (∀ (v : Word) (s : State), s.hostOk R.SEC_DBG_CTRL →
    ∃ t c, exec (.debugChallenge v) s = .next t ∧ t.sec.challenge = some c ∧ c.length = 64 ∧ t.sec.chScope = bitsW v 0 4 ∧
      c.drop 32 = bytesOf 8 s.fuse.serial ++ bytesOf 1 s.fuse.lc ++ bytesOf 1 (bitsW v 0 4) ++ List.replicate 22 0 ∧
      t.winBytes 0x41300 64 = c ∧ t.sec.verify = none ∧ s.sameMem t ∧
      (s.sec.verify.isSome = true → t.fbit F.SEC_DBG_CTRL_busy = false ∧
        (s.fbit F.SEC_ERR_valid = false → t.fget F.SEC_ERR_code = 0x0C33))) ∧
  (∀ s : State, s.hostOk R.SEC_DBG_CTRL →
    ∃ t, exec .debugSubmit s = .next t ∧ s.sameMem t ∧
      (∀ c, s.sec.challenge = some c → t.sec.challenge = none ∧ t.fbit F.SEC_DBG_CTRL_busy = true ∧
        t.sec.verify = some (s.sec.chScope, c, s.winBytes 0x42000 7856)) ∧
      (s.sec.challenge = none → t.sec = s.sec ∧ (s.fbit F.SEC_ERR_valid = false → t.fget F.SEC_ERR_code = 0x0C33))) ∧
  (∀ (scope : Nat) (c sig : List Byte) (s : State), s.sec.verify = some (scope, c, sig) → scope < 16 →
    ∃ t, exec .debugVerifyDone s = .next t ∧ t.sec.verify = none ∧ t.fbit F.SEC_DBG_CTRL_busy = false ∧ s.sameMem t ∧
      (s.debugOk scope c sig = true → ∀ i < 4, bitN (t.fget F.SEC_DBG_CTRL_unlocked) i =
        (bitN (s.fget F.SEC_DBG_CTRL_unlocked) i || bitN scope i)) ∧
      (s.debugOk scope c sig = false → t.fget F.SEC_DBG_CTRL_unlocked = s.fget F.SEC_DBG_CTRL_unlocked ∧
        (s.fbit F.SEC_ERR_valid = false → t.fget F.SEC_ERR_code = 0x0C32)))

/-- O52 (tier 2). A write of PRB_CTRL with arm starts a capture and one with force triggers it, unless the debug scope is closed, when it changes
neither the register nor the probe. A sample lets the nets settle, stores the bus at the next index of the circle and triggers a running capture
exactly when the masked bits match; the last post sample ends it. An edge of a running tree in a good Row whose configuration reads without error and
that stands at stage 0 counts, and leaves every flip-flop of the tree at its initial value; at stage 3 an edge of a tree not held in reset gives a
cell of the tree, in a block whose outputs are all determined by the nets of before the edge, the value of its table as its flip-flop's (held as a
difference to its initial value), or leaves it where its clock enable is 0, and its marker lanes are what the nets then drive. -/
def Obligations.ProbeAndLogicCells : Prop :=
  (∀ (v : Word) (s : State), s.hostOk R.HUB_PRB_CTRL → s.debugOpen 0 = true → s.sec.probeRun = false → bitW v 1 = false →
    ∃ t, exec (.probeArm v) s = .next t ∧ t.sec.probeRun = true ∧ t.sec.probeTrig = false ∧ t.sec.probeDone = false ∧
      t.sec.probe = s.sec.probe ∧ t.reg R.HUB_PRB_CTRL = (v ||| 1) &&& 0xFFFF07FD ∧ s.regsBut t [R.HUB_PRB_CTRL] ∧ s.sameMem t) ∧
  (∀ (v : Word) (s : State), s.hostOk R.HUB_PRB_CTRL → s.debugOpen 0 = true → bitW v 0 = true → bitsW v 16 16 ≠ 0 →
      (s.sec.probeRun = true → s.sec.probeTrig = false) →
    ∃ t, exec (.probeForce v) s = .next t ∧ t.sec.probeTrig = true ∧ t.sec.probeRun = true ∧ t.sec.probeLeft = bitsW v 16 16 ∧
      t.sec.probe = s.sec.probe ∧ s.regsBut t [R.HUB_PRB_CTRL] ∧ s.sameMem t) ∧
  (∀ (v : Word) (s : State), s.hostOk R.HUB_PRB_CTRL → s.debugOpen 0 = false →
    ∃ t, exec (.probeArm v) s = .next t ∧ t.sec = s.sec ∧ t.reg R.HUB_PRB_CTRL = s.reg R.HUB_PRB_CTRL ∧ s.sameMem t) ∧
  (∀ (mesh : LogicNets) (s : State), s.probeClocked = true → s.fget F.HUB_PRB_CTRL_row < 9 → s.sec.probeRun = true →
    let u := s.fget F.HUB_PRB_CTRL_terrace * 9 + s.fget F.HUB_PRB_CTRL_row
    let z := s.lcSettle (s.fget F.HUB_PRB_CTRL_terrace) mesh
    let bus := (z.probeBus u (z.lcRow (s.fget F.HUB_PRB_CTRL_terrace) (s.fget F.HUB_PRB_CTRL_row))
      ⟨z.lcNets (s.fget F.HUB_PRB_CTRL_terrace), mesh⟩ 64).1
    let i := if 65535 ≤ s.sec.probeLast then 0 else s.sec.probeLast + 1
    let mask := s.fget F.HUB_PRB_MASK_LO_value + 2 ^ 32 * s.fget F.HUB_PRB_MASK_HI_value
    let want := s.fget F.HUB_PRB_MATCH_LO_value + 2 ^ 32 * s.fget F.HUB_PRB_MATCH_HI_value
    (∃ t, exec (.probeTrigger [mesh]) s = .next t ∧ sget zeroN t.sec.probe i = bus ∧ t.sec.probeLast = i ∧
      (∀ j, j ≠ i → sget zeroN t.sec.probe j = sget zeroN s.sec.probe j) ∧ s.regsBut t [] ∧ s.sameMem t ∧
      (s.sec.probeTrig = false → t.sec.probeTrig = (mask != 0 && Nat.land bus mask == Nat.land want mask))) ∧
    (s.sec.probeTrig = true → s.sec.probeLeft = 1 →
      ∃ t, exec (.probeCaptureDone [mesh]) s = .next t ∧ t.sec.probeRun = false ∧ t.sec.probeDone = true ∧
        sget zeroN t.sec.probe i = bus ∧ t.sec.probeLast = i ∧ s.regsBut t [] ∧ s.sameMem t)) ∧
  (∀ (T : Fin 4) (row : Fin 9) (g : Fin 4) (mesh : LogicNets) (io : LogicIo) (s : State), s.pwr.park = false →
      s.rowGood T row = true → s.treeRuns T g = true → s.lcSee T row = (false, s) → (s.lcRow T row).stage = 0 → s.shaped →
    ∃ t, exec (.logicCellCycle T row g mesh io) s = .next t ∧ nth 0 (t.lcRow T row).cyc g = min (nth 0 (s.lcRow T row).cyc g + 1) 64 ∧
      (t.lcRow T row).stage = 0 ∧ (t.lcRow T row).outq = (s.lcRow T row).outq ∧ s.regsBut t [] ∧ s.sameMem t ∧
      ∀ c < 2048, bitsN (s.lcWord (T * 9 + row) (4 * c + 3)) 1 2 = g → sget zeroF (t.lcRow T row).ff c = false) ∧
  (∀ (T : Fin 4) (row : Fin 9) (g : Fin 4) (mesh : LogicNets) (io : LogicIo) (c : Nat) (s : State), s.pwr.park = false →
      s.rowGood T row = true → s.treeRuns T g = true → s.lcSee T row = (false, s) → (s.lcRow T row).stage = 3 →
      s.fbit (F.TER_LC_TREE_V_rst T s.activeV g) = false → s.shaped → io.took = [] → c < 2048 →
    let u : Nat := T * 9 + row
    let x := s.lcRow T row
    let w := s.lcWord u (4 * c + 3)
    let m := (s.lcWave T g row mesh).1
    let outs := s.lcOuts u (c / 32) x m 33
    bitsN w 1 2 = g → (outs.all Option.isSome = true) →
    ∃ t, exec (.logicCellCycle T row g mesh io) s = .next t ∧ (t.lcRow T row).stage = 3 ∧
      (t.lcRow T row).lanes = t.markLanes T row io.marks ∧ s.regsBut t [] ∧ s.sameMem t ∧
      sget zeroF (t.lcRow T row).ff c =
        (if bitN w 14 = false ∨ (s.lcTrack u (c / 32) m outs (bitsN w 15 5)).getD false = true
         then ((s.lcLut u (c / 32) x m outs c).getD false) != bitN w 20 else sget zeroF x.ff c))

/-- O53 (tier 2). Outside a reset an edge of one input that the decode counts (every edge, those of A, or the rising ones of A) moves the position by
one count, up when the leading order differs from dir and down otherwise, modulo 2^48, and one that it does not count leaves it; both inputs at once
leave it and count E-0240. A timer-driven or software-driven generator that is enabled, has that source and has not fired fires: it records its time;
one inside min is suppressed and counted. The end of a trigger's or a marker's width clears its pulse. -/
def Obligations.EncoderAndTriggers : Prop :=
  (∀ (a b a' b' : Bool) (now : Nat) (s : State), s.rstHeld = false → s.fget F.STP_ENC_CFG_decode ≤ 2 → (a != a') ≠ (b != b') →
    let lead := if a != a' then a' != b else b' == a
    let counts := s.fget F.STP_ENC_CFG_decode = 0 ∨ (a ≠ a' ∧ (s.fget F.STP_ENC_CFG_decode = 1 ∨ a' = true))
    ∃ t, exec (.encoderEdge a b a' b' now) s = .next t ∧ s.sameMem t ∧
      (counts → t.lin.pos = (s.lin.pos + if lead != s.fbit F.STP_ENC_CFG_dir then 1 else 2 ^ 48 - 1) % 2 ^ 48) ∧
      (¬ counts → t.lin = s.lin)) ∧
  (∀ (a b : Bool) (now : Nat) (s : State), s.rstHeld = false →
    ∃ t, exec (.encoderEdge a b (!a) (!b) now) s = .next t ∧ t.lin = s.lin ∧
      t.fget F.STP_ENC_ERR_count = satAdd 32 (s.fget F.STP_ENC_ERR_count) 1 ∧ s.regsBut t [R.STP_ENC_ERR] ∧ s.sameMem t) ∧
  (∀ (k : Fin 8) (now : Nat) (s : State), s.shaped → s.fbit (F.STP_TRG_CFG_en k) = true → s.fget (F.STP_TRG_CFG_src k) = 1 →
      (s.trg k).last = none →
    let time := max s.trl.time (now % 2 ^ 64)
    ∃ t, exec (.triggerTimer k now) s = .next t ∧ (t.trg k).last = some (time : Int) ∧ t.trl.time = time ∧
      (∀ j : Fin 8, j ≠ k → t.trg j = s.trg j) ∧ s.regsBut t [] ∧ s.sameMem t) ∧
  (∀ (k : Fin 8) (now : Nat) (last : Int) (s : State), s.fbit (F.STP_TRG_CFG_en k) = true → s.fget (F.STP_TRG_CFG_src k) = 1 →
      (s.trg k).last = some last → ((max s.trl.time (now % 2 ^ 64) : Nat) : Int) - last < (s.fget (F.STP_TRG_MIN_min k) : Int) →
    ∃ t, exec (.triggerTimer k now) s = .next t ∧ t.lin = s.lin ∧
      t.fget F.STP_TRG_SUPP_count = satAdd 32 (s.fget F.STP_TRG_SUPP_count) 1 ∧ s.regsBut t [R.STP_TRG_SUPP] ∧ s.sameMem t) ∧
  (∀ (k : Fin 8) (v : Word) (now : Nat) (s : State), s.hostOk (R.STP_TRG_CFG k) → s.shaped → bitW v 6 = true → bitW v 0 = true →
      bitsW v 1 2 = 2 → (s.trg k).last = none →
    ∃ t, exec (.triggerSoftware k v now) s = .next t ∧ (t.trg k).last = some ((max s.trl.time (now % 2 ^ 64) : Nat) : Int) ∧
      t.reg (R.STP_TRG_CFG k) = v &&& 0xFFFFFF3F ∧ s.regsBut t [R.STP_TRG_CFG k] ∧ s.sameMem t) ∧
  (∀ (k : Fin 8) (s : State), s.shaped →
    ∃ t, exec (.triggerPulseEnd k) s = .next t ∧ t.trg k = { s.trg k with pulse := false } ∧
      (∀ j : Fin 8, j ≠ k → t.trg j = s.trg j) ∧ s.regsBut t [] ∧ s.sameMem t) ∧
  (∀ (k : Fin 16) (s : State), s.shaped →
    ∃ t, exec (.markerWidthExpiry k) s = .next t ∧ t.mrk k = { s.mrk k with pulse := false } ∧
      (∀ j : Fin 16, j ≠ k → t.mrk j = s.mrk j) ∧ s.regsBut t [] ∧ s.sameMem t)

/-- O54 (tier 2). An event queued for an output: with its due position ahead it joins the queue of an output that holds fewer than 1,024, with the
mode and width of that time; a full queue drops it with E-0232 and counts it in STP.MRK_DROP; with its due position at or behind the position it fires
at once, E-0230 counted in STP.MRK_LATE: in time mode the output's pulse starts, in length mode its activity starts when the position is short of due
+ width. -/
def Obligations.MarkerQueue : Prop :=
  ∀ (k : Fin 16) (due : Nat) (s : State), s.shaped →
    (atOrBeyond s.lin.pos due = false → (s.mrk k).queue.length < 1024 →
      s.markQueue k due = s.setMrk k { s.mrk k with
        queue := (s.mrk k).queue ++ [(due, s.fget (F.STP_MRK_CFG_mode k) != 0, s.fget (F.STP_MRK_WID_width k))] }) ∧
    (atOrBeyond s.lin.pos due = false → 1024 ≤ (s.mrk k).queue.length →
      (s.markQueue k due).lin = s.lin ∧ (s.markQueue k due).fget F.STP_MRK_DROP_count = satAdd 32 (s.fget F.STP_MRK_DROP_count) 1 ∧
        ((s.job.running = true ∧ s.job.firstErr = 0) → (s.markQueue k due).job.firstErr = 0x0232)) ∧
    (atOrBeyond s.lin.pos due = true → s.pwr.tripped = false →
      (s.markQueue k due).fget F.STP_MRK_LATE_count = satAdd 32 (s.fget F.STP_MRK_LATE_count) 1 ∧
        ((s.job.running = true ∧ s.job.firstErr = 0) → (s.markQueue k due).job.firstErr = 0x0230) ∧
        (s.fget (F.STP_MRK_CFG_mode k) = 0 → ((s.markQueue k due).mrk k).pulse = true) ∧
        (s.fget (F.STP_MRK_CFG_mode k) = 1 → (s.mrk k).upTo = none → (s.mrk k).queue = [] →
          atOrBeyond s.lin.pos ((due + s.fget (F.STP_MRK_WID_width k)) % posMod) = false →
          ((s.markQueue k due).mrk k).upTo = some ((due + s.fget (F.STP_MRK_WID_width k)) % posMod)))

/-- O55 (tier 2). A mailbox write with go sends the payload of the transmit window and reads go 1 until it has left. A reply or event is stored in an
empty receive window with its length and kind and raises bit 3 of the interrupt status; a full one counts it as lost. A late heartbeat sets its
camera's bit; a heartbeat packet changes nothing. A link that loses lock clears its lock bit, sets its lost bit and makes its camera's lines missing;
a relock sets the lock bit. -/
def Obligations.LinksAndMailboxes : Prop :=
  (∀ (c : Fin 4) (v : Word) (s : State), s.hostOk (R.ING_MBX_CTRL c) → bitW v 27 = false →
    ∃ t, exec (.mailboxSend c v) s = .next t ∧ t.fbit (F.ING_MBX_CTRL_go c) = true ∧
      t.fget (F.ING_MBX_CTRL_tx_len c) = bitsW v 0 10 ∧ t.lin.uplink = s.lin.uplink ++ [(c.val, s.winBytes (mbxBase c) (bitsW v 0 10))] ∧
      s.regsBut t [R.ING_MBX_CTRL c] ∧ s.sameMem t) ∧
  (∀ (c : Fin 4) (s : State),
    ∃ t, exec (.mailboxSent c) s = .next t ∧ t.fbit (F.ING_MBX_CTRL_go c) = false ∧ t.lin = s.lin ∧ s.regsBut t [R.ING_MBX_CTRL c] ∧
      s.sameMem t) ∧
  (∀ (c : Fin 4) (ev : Bool) (bs : List Byte) (s : State), bs.length ≤ 1023 →
    ∃ t, exec (.replyOrEventPacket c ev bs) s = .next t ∧ s.sameMem t ∧
      (s.fbit (F.ING_MBX_CTRL_rx_full c) = false → t.winBytes (mbxBase c + 0x400) bs.length = bs ∧
        t.fget (F.ING_MBX_CTRL_rx_len c) = bs.length ∧ t.fbit (F.ING_MBX_CTRL_rx_kind c) = ev ∧
        t.fbit (F.ING_MBX_CTRL_rx_full c) = true ∧ bitN (t.fget irqBits) 3 = true) ∧
      (s.fbit (F.ING_MBX_CTRL_rx_full c) = true →
        t.fget (F.ING_MBX_CTRL_rx_lost c) = satAdd 4 (s.fget (F.ING_MBX_CTRL_rx_lost c)) 1 ∧ s.regsBut t [R.ING_MBX_CTRL c])) ∧
  (∀ (c : Fin 4) (s : State),
    ∃ t, exec (.heartbeatTimeout c) s = .next t ∧ bitN (t.fget F.ING_LINK_STATUS_hb_late) c = true ∧ bitN (t.fget irqBits) 3 = true ∧
      s.regsBut t [R.ING_LINK_STATUS, R.HUB_IRQ_STATUS] ∧ s.sameMem t) ∧
  (∀ (c : Fin 4) (s : State), exec (.heartbeatPacket c) s = .next s) ∧
  (∀ (l : Fin 8) (s : State), s.shaped →
    ∃ t, exec (.linkLockLost l) s = .next t ∧ bitN (t.fget F.ING_LINK_STATUS_lock) l = false ∧
      bitN (t.fget F.ING_LINK_STATUS_lost) l = true ∧ (∀ c ∈ s.camsOfLink l, (t.cam c).lost = true) ∧ bitN (t.fget irqBits) 3 = true ∧
      s.regsBut t [R.ING_LINK_STATUS, R.HUB_IRQ_STATUS] ∧ s.sameMem t) ∧
  (∀ (l : Fin 8) (s : State),
    ∃ t, exec (.linkRelock l) s = .next t ∧ bitN (t.fget F.ING_LINK_STATUS_lock) l = true ∧
      (∀ k : Fin 8, k ≠ l → bitN (t.fget F.ING_LINK_STATUS_lock) k = bitN (s.fget F.ING_LINK_STATUS_lock) k) ∧
      s.regsBut t [R.ING_LINK_STATUS] ∧ s.sameMem t)

/-- O56 (tier 2). A good packet of the line in hand puts its pixels into its camera's line; a line without a missing pixel is delivered with those
pixels, at the position and time of the oldest trigger or, without one, at the present ones. A packet with a bad header refuses its image, none of
whose pixels count; one with a bad CRC, of no enabled camera or of a kind the device does not take counts in CRC_CNT and changes no camera; in a
replay job every packet is discarded and counted. A camera whose lines are late delivers what it has: a triggered one the rest of its image, another
the line that a different camera has completed, with the pixels that have not come missing. With every camera's line there, a line of an open job
takes the next job line with one plane line for each plane of its phase; one that is not of the job that runs, or that a system job cannot take yet,
is discarded and counted, and a system job that records keeps it. A halo that is late is filled with poisoned zp. A line that starts within a band
leaves Ingest for the Hub's output; at a boundary where the job is to stop, the job stops instead, and the lines held unsent are discarded and counted
(the model's choice, log entry 142). -/
def Obligations.CameraLines : Prop :=
  (∀ (p : StreamPkt) (s : State), s.shaped → s.camOn p.cam = true → p.supported = true → s.replayJob = false → p.crcOk = true →
      s.headerOk p = true → (s.cam p.cam).lost = false → (s.cam p.cam).refused = false → p.ahead = 0 →
    let x := s.cam p.cam
    let n := if s.fbit (F.ING_CAM_CFG_frame p.cam) then p.ySize else 1
    let cur := putPx (if x.busy then x.cur else List.replicate (s.camWidth p.cam) none) p.first p.px
    min p.line (n - 1) = x.frameLine →
    (cur.all Option.isSome = false → exec (.streamPacket p) s =
      .next (s.setCam p.cam { x with ySize := p.ySize, lost := false, busy := true, cur := cur })) ∧
    (cur.all Option.isSome = true → ∃ t l, exec (.streamPacket p) s = .next t ∧ (t.cam p.cam).lines = x.lines ++ [l] ∧ l.px = cur ∧
      (∀ pos time job q, x.trig = (pos, time, job) :: q → l.time = time ∧ l.job = job ∧
        l.pos = (pos + x.frameLine * s.fget F.STP_STAMP_CFG_frm_step) % 2 ^ 48 ∧
        (t.cam p.cam).trig = if x.frameLine + 1 < n then x.trig else q) ∧
      (x.trig = [] → l.pos = s.lin.pos ∧ l.time = s.trl.time ∧ l.job = s.ing.jobs) ∧
      (t.cam p.cam).frameLine = (if x.frameLine + 1 < n then x.frameLine + 1 else 0) ∧
      (t.cam p.cam).busy = false ∧ (∀ c : Fin 4, c ≠ p.cam → t.cam c = s.cam c) ∧ s.regsBut t [] ∧ s.sameMem t)) ∧
  (∀ (p : StreamPkt) (s : State), s.shaped → s.camOn p.cam = true → p.supported = true → s.replayJob = false → p.crcOk = true →
      s.headerOk p = false → (s.cam p.cam).lost = false → (s.cam p.cam).frameLine = 0 → p.line = 0 → p.ahead = 0 →
    ∃ t, exec (.streamPacket p) s = .next t ∧ (t.cam p.cam).refused = true ∧ (t.cam p.cam).lines = (s.cam p.cam).lines ∧
      (t.cam p.cam).cur = List.replicate (s.camWidth p.cam) none ∧ (t.cam p.cam).ySize = (if p.ySize ≤ 1024 then p.ySize else 1) ∧
      (s.job.running = true → s.job.firstErr = 0 → t.job.firstErr = 0x0203) ∧ s.regsBut t [] ∧ s.sameMem t) ∧
  (∀ (p : StreamPkt) (s : State), s.camOn p.cam = false ∨ p.supported = false ∨ (s.replayJob = false ∧ p.crcOk = false) →
    ∃ t, exec (.streamPacket p) s = .next t ∧ t.ing = s.ing ∧ t.fget F.ING_CRC_CNT_count = satAdd 32 (s.fget F.ING_CRC_CNT_count) 1 ∧
      (s.camOn p.cam = true → p.supported = true → s.job.running = true → s.job.firstErr = 0 → t.job.firstErr = 0x0202) ∧
      s.regsBut t [R.ING_CRC_CNT] ∧ s.sameMem t) ∧
  (∀ (p : StreamPkt) (s : State), s.camOn p.cam = true → p.supported = true → s.replayJob = true →
    ∃ t, exec (.streamPacket p) s = .next t ∧ t.ing = s.ing ∧ t.fget F.ING_DISC_CNT_count = satAdd 32 (s.fget F.ING_DISC_CNT_count) 1 ∧
      s.regsBut t [R.ING_DISC_CNT] ∧ s.sameMem t) ∧
  (∀ (c : Fin 4) (pos time job : Nat) (q : List (Nat × Nat × Nat)) (s : State), s.shaped → s.camOn c = true → s.camTriggered c = true →
      (s.cam c).trig = (pos, time, job) :: q → (s.cam c).frameLine < s.imgLines c →
    let x := s.cam c
    ∃ t ls, exec (.lineTimeout c) s = .next t ∧ (t.cam c).lines = x.lines ++ ls ∧ ls.length = s.imgLines c - x.frameLine ∧
      (∀ i l, ls[i]? = some l → l.px = (if i = 0 ∧ x.busy = true then x.cur else List.replicate (s.camWidth c) none) ∧ l.time = time ∧
        l.job = job ∧ l.pos = (pos + (x.frameLine + i) * s.fget F.STP_STAMP_CFG_frm_step) % 2 ^ 48) ∧
      (t.cam c).trig = q ∧ (t.cam c).frameLine = 0 ∧ (t.cam c).busy = false ∧ (∀ d : Fin 4, d ≠ c → t.cam d = s.cam d) ∧
      s.regsBut t [] ∧ s.sameMem t) ∧
  (∀ (c : Fin 4) (d : Nat) (s : State), s.shaped → s.camOn c = true → s.camTriggered c = false → d ∈ s.cams → d ≠ c →
      (s.cam d).lines ≠ [] → (s.cam c).lines = [] → (s.cam c).trig = [] →
    let x := s.cam c
    ∃ t, exec (.lineTimeout c) s = .next t ∧ (t.cam c).busy = false ∧
      (t.cam c).lines = [⟨if x.busy then x.cur else List.replicate (s.camWidth c) none, s.lin.pos, s.trl.time, s.ing.jobs⟩] ∧
      (∀ d : Fin 4, d ≠ c → t.cam d = s.cam d) ∧ s.regsBut t [] ∧ s.sameMem t) ∧
  (∀ s : State, s.shaped → s.cams ≠ [] → s.replayJob = false → (∀ c ∈ s.cams, (s.cam c).lines ≠ []) →
    let mine := (s.job.running = true ∧ s.job.stopped = none ∧ s.trl.noLines = false ∧
      ∀ c ∈ s.cams, ∀ l, (s.cam c).lines.head? = some l → l.job = s.ing.jobs)
    let j := s.job.lineNo
    ∃ t, exec .lineComplete s = .next t ∧ (∀ c ∈ s.cams, (t.cam c).lines = (s.cam c).lines.drop 1) ∧ (∀ a, t.byte a = s.byte a) ∧
      (¬ mine ∨ (s.job.system = true ∧ s.trl.line0 = none ∧ s.trl.recording = false) →
        t.job = s.job ∧ t.ing.lines = s.ing.lines ∧ t.fget F.ING_DISC_CNT_count = satAdd 32 (s.fget F.ING_DISC_CNT_count) 1) ∧
      (mine → s.job.system = true → s.trl.line0 = none → s.trl.recording = true → s.trl.root = false →
        t.job = s.job ∧ t.ing.kept.length = s.ing.kept.length + 1) ∧
      (mine → s.job.system = false ∨ s.trl.line0 ≠ none → t.job.lineNo = j + 1 ∧
        (t.ing.lines.drop s.ing.lines.length).map (fun l => (l.line, l.plane)) =
          (s.planes.filter fun p => s.fget (F.RSH_PLANE_ill p) == (j + s.fget F.RSH_CFG_phase) % (s.fget F.RSH_CFG_n_ill_m1 + 1)).map
            fun p => (j, p))) ∧
  (∀ s : State, s.replayJob = true → s.job.stopped = none → s.trl.noLines = false → s.cams ≠ [] →
      (∀ c ∈ s.cams, ∃ r ∈ s.cp.replay, r.cam = c) → (∀ p ∈ s.planes, s.ringUsed p < s.fget (F.RSH_PLANE_ring_m1 p) + 1) →
    ∃ t, exec .lineComplete s = .next t ∧ t.job.lineNo = s.job.lineNo + 1 ∧ ∀ c : Fin 4, t.cam c = s.cam c) ∧
  (∀ (line : Nat) (plane : Fin 8) (right : Bool) (s : State), s.waitsHalo line plane right = true →
    let px := List.replicate (s.fget (if right then F.SLC_HALO_halo_r else F.SLC_HALO_halo_l)) (s.fgetS (F.RSH_PLANE_zp plane), true)
    ∃ t, exec (.haloTimeout line plane right) s = .next t ∧ t.waitsHalo line plane right = false ∧
      t.ing.lines = s.ing.lines.map (fun l => if l.line ≠ line ∨ l.plane ≠ plane.val then l
        else if right then { l with haloR := some (l.haloR.getD px) } else { l with haloL := some (l.haloL.getD px) }) ∧
      (s.job.running = true → s.job.firstErr = 0 → t.job.firstErr = 0x0220) ∧ s.regsBut t [] ∧ s.sameMem t) ∧
  (∀ s : State, s.job.running = true → s.job.filling = false → s.job.stopped = none → s.ing.nextStart < s.job.lineNo →
      s.trl.waitStart = false → s.ing.nextStart % s.job.bandLen ≠ 0 → (s.ing.nextStart + 1) % s.job.bandLen ≠ 0 →
    let mine := s.ing.lines.filter fun l => l.line == s.ing.nextStart
    (∀ l ∈ mine, l.haloL.isSome = true ∧ l.haloR.isSome = true) →
    ∃ t, exec .lineStart s = .next t ∧ t.ing.nextStart = s.ing.nextStart + 1 ∧
      t.ing.lines = s.ing.lines.filter (fun l => l.line != s.ing.nextStart) ∧
      (t.tx.lines.drop s.tx.lines.length).map (fun l => (l.line, l.plane)) = mine.map (fun l => (l.line, l.plane)) ∧
      s.regsBut t [] ∧ s.sameMem t) ∧
  (∀ s : State, s.job.running = true → s.job.filling = false → s.job.stopped = none → s.ing.nextStart < s.job.lineNo →
      s.trl.waitStart = false → s.ing.nextStart % s.job.bandLen = 0 → s.stopsAt (s.ing.nextStart / s.job.bandLen) = true →
      (∀ l ∈ s.ing.lines, l.line = s.ing.nextStart → l.haloL.isSome = true ∧ l.haloR.isSome = true) →
    ∃ t, exec .lineStart s = .next t ∧
      t.job = { s.job with stopped := some (s.ing.nextStart / s.job.bandLen, s.tx.lastS) } ∧ t.ing.lines = [] ∧
      t.ing.nextStart = s.job.lineNo ∧
      t.fget F.ING_DISC_CNT_count = satAdd 32 (s.fget F.ING_DISC_CNT_count) (s.job.lineNo - s.ing.nextStart) ∧ t.tx = s.tx ∧
      s.regsBut t [R.ING_DISC_CNT] ∧ s.sameMem t)

/-- O57 (tier 2). IDLE counts its ac and completes in its last; LOOP opens a loop; FIRE opens its firings; JUMP moves to its target; ROT advances one
rot; HALT halts; WAIT LINE takes the oldest line event or waits; WAIT BAND takes the band event, starts the band and counts it, or waits. IDLE, WAIT
LINE, WAIT BAND and ROT end with the loop-end test, whose fault is E-0710. Each changes its own tile only. (The control words that are read read
without error here.) -/
def Obligations.SequencerSteps : Prop :=
  (∀ (r : TileRef) (s : State) (pc : Nat) (ls : List LoopSt), s.standsAt r 0 →
      (s.tile r).next + bitsN (s.curWord r) 0 16 ≤ s.arr.runAc → loopEnd (s.tile r).pc (s.tile r).loops = .goto pc ls →
    let x := s.tile r
    let n := bitsN (s.curWord r) 0 16 + 1
    ∃ t, exec (.idle r) s = .next t ∧ s.onlyTile t r { x with
      led := { x.led with idle := x.led.idle + n }, pc := pc % 64, loops := ls,
      next := x.next + n, st := .firing, why := .none, fire := none }) ∧
  (∀ (r : TileRef) (s : State), s.standsAt r 0 → (s.tile r).next + bitsN (s.curWord r) 0 16 ≤ s.arr.runAc →
      loopEnd (s.tile r).pc (s.tile r).loops = .fault →
    ∃ t, exec (.idle r) s = .next t ∧ (t.tile r).st = .faulted ∧ (s.fbit (F.MX_FAULT_valid (tb r)) = false →
      t.fget (F.MX_FAULT_code (tb r)) = 0x0710) ∧ s.sameMem t) ∧
  (∀ (r : TileRef) (s : State), s.standsAt r 1 →
    let x := s.tile r
    let w := s.curWord r
    let n := if bitN w 25 then s.cnt r x.vint (bitsN w 16 2) else bitsN w 0 16
    ∃ t, exec (.loop r) s = .next t ∧ s.onlyTile t r { x with
      loops := ({ ctr := bitsN w 26 2, start := (x.pc + 1) % 64, endPc := bitsN w 18 6, trips := n, rem := n } : LoopSt) :: x.loops
      pc := (x.pc + 1) % 64, st := .firing }) ∧
  (∀ (r : TileRef) (s : State), s.standsAt r 2 →
    let w := s.curWord r
    ∃ t, exec (.fire r) s = .next t ∧ s.onlyTile t r { s.tile r with
      st := .firing
      fire := some { d := bitsN w 24 4, e := bitsN w 22 2, clrFirst := bitN w 21, swapLast := bitN w 20, len := bitsN w 0 16 + 1, b := 0,
                     ag0 := 0, ag2 := 0, wset := [], wPoison := false } }) ∧
  (∀ (r : TileRef) (s : State), s.standsAt r 4 →
    ∃ t, exec (.jump r) s = .next t ∧ s.onlyTile t r { s.tile r with pc := bitsN (s.curWord r) 0 6, st := .firing }) ∧
  (∀ (r : TileRef) (s : State) (pc : Nat) (ls : List LoopSt), s.standsAt r 5 →
      loopEnd (s.tile r).pc (s.tile r).loops = .goto pc ls →
    let x := s.tile r
    let g := bitsN (s.curWord r) 26 2
    ∃ t, exec (.rot r) s = .next t ∧ s.onlyTile t r { x with
      rot := setNth x.rot g (rotNext s r x g), pc := pc % 64, loops := ls,
      st := .firing }) ∧
  (∀ (r : TileRef) (s : State), s.standsAt r 6 →
    ∃ t, exec (.halt r) s = .next t ∧ s.onlyTile t r { s.tile r with st := .halted }) ∧
  (∀ (r : TileRef) (s : State) (pc : Nat) (ls : List LoopSt), s.standsAt r 3 → bitsN (s.curWord r) 24 4 = 1 →
      loopEnd (s.tile r).pc (s.tile r).loops = .goto pc ls →
    let x := s.tile r
    ∃ t, exec (.waitLine r) s = .next t ∧
      (lineCount x.latch = 0 → s.onlyTile t r { x with st := .waiting }) ∧
      (lineCount x.latch ≠ 0 → s.onlyTile t r { x with
      latch := eraseFirst (fun e => e == .line) x.latch, markLine := outPorts r.k,
      pc := pc % 64, loops := ls, next := s.arr.runAc + 1, st := .firing, why := .none, fire := none })) ∧
  (∀ (r : TileRef) (s : State) (pc : Nat) (ls : List LoopSt), s.standsAt r 3 → bitsN (s.curWord r) 24 4 = 0 → s.sw = none →
      s.grf.queue = [] → (s.tile r).inBand = false → s.wantsGain r (s.tile r).vint = false →
      loopEnd (s.tile r).pc (s.tile r).loops = .goto pc ls →
    let x := s.tile r
    ∃ t, exec (.waitBand r []) s = .next t ∧ (∀ q, q ≠ r → t.tile q = s.tile q) ∧ s.regsBut t [] ∧ s.sameMem t ∧
      (headBand x.latch = none → t.tile r = { x with st := .waiting }) ∧
      (∀ tag, headBand x.latch = some tag → (t.tile r).latch = eraseFirst (fun e => e != .line) x.latch ∧
        (t.tile r).band = (if x.begun then x.band + 1 else x.band) ∧ (t.tile r).inBand = true ∧ (t.tile r).begun = true ∧
        (t.tile r).pc = pc % 64 ∧ (t.tile r).next = s.arr.runAc + 1 ∧ (t.tile r).markBand = outPorts r.k))

/-- O58 (tier 2). A due flit whose circuit has credit leaves its port as one flight and takes one credit of every sink; without credit it stays, bound
and logged, and stops a Locked job. A due credit adds one. A flight due at the Hub or at an input stage with room joins it, poisoned when its crossing
could not be corrected; at a full stage it is lost. A due broadcast latches its line event at a tile in use. An MM read port fires one word; a
finished drain ends; a governed token steers its data. (Control words that are read on the way read without error here.) -/
def Obligations.FabricEvents : Prop :=
  (∀ (r : TileRef) (p : Fin 4) (e : OutEntry) (q : List OutEntry) (c : Circuit) (s : State), s.shaped → s.arrayRuns = true →
      (s.tile r).out p = e :: q → e.due ≤ s.arr.runAc → (e.bound = none ∨ e.bound = some c) →
      s.mayEmit (.tile r p) (s.dress r p e.flit) c →
    ∃ t y, exec (.flitEmission (.tile r p)) s = .next t ∧ (t.tile r).out p = q ∧ t.arr.flights = s.arr.flights ++ [y] ∧
      y.flit = s.dress r p e.flit ∧ y.circ = c ∧ s.regsBut t [] ∧ s.sameMem t ∧
      (s.sw = none → (c.sinks.map fun x => x.1).Nodup → ∀ x ∈ c.sinks, t.credit c x.1 = s.credit c x.1 - 1)) ∧
  (∀ (r : TileRef) (p : Fin 4) (e : OutEntry) (q : List OutEntry) (c : Circuit) (s : State), s.shaped → s.arrayRuns = true →
      (s.tile r).out p = e :: q → e.due ≤ s.arr.runAc → (e.bound = none ∨ e.bound = some c) → e.logged = false →
      s.arr.emitted.contains (.tile r p) = false → circuitAt s (s.carryV (s.dress r p e.flit).tag) (.tile r p) s.arr.runAc = some c →
      (∀ x ∈ c.sinks, s.graftFlow (s.carryV (s.dress r p e.flit).tag) (.tile r p) x.1 = false) → (∃ x ∈ c.sinks, s.credit c x.1 = 0) →
    ∃ t, exec (.flitEmission (.tile r p)) s = .next t ∧ (t.tile r).out p = { e with bound := some c, logged := true } :: q ∧
      t.arr.flights = s.arr.flights ∧ s.sameMem t ∧ (s.elastic = true → s.regsBut t []) ∧
      (s.elastic = false → s.job.running = true → t.job.stopFault = true)) ∧
  (∀ (src : SrcRef) (snk : SnkRef) (x : CreditFlight) (y : CreditCtr) (s : State), s.arrayRuns = true → s.arr.creditFlights = [x] →
      x.circ.src = hubPort src → x.snk = snk → x.due ≤ s.arr.runAc → s.sw = none → s.arr.credits.find? (·.is x.circ snk) = some y →
    ∃ t, exec (.creditArrival src snk) s = .next t ∧ t.credit x.circ snk = s.credit x.circ snk + 1 ∧ t.arr.creditFlights = [] ∧
      s.regsBut t [] ∧ s.sameMem t) ∧
  (∀ (n : Nat) (code : BridgeCode) (y : Flight) (T io : Fin 4) (s : State), s.arrayRuns = true → s.arr.flights[n]? = some y →
      y.due ≤ s.arr.runAc + y.skip → y.stop = .sink (.hub T io) →
    ∃ t, exec (.flitArrival n code none) s = .next t ∧ t.arr.flights = dropNth s.arr.flights n ∧ s.sameMem t ∧
      (y.cross = none ∨ code = .clean → s.regsBut t [] ∧ t.arr.hubIn = s.arr.hubIn ++ [(T.val, io.val, ⟨y.flit, y.due - y.skip, y.circ⟩)]) ∧
      (y.cross ≠ none → code = .uncorrectable →
        t.arr.hubIn = s.arr.hubIn ++ [(T.val, io.val, ⟨{ y.flit with poison := true }, y.due - y.skip, y.circ⟩)])) ∧
  (∀ (n : Nat) (code : BridgeCode) (y : Flight) (r : TileRef) (p : Fin 5) (s : State), s.shaped → s.arrayRuns = true →
      s.arr.flights[n]? = some y → y.due ≤ s.arr.runAc + y.skip → y.stop = .sink (.tile r p) → y.cross = none → kindOf r.k = .sf →
      s.arr.holdTile = none → (y.flit.evLine = false ∧ y.flit.evBand = false) ∨ (s.evPort r (s.evVint r y.flit.tag) ≠ p ∧
        s.readsClean (some (r.t, r.row)) [wordCw .unit r.t (8 * ((s.evVint r y.flit.tag * 9 + r.row) * 30 + r.k))]) →
    ∃ t, exec (.flitArrival n code none) s = .next t ∧ t.arr.flights = dropNth s.arr.flights n ∧ s.regsBut t [] ∧ s.sameMem t ∧
      (t.tile r).stage p = (if ((s.tile r).stage p).length < 8 then (s.tile r).stage p ++ [⟨y.flit, y.due - y.skip, y.circ⟩]
        else (s.tile r).stage p)) ∧
  (∀ (r : TileRef) (b : Bcast) (s : State), s.arrayRuns = true → s.arr.bcast = [b] → b.tile = tileKey r → b.due ≤ s.arr.runAc →
      b.band = false → lineCount (s.tile r).latch < 15 → s.usesTile r (s.evVint r b.tag) = true →
      s.readsClean (some (r.t, r.row)) [wordCw .unit r.t (8 * ((s.evVint r b.tag * 9 + r.row) * 30 + r.k))] →
    ∃ t, exec (.broadcastEvent r) s = .next t ∧ t.arr.bcast = [] ∧
      s.onlyTile t r { s.tile r with latch := (s.tile r).latch ++ [.line] }) ∧
  (∀ (r : TileRef) (f : FireSt) (v : Nat) (s : State), s.shaped → s.seqReady r = true → (s.tile r).fire = some f → f.d = 1 →
      f.b + 1 < f.len → kindOf r.k = .mm → (s.tile r).st = .firing → (s.tile r).gainNeed = false → (s.tile r).outHeld 0 = false →
      s.readsClean (some (r.t, r.row)) (s.fireCws r f) → genAddr s r (s.tile r) 0 f.b = some v →
      bitsW (s.opd r (s.tile r).vint 0) 0 3 = 0 → s.cleanWord (mmBase r.t r.row (idxOf r.k) + 32 * v) →
    ∃ t y, exec (.firing r []) s = .next t ∧ (t.tile r).fire = some { f with b := f.b + 1 } ∧
      (t.tile r).led.fire = (s.tile r).led.fire + 1 ∧ (t.tile r).next = s.arr.runAc + 1 ∧ (t.tile r).out 0 = (s.tile r).out 0 ++ [y] ∧
      y.flit.data = dataOf (s.bytesAt (mmBase r.t r.row (idxOf r.k) + 32 * v) 32) ∧ s.regsBut t [] ∧ s.sameMem t) ∧
  (∀ (r : TileRef) (d : DrainSt) (s : State), s.arrayRuns = true → (s.tile r).drain = some d → d.lastRead ≤ s.arr.runAc →
      d.wait = [] → (s.tile r).fire = none →
    exec (.drainDone r) s = .next (s.setTile r { s.tile r with drain := none })) ∧
  (∀ (r : TileRef) (u : Fin 4) (tk : Token) (e : StageEntry) (q : List StageEntry) (s : State), s.shaped → s.arrayRuns = true →
      kindOf r.k = .rk → (s.tile r).started = true → (s.tile r).st ≠ .faulted →
      s.readsClean (some (r.t, r.row)) [s.opdCw r (s.tile r).vint u] → bitsW (s.opd r (s.tile r).vint u) 0 3 = 1 →
      nth none (s.tile r).govern u = some tk → tk.poison = false → (s.tile r).stage u = e :: q →
      e.arr < s.arr.runAc → e.flit.last = true → (s.tile r).tiHeld = [] → (s.tile r).stage 4 = [] →
    let o := if tk.v then u.val + 1 else u.val
    (s.tile r).outHeld o = false →
    ∃ t, exec (.join r u) s = .next t ∧ nth none (t.tile r).govern u = none ∧ (t.tile r).tokens = (s.tile r).tokens ∧ (t.tile r).stage u = q ∧ s.regsBut t [] ∧ s.sameMem t ∧
      (o < 4 → ∃ y, (t.tile r).out o = (s.tile r).out o ++ [y] ∧ y.flit = e.flit))

/-- O59 (tier 2). A due flit is written at the write pointer of an enabled cask with room, with its side record, and changes no other byte; a full
cask loses it, unless a word can be read in the ac of its arrival, when the write waits for the read. An offered word leaves the cask with its data
and frees one entry. Pointer copies that differ empty the cask with E-0603 and keep its marks. A decant starts to move the designated cask's words to
its ring, one word each 4 ac, or ends the job with E-0622 when the ring lacks room or lies on a failed channel (a cycle whose cask decants already
waits for nothing, log 24); a word moved leaves the cask and frees its entry, and one whose ring has failed since ends the decant (the model's choice,
log 209); a refill takes the maintenance path for 4 ac, after which the word has left the ring for the buffer. A first collecting member sends its
maximum 4 ac after its band event, and a lead's first band takes g_init. -/
def Obligations.CasksAndScale : Prop :=
  (∀ (c : CaskRef) (y : Flight) (s : State), s.arrayRuns = true → s.arr.flights = [y] → y.stop = .sink (.cask c) →
      y.due ≤ s.arr.runAc + y.skip → s.isElastic s.activeV = false →
    let k := s.cask c
    let a := s.caskAddr c k.wp
    let frees := s.caskEn c && s.caskReadable c && s.arrAc y.due y.skip == s.arr.runAc
    (s.caskBound c ≤ k.cnt → frees = true → exec (.caskWordWrite c) s = .next s) ∧
    (k.cnt < s.caskBound c ∨ frees = false →
      ∃ t, exec (.caskWordWrite c) s = .next t ∧ t.arr.flights = [] ∧ s.regsBut t [] ∧
        (s.caskEn c = true → k.cnt < s.caskBound c → (t.cask c).cnt = k.cnt + 1 ∧ (t.cask c).wp = nextPtr (s.caskBound c) k.wp ∧
          (t.cask c).rp = k.rp ∧ t.bytesAt a 32 = dataBytes y.flit.data ∧ (∀ b, (b < a ∨ a + 32 ≤ b) → t.byte b = s.byte b) ∧
          ∃ z, (t.cask c).side = k.side ++ [z] ∧ z.tag = y.flit.tag ∧ z.poison = y.flit.poison ∧ z.last = y.flit.last) ∧
        (s.caskEn c = false ∨ s.caskBound c ≤ k.cnt → t.cask c = k ∧ s.sameMem t))) ∧
  (∀ (c : CaskRef) (ci : Circuit) (x : SideRec) (xs : List SideRec) (s : State), s.arrayRuns = true → s.sw = none →
      s.isElastic s.activeV = false → circuitAt s s.activeV (.cask c) s.arr.runAc = some ci → (∀ q ∈ ci.sinks, s.credit ci q.1 ≠ 0) →
      s.arr.emitted.contains (.cask c) = false → (s.cask c).spilled = false → s.caskClass c ≠ 2 → caskOffers s c (s.cask c) s.arr.runAc = true →
      (s.cask c).side = x :: xs → s.cleanWord (s.caskAddr c (s.cask c).rp) →
    let d := dataOf (s.bytesAt (s.caskAddr c (s.cask c).rp) 32)
    parityOf d x.poison x.last x.evLine x.evBand x.smk x.tag = x.parity →
    ∃ t y, exec (.caskWordRead c false []) s = .next t ∧ (t.cask c).cnt = (s.cask c).cnt - 1 ∧
      (t.cask c).rp = nextPtr (s.caskBound c) (s.cask c).rp ∧ (t.cask c).wp = (s.cask c).wp ∧ (t.cask c).side = xs ∧
      t.arr.flights = s.arr.flights ++ [y] ∧ y.flit.data = d ∧ y.flit.tag = x.tag ∧ y.flit.last = x.last ∧ y.circ = ci ∧
      s.regsBut t [] ∧ s.sameMem t) ∧
  (∀ (c : CaskRef) (rp wp cnt : Nat) (s : State), s.caskPriv c = true → s.caskEn c = true → s.grf.queue = [] →
    let k := s.cask c
    ∃ t, exec (.caskPointerMismatch c rp wp cnt) s = .next t ∧ s.sameMem t ∧
      (rp = k.rp ∧ wp = k.wp ∧ cnt = k.cnt → t = s) ∧
      (¬ (rp = k.rp ∧ wp = k.wp ∧ cnt = k.cnt) → t.cask c = { CaskSt.init with hwm := k.hwm, peak := k.peak } ∧
        (s.fbit (F.MM_CASK_FAULT_valid (tb (caskTile c))) = false → t.fget (F.MM_CASK_FAULT_code (tb (caskTile c))) = 0x0603))) ∧
  (∀ (cyc : Fin 32) (s : State), s.elastic = true → s.arrayRuns = true →
      4096 ≤ (sget (fun _ => ⟨0, false⟩) s.arr.cycles cyc).wait → bitsW (s.cycWord cyc 0) 16 4 ≠ 0 →
      (s.cask (s.cycCask cyc)).decant = 0 →
    let c := s.cycCask cyc
    let k := s.cask c
    ∃ t, exec (.decant cyc) s = .next t ∧ t.arr.elast = (s.arr.elast + 1) % 2 ^ 64 ∧
      (s.decantRoom cyc = true → (t.cask c).decant = k.cnt ∧ (t.cask c).cnt = k.cnt ∧ (t.cask c).ringWords = k.ringWords ∧
        ((t.cask c).ringBase, (t.cask c).ringSize) = s.decantRing cyc ∧ t.fbit F.HUB_DLD_STATUS_valid = true ∧
        t.fget F.HUB_DLD_STATUS_last_cycle = cyc ∧ s.sameMem t ∧
        (0 < k.cnt → s.pathFree c.t = true → (t.cask c).moving = true ∧ (t.cask c).pathBusy = s.arr.runAc + 4)) ∧
      (s.decantRoom cyc = false → t.fbit F.HUB_DLD_STATUS_fail = true ∧ t.job.running = false ∧
        (s.job.running = true → s.job.firstErr = 0 → ∃ e ∈ t.cp.comps, e.kind = 2 ∧ e.op = 3 ∧ e.tag = s.job.tag ∧ e.code = 0x0622))) ∧
  (∀ (c : CaskRef) (x : SideRec) (xs : List SideRec) (s : State), (s.cask c).side = x :: xs →
    let k := s.cask c
    let t := s.decantWord c
    (s.rangeGood k.ringBase (288 * k.ringSize) = true →
      (t.cask c).side = xs ∧ (t.cask c).cnt = k.cnt - 1 ∧ (t.cask c).rp = nextPtr (s.caskBound c) k.rp ∧ (t.cask c).wp = k.wp ∧
        (t.cask c).ringWords = k.ringWords + 1 ∧ (t.cask c).decant = k.decant - 1 ∧ (t.cask c).moving = false) ∧
      (s.rangeGood k.ringBase (288 * k.ringSize) = false → t.cask c = { k with decant := 0, moving := false } ∧
        t.fbit F.HUB_DLD_STATUS_fail = true ∧ t.job.running = false)) ∧
  (∀ (c : CaskRef) (s : State), s.canRefill c = true →
    exec (.refill c) s = .next (s.setCask c { s.cask c with filling := true, pathBusy := s.arr.runAc + 4 })) ∧
  (∀ (c : CaskRef) (p : Nat) (f : Flit) (s s1 : State),
    let k := s.cask c
    let z := s.inOrder (hyperBase + k.ringBase) (288 * k.ringSize)
    z.rangeGood k.ringBase (288 * k.ringSize) = true →
    ringWord z k.ringBase k.ringSize (k.ringSize + 1) k.ringHead = some (p, f, s1) →
    (s.refillWord c).cask c = { k with filling := false, refill := k.refill ++ [f], ringWords := k.ringWords - 1,
                                       ringHead := (p + 1) % (8 * k.ringSize) }) ∧
  (∀ (r : TileRef) (h : Nat) (s : State), s.shaped → s.arrayRuns = true → (s.tile r).chain = some h → h + 4 ≤ s.arr.runAc →
      s.readsClean (some (r.t, r.row)) ((adaptCws r (s.tile r).vint).take 1) →
    let x := s.tile r
    s.isFirst r x.vint = true → s.collects r x.vint = true → s.isLead r x.vint = false →
    ∃ t y, exec (.partialEntrySend r) s = .next t ∧ (t.tile r).chain = none ∧ (t.tile r).out 1 = x.out 1 ++ [y] ∧
      y.flit = flitOfEntry { value := x.mOwn, tag := (x.band + 15) % 16, kind := 0, layer := s.layerOf r x.vint, rcp := 0, poison := false,
                             src := none } ∧ s.regsBut t [] ∧ s.sameMem t) ∧
  (∀ (r : TileRef) (h : Nat) (s : State), s.shaped → s.arrayRuns = true → (s.tile r).chain = some h → (s.tile r).adInit = true →
      s.readsClean (some (r.t, r.row)) (adaptCws r (s.tile r).vint) →
    let x := s.tile r
    let g := bitsW (s.adapt r x.vint 2) 0 16
    s.isLead r x.vint = true →
    ∃ t y, exec (.gainEntrySend r) s = .next t ∧ (t.tile r).gain = g ∧ (t.tile r).adInit = false ∧ (t.tile r).chain = none ∧
      (t.tile r).out 1 = x.out 1 ++ [y] ∧ y.flit = flitOfEntry { value := g, tag := x.band % 16, kind := 1, layer := s.layerOf r x.vint,
                                                                 rcp := rcpOf g, poison := false, src := none } ∧
      s.regsBut t [] ∧ s.sameMem t)

/-- O60 (tier 2). A switch that every tile has made becomes active and SWITCH_VINTAGE completes with the band; a remote hold ends 24 periods after its
word; a hold beyond its limit ends the job with E-0721; a stopped job with no switch in hand ends with its job-end entry once the due verdicts are
held or, every line having entered, 2 × A run ac have passed. A verdict vector after the warm-up moves to the next patch; a feature vector and a crop
that can be cut join their queues. A Graft step starts, ends with the step count one higher and the updated bank, a commit is staged, and one that
every head tile has taken counts a generation and completes. -/
def Obligations.JobVerdictGraft : Prop :=
  (∀ (w : SwitchSt) (s : State), s.sw = some w → w.armed = true → allTiles.all (s.tileSwitched w) = true → s.swWait = none →
      w.tag < 65536 → w.target < 4 → s.grf.queue = [] →
    ∃ t, exec .switchComplete s = .next t ∧ t.activeV = w.target ∧ t.sw = none ∧
      s.answered t { kind := 1, tag := w.tag, op := 5, code := 0, result := w.band, irq := w.irq } ∧
      s.regsBut t [R.HUB_VNT_STATUS] ∧ (s.isPlaced s.activeV = true → s.sameMem t)) ∧
  (∀ (c : CaskRef) (o : Option Nat) (w : Nat) (ws : List Nat) (s : State), s.arr.holdRemote = some (c, o) →
      (s.cask c).wrPeriod = w :: ws → w + 24 ≤ s.arr.period →
    ∃ t, exec .remoteHoldRelease s = .next t ∧ t.arr.holdRemote = none ∧ t.fbit F.HUB_HOLD_STATUS_remote = false ∧
      s.regsBut t [R.HUB_HOLD_STATUS] ∧ s.sameMem t) ∧
  (∀ s : State, s.job.running = true → 0 < s.fget F.HUB_HOLD_LIMIT_limit_us →
      s.periodsOf (s.fget F.HUB_HOLD_LIMIT_limit_us) < s.arr.holdRun → s.fbit F.HUB_HOLD_STATUS_remote = true → s.job.firstErr = 0 →
    ∃ t e, exec .holdLimitExpiry s = .next t ∧ t.job.running = false ∧ t.arr.clocked = false ∧ e ∈ t.cp.comps ∧ e.kind = 2 ∧
      e.op = 3 ∧ e.tag = s.job.tag ∧ e.code = 0x0721) ∧
  (∀ (be a : Nat) (s : State), s.job.stopped = some (be, a) → s.job.running = true →
      s.dueRows be ≤ s.vrd.row ∨ (s.tx.entered = true ∧ a + 2 * s.vrd.aAc ≤ s.arr.runAc) → s.sw = none → s.swWait = none →
      s.grf.queue = [] → s.job.endReq = none →
    ∃ t e, exec .jobEnd s = .next t ∧ t.job.running = false ∧ t.arr.clocked = false ∧ s.answered t e ∧ e.kind = 2 ∧ e.op = 3 ∧
      e.tag = s.job.tag ∧ e.code = s.job.firstErr ∧
      e.result = s.job.lastRow % 2 ^ 32 + (2 ^ 32 * be) % 2 ^ 56 + 2 ^ 56 * (if s.job.stopFault then 1 else 0) ∧
      t.fget F.PWR_STATE_state = 1 ∧ s.regsBut t [R.PWR_STATE, R.ING_DISC_CNT, R.HUB_HOLD_STATUS, R.PWR_LOAM] ∧ s.sameMem t) ∧
  (∀ (T io : Fin 4) (src : SrcRef) (fs : List Flit) (s : State), upToLast (s.hubQueue T io src) = some fs →
    ∃ t, exec (.verdictVector T io src) s = .next t ∧ s.sameMem t ∧
      (0 < s.vrd.warm → t.vrd.warm = s.vrd.warm - 1 ∧ t.vrd.row = s.vrd.row ∧ t.vrd.col = s.vrd.col) ∧
      (s.vrd.warm = 0 → t.job.verdicts = s.job.verdicts + 1 ∧ t.vrd.row = (if s.vrd.col + 1 = s.vrd.nCol then s.vrd.row + 1 else s.vrd.row) ∧
        t.vrd.col = (if s.vrd.col + 1 = s.vrd.nCol then 0 else s.vrd.col + 1))) ∧
  (∀ (T io : Fin 4) (src : SrcRef) (e : StageEntry) (q : List StageEntry) (s : State), s.hubQueue T io src = e :: q →
    let v := s.carryV e.flit.tag
    let n := s.fget (F.VRD_TAP_V_flits_m1 v) + 1
    let fs := ((e :: q).take n).map StageEntry.flit
    s.fbit (F.VRD_TAP_V_en v) = true → n ≤ q.length + 1 → s.vrd.featNo = 0 → s.vrd.feats.length < s.fget (F.VRD_TAP_V_depth v) →
    ∃ t, exec (.featureVector T io src) s = .next t ∧ t.vrd.vecNo = s.vrd.vecNo + 1 ∧
      t.vrd.feats = s.vrd.feats ++ [(s.vrd.vecNo, fs.map Flit.data, fs.any Flit.poison)] ∧ s.regsBut t [] ∧ s.sameMem t) ∧
  (∀ (q : CropReq) (qs : List CropReq) (top : Nat) (s : State), s.vrd.reqs = q :: qs →
      (s.vrd.patchH * q.row : Nat) + s.fgetS (F.VRD_CROP_OFS_V_oy q.vint) = (top : Int) →
    let h := s.fget (F.VRD_CROP_V_h_m1 q.vint) + 1
    top + h ≤ s.ing.nextStart → s.staged = 0 →
      (∀ i < h, ∀ p ∈ s.cropPlanes q.vint, s.phaseOf (top + i) = s.fget (F.RSH_PLANE_ill p) → (s.histAt p (top + i)).isSome = true) →
    ∃ t, exec .cropCut s = .next t ∧ t.vrd.reqs = qs ∧ s.regsBut t [] ∧ s.sameMem t ∧
      t.vrd.crops = s.vrd.crops ++ [{ seq := q.seq, bytes := (cropBytes s q top h).1, absent := 0, pages := none, sent := 0, wb := none }]) ∧
  (∀ (q : CropReq) (qs : List CropReq) (s : State), s.vrd.reqs = q :: qs →
      (s.vrd.patchH * q.row : Nat) + s.fgetS (F.VRD_CROP_OFS_V_oy q.vint) < 0 →
    ∃ t, exec .cropCut s = .next t ∧ t.vrd.reqs = qs ∧ t.vrd.crops = s.vrd.crops ∧
      t.fget F.VRD_RB_DROP_crop = satAdd F.VRD_RB_DROP_crop.w (s.fget F.VRD_RB_DROP_crop) 1 ∧ s.regsBut t [R.VRD_RB_DROP] ∧ s.sameMem t) ∧
  (∀ s : State, s.stepReady = true → exec .graftStep s = .next { s with grf := { s.grf with stepping := true } }) ∧
  (∀ (q : GraftCmd) (s : State), s.grf.stepping = true → s.grfCur = some q → q.commit = false → q.appended = true →
      q.done + 1 < q.steps → s.grf.mode = .ready → s.graftReach = true → (∀ n, (s.chan n).active = none) → s.graftRead.1 = false →
      (s.graftRead.2.stepSamples (s.grf.step + 1)).2.1 = false → (∀ a, s.upsetAt a = 0) → s.str.writes = [] →
    let es := (s.graftRead.2.stepSamples (s.grf.step + 1)).1
    let b := (graftStep s.grf.sect (s.grf.step + 1) ⟨s.grf.w16, s.grf.m8, s.grf.v8, s.grf.em, s.grf.ev⟩ es).1
    ∃ t, exec (.graftStepEnd false) s = .next t ∧ t.grf.step = s.grf.step + 1 ∧ t.grf.stepping = false ∧ t.grf.w16 = b.w16 ∧
      t.grf.m8 = b.m8 ∧ t.grf.v8 = b.v8 ∧ t.grfCur = some { q with done := q.done + 1 } ∧ s.regsBut t [R.HUB_GRF_SAT] ∧
      (∀ a, (a < s.regionBase 5 ∨ s.regionBase 5 + s.graftLen ≤ a) → t.byte a = s.byte a)) ∧
  (∀ (q : GraftCmd) (s : State), s.grf.queue = [q] → q.commit = true → q.staging = true → q.staged = false →
    ∃ t u, exec (.commitStagingDone false) s = .next t ∧ exec (.commitStagingDone true) s = .next u ∧
      u.grf.mode = .damaged ∧ u.grf.queue = [] ∧ s.sameMem u ∧ t.grf.stage = [] ∧
      (s.job.running = true → q.target = s.activeV → t.grf.queue = [{ q with staged := true }]) ∧
      (s.job.running = false → t.grf.queue = [] ∧ t.fget F.HUB_GRF_GEN_gen = (s.fget F.HUB_GRF_GEN_gen + 1) % 65536)) ∧
  (∀ (q : GraftCmd) (b : Nat) (s : State), s.grf.queue = [q] → q.armed = some b →
      (s.headTiles q.target).all s.grf.changed.contains = true →
    let gen := (s.fget F.HUB_GRF_GEN_gen + 1) % 65536
    ∃ t, exec .commitComplete s = .next t ∧ t.grf.queue = [] ∧ t.fget F.HUB_GRF_GEN_gen = gen ∧ s.regsBut t [R.HUB_GRF_GEN] ∧ s.sameMem t ∧
      s.answered t { kind := 1, tag := q.tag, op := 0x0A, code := 0, result := gen + 2 ^ 16 * (b % 2 ^ 32), irq := q.irq })
end

