-- ==== Sys2Proof/Laws/State.lean ====
section
/-!
SUPPORT. Laws/State.lean: what each update of the state leaves alone, one lemma per update and field, and what it changes.
-/
namespace Sys2Proof.Machine

variable (s : State)

/-! ## `setReg` -/

@[simp] theorem State.setReg_pending (o : Nat) (v : Word) : (s.setReg o v).pending = s.pending := rfl
@[simp] theorem State.setReg_fuse (o : Nat) (v : Word) : (s.setReg o v).fuse = s.fuse := rfl
@[simp] theorem State.setReg_words (o : Nat) (v : Word) : (s.setReg o v).words = s.words := rfl
@[simp] theorem State.setReg_mem (o : Nat) (v : Word) : (s.setReg o v).mem = s.mem := rfl
@[simp] theorem State.setReg_poison (o : Nat) (v : Word) : (s.setReg o v).poison = s.poison := rfl
@[simp] theorem State.setReg_upset (o : Nat) (v : Word) : (s.setReg o v).upset = s.upset := rfl
@[simp] theorem State.setReg_free (o : Nat) (v : Word) : (s.setReg o v).free = s.free := rfl
@[simp] theorem State.setReg_eccUnc (o : Nat) (v : Word) : (s.setReg o v).eccUnc = s.eccUnc := rfl
@[simp] theorem State.setReg_eccWin (o : Nat) (v : Word) : (s.setReg o v).eccWin = s.eccWin := rfl
@[simp] theorem State.setReg_irqOut (o : Nat) (v : Word) : (s.setReg o v).irqOut = s.irqOut := rfl
@[simp] theorem State.setReg_arr (o : Nat) (v : Word) : (s.setReg o v).arr = s.arr := rfl
@[simp] theorem State.setReg_tx (o : Nat) (v : Word) : (s.setReg o v).tx = s.tx := rfl
@[simp] theorem State.setReg_lcRows (o : Nat) (v : Word) : (s.setReg o v).lcRows = s.lcRows := rfl
@[simp] theorem State.setReg_job (o : Nat) (v : Word) : (s.setReg o v).job = s.job := rfl
@[simp] theorem State.setReg_sw (o : Nat) (v : Word) : (s.setReg o v).sw = s.sw := rfl
@[simp] theorem State.setReg_swWait (o : Nat) (v : Word) : (s.setReg o v).swWait = s.swWait := rfl
@[simp] theorem State.setReg_cp (o : Nat) (v : Word) : (s.setReg o v).cp = s.cp := rfl
@[simp] theorem State.setReg_pci (o : Nat) (v : Word) : (s.setReg o v).pci = s.pci := rfl
@[simp] theorem State.setReg_ing (o : Nat) (v : Word) : (s.setReg o v).ing = s.ing := rfl
@[simp] theorem State.setReg_lin (o : Nat) (v : Word) : (s.setReg o v).lin = s.lin := rfl
@[simp] theorem State.setReg_vrd (o : Nat) (v : Word) : (s.setReg o v).vrd = s.vrd := rfl
@[simp] theorem State.setReg_str (o : Nat) (v : Word) : (s.setReg o v).str = s.str := rfl
@[simp] theorem State.setReg_hrm (o : Nat) (v : Word) : (s.setReg o v).hrm = s.hrm := rfl
@[simp] theorem State.setReg_trl (o : Nat) (v : Word) : (s.setReg o v).trl = s.trl := rfl
@[simp] theorem State.setReg_pwr (o : Nat) (v : Word) : (s.setReg o v).pwr = s.pwr := rfl
@[simp] theorem State.setReg_grf (o : Nat) (v : Word) : (s.setReg o v).grf = s.grf := rfl
@[simp] theorem State.setReg_sec (o : Nat) (v : Word) : (s.setReg o v).sec = s.sec := rfl

/-! ## `fset` -/

@[simp] theorem State.fset_pending (f : Fld) (v : Nat) : (s.fset f v).pending = s.pending := rfl
@[simp] theorem State.fset_fuse (f : Fld) (v : Nat) : (s.fset f v).fuse = s.fuse := rfl
@[simp] theorem State.fset_words (f : Fld) (v : Nat) : (s.fset f v).words = s.words := rfl
@[simp] theorem State.fset_mem (f : Fld) (v : Nat) : (s.fset f v).mem = s.mem := rfl
@[simp] theorem State.fset_poison (f : Fld) (v : Nat) : (s.fset f v).poison = s.poison := rfl
@[simp] theorem State.fset_upset (f : Fld) (v : Nat) : (s.fset f v).upset = s.upset := rfl
@[simp] theorem State.fset_free (f : Fld) (v : Nat) : (s.fset f v).free = s.free := rfl
@[simp] theorem State.fset_eccUnc (f : Fld) (v : Nat) : (s.fset f v).eccUnc = s.eccUnc := rfl
@[simp] theorem State.fset_eccWin (f : Fld) (v : Nat) : (s.fset f v).eccWin = s.eccWin := rfl
@[simp] theorem State.fset_irqOut (f : Fld) (v : Nat) : (s.fset f v).irqOut = s.irqOut := rfl
@[simp] theorem State.fset_arr (f : Fld) (v : Nat) : (s.fset f v).arr = s.arr := rfl
@[simp] theorem State.fset_tx (f : Fld) (v : Nat) : (s.fset f v).tx = s.tx := rfl
@[simp] theorem State.fset_lcRows (f : Fld) (v : Nat) : (s.fset f v).lcRows = s.lcRows := rfl
@[simp] theorem State.fset_job (f : Fld) (v : Nat) : (s.fset f v).job = s.job := rfl
@[simp] theorem State.fset_sw (f : Fld) (v : Nat) : (s.fset f v).sw = s.sw := rfl
@[simp] theorem State.fset_swWait (f : Fld) (v : Nat) : (s.fset f v).swWait = s.swWait := rfl
@[simp] theorem State.fset_cp (f : Fld) (v : Nat) : (s.fset f v).cp = s.cp := rfl
@[simp] theorem State.fset_pci (f : Fld) (v : Nat) : (s.fset f v).pci = s.pci := rfl
@[simp] theorem State.fset_ing (f : Fld) (v : Nat) : (s.fset f v).ing = s.ing := rfl
@[simp] theorem State.fset_lin (f : Fld) (v : Nat) : (s.fset f v).lin = s.lin := rfl
@[simp] theorem State.fset_vrd (f : Fld) (v : Nat) : (s.fset f v).vrd = s.vrd := rfl
@[simp] theorem State.fset_str (f : Fld) (v : Nat) : (s.fset f v).str = s.str := rfl
@[simp] theorem State.fset_hrm (f : Fld) (v : Nat) : (s.fset f v).hrm = s.hrm := rfl
@[simp] theorem State.fset_trl (f : Fld) (v : Nat) : (s.fset f v).trl = s.trl := rfl
@[simp] theorem State.fset_pwr (f : Fld) (v : Nat) : (s.fset f v).pwr = s.pwr := rfl
@[simp] theorem State.fset_grf (f : Fld) (v : Nat) : (s.fset f v).grf = s.grf := rfl
@[simp] theorem State.fset_sec (f : Fld) (v : Nat) : (s.fset f v).sec = s.sec := rfl

/-! ## `fcount` -/

@[simp] theorem State.fcount_pending (f : Fld) (n : Nat) : (s.fcount f n).pending = s.pending := rfl
@[simp] theorem State.fcount_fuse (f : Fld) (n : Nat) : (s.fcount f n).fuse = s.fuse := rfl
@[simp] theorem State.fcount_words (f : Fld) (n : Nat) : (s.fcount f n).words = s.words := rfl
@[simp] theorem State.fcount_mem (f : Fld) (n : Nat) : (s.fcount f n).mem = s.mem := rfl
@[simp] theorem State.fcount_poison (f : Fld) (n : Nat) : (s.fcount f n).poison = s.poison := rfl
@[simp] theorem State.fcount_upset (f : Fld) (n : Nat) : (s.fcount f n).upset = s.upset := rfl
@[simp] theorem State.fcount_free (f : Fld) (n : Nat) : (s.fcount f n).free = s.free := rfl
@[simp] theorem State.fcount_eccUnc (f : Fld) (n : Nat) : (s.fcount f n).eccUnc = s.eccUnc := rfl
@[simp] theorem State.fcount_eccWin (f : Fld) (n : Nat) : (s.fcount f n).eccWin = s.eccWin := rfl
@[simp] theorem State.fcount_irqOut (f : Fld) (n : Nat) : (s.fcount f n).irqOut = s.irqOut := rfl
@[simp] theorem State.fcount_arr (f : Fld) (n : Nat) : (s.fcount f n).arr = s.arr := rfl
@[simp] theorem State.fcount_tx (f : Fld) (n : Nat) : (s.fcount f n).tx = s.tx := rfl
@[simp] theorem State.fcount_lcRows (f : Fld) (n : Nat) : (s.fcount f n).lcRows = s.lcRows := rfl
@[simp] theorem State.fcount_job (f : Fld) (n : Nat) : (s.fcount f n).job = s.job := rfl
@[simp] theorem State.fcount_sw (f : Fld) (n : Nat) : (s.fcount f n).sw = s.sw := rfl
@[simp] theorem State.fcount_swWait (f : Fld) (n : Nat) : (s.fcount f n).swWait = s.swWait := rfl
@[simp] theorem State.fcount_cp (f : Fld) (n : Nat) : (s.fcount f n).cp = s.cp := rfl
@[simp] theorem State.fcount_pci (f : Fld) (n : Nat) : (s.fcount f n).pci = s.pci := rfl
@[simp] theorem State.fcount_ing (f : Fld) (n : Nat) : (s.fcount f n).ing = s.ing := rfl
@[simp] theorem State.fcount_lin (f : Fld) (n : Nat) : (s.fcount f n).lin = s.lin := rfl
@[simp] theorem State.fcount_vrd (f : Fld) (n : Nat) : (s.fcount f n).vrd = s.vrd := rfl
@[simp] theorem State.fcount_str (f : Fld) (n : Nat) : (s.fcount f n).str = s.str := rfl
@[simp] theorem State.fcount_hrm (f : Fld) (n : Nat) : (s.fcount f n).hrm = s.hrm := rfl
@[simp] theorem State.fcount_trl (f : Fld) (n : Nat) : (s.fcount f n).trl = s.trl := rfl
@[simp] theorem State.fcount_pwr (f : Fld) (n : Nat) : (s.fcount f n).pwr = s.pwr := rfl
@[simp] theorem State.fcount_grf (f : Fld) (n : Nat) : (s.fcount f n).grf = s.grf := rfl
@[simp] theorem State.fcount_sec (f : Fld) (n : Nat) : (s.fcount f n).sec = s.sec := rfl

/-! ## `setWord` -/

@[simp] theorem State.setWord_pending (sp : Space) (u i : Nat) (v : Word) : (s.setWord sp u i v).pending = s.pending := rfl
@[simp] theorem State.setWord_fuse (sp : Space) (u i : Nat) (v : Word) : (s.setWord sp u i v).fuse = s.fuse := rfl
@[simp] theorem State.setWord_regs (sp : Space) (u i : Nat) (v : Word) : (s.setWord sp u i v).regs = s.regs := rfl
@[simp] theorem State.setWord_mem (sp : Space) (u i : Nat) (v : Word) : (s.setWord sp u i v).mem = s.mem := rfl
@[simp] theorem State.setWord_poison (sp : Space) (u i : Nat) (v : Word) : (s.setWord sp u i v).poison = s.poison := rfl
@[simp] theorem State.setWord_upset (sp : Space) (u i : Nat) (v : Word) : (s.setWord sp u i v).upset = s.upset := rfl
@[simp] theorem State.setWord_free (sp : Space) (u i : Nat) (v : Word) : (s.setWord sp u i v).free = s.free := rfl
@[simp] theorem State.setWord_eccUnc (sp : Space) (u i : Nat) (v : Word) : (s.setWord sp u i v).eccUnc = s.eccUnc := rfl
@[simp] theorem State.setWord_eccWin (sp : Space) (u i : Nat) (v : Word) : (s.setWord sp u i v).eccWin = s.eccWin := rfl
@[simp] theorem State.setWord_irqOut (sp : Space) (u i : Nat) (v : Word) : (s.setWord sp u i v).irqOut = s.irqOut := rfl
@[simp] theorem State.setWord_arr (sp : Space) (u i : Nat) (v : Word) : (s.setWord sp u i v).arr = s.arr := rfl
@[simp] theorem State.setWord_tx (sp : Space) (u i : Nat) (v : Word) : (s.setWord sp u i v).tx = s.tx := rfl
@[simp] theorem State.setWord_lcRows (sp : Space) (u i : Nat) (v : Word) : (s.setWord sp u i v).lcRows = s.lcRows := rfl
@[simp] theorem State.setWord_job (sp : Space) (u i : Nat) (v : Word) : (s.setWord sp u i v).job = s.job := rfl
@[simp] theorem State.setWord_sw (sp : Space) (u i : Nat) (v : Word) : (s.setWord sp u i v).sw = s.sw := rfl
@[simp] theorem State.setWord_swWait (sp : Space) (u i : Nat) (v : Word) : (s.setWord sp u i v).swWait = s.swWait := rfl
@[simp] theorem State.setWord_cp (sp : Space) (u i : Nat) (v : Word) : (s.setWord sp u i v).cp = s.cp := rfl
@[simp] theorem State.setWord_pci (sp : Space) (u i : Nat) (v : Word) : (s.setWord sp u i v).pci = s.pci := rfl
@[simp] theorem State.setWord_ing (sp : Space) (u i : Nat) (v : Word) : (s.setWord sp u i v).ing = s.ing := rfl
@[simp] theorem State.setWord_lin (sp : Space) (u i : Nat) (v : Word) : (s.setWord sp u i v).lin = s.lin := rfl
@[simp] theorem State.setWord_vrd (sp : Space) (u i : Nat) (v : Word) : (s.setWord sp u i v).vrd = s.vrd := rfl
@[simp] theorem State.setWord_str (sp : Space) (u i : Nat) (v : Word) : (s.setWord sp u i v).str = s.str := rfl
@[simp] theorem State.setWord_hrm (sp : Space) (u i : Nat) (v : Word) : (s.setWord sp u i v).hrm = s.hrm := rfl
@[simp] theorem State.setWord_trl (sp : Space) (u i : Nat) (v : Word) : (s.setWord sp u i v).trl = s.trl := rfl
@[simp] theorem State.setWord_pwr (sp : Space) (u i : Nat) (v : Word) : (s.setWord sp u i v).pwr = s.pwr := rfl
@[simp] theorem State.setWord_grf (sp : Space) (u i : Nat) (v : Word) : (s.setWord sp u i v).grf = s.grf := rfl
@[simp] theorem State.setWord_sec (sp : Space) (u i : Nat) (v : Word) : (s.setWord sp u i v).sec = s.sec := rfl

/-! ## `setByte` -/

@[simp] theorem State.setByte_pending (a : Nat) (b : Byte) : (s.setByte a b).pending = s.pending := rfl
@[simp] theorem State.setByte_fuse (a : Nat) (b : Byte) : (s.setByte a b).fuse = s.fuse := rfl
@[simp] theorem State.setByte_regs (a : Nat) (b : Byte) : (s.setByte a b).regs = s.regs := rfl
@[simp] theorem State.setByte_words (a : Nat) (b : Byte) : (s.setByte a b).words = s.words := rfl
@[simp] theorem State.setByte_poison (a : Nat) (b : Byte) : (s.setByte a b).poison = s.poison := rfl
@[simp] theorem State.setByte_upset (a : Nat) (b : Byte) : (s.setByte a b).upset = s.upset := rfl
@[simp] theorem State.setByte_free (a : Nat) (b : Byte) : (s.setByte a b).free = s.free := rfl
@[simp] theorem State.setByte_eccUnc (a : Nat) (b : Byte) : (s.setByte a b).eccUnc = s.eccUnc := rfl
@[simp] theorem State.setByte_eccWin (a : Nat) (b : Byte) : (s.setByte a b).eccWin = s.eccWin := rfl
@[simp] theorem State.setByte_irqOut (a : Nat) (b : Byte) : (s.setByte a b).irqOut = s.irqOut := rfl
@[simp] theorem State.setByte_arr (a : Nat) (b : Byte) : (s.setByte a b).arr = s.arr := rfl
@[simp] theorem State.setByte_tx (a : Nat) (b : Byte) : (s.setByte a b).tx = s.tx := rfl
@[simp] theorem State.setByte_lcRows (a : Nat) (b : Byte) : (s.setByte a b).lcRows = s.lcRows := rfl
@[simp] theorem State.setByte_job (a : Nat) (b : Byte) : (s.setByte a b).job = s.job := rfl
@[simp] theorem State.setByte_sw (a : Nat) (b : Byte) : (s.setByte a b).sw = s.sw := rfl
@[simp] theorem State.setByte_swWait (a : Nat) (b : Byte) : (s.setByte a b).swWait = s.swWait := rfl
@[simp] theorem State.setByte_cp (a : Nat) (b : Byte) : (s.setByte a b).cp = s.cp := rfl
@[simp] theorem State.setByte_pci (a : Nat) (b : Byte) : (s.setByte a b).pci = s.pci := rfl
@[simp] theorem State.setByte_ing (a : Nat) (b : Byte) : (s.setByte a b).ing = s.ing := rfl
@[simp] theorem State.setByte_lin (a : Nat) (b : Byte) : (s.setByte a b).lin = s.lin := rfl
@[simp] theorem State.setByte_vrd (a : Nat) (b : Byte) : (s.setByte a b).vrd = s.vrd := rfl
@[simp] theorem State.setByte_str (a : Nat) (b : Byte) : (s.setByte a b).str = s.str := rfl
@[simp] theorem State.setByte_hrm (a : Nat) (b : Byte) : (s.setByte a b).hrm = s.hrm := rfl
@[simp] theorem State.setByte_trl (a : Nat) (b : Byte) : (s.setByte a b).trl = s.trl := rfl
@[simp] theorem State.setByte_pwr (a : Nat) (b : Byte) : (s.setByte a b).pwr = s.pwr := rfl
@[simp] theorem State.setByte_grf (a : Nat) (b : Byte) : (s.setByte a b).grf = s.grf := rfl
@[simp] theorem State.setByte_sec (a : Nat) (b : Byte) : (s.setByte a b).sec = s.sec := rfl

/-! ## `setPoison` -/

@[simp] theorem State.setPoison_pending (a : Nat) (b : Bool) : (s.setPoison a b).pending = s.pending := rfl
@[simp] theorem State.setPoison_fuse (a : Nat) (b : Bool) : (s.setPoison a b).fuse = s.fuse := rfl
@[simp] theorem State.setPoison_regs (a : Nat) (b : Bool) : (s.setPoison a b).regs = s.regs := rfl
@[simp] theorem State.setPoison_words (a : Nat) (b : Bool) : (s.setPoison a b).words = s.words := rfl
@[simp] theorem State.setPoison_mem (a : Nat) (b : Bool) : (s.setPoison a b).mem = s.mem := rfl
@[simp] theorem State.setPoison_upset (a : Nat) (b : Bool) : (s.setPoison a b).upset = s.upset := rfl
@[simp] theorem State.setPoison_free (a : Nat) (b : Bool) : (s.setPoison a b).free = s.free := rfl
@[simp] theorem State.setPoison_eccUnc (a : Nat) (b : Bool) : (s.setPoison a b).eccUnc = s.eccUnc := rfl
@[simp] theorem State.setPoison_eccWin (a : Nat) (b : Bool) : (s.setPoison a b).eccWin = s.eccWin := rfl
@[simp] theorem State.setPoison_irqOut (a : Nat) (b : Bool) : (s.setPoison a b).irqOut = s.irqOut := rfl
@[simp] theorem State.setPoison_arr (a : Nat) (b : Bool) : (s.setPoison a b).arr = s.arr := rfl
@[simp] theorem State.setPoison_tx (a : Nat) (b : Bool) : (s.setPoison a b).tx = s.tx := rfl
@[simp] theorem State.setPoison_lcRows (a : Nat) (b : Bool) : (s.setPoison a b).lcRows = s.lcRows := rfl
@[simp] theorem State.setPoison_job (a : Nat) (b : Bool) : (s.setPoison a b).job = s.job := rfl
@[simp] theorem State.setPoison_sw (a : Nat) (b : Bool) : (s.setPoison a b).sw = s.sw := rfl
@[simp] theorem State.setPoison_swWait (a : Nat) (b : Bool) : (s.setPoison a b).swWait = s.swWait := rfl
@[simp] theorem State.setPoison_cp (a : Nat) (b : Bool) : (s.setPoison a b).cp = s.cp := rfl
@[simp] theorem State.setPoison_pci (a : Nat) (b : Bool) : (s.setPoison a b).pci = s.pci := rfl
@[simp] theorem State.setPoison_ing (a : Nat) (b : Bool) : (s.setPoison a b).ing = s.ing := rfl
@[simp] theorem State.setPoison_lin (a : Nat) (b : Bool) : (s.setPoison a b).lin = s.lin := rfl
@[simp] theorem State.setPoison_vrd (a : Nat) (b : Bool) : (s.setPoison a b).vrd = s.vrd := rfl
@[simp] theorem State.setPoison_str (a : Nat) (b : Bool) : (s.setPoison a b).str = s.str := rfl
@[simp] theorem State.setPoison_hrm (a : Nat) (b : Bool) : (s.setPoison a b).hrm = s.hrm := rfl
@[simp] theorem State.setPoison_trl (a : Nat) (b : Bool) : (s.setPoison a b).trl = s.trl := rfl
@[simp] theorem State.setPoison_pwr (a : Nat) (b : Bool) : (s.setPoison a b).pwr = s.pwr := rfl
@[simp] theorem State.setPoison_grf (a : Nat) (b : Bool) : (s.setPoison a b).grf = s.grf := rfl
@[simp] theorem State.setPoison_sec (a : Nat) (b : Bool) : (s.setPoison a b).sec = s.sec := rfl

/-! ## `setUpset` -/

@[simp] theorem State.setUpset_pending (a p : Nat) : (s.setUpset a p).pending = s.pending := rfl
@[simp] theorem State.setUpset_fuse (a p : Nat) : (s.setUpset a p).fuse = s.fuse := rfl
@[simp] theorem State.setUpset_regs (a p : Nat) : (s.setUpset a p).regs = s.regs := rfl
@[simp] theorem State.setUpset_words (a p : Nat) : (s.setUpset a p).words = s.words := rfl
@[simp] theorem State.setUpset_mem (a p : Nat) : (s.setUpset a p).mem = s.mem := rfl
@[simp] theorem State.setUpset_poison (a p : Nat) : (s.setUpset a p).poison = s.poison := rfl
@[simp] theorem State.setUpset_free (a p : Nat) : (s.setUpset a p).free = s.free := rfl
@[simp] theorem State.setUpset_eccUnc (a p : Nat) : (s.setUpset a p).eccUnc = s.eccUnc := rfl
@[simp] theorem State.setUpset_eccWin (a p : Nat) : (s.setUpset a p).eccWin = s.eccWin := rfl
@[simp] theorem State.setUpset_irqOut (a p : Nat) : (s.setUpset a p).irqOut = s.irqOut := rfl
@[simp] theorem State.setUpset_arr (a p : Nat) : (s.setUpset a p).arr = s.arr := rfl
@[simp] theorem State.setUpset_tx (a p : Nat) : (s.setUpset a p).tx = s.tx := rfl
@[simp] theorem State.setUpset_lcRows (a p : Nat) : (s.setUpset a p).lcRows = s.lcRows := rfl
@[simp] theorem State.setUpset_job (a p : Nat) : (s.setUpset a p).job = s.job := rfl
@[simp] theorem State.setUpset_sw (a p : Nat) : (s.setUpset a p).sw = s.sw := rfl
@[simp] theorem State.setUpset_swWait (a p : Nat) : (s.setUpset a p).swWait = s.swWait := rfl
@[simp] theorem State.setUpset_cp (a p : Nat) : (s.setUpset a p).cp = s.cp := rfl
@[simp] theorem State.setUpset_pci (a p : Nat) : (s.setUpset a p).pci = s.pci := rfl
@[simp] theorem State.setUpset_ing (a p : Nat) : (s.setUpset a p).ing = s.ing := rfl
@[simp] theorem State.setUpset_lin (a p : Nat) : (s.setUpset a p).lin = s.lin := rfl
@[simp] theorem State.setUpset_vrd (a p : Nat) : (s.setUpset a p).vrd = s.vrd := rfl
@[simp] theorem State.setUpset_str (a p : Nat) : (s.setUpset a p).str = s.str := rfl
@[simp] theorem State.setUpset_hrm (a p : Nat) : (s.setUpset a p).hrm = s.hrm := rfl
@[simp] theorem State.setUpset_trl (a p : Nat) : (s.setUpset a p).trl = s.trl := rfl
@[simp] theorem State.setUpset_pwr (a p : Nat) : (s.setUpset a p).pwr = s.pwr := rfl
@[simp] theorem State.setUpset_grf (a p : Nat) : (s.setUpset a p).grf = s.grf := rfl
@[simp] theorem State.setUpset_sec (a p : Nat) : (s.setUpset a p).sec = s.sec := rfl

/-! ## `setTile` -/

@[simp] theorem State.setTile_pending (r : TileRef) (x : TileSt) : (s.setTile r x).pending = s.pending := rfl
@[simp] theorem State.setTile_fuse (r : TileRef) (x : TileSt) : (s.setTile r x).fuse = s.fuse := rfl
@[simp] theorem State.setTile_regs (r : TileRef) (x : TileSt) : (s.setTile r x).regs = s.regs := rfl
@[simp] theorem State.setTile_words (r : TileRef) (x : TileSt) : (s.setTile r x).words = s.words := rfl
@[simp] theorem State.setTile_mem (r : TileRef) (x : TileSt) : (s.setTile r x).mem = s.mem := rfl
@[simp] theorem State.setTile_poison (r : TileRef) (x : TileSt) : (s.setTile r x).poison = s.poison := rfl
@[simp] theorem State.setTile_upset (r : TileRef) (x : TileSt) : (s.setTile r x).upset = s.upset := rfl
@[simp] theorem State.setTile_free (r : TileRef) (x : TileSt) : (s.setTile r x).free = s.free := rfl
@[simp] theorem State.setTile_eccUnc (r : TileRef) (x : TileSt) : (s.setTile r x).eccUnc = s.eccUnc := rfl
@[simp] theorem State.setTile_eccWin (r : TileRef) (x : TileSt) : (s.setTile r x).eccWin = s.eccWin := rfl
@[simp] theorem State.setTile_irqOut (r : TileRef) (x : TileSt) : (s.setTile r x).irqOut = s.irqOut := rfl
@[simp] theorem State.setTile_tx (r : TileRef) (x : TileSt) : (s.setTile r x).tx = s.tx := rfl
@[simp] theorem State.setTile_lcRows (r : TileRef) (x : TileSt) : (s.setTile r x).lcRows = s.lcRows := rfl
@[simp] theorem State.setTile_job (r : TileRef) (x : TileSt) : (s.setTile r x).job = s.job := rfl
@[simp] theorem State.setTile_sw (r : TileRef) (x : TileSt) : (s.setTile r x).sw = s.sw := rfl
@[simp] theorem State.setTile_swWait (r : TileRef) (x : TileSt) : (s.setTile r x).swWait = s.swWait := rfl
@[simp] theorem State.setTile_cp (r : TileRef) (x : TileSt) : (s.setTile r x).cp = s.cp := rfl
@[simp] theorem State.setTile_pci (r : TileRef) (x : TileSt) : (s.setTile r x).pci = s.pci := rfl
@[simp] theorem State.setTile_ing (r : TileRef) (x : TileSt) : (s.setTile r x).ing = s.ing := rfl
@[simp] theorem State.setTile_lin (r : TileRef) (x : TileSt) : (s.setTile r x).lin = s.lin := rfl
@[simp] theorem State.setTile_vrd (r : TileRef) (x : TileSt) : (s.setTile r x).vrd = s.vrd := rfl
@[simp] theorem State.setTile_str (r : TileRef) (x : TileSt) : (s.setTile r x).str = s.str := rfl
@[simp] theorem State.setTile_hrm (r : TileRef) (x : TileSt) : (s.setTile r x).hrm = s.hrm := rfl
@[simp] theorem State.setTile_trl (r : TileRef) (x : TileSt) : (s.setTile r x).trl = s.trl := rfl
@[simp] theorem State.setTile_pwr (r : TileRef) (x : TileSt) : (s.setTile r x).pwr = s.pwr := rfl
@[simp] theorem State.setTile_grf (r : TileRef) (x : TileSt) : (s.setTile r x).grf = s.grf := rfl
@[simp] theorem State.setTile_sec (r : TileRef) (x : TileSt) : (s.setTile r x).sec = s.sec := rfl

/-! ## `setCask` -/

@[simp] theorem State.setCask_pending (c : CaskRef) (x : CaskSt) : (s.setCask c x).pending = s.pending := rfl
@[simp] theorem State.setCask_fuse (c : CaskRef) (x : CaskSt) : (s.setCask c x).fuse = s.fuse := rfl
@[simp] theorem State.setCask_regs (c : CaskRef) (x : CaskSt) : (s.setCask c x).regs = s.regs := rfl
@[simp] theorem State.setCask_words (c : CaskRef) (x : CaskSt) : (s.setCask c x).words = s.words := rfl
@[simp] theorem State.setCask_mem (c : CaskRef) (x : CaskSt) : (s.setCask c x).mem = s.mem := rfl
@[simp] theorem State.setCask_poison (c : CaskRef) (x : CaskSt) : (s.setCask c x).poison = s.poison := rfl
@[simp] theorem State.setCask_upset (c : CaskRef) (x : CaskSt) : (s.setCask c x).upset = s.upset := rfl
@[simp] theorem State.setCask_free (c : CaskRef) (x : CaskSt) : (s.setCask c x).free = s.free := rfl
@[simp] theorem State.setCask_eccUnc (c : CaskRef) (x : CaskSt) : (s.setCask c x).eccUnc = s.eccUnc := rfl
@[simp] theorem State.setCask_eccWin (c : CaskRef) (x : CaskSt) : (s.setCask c x).eccWin = s.eccWin := rfl
@[simp] theorem State.setCask_irqOut (c : CaskRef) (x : CaskSt) : (s.setCask c x).irqOut = s.irqOut := rfl
@[simp] theorem State.setCask_tx (c : CaskRef) (x : CaskSt) : (s.setCask c x).tx = s.tx := rfl
@[simp] theorem State.setCask_lcRows (c : CaskRef) (x : CaskSt) : (s.setCask c x).lcRows = s.lcRows := rfl
@[simp] theorem State.setCask_job (c : CaskRef) (x : CaskSt) : (s.setCask c x).job = s.job := rfl
@[simp] theorem State.setCask_sw (c : CaskRef) (x : CaskSt) : (s.setCask c x).sw = s.sw := rfl
@[simp] theorem State.setCask_swWait (c : CaskRef) (x : CaskSt) : (s.setCask c x).swWait = s.swWait := rfl
@[simp] theorem State.setCask_cp (c : CaskRef) (x : CaskSt) : (s.setCask c x).cp = s.cp := rfl
@[simp] theorem State.setCask_pci (c : CaskRef) (x : CaskSt) : (s.setCask c x).pci = s.pci := rfl
@[simp] theorem State.setCask_ing (c : CaskRef) (x : CaskSt) : (s.setCask c x).ing = s.ing := rfl
@[simp] theorem State.setCask_lin (c : CaskRef) (x : CaskSt) : (s.setCask c x).lin = s.lin := rfl
@[simp] theorem State.setCask_vrd (c : CaskRef) (x : CaskSt) : (s.setCask c x).vrd = s.vrd := rfl
@[simp] theorem State.setCask_str (c : CaskRef) (x : CaskSt) : (s.setCask c x).str = s.str := rfl
@[simp] theorem State.setCask_hrm (c : CaskRef) (x : CaskSt) : (s.setCask c x).hrm = s.hrm := rfl
@[simp] theorem State.setCask_trl (c : CaskRef) (x : CaskSt) : (s.setCask c x).trl = s.trl := rfl
@[simp] theorem State.setCask_pwr (c : CaskRef) (x : CaskSt) : (s.setCask c x).pwr = s.pwr := rfl
@[simp] theorem State.setCask_grf (c : CaskRef) (x : CaskSt) : (s.setCask c x).grf = s.grf := rfl
@[simp] theorem State.setCask_sec (c : CaskRef) (x : CaskSt) : (s.setCask c x).sec = s.sec := rfl

/-! ## `setLcRow` -/

@[simp] theorem State.setLcRow_pending (t row : Nat) (x : LcRow) : (s.setLcRow t row x).pending = s.pending := rfl
@[simp] theorem State.setLcRow_fuse (t row : Nat) (x : LcRow) : (s.setLcRow t row x).fuse = s.fuse := rfl
@[simp] theorem State.setLcRow_regs (t row : Nat) (x : LcRow) : (s.setLcRow t row x).regs = s.regs := rfl
@[simp] theorem State.setLcRow_words (t row : Nat) (x : LcRow) : (s.setLcRow t row x).words = s.words := rfl
@[simp] theorem State.setLcRow_mem (t row : Nat) (x : LcRow) : (s.setLcRow t row x).mem = s.mem := rfl
@[simp] theorem State.setLcRow_poison (t row : Nat) (x : LcRow) : (s.setLcRow t row x).poison = s.poison := rfl
@[simp] theorem State.setLcRow_upset (t row : Nat) (x : LcRow) : (s.setLcRow t row x).upset = s.upset := rfl
@[simp] theorem State.setLcRow_free (t row : Nat) (x : LcRow) : (s.setLcRow t row x).free = s.free := rfl
@[simp] theorem State.setLcRow_eccUnc (t row : Nat) (x : LcRow) : (s.setLcRow t row x).eccUnc = s.eccUnc := rfl
@[simp] theorem State.setLcRow_eccWin (t row : Nat) (x : LcRow) : (s.setLcRow t row x).eccWin = s.eccWin := rfl
@[simp] theorem State.setLcRow_irqOut (t row : Nat) (x : LcRow) : (s.setLcRow t row x).irqOut = s.irqOut := rfl
@[simp] theorem State.setLcRow_arr (t row : Nat) (x : LcRow) : (s.setLcRow t row x).arr = s.arr := rfl
@[simp] theorem State.setLcRow_tx (t row : Nat) (x : LcRow) : (s.setLcRow t row x).tx = s.tx := rfl
@[simp] theorem State.setLcRow_job (t row : Nat) (x : LcRow) : (s.setLcRow t row x).job = s.job := rfl
@[simp] theorem State.setLcRow_sw (t row : Nat) (x : LcRow) : (s.setLcRow t row x).sw = s.sw := rfl
@[simp] theorem State.setLcRow_swWait (t row : Nat) (x : LcRow) : (s.setLcRow t row x).swWait = s.swWait := rfl
@[simp] theorem State.setLcRow_cp (t row : Nat) (x : LcRow) : (s.setLcRow t row x).cp = s.cp := rfl
@[simp] theorem State.setLcRow_pci (t row : Nat) (x : LcRow) : (s.setLcRow t row x).pci = s.pci := rfl
@[simp] theorem State.setLcRow_ing (t row : Nat) (x : LcRow) : (s.setLcRow t row x).ing = s.ing := rfl
@[simp] theorem State.setLcRow_lin (t row : Nat) (x : LcRow) : (s.setLcRow t row x).lin = s.lin := rfl
@[simp] theorem State.setLcRow_vrd (t row : Nat) (x : LcRow) : (s.setLcRow t row x).vrd = s.vrd := rfl
@[simp] theorem State.setLcRow_str (t row : Nat) (x : LcRow) : (s.setLcRow t row x).str = s.str := rfl
@[simp] theorem State.setLcRow_hrm (t row : Nat) (x : LcRow) : (s.setLcRow t row x).hrm = s.hrm := rfl
@[simp] theorem State.setLcRow_trl (t row : Nat) (x : LcRow) : (s.setLcRow t row x).trl = s.trl := rfl
@[simp] theorem State.setLcRow_pwr (t row : Nat) (x : LcRow) : (s.setLcRow t row x).pwr = s.pwr := rfl
@[simp] theorem State.setLcRow_grf (t row : Nat) (x : LcRow) : (s.setLcRow t row x).grf = s.grf := rfl
@[simp] theorem State.setLcRow_sec (t row : Nat) (x : LcRow) : (s.setLcRow t row x).sec = s.sec := rfl

/-! ## `mapArr` -/

@[simp] theorem State.mapArr_pending (f : ArraySt → ArraySt) : (s.mapArr f).pending = s.pending := rfl
@[simp] theorem State.mapArr_fuse (f : ArraySt → ArraySt) : (s.mapArr f).fuse = s.fuse := rfl
@[simp] theorem State.mapArr_regs (f : ArraySt → ArraySt) : (s.mapArr f).regs = s.regs := rfl
@[simp] theorem State.mapArr_words (f : ArraySt → ArraySt) : (s.mapArr f).words = s.words := rfl
@[simp] theorem State.mapArr_mem (f : ArraySt → ArraySt) : (s.mapArr f).mem = s.mem := rfl
@[simp] theorem State.mapArr_poison (f : ArraySt → ArraySt) : (s.mapArr f).poison = s.poison := rfl
@[simp] theorem State.mapArr_upset (f : ArraySt → ArraySt) : (s.mapArr f).upset = s.upset := rfl
@[simp] theorem State.mapArr_free (f : ArraySt → ArraySt) : (s.mapArr f).free = s.free := rfl
@[simp] theorem State.mapArr_eccUnc (f : ArraySt → ArraySt) : (s.mapArr f).eccUnc = s.eccUnc := rfl
@[simp] theorem State.mapArr_eccWin (f : ArraySt → ArraySt) : (s.mapArr f).eccWin = s.eccWin := rfl
@[simp] theorem State.mapArr_irqOut (f : ArraySt → ArraySt) : (s.mapArr f).irqOut = s.irqOut := rfl
@[simp] theorem State.mapArr_arr (f : ArraySt → ArraySt) : (s.mapArr f).arr = f s.arr := rfl
@[simp] theorem State.mapArr_tx (f : ArraySt → ArraySt) : (s.mapArr f).tx = s.tx := rfl
@[simp] theorem State.mapArr_lcRows (f : ArraySt → ArraySt) : (s.mapArr f).lcRows = s.lcRows := rfl
@[simp] theorem State.mapArr_job (f : ArraySt → ArraySt) : (s.mapArr f).job = s.job := rfl
@[simp] theorem State.mapArr_sw (f : ArraySt → ArraySt) : (s.mapArr f).sw = s.sw := rfl
@[simp] theorem State.mapArr_swWait (f : ArraySt → ArraySt) : (s.mapArr f).swWait = s.swWait := rfl
@[simp] theorem State.mapArr_cp (f : ArraySt → ArraySt) : (s.mapArr f).cp = s.cp := rfl
@[simp] theorem State.mapArr_pci (f : ArraySt → ArraySt) : (s.mapArr f).pci = s.pci := rfl
@[simp] theorem State.mapArr_ing (f : ArraySt → ArraySt) : (s.mapArr f).ing = s.ing := rfl
@[simp] theorem State.mapArr_lin (f : ArraySt → ArraySt) : (s.mapArr f).lin = s.lin := rfl
@[simp] theorem State.mapArr_vrd (f : ArraySt → ArraySt) : (s.mapArr f).vrd = s.vrd := rfl
@[simp] theorem State.mapArr_str (f : ArraySt → ArraySt) : (s.mapArr f).str = s.str := rfl
@[simp] theorem State.mapArr_hrm (f : ArraySt → ArraySt) : (s.mapArr f).hrm = s.hrm := rfl
@[simp] theorem State.mapArr_trl (f : ArraySt → ArraySt) : (s.mapArr f).trl = s.trl := rfl
@[simp] theorem State.mapArr_pwr (f : ArraySt → ArraySt) : (s.mapArr f).pwr = s.pwr := rfl
@[simp] theorem State.mapArr_grf (f : ArraySt → ArraySt) : (s.mapArr f).grf = s.grf := rfl
@[simp] theorem State.mapArr_sec (f : ArraySt → ArraySt) : (s.mapArr f).sec = s.sec := rfl

/-! ## `mapJob` -/

@[simp] theorem State.mapJob_pending (f : JobSt → JobSt) : (s.mapJob f).pending = s.pending := rfl
@[simp] theorem State.mapJob_fuse (f : JobSt → JobSt) : (s.mapJob f).fuse = s.fuse := rfl
@[simp] theorem State.mapJob_regs (f : JobSt → JobSt) : (s.mapJob f).regs = s.regs := rfl
@[simp] theorem State.mapJob_words (f : JobSt → JobSt) : (s.mapJob f).words = s.words := rfl
@[simp] theorem State.mapJob_mem (f : JobSt → JobSt) : (s.mapJob f).mem = s.mem := rfl
@[simp] theorem State.mapJob_poison (f : JobSt → JobSt) : (s.mapJob f).poison = s.poison := rfl
@[simp] theorem State.mapJob_upset (f : JobSt → JobSt) : (s.mapJob f).upset = s.upset := rfl
@[simp] theorem State.mapJob_free (f : JobSt → JobSt) : (s.mapJob f).free = s.free := rfl
@[simp] theorem State.mapJob_eccUnc (f : JobSt → JobSt) : (s.mapJob f).eccUnc = s.eccUnc := rfl
@[simp] theorem State.mapJob_eccWin (f : JobSt → JobSt) : (s.mapJob f).eccWin = s.eccWin := rfl
@[simp] theorem State.mapJob_irqOut (f : JobSt → JobSt) : (s.mapJob f).irqOut = s.irqOut := rfl
@[simp] theorem State.mapJob_arr (f : JobSt → JobSt) : (s.mapJob f).arr = s.arr := rfl
@[simp] theorem State.mapJob_tx (f : JobSt → JobSt) : (s.mapJob f).tx = s.tx := rfl
@[simp] theorem State.mapJob_lcRows (f : JobSt → JobSt) : (s.mapJob f).lcRows = s.lcRows := rfl
@[simp] theorem State.mapJob_job (f : JobSt → JobSt) : (s.mapJob f).job = f s.job := rfl
@[simp] theorem State.mapJob_sw (f : JobSt → JobSt) : (s.mapJob f).sw = s.sw := rfl
@[simp] theorem State.mapJob_swWait (f : JobSt → JobSt) : (s.mapJob f).swWait = s.swWait := rfl
@[simp] theorem State.mapJob_cp (f : JobSt → JobSt) : (s.mapJob f).cp = s.cp := rfl
@[simp] theorem State.mapJob_pci (f : JobSt → JobSt) : (s.mapJob f).pci = s.pci := rfl
@[simp] theorem State.mapJob_ing (f : JobSt → JobSt) : (s.mapJob f).ing = s.ing := rfl
@[simp] theorem State.mapJob_lin (f : JobSt → JobSt) : (s.mapJob f).lin = s.lin := rfl
@[simp] theorem State.mapJob_vrd (f : JobSt → JobSt) : (s.mapJob f).vrd = s.vrd := rfl
@[simp] theorem State.mapJob_str (f : JobSt → JobSt) : (s.mapJob f).str = s.str := rfl
@[simp] theorem State.mapJob_hrm (f : JobSt → JobSt) : (s.mapJob f).hrm = s.hrm := rfl
@[simp] theorem State.mapJob_trl (f : JobSt → JobSt) : (s.mapJob f).trl = s.trl := rfl
@[simp] theorem State.mapJob_pwr (f : JobSt → JobSt) : (s.mapJob f).pwr = s.pwr := rfl
@[simp] theorem State.mapJob_grf (f : JobSt → JobSt) : (s.mapJob f).grf = s.grf := rfl
@[simp] theorem State.mapJob_sec (f : JobSt → JobSt) : (s.mapJob f).sec = s.sec := rfl

/-! ## `mapCp` -/

@[simp] theorem State.mapCp_pending (f : CpSt → CpSt) : (s.mapCp f).pending = s.pending := rfl
@[simp] theorem State.mapCp_fuse (f : CpSt → CpSt) : (s.mapCp f).fuse = s.fuse := rfl
@[simp] theorem State.mapCp_regs (f : CpSt → CpSt) : (s.mapCp f).regs = s.regs := rfl
@[simp] theorem State.mapCp_words (f : CpSt → CpSt) : (s.mapCp f).words = s.words := rfl
@[simp] theorem State.mapCp_mem (f : CpSt → CpSt) : (s.mapCp f).mem = s.mem := rfl
@[simp] theorem State.mapCp_poison (f : CpSt → CpSt) : (s.mapCp f).poison = s.poison := rfl
@[simp] theorem State.mapCp_upset (f : CpSt → CpSt) : (s.mapCp f).upset = s.upset := rfl
@[simp] theorem State.mapCp_free (f : CpSt → CpSt) : (s.mapCp f).free = s.free := rfl
@[simp] theorem State.mapCp_eccUnc (f : CpSt → CpSt) : (s.mapCp f).eccUnc = s.eccUnc := rfl
@[simp] theorem State.mapCp_eccWin (f : CpSt → CpSt) : (s.mapCp f).eccWin = s.eccWin := rfl
@[simp] theorem State.mapCp_irqOut (f : CpSt → CpSt) : (s.mapCp f).irqOut = s.irqOut := rfl
@[simp] theorem State.mapCp_arr (f : CpSt → CpSt) : (s.mapCp f).arr = s.arr := rfl
@[simp] theorem State.mapCp_tx (f : CpSt → CpSt) : (s.mapCp f).tx = s.tx := rfl
@[simp] theorem State.mapCp_lcRows (f : CpSt → CpSt) : (s.mapCp f).lcRows = s.lcRows := rfl
@[simp] theorem State.mapCp_job (f : CpSt → CpSt) : (s.mapCp f).job = s.job := rfl
@[simp] theorem State.mapCp_sw (f : CpSt → CpSt) : (s.mapCp f).sw = s.sw := rfl
@[simp] theorem State.mapCp_swWait (f : CpSt → CpSt) : (s.mapCp f).swWait = s.swWait := rfl
@[simp] theorem State.mapCp_cp (f : CpSt → CpSt) : (s.mapCp f).cp = f s.cp := rfl
@[simp] theorem State.mapCp_pci (f : CpSt → CpSt) : (s.mapCp f).pci = s.pci := rfl
@[simp] theorem State.mapCp_ing (f : CpSt → CpSt) : (s.mapCp f).ing = s.ing := rfl
@[simp] theorem State.mapCp_lin (f : CpSt → CpSt) : (s.mapCp f).lin = s.lin := rfl
@[simp] theorem State.mapCp_vrd (f : CpSt → CpSt) : (s.mapCp f).vrd = s.vrd := rfl
@[simp] theorem State.mapCp_str (f : CpSt → CpSt) : (s.mapCp f).str = s.str := rfl
@[simp] theorem State.mapCp_hrm (f : CpSt → CpSt) : (s.mapCp f).hrm = s.hrm := rfl
@[simp] theorem State.mapCp_trl (f : CpSt → CpSt) : (s.mapCp f).trl = s.trl := rfl
@[simp] theorem State.mapCp_pwr (f : CpSt → CpSt) : (s.mapCp f).pwr = s.pwr := rfl
@[simp] theorem State.mapCp_grf (f : CpSt → CpSt) : (s.mapCp f).grf = s.grf := rfl
@[simp] theorem State.mapCp_sec (f : CpSt → CpSt) : (s.mapCp f).sec = s.sec := rfl

/-! ## `mapIng` -/

@[simp] theorem State.mapIng_pending (f : IngSt → IngSt) : (s.mapIng f).pending = s.pending := rfl
@[simp] theorem State.mapIng_fuse (f : IngSt → IngSt) : (s.mapIng f).fuse = s.fuse := rfl
@[simp] theorem State.mapIng_regs (f : IngSt → IngSt) : (s.mapIng f).regs = s.regs := rfl
@[simp] theorem State.mapIng_words (f : IngSt → IngSt) : (s.mapIng f).words = s.words := rfl
@[simp] theorem State.mapIng_mem (f : IngSt → IngSt) : (s.mapIng f).mem = s.mem := rfl
@[simp] theorem State.mapIng_poison (f : IngSt → IngSt) : (s.mapIng f).poison = s.poison := rfl
@[simp] theorem State.mapIng_upset (f : IngSt → IngSt) : (s.mapIng f).upset = s.upset := rfl
@[simp] theorem State.mapIng_free (f : IngSt → IngSt) : (s.mapIng f).free = s.free := rfl
@[simp] theorem State.mapIng_eccUnc (f : IngSt → IngSt) : (s.mapIng f).eccUnc = s.eccUnc := rfl
@[simp] theorem State.mapIng_eccWin (f : IngSt → IngSt) : (s.mapIng f).eccWin = s.eccWin := rfl
@[simp] theorem State.mapIng_irqOut (f : IngSt → IngSt) : (s.mapIng f).irqOut = s.irqOut := rfl
@[simp] theorem State.mapIng_arr (f : IngSt → IngSt) : (s.mapIng f).arr = s.arr := rfl
@[simp] theorem State.mapIng_tx (f : IngSt → IngSt) : (s.mapIng f).tx = s.tx := rfl
@[simp] theorem State.mapIng_lcRows (f : IngSt → IngSt) : (s.mapIng f).lcRows = s.lcRows := rfl
@[simp] theorem State.mapIng_job (f : IngSt → IngSt) : (s.mapIng f).job = s.job := rfl
@[simp] theorem State.mapIng_sw (f : IngSt → IngSt) : (s.mapIng f).sw = s.sw := rfl
@[simp] theorem State.mapIng_swWait (f : IngSt → IngSt) : (s.mapIng f).swWait = s.swWait := rfl
@[simp] theorem State.mapIng_cp (f : IngSt → IngSt) : (s.mapIng f).cp = s.cp := rfl
@[simp] theorem State.mapIng_pci (f : IngSt → IngSt) : (s.mapIng f).pci = s.pci := rfl
@[simp] theorem State.mapIng_ing (f : IngSt → IngSt) : (s.mapIng f).ing = f s.ing := rfl
@[simp] theorem State.mapIng_lin (f : IngSt → IngSt) : (s.mapIng f).lin = s.lin := rfl
@[simp] theorem State.mapIng_vrd (f : IngSt → IngSt) : (s.mapIng f).vrd = s.vrd := rfl
@[simp] theorem State.mapIng_str (f : IngSt → IngSt) : (s.mapIng f).str = s.str := rfl
@[simp] theorem State.mapIng_hrm (f : IngSt → IngSt) : (s.mapIng f).hrm = s.hrm := rfl
@[simp] theorem State.mapIng_trl (f : IngSt → IngSt) : (s.mapIng f).trl = s.trl := rfl
@[simp] theorem State.mapIng_pwr (f : IngSt → IngSt) : (s.mapIng f).pwr = s.pwr := rfl
@[simp] theorem State.mapIng_grf (f : IngSt → IngSt) : (s.mapIng f).grf = s.grf := rfl
@[simp] theorem State.mapIng_sec (f : IngSt → IngSt) : (s.mapIng f).sec = s.sec := rfl

/-! ## `mapLin` -/

@[simp] theorem State.mapLin_pending (f : LinSt → LinSt) : (s.mapLin f).pending = s.pending := rfl
@[simp] theorem State.mapLin_fuse (f : LinSt → LinSt) : (s.mapLin f).fuse = s.fuse := rfl
@[simp] theorem State.mapLin_regs (f : LinSt → LinSt) : (s.mapLin f).regs = s.regs := rfl
@[simp] theorem State.mapLin_words (f : LinSt → LinSt) : (s.mapLin f).words = s.words := rfl
@[simp] theorem State.mapLin_mem (f : LinSt → LinSt) : (s.mapLin f).mem = s.mem := rfl
@[simp] theorem State.mapLin_poison (f : LinSt → LinSt) : (s.mapLin f).poison = s.poison := rfl
@[simp] theorem State.mapLin_upset (f : LinSt → LinSt) : (s.mapLin f).upset = s.upset := rfl
@[simp] theorem State.mapLin_free (f : LinSt → LinSt) : (s.mapLin f).free = s.free := rfl
@[simp] theorem State.mapLin_eccUnc (f : LinSt → LinSt) : (s.mapLin f).eccUnc = s.eccUnc := rfl
@[simp] theorem State.mapLin_eccWin (f : LinSt → LinSt) : (s.mapLin f).eccWin = s.eccWin := rfl
@[simp] theorem State.mapLin_irqOut (f : LinSt → LinSt) : (s.mapLin f).irqOut = s.irqOut := rfl
@[simp] theorem State.mapLin_arr (f : LinSt → LinSt) : (s.mapLin f).arr = s.arr := rfl
@[simp] theorem State.mapLin_tx (f : LinSt → LinSt) : (s.mapLin f).tx = s.tx := rfl
@[simp] theorem State.mapLin_lcRows (f : LinSt → LinSt) : (s.mapLin f).lcRows = s.lcRows := rfl
@[simp] theorem State.mapLin_job (f : LinSt → LinSt) : (s.mapLin f).job = s.job := rfl
@[simp] theorem State.mapLin_sw (f : LinSt → LinSt) : (s.mapLin f).sw = s.sw := rfl
@[simp] theorem State.mapLin_swWait (f : LinSt → LinSt) : (s.mapLin f).swWait = s.swWait := rfl
@[simp] theorem State.mapLin_cp (f : LinSt → LinSt) : (s.mapLin f).cp = s.cp := rfl
@[simp] theorem State.mapLin_pci (f : LinSt → LinSt) : (s.mapLin f).pci = s.pci := rfl
@[simp] theorem State.mapLin_ing (f : LinSt → LinSt) : (s.mapLin f).ing = s.ing := rfl
@[simp] theorem State.mapLin_lin (f : LinSt → LinSt) : (s.mapLin f).lin = f s.lin := rfl
@[simp] theorem State.mapLin_vrd (f : LinSt → LinSt) : (s.mapLin f).vrd = s.vrd := rfl
@[simp] theorem State.mapLin_str (f : LinSt → LinSt) : (s.mapLin f).str = s.str := rfl
@[simp] theorem State.mapLin_hrm (f : LinSt → LinSt) : (s.mapLin f).hrm = s.hrm := rfl
@[simp] theorem State.mapLin_trl (f : LinSt → LinSt) : (s.mapLin f).trl = s.trl := rfl
@[simp] theorem State.mapLin_pwr (f : LinSt → LinSt) : (s.mapLin f).pwr = s.pwr := rfl
@[simp] theorem State.mapLin_grf (f : LinSt → LinSt) : (s.mapLin f).grf = s.grf := rfl
@[simp] theorem State.mapLin_sec (f : LinSt → LinSt) : (s.mapLin f).sec = s.sec := rfl

/-! ## `mapVrd` -/

@[simp] theorem State.mapVrd_pending (f : VrdSt → VrdSt) : (s.mapVrd f).pending = s.pending := rfl
@[simp] theorem State.mapVrd_fuse (f : VrdSt → VrdSt) : (s.mapVrd f).fuse = s.fuse := rfl
@[simp] theorem State.mapVrd_regs (f : VrdSt → VrdSt) : (s.mapVrd f).regs = s.regs := rfl
@[simp] theorem State.mapVrd_words (f : VrdSt → VrdSt) : (s.mapVrd f).words = s.words := rfl
@[simp] theorem State.mapVrd_mem (f : VrdSt → VrdSt) : (s.mapVrd f).mem = s.mem := rfl
@[simp] theorem State.mapVrd_poison (f : VrdSt → VrdSt) : (s.mapVrd f).poison = s.poison := rfl
@[simp] theorem State.mapVrd_upset (f : VrdSt → VrdSt) : (s.mapVrd f).upset = s.upset := rfl
@[simp] theorem State.mapVrd_free (f : VrdSt → VrdSt) : (s.mapVrd f).free = s.free := rfl
@[simp] theorem State.mapVrd_eccUnc (f : VrdSt → VrdSt) : (s.mapVrd f).eccUnc = s.eccUnc := rfl
@[simp] theorem State.mapVrd_eccWin (f : VrdSt → VrdSt) : (s.mapVrd f).eccWin = s.eccWin := rfl
@[simp] theorem State.mapVrd_irqOut (f : VrdSt → VrdSt) : (s.mapVrd f).irqOut = s.irqOut := rfl
@[simp] theorem State.mapVrd_arr (f : VrdSt → VrdSt) : (s.mapVrd f).arr = s.arr := rfl
@[simp] theorem State.mapVrd_tx (f : VrdSt → VrdSt) : (s.mapVrd f).tx = s.tx := rfl
@[simp] theorem State.mapVrd_lcRows (f : VrdSt → VrdSt) : (s.mapVrd f).lcRows = s.lcRows := rfl
@[simp] theorem State.mapVrd_job (f : VrdSt → VrdSt) : (s.mapVrd f).job = s.job := rfl
@[simp] theorem State.mapVrd_sw (f : VrdSt → VrdSt) : (s.mapVrd f).sw = s.sw := rfl
@[simp] theorem State.mapVrd_swWait (f : VrdSt → VrdSt) : (s.mapVrd f).swWait = s.swWait := rfl
@[simp] theorem State.mapVrd_cp (f : VrdSt → VrdSt) : (s.mapVrd f).cp = s.cp := rfl
@[simp] theorem State.mapVrd_pci (f : VrdSt → VrdSt) : (s.mapVrd f).pci = s.pci := rfl
@[simp] theorem State.mapVrd_ing (f : VrdSt → VrdSt) : (s.mapVrd f).ing = s.ing := rfl
@[simp] theorem State.mapVrd_lin (f : VrdSt → VrdSt) : (s.mapVrd f).lin = s.lin := rfl
@[simp] theorem State.mapVrd_vrd (f : VrdSt → VrdSt) : (s.mapVrd f).vrd = f s.vrd := rfl
@[simp] theorem State.mapVrd_str (f : VrdSt → VrdSt) : (s.mapVrd f).str = s.str := rfl
@[simp] theorem State.mapVrd_hrm (f : VrdSt → VrdSt) : (s.mapVrd f).hrm = s.hrm := rfl
@[simp] theorem State.mapVrd_trl (f : VrdSt → VrdSt) : (s.mapVrd f).trl = s.trl := rfl
@[simp] theorem State.mapVrd_pwr (f : VrdSt → VrdSt) : (s.mapVrd f).pwr = s.pwr := rfl
@[simp] theorem State.mapVrd_grf (f : VrdSt → VrdSt) : (s.mapVrd f).grf = s.grf := rfl
@[simp] theorem State.mapVrd_sec (f : VrdSt → VrdSt) : (s.mapVrd f).sec = s.sec := rfl

/-! ## `mapStr` -/

@[simp] theorem State.mapStr_pending (f : StrSt → StrSt) : (s.mapStr f).pending = s.pending := rfl
@[simp] theorem State.mapStr_fuse (f : StrSt → StrSt) : (s.mapStr f).fuse = s.fuse := rfl
@[simp] theorem State.mapStr_regs (f : StrSt → StrSt) : (s.mapStr f).regs = s.regs := rfl
@[simp] theorem State.mapStr_words (f : StrSt → StrSt) : (s.mapStr f).words = s.words := rfl
@[simp] theorem State.mapStr_mem (f : StrSt → StrSt) : (s.mapStr f).mem = s.mem := rfl
@[simp] theorem State.mapStr_poison (f : StrSt → StrSt) : (s.mapStr f).poison = s.poison := rfl
@[simp] theorem State.mapStr_upset (f : StrSt → StrSt) : (s.mapStr f).upset = s.upset := rfl
@[simp] theorem State.mapStr_free (f : StrSt → StrSt) : (s.mapStr f).free = s.free := rfl
@[simp] theorem State.mapStr_eccUnc (f : StrSt → StrSt) : (s.mapStr f).eccUnc = s.eccUnc := rfl
@[simp] theorem State.mapStr_eccWin (f : StrSt → StrSt) : (s.mapStr f).eccWin = s.eccWin := rfl
@[simp] theorem State.mapStr_irqOut (f : StrSt → StrSt) : (s.mapStr f).irqOut = s.irqOut := rfl
@[simp] theorem State.mapStr_arr (f : StrSt → StrSt) : (s.mapStr f).arr = s.arr := rfl
@[simp] theorem State.mapStr_tx (f : StrSt → StrSt) : (s.mapStr f).tx = s.tx := rfl
@[simp] theorem State.mapStr_lcRows (f : StrSt → StrSt) : (s.mapStr f).lcRows = s.lcRows := rfl
@[simp] theorem State.mapStr_job (f : StrSt → StrSt) : (s.mapStr f).job = s.job := rfl
@[simp] theorem State.mapStr_sw (f : StrSt → StrSt) : (s.mapStr f).sw = s.sw := rfl
@[simp] theorem State.mapStr_swWait (f : StrSt → StrSt) : (s.mapStr f).swWait = s.swWait := rfl
@[simp] theorem State.mapStr_cp (f : StrSt → StrSt) : (s.mapStr f).cp = s.cp := rfl
@[simp] theorem State.mapStr_pci (f : StrSt → StrSt) : (s.mapStr f).pci = s.pci := rfl
@[simp] theorem State.mapStr_ing (f : StrSt → StrSt) : (s.mapStr f).ing = s.ing := rfl
@[simp] theorem State.mapStr_lin (f : StrSt → StrSt) : (s.mapStr f).lin = s.lin := rfl
@[simp] theorem State.mapStr_vrd (f : StrSt → StrSt) : (s.mapStr f).vrd = s.vrd := rfl
@[simp] theorem State.mapStr_str (f : StrSt → StrSt) : (s.mapStr f).str = f s.str := rfl
@[simp] theorem State.mapStr_hrm (f : StrSt → StrSt) : (s.mapStr f).hrm = s.hrm := rfl
@[simp] theorem State.mapStr_trl (f : StrSt → StrSt) : (s.mapStr f).trl = s.trl := rfl
@[simp] theorem State.mapStr_pwr (f : StrSt → StrSt) : (s.mapStr f).pwr = s.pwr := rfl
@[simp] theorem State.mapStr_grf (f : StrSt → StrSt) : (s.mapStr f).grf = s.grf := rfl
@[simp] theorem State.mapStr_sec (f : StrSt → StrSt) : (s.mapStr f).sec = s.sec := rfl

/-! ## `mapHrm` -/

@[simp] theorem State.mapHrm_pending (f : HrmSt → HrmSt) : (s.mapHrm f).pending = s.pending := rfl
@[simp] theorem State.mapHrm_fuse (f : HrmSt → HrmSt) : (s.mapHrm f).fuse = s.fuse := rfl
@[simp] theorem State.mapHrm_regs (f : HrmSt → HrmSt) : (s.mapHrm f).regs = s.regs := rfl
@[simp] theorem State.mapHrm_words (f : HrmSt → HrmSt) : (s.mapHrm f).words = s.words := rfl
@[simp] theorem State.mapHrm_mem (f : HrmSt → HrmSt) : (s.mapHrm f).mem = s.mem := rfl
@[simp] theorem State.mapHrm_poison (f : HrmSt → HrmSt) : (s.mapHrm f).poison = s.poison := rfl
@[simp] theorem State.mapHrm_upset (f : HrmSt → HrmSt) : (s.mapHrm f).upset = s.upset := rfl
@[simp] theorem State.mapHrm_free (f : HrmSt → HrmSt) : (s.mapHrm f).free = s.free := rfl
@[simp] theorem State.mapHrm_eccUnc (f : HrmSt → HrmSt) : (s.mapHrm f).eccUnc = s.eccUnc := rfl
@[simp] theorem State.mapHrm_eccWin (f : HrmSt → HrmSt) : (s.mapHrm f).eccWin = s.eccWin := rfl
@[simp] theorem State.mapHrm_irqOut (f : HrmSt → HrmSt) : (s.mapHrm f).irqOut = s.irqOut := rfl
@[simp] theorem State.mapHrm_arr (f : HrmSt → HrmSt) : (s.mapHrm f).arr = s.arr := rfl
@[simp] theorem State.mapHrm_tx (f : HrmSt → HrmSt) : (s.mapHrm f).tx = s.tx := rfl
@[simp] theorem State.mapHrm_lcRows (f : HrmSt → HrmSt) : (s.mapHrm f).lcRows = s.lcRows := rfl
@[simp] theorem State.mapHrm_job (f : HrmSt → HrmSt) : (s.mapHrm f).job = s.job := rfl
@[simp] theorem State.mapHrm_sw (f : HrmSt → HrmSt) : (s.mapHrm f).sw = s.sw := rfl
@[simp] theorem State.mapHrm_swWait (f : HrmSt → HrmSt) : (s.mapHrm f).swWait = s.swWait := rfl
@[simp] theorem State.mapHrm_cp (f : HrmSt → HrmSt) : (s.mapHrm f).cp = s.cp := rfl
@[simp] theorem State.mapHrm_pci (f : HrmSt → HrmSt) : (s.mapHrm f).pci = s.pci := rfl
@[simp] theorem State.mapHrm_ing (f : HrmSt → HrmSt) : (s.mapHrm f).ing = s.ing := rfl
@[simp] theorem State.mapHrm_lin (f : HrmSt → HrmSt) : (s.mapHrm f).lin = s.lin := rfl
@[simp] theorem State.mapHrm_vrd (f : HrmSt → HrmSt) : (s.mapHrm f).vrd = s.vrd := rfl
@[simp] theorem State.mapHrm_str (f : HrmSt → HrmSt) : (s.mapHrm f).str = s.str := rfl
@[simp] theorem State.mapHrm_hrm (f : HrmSt → HrmSt) : (s.mapHrm f).hrm = f s.hrm := rfl
@[simp] theorem State.mapHrm_trl (f : HrmSt → HrmSt) : (s.mapHrm f).trl = s.trl := rfl
@[simp] theorem State.mapHrm_pwr (f : HrmSt → HrmSt) : (s.mapHrm f).pwr = s.pwr := rfl
@[simp] theorem State.mapHrm_grf (f : HrmSt → HrmSt) : (s.mapHrm f).grf = s.grf := rfl
@[simp] theorem State.mapHrm_sec (f : HrmSt → HrmSt) : (s.mapHrm f).sec = s.sec := rfl

/-! ## `mapTrl` -/

@[simp] theorem State.mapTrl_pending (f : TrlSt → TrlSt) : (s.mapTrl f).pending = s.pending := rfl
@[simp] theorem State.mapTrl_fuse (f : TrlSt → TrlSt) : (s.mapTrl f).fuse = s.fuse := rfl
@[simp] theorem State.mapTrl_regs (f : TrlSt → TrlSt) : (s.mapTrl f).regs = s.regs := rfl
@[simp] theorem State.mapTrl_words (f : TrlSt → TrlSt) : (s.mapTrl f).words = s.words := rfl
@[simp] theorem State.mapTrl_mem (f : TrlSt → TrlSt) : (s.mapTrl f).mem = s.mem := rfl
@[simp] theorem State.mapTrl_poison (f : TrlSt → TrlSt) : (s.mapTrl f).poison = s.poison := rfl
@[simp] theorem State.mapTrl_upset (f : TrlSt → TrlSt) : (s.mapTrl f).upset = s.upset := rfl
@[simp] theorem State.mapTrl_free (f : TrlSt → TrlSt) : (s.mapTrl f).free = s.free := rfl
@[simp] theorem State.mapTrl_eccUnc (f : TrlSt → TrlSt) : (s.mapTrl f).eccUnc = s.eccUnc := rfl
@[simp] theorem State.mapTrl_eccWin (f : TrlSt → TrlSt) : (s.mapTrl f).eccWin = s.eccWin := rfl
@[simp] theorem State.mapTrl_irqOut (f : TrlSt → TrlSt) : (s.mapTrl f).irqOut = s.irqOut := rfl
@[simp] theorem State.mapTrl_arr (f : TrlSt → TrlSt) : (s.mapTrl f).arr = s.arr := rfl
@[simp] theorem State.mapTrl_tx (f : TrlSt → TrlSt) : (s.mapTrl f).tx = s.tx := rfl
@[simp] theorem State.mapTrl_lcRows (f : TrlSt → TrlSt) : (s.mapTrl f).lcRows = s.lcRows := rfl
@[simp] theorem State.mapTrl_job (f : TrlSt → TrlSt) : (s.mapTrl f).job = s.job := rfl
@[simp] theorem State.mapTrl_sw (f : TrlSt → TrlSt) : (s.mapTrl f).sw = s.sw := rfl
@[simp] theorem State.mapTrl_swWait (f : TrlSt → TrlSt) : (s.mapTrl f).swWait = s.swWait := rfl
@[simp] theorem State.mapTrl_cp (f : TrlSt → TrlSt) : (s.mapTrl f).cp = s.cp := rfl
@[simp] theorem State.mapTrl_pci (f : TrlSt → TrlSt) : (s.mapTrl f).pci = s.pci := rfl
@[simp] theorem State.mapTrl_ing (f : TrlSt → TrlSt) : (s.mapTrl f).ing = s.ing := rfl
@[simp] theorem State.mapTrl_lin (f : TrlSt → TrlSt) : (s.mapTrl f).lin = s.lin := rfl
@[simp] theorem State.mapTrl_vrd (f : TrlSt → TrlSt) : (s.mapTrl f).vrd = s.vrd := rfl
@[simp] theorem State.mapTrl_str (f : TrlSt → TrlSt) : (s.mapTrl f).str = s.str := rfl
@[simp] theorem State.mapTrl_hrm (f : TrlSt → TrlSt) : (s.mapTrl f).hrm = s.hrm := rfl
@[simp] theorem State.mapTrl_trl (f : TrlSt → TrlSt) : (s.mapTrl f).trl = f s.trl := rfl
@[simp] theorem State.mapTrl_pwr (f : TrlSt → TrlSt) : (s.mapTrl f).pwr = s.pwr := rfl
@[simp] theorem State.mapTrl_grf (f : TrlSt → TrlSt) : (s.mapTrl f).grf = s.grf := rfl
@[simp] theorem State.mapTrl_sec (f : TrlSt → TrlSt) : (s.mapTrl f).sec = s.sec := rfl

/-! ## `mapPwr` -/

@[simp] theorem State.mapPwr_pending (f : PwrSt → PwrSt) : (s.mapPwr f).pending = s.pending := rfl
@[simp] theorem State.mapPwr_fuse (f : PwrSt → PwrSt) : (s.mapPwr f).fuse = s.fuse := rfl
@[simp] theorem State.mapPwr_regs (f : PwrSt → PwrSt) : (s.mapPwr f).regs = s.regs := rfl
@[simp] theorem State.mapPwr_words (f : PwrSt → PwrSt) : (s.mapPwr f).words = s.words := rfl
@[simp] theorem State.mapPwr_mem (f : PwrSt → PwrSt) : (s.mapPwr f).mem = s.mem := rfl
@[simp] theorem State.mapPwr_poison (f : PwrSt → PwrSt) : (s.mapPwr f).poison = s.poison := rfl
@[simp] theorem State.mapPwr_upset (f : PwrSt → PwrSt) : (s.mapPwr f).upset = s.upset := rfl
@[simp] theorem State.mapPwr_free (f : PwrSt → PwrSt) : (s.mapPwr f).free = s.free := rfl
@[simp] theorem State.mapPwr_eccUnc (f : PwrSt → PwrSt) : (s.mapPwr f).eccUnc = s.eccUnc := rfl
@[simp] theorem State.mapPwr_eccWin (f : PwrSt → PwrSt) : (s.mapPwr f).eccWin = s.eccWin := rfl
@[simp] theorem State.mapPwr_irqOut (f : PwrSt → PwrSt) : (s.mapPwr f).irqOut = s.irqOut := rfl
@[simp] theorem State.mapPwr_arr (f : PwrSt → PwrSt) : (s.mapPwr f).arr = s.arr := rfl
@[simp] theorem State.mapPwr_tx (f : PwrSt → PwrSt) : (s.mapPwr f).tx = s.tx := rfl
@[simp] theorem State.mapPwr_lcRows (f : PwrSt → PwrSt) : (s.mapPwr f).lcRows = s.lcRows := rfl
@[simp] theorem State.mapPwr_job (f : PwrSt → PwrSt) : (s.mapPwr f).job = s.job := rfl
@[simp] theorem State.mapPwr_sw (f : PwrSt → PwrSt) : (s.mapPwr f).sw = s.sw := rfl
@[simp] theorem State.mapPwr_swWait (f : PwrSt → PwrSt) : (s.mapPwr f).swWait = s.swWait := rfl
@[simp] theorem State.mapPwr_cp (f : PwrSt → PwrSt) : (s.mapPwr f).cp = s.cp := rfl
@[simp] theorem State.mapPwr_pci (f : PwrSt → PwrSt) : (s.mapPwr f).pci = s.pci := rfl
@[simp] theorem State.mapPwr_ing (f : PwrSt → PwrSt) : (s.mapPwr f).ing = s.ing := rfl
@[simp] theorem State.mapPwr_lin (f : PwrSt → PwrSt) : (s.mapPwr f).lin = s.lin := rfl
@[simp] theorem State.mapPwr_vrd (f : PwrSt → PwrSt) : (s.mapPwr f).vrd = s.vrd := rfl
@[simp] theorem State.mapPwr_str (f : PwrSt → PwrSt) : (s.mapPwr f).str = s.str := rfl
@[simp] theorem State.mapPwr_hrm (f : PwrSt → PwrSt) : (s.mapPwr f).hrm = s.hrm := rfl
@[simp] theorem State.mapPwr_trl (f : PwrSt → PwrSt) : (s.mapPwr f).trl = s.trl := rfl
@[simp] theorem State.mapPwr_pwr (f : PwrSt → PwrSt) : (s.mapPwr f).pwr = f s.pwr := rfl
@[simp] theorem State.mapPwr_grf (f : PwrSt → PwrSt) : (s.mapPwr f).grf = s.grf := rfl
@[simp] theorem State.mapPwr_sec (f : PwrSt → PwrSt) : (s.mapPwr f).sec = s.sec := rfl

/-! ## `mapGrf` -/

@[simp] theorem State.mapGrf_pending (f : GrfSt → GrfSt) : (s.mapGrf f).pending = s.pending := rfl
@[simp] theorem State.mapGrf_fuse (f : GrfSt → GrfSt) : (s.mapGrf f).fuse = s.fuse := rfl
@[simp] theorem State.mapGrf_regs (f : GrfSt → GrfSt) : (s.mapGrf f).regs = s.regs := rfl
@[simp] theorem State.mapGrf_words (f : GrfSt → GrfSt) : (s.mapGrf f).words = s.words := rfl
@[simp] theorem State.mapGrf_mem (f : GrfSt → GrfSt) : (s.mapGrf f).mem = s.mem := rfl
@[simp] theorem State.mapGrf_poison (f : GrfSt → GrfSt) : (s.mapGrf f).poison = s.poison := rfl
@[simp] theorem State.mapGrf_upset (f : GrfSt → GrfSt) : (s.mapGrf f).upset = s.upset := rfl
@[simp] theorem State.mapGrf_free (f : GrfSt → GrfSt) : (s.mapGrf f).free = s.free := rfl
@[simp] theorem State.mapGrf_eccUnc (f : GrfSt → GrfSt) : (s.mapGrf f).eccUnc = s.eccUnc := rfl
@[simp] theorem State.mapGrf_eccWin (f : GrfSt → GrfSt) : (s.mapGrf f).eccWin = s.eccWin := rfl
@[simp] theorem State.mapGrf_irqOut (f : GrfSt → GrfSt) : (s.mapGrf f).irqOut = s.irqOut := rfl
@[simp] theorem State.mapGrf_arr (f : GrfSt → GrfSt) : (s.mapGrf f).arr = s.arr := rfl
@[simp] theorem State.mapGrf_tx (f : GrfSt → GrfSt) : (s.mapGrf f).tx = s.tx := rfl
@[simp] theorem State.mapGrf_lcRows (f : GrfSt → GrfSt) : (s.mapGrf f).lcRows = s.lcRows := rfl
@[simp] theorem State.mapGrf_job (f : GrfSt → GrfSt) : (s.mapGrf f).job = s.job := rfl
@[simp] theorem State.mapGrf_sw (f : GrfSt → GrfSt) : (s.mapGrf f).sw = s.sw := rfl
@[simp] theorem State.mapGrf_swWait (f : GrfSt → GrfSt) : (s.mapGrf f).swWait = s.swWait := rfl
@[simp] theorem State.mapGrf_cp (f : GrfSt → GrfSt) : (s.mapGrf f).cp = s.cp := rfl
@[simp] theorem State.mapGrf_pci (f : GrfSt → GrfSt) : (s.mapGrf f).pci = s.pci := rfl
@[simp] theorem State.mapGrf_ing (f : GrfSt → GrfSt) : (s.mapGrf f).ing = s.ing := rfl
@[simp] theorem State.mapGrf_lin (f : GrfSt → GrfSt) : (s.mapGrf f).lin = s.lin := rfl
@[simp] theorem State.mapGrf_vrd (f : GrfSt → GrfSt) : (s.mapGrf f).vrd = s.vrd := rfl
@[simp] theorem State.mapGrf_str (f : GrfSt → GrfSt) : (s.mapGrf f).str = s.str := rfl
@[simp] theorem State.mapGrf_hrm (f : GrfSt → GrfSt) : (s.mapGrf f).hrm = s.hrm := rfl
@[simp] theorem State.mapGrf_trl (f : GrfSt → GrfSt) : (s.mapGrf f).trl = s.trl := rfl
@[simp] theorem State.mapGrf_pwr (f : GrfSt → GrfSt) : (s.mapGrf f).pwr = s.pwr := rfl
@[simp] theorem State.mapGrf_grf (f : GrfSt → GrfSt) : (s.mapGrf f).grf = f s.grf := rfl
@[simp] theorem State.mapGrf_sec (f : GrfSt → GrfSt) : (s.mapGrf f).sec = s.sec := rfl

/-! ## `mapSec` -/

@[simp] theorem State.mapSec_pending (f : SecSt → SecSt) : (s.mapSec f).pending = s.pending := rfl
@[simp] theorem State.mapSec_fuse (f : SecSt → SecSt) : (s.mapSec f).fuse = s.fuse := rfl
@[simp] theorem State.mapSec_regs (f : SecSt → SecSt) : (s.mapSec f).regs = s.regs := rfl
@[simp] theorem State.mapSec_words (f : SecSt → SecSt) : (s.mapSec f).words = s.words := rfl
@[simp] theorem State.mapSec_mem (f : SecSt → SecSt) : (s.mapSec f).mem = s.mem := rfl
@[simp] theorem State.mapSec_poison (f : SecSt → SecSt) : (s.mapSec f).poison = s.poison := rfl
@[simp] theorem State.mapSec_upset (f : SecSt → SecSt) : (s.mapSec f).upset = s.upset := rfl
@[simp] theorem State.mapSec_free (f : SecSt → SecSt) : (s.mapSec f).free = s.free := rfl
@[simp] theorem State.mapSec_eccUnc (f : SecSt → SecSt) : (s.mapSec f).eccUnc = s.eccUnc := rfl
@[simp] theorem State.mapSec_eccWin (f : SecSt → SecSt) : (s.mapSec f).eccWin = s.eccWin := rfl
@[simp] theorem State.mapSec_irqOut (f : SecSt → SecSt) : (s.mapSec f).irqOut = s.irqOut := rfl
@[simp] theorem State.mapSec_arr (f : SecSt → SecSt) : (s.mapSec f).arr = s.arr := rfl
@[simp] theorem State.mapSec_tx (f : SecSt → SecSt) : (s.mapSec f).tx = s.tx := rfl
@[simp] theorem State.mapSec_lcRows (f : SecSt → SecSt) : (s.mapSec f).lcRows = s.lcRows := rfl
@[simp] theorem State.mapSec_job (f : SecSt → SecSt) : (s.mapSec f).job = s.job := rfl
@[simp] theorem State.mapSec_sw (f : SecSt → SecSt) : (s.mapSec f).sw = s.sw := rfl
@[simp] theorem State.mapSec_swWait (f : SecSt → SecSt) : (s.mapSec f).swWait = s.swWait := rfl
@[simp] theorem State.mapSec_cp (f : SecSt → SecSt) : (s.mapSec f).cp = s.cp := rfl
@[simp] theorem State.mapSec_pci (f : SecSt → SecSt) : (s.mapSec f).pci = s.pci := rfl
@[simp] theorem State.mapSec_ing (f : SecSt → SecSt) : (s.mapSec f).ing = s.ing := rfl
@[simp] theorem State.mapSec_lin (f : SecSt → SecSt) : (s.mapSec f).lin = s.lin := rfl
@[simp] theorem State.mapSec_vrd (f : SecSt → SecSt) : (s.mapSec f).vrd = s.vrd := rfl
@[simp] theorem State.mapSec_str (f : SecSt → SecSt) : (s.mapSec f).str = s.str := rfl
@[simp] theorem State.mapSec_hrm (f : SecSt → SecSt) : (s.mapSec f).hrm = s.hrm := rfl
@[simp] theorem State.mapSec_trl (f : SecSt → SecSt) : (s.mapSec f).trl = s.trl := rfl
@[simp] theorem State.mapSec_pwr (f : SecSt → SecSt) : (s.mapSec f).pwr = s.pwr := rfl
@[simp] theorem State.mapSec_grf (f : SecSt → SecSt) : (s.mapSec f).grf = s.grf := rfl
@[simp] theorem State.mapSec_sec (f : SecSt → SecSt) : (s.mapSec f).sec = f s.sec := rfl

/-! ## `setCam` -/

@[simp] theorem State.setCam_pending (c : Nat) (x : CamSt) : (s.setCam c x).pending = s.pending := rfl
@[simp] theorem State.setCam_fuse (c : Nat) (x : CamSt) : (s.setCam c x).fuse = s.fuse := rfl
@[simp] theorem State.setCam_regs (c : Nat) (x : CamSt) : (s.setCam c x).regs = s.regs := rfl
@[simp] theorem State.setCam_words (c : Nat) (x : CamSt) : (s.setCam c x).words = s.words := rfl
@[simp] theorem State.setCam_mem (c : Nat) (x : CamSt) : (s.setCam c x).mem = s.mem := rfl
@[simp] theorem State.setCam_poison (c : Nat) (x : CamSt) : (s.setCam c x).poison = s.poison := rfl
@[simp] theorem State.setCam_upset (c : Nat) (x : CamSt) : (s.setCam c x).upset = s.upset := rfl
@[simp] theorem State.setCam_free (c : Nat) (x : CamSt) : (s.setCam c x).free = s.free := rfl
@[simp] theorem State.setCam_eccUnc (c : Nat) (x : CamSt) : (s.setCam c x).eccUnc = s.eccUnc := rfl
@[simp] theorem State.setCam_eccWin (c : Nat) (x : CamSt) : (s.setCam c x).eccWin = s.eccWin := rfl
@[simp] theorem State.setCam_irqOut (c : Nat) (x : CamSt) : (s.setCam c x).irqOut = s.irqOut := rfl
@[simp] theorem State.setCam_arr (c : Nat) (x : CamSt) : (s.setCam c x).arr = s.arr := rfl
@[simp] theorem State.setCam_tx (c : Nat) (x : CamSt) : (s.setCam c x).tx = s.tx := rfl
@[simp] theorem State.setCam_lcRows (c : Nat) (x : CamSt) : (s.setCam c x).lcRows = s.lcRows := rfl
@[simp] theorem State.setCam_job (c : Nat) (x : CamSt) : (s.setCam c x).job = s.job := rfl
@[simp] theorem State.setCam_sw (c : Nat) (x : CamSt) : (s.setCam c x).sw = s.sw := rfl
@[simp] theorem State.setCam_swWait (c : Nat) (x : CamSt) : (s.setCam c x).swWait = s.swWait := rfl
@[simp] theorem State.setCam_cp (c : Nat) (x : CamSt) : (s.setCam c x).cp = s.cp := rfl
@[simp] theorem State.setCam_pci (c : Nat) (x : CamSt) : (s.setCam c x).pci = s.pci := rfl
@[simp] theorem State.setCam_lin (c : Nat) (x : CamSt) : (s.setCam c x).lin = s.lin := rfl
@[simp] theorem State.setCam_vrd (c : Nat) (x : CamSt) : (s.setCam c x).vrd = s.vrd := rfl
@[simp] theorem State.setCam_str (c : Nat) (x : CamSt) : (s.setCam c x).str = s.str := rfl
@[simp] theorem State.setCam_hrm (c : Nat) (x : CamSt) : (s.setCam c x).hrm = s.hrm := rfl
@[simp] theorem State.setCam_trl (c : Nat) (x : CamSt) : (s.setCam c x).trl = s.trl := rfl
@[simp] theorem State.setCam_pwr (c : Nat) (x : CamSt) : (s.setCam c x).pwr = s.pwr := rfl
@[simp] theorem State.setCam_grf (c : Nat) (x : CamSt) : (s.setCam c x).grf = s.grf := rfl
@[simp] theorem State.setCam_sec (c : Nat) (x : CamSt) : (s.setCam c x).sec = s.sec := rfl

/-! ## `setTrg` -/

@[simp] theorem State.setTrg_pending (k : Nat) (x : TrgSt) : (s.setTrg k x).pending = s.pending := rfl
@[simp] theorem State.setTrg_fuse (k : Nat) (x : TrgSt) : (s.setTrg k x).fuse = s.fuse := rfl
@[simp] theorem State.setTrg_regs (k : Nat) (x : TrgSt) : (s.setTrg k x).regs = s.regs := rfl
@[simp] theorem State.setTrg_words (k : Nat) (x : TrgSt) : (s.setTrg k x).words = s.words := rfl
@[simp] theorem State.setTrg_mem (k : Nat) (x : TrgSt) : (s.setTrg k x).mem = s.mem := rfl
@[simp] theorem State.setTrg_poison (k : Nat) (x : TrgSt) : (s.setTrg k x).poison = s.poison := rfl
@[simp] theorem State.setTrg_upset (k : Nat) (x : TrgSt) : (s.setTrg k x).upset = s.upset := rfl
@[simp] theorem State.setTrg_free (k : Nat) (x : TrgSt) : (s.setTrg k x).free = s.free := rfl
@[simp] theorem State.setTrg_eccUnc (k : Nat) (x : TrgSt) : (s.setTrg k x).eccUnc = s.eccUnc := rfl
@[simp] theorem State.setTrg_eccWin (k : Nat) (x : TrgSt) : (s.setTrg k x).eccWin = s.eccWin := rfl
@[simp] theorem State.setTrg_irqOut (k : Nat) (x : TrgSt) : (s.setTrg k x).irqOut = s.irqOut := rfl
@[simp] theorem State.setTrg_arr (k : Nat) (x : TrgSt) : (s.setTrg k x).arr = s.arr := rfl
@[simp] theorem State.setTrg_tx (k : Nat) (x : TrgSt) : (s.setTrg k x).tx = s.tx := rfl
@[simp] theorem State.setTrg_lcRows (k : Nat) (x : TrgSt) : (s.setTrg k x).lcRows = s.lcRows := rfl
@[simp] theorem State.setTrg_job (k : Nat) (x : TrgSt) : (s.setTrg k x).job = s.job := rfl
@[simp] theorem State.setTrg_sw (k : Nat) (x : TrgSt) : (s.setTrg k x).sw = s.sw := rfl
@[simp] theorem State.setTrg_swWait (k : Nat) (x : TrgSt) : (s.setTrg k x).swWait = s.swWait := rfl
@[simp] theorem State.setTrg_cp (k : Nat) (x : TrgSt) : (s.setTrg k x).cp = s.cp := rfl
@[simp] theorem State.setTrg_pci (k : Nat) (x : TrgSt) : (s.setTrg k x).pci = s.pci := rfl
@[simp] theorem State.setTrg_ing (k : Nat) (x : TrgSt) : (s.setTrg k x).ing = s.ing := rfl
@[simp] theorem State.setTrg_vrd (k : Nat) (x : TrgSt) : (s.setTrg k x).vrd = s.vrd := rfl
@[simp] theorem State.setTrg_str (k : Nat) (x : TrgSt) : (s.setTrg k x).str = s.str := rfl
@[simp] theorem State.setTrg_hrm (k : Nat) (x : TrgSt) : (s.setTrg k x).hrm = s.hrm := rfl
@[simp] theorem State.setTrg_trl (k : Nat) (x : TrgSt) : (s.setTrg k x).trl = s.trl := rfl
@[simp] theorem State.setTrg_pwr (k : Nat) (x : TrgSt) : (s.setTrg k x).pwr = s.pwr := rfl
@[simp] theorem State.setTrg_grf (k : Nat) (x : TrgSt) : (s.setTrg k x).grf = s.grf := rfl
@[simp] theorem State.setTrg_sec (k : Nat) (x : TrgSt) : (s.setTrg k x).sec = s.sec := rfl

/-! ## `setMrk` -/

@[simp] theorem State.setMrk_pending (k : Nat) (x : MrkSt) : (s.setMrk k x).pending = s.pending := rfl
@[simp] theorem State.setMrk_fuse (k : Nat) (x : MrkSt) : (s.setMrk k x).fuse = s.fuse := rfl
@[simp] theorem State.setMrk_regs (k : Nat) (x : MrkSt) : (s.setMrk k x).regs = s.regs := rfl
@[simp] theorem State.setMrk_words (k : Nat) (x : MrkSt) : (s.setMrk k x).words = s.words := rfl
@[simp] theorem State.setMrk_mem (k : Nat) (x : MrkSt) : (s.setMrk k x).mem = s.mem := rfl
@[simp] theorem State.setMrk_poison (k : Nat) (x : MrkSt) : (s.setMrk k x).poison = s.poison := rfl
@[simp] theorem State.setMrk_upset (k : Nat) (x : MrkSt) : (s.setMrk k x).upset = s.upset := rfl
@[simp] theorem State.setMrk_free (k : Nat) (x : MrkSt) : (s.setMrk k x).free = s.free := rfl
@[simp] theorem State.setMrk_eccUnc (k : Nat) (x : MrkSt) : (s.setMrk k x).eccUnc = s.eccUnc := rfl
@[simp] theorem State.setMrk_eccWin (k : Nat) (x : MrkSt) : (s.setMrk k x).eccWin = s.eccWin := rfl
@[simp] theorem State.setMrk_irqOut (k : Nat) (x : MrkSt) : (s.setMrk k x).irqOut = s.irqOut := rfl
@[simp] theorem State.setMrk_arr (k : Nat) (x : MrkSt) : (s.setMrk k x).arr = s.arr := rfl
@[simp] theorem State.setMrk_tx (k : Nat) (x : MrkSt) : (s.setMrk k x).tx = s.tx := rfl
@[simp] theorem State.setMrk_lcRows (k : Nat) (x : MrkSt) : (s.setMrk k x).lcRows = s.lcRows := rfl
@[simp] theorem State.setMrk_job (k : Nat) (x : MrkSt) : (s.setMrk k x).job = s.job := rfl
@[simp] theorem State.setMrk_sw (k : Nat) (x : MrkSt) : (s.setMrk k x).sw = s.sw := rfl
@[simp] theorem State.setMrk_swWait (k : Nat) (x : MrkSt) : (s.setMrk k x).swWait = s.swWait := rfl
@[simp] theorem State.setMrk_cp (k : Nat) (x : MrkSt) : (s.setMrk k x).cp = s.cp := rfl
@[simp] theorem State.setMrk_pci (k : Nat) (x : MrkSt) : (s.setMrk k x).pci = s.pci := rfl
@[simp] theorem State.setMrk_ing (k : Nat) (x : MrkSt) : (s.setMrk k x).ing = s.ing := rfl
@[simp] theorem State.setMrk_vrd (k : Nat) (x : MrkSt) : (s.setMrk k x).vrd = s.vrd := rfl
@[simp] theorem State.setMrk_str (k : Nat) (x : MrkSt) : (s.setMrk k x).str = s.str := rfl
@[simp] theorem State.setMrk_hrm (k : Nat) (x : MrkSt) : (s.setMrk k x).hrm = s.hrm := rfl
@[simp] theorem State.setMrk_trl (k : Nat) (x : MrkSt) : (s.setMrk k x).trl = s.trl := rfl
@[simp] theorem State.setMrk_pwr (k : Nat) (x : MrkSt) : (s.setMrk k x).pwr = s.pwr := rfl
@[simp] theorem State.setMrk_grf (k : Nat) (x : MrkSt) : (s.setMrk k x).grf = s.grf := rfl
@[simp] theorem State.setMrk_sec (k : Nat) (x : MrkSt) : (s.setMrk k x).sec = s.sec := rfl

/-! ## `setChan` -/

@[simp] theorem State.setChan_pending (n : Nat) (x : ChanSt) : (s.setChan n x).pending = s.pending := rfl
@[simp] theorem State.setChan_fuse (n : Nat) (x : ChanSt) : (s.setChan n x).fuse = s.fuse := rfl
@[simp] theorem State.setChan_regs (n : Nat) (x : ChanSt) : (s.setChan n x).regs = s.regs := rfl
@[simp] theorem State.setChan_words (n : Nat) (x : ChanSt) : (s.setChan n x).words = s.words := rfl
@[simp] theorem State.setChan_mem (n : Nat) (x : ChanSt) : (s.setChan n x).mem = s.mem := rfl
@[simp] theorem State.setChan_poison (n : Nat) (x : ChanSt) : (s.setChan n x).poison = s.poison := rfl
@[simp] theorem State.setChan_upset (n : Nat) (x : ChanSt) : (s.setChan n x).upset = s.upset := rfl
@[simp] theorem State.setChan_free (n : Nat) (x : ChanSt) : (s.setChan n x).free = s.free := rfl
@[simp] theorem State.setChan_eccUnc (n : Nat) (x : ChanSt) : (s.setChan n x).eccUnc = s.eccUnc := rfl
@[simp] theorem State.setChan_eccWin (n : Nat) (x : ChanSt) : (s.setChan n x).eccWin = s.eccWin := rfl
@[simp] theorem State.setChan_irqOut (n : Nat) (x : ChanSt) : (s.setChan n x).irqOut = s.irqOut := rfl
@[simp] theorem State.setChan_arr (n : Nat) (x : ChanSt) : (s.setChan n x).arr = s.arr := rfl
@[simp] theorem State.setChan_tx (n : Nat) (x : ChanSt) : (s.setChan n x).tx = s.tx := rfl
@[simp] theorem State.setChan_lcRows (n : Nat) (x : ChanSt) : (s.setChan n x).lcRows = s.lcRows := rfl
@[simp] theorem State.setChan_job (n : Nat) (x : ChanSt) : (s.setChan n x).job = s.job := rfl
@[simp] theorem State.setChan_sw (n : Nat) (x : ChanSt) : (s.setChan n x).sw = s.sw := rfl
@[simp] theorem State.setChan_swWait (n : Nat) (x : ChanSt) : (s.setChan n x).swWait = s.swWait := rfl
@[simp] theorem State.setChan_cp (n : Nat) (x : ChanSt) : (s.setChan n x).cp = s.cp := rfl
@[simp] theorem State.setChan_pci (n : Nat) (x : ChanSt) : (s.setChan n x).pci = s.pci := rfl
@[simp] theorem State.setChan_ing (n : Nat) (x : ChanSt) : (s.setChan n x).ing = s.ing := rfl
@[simp] theorem State.setChan_lin (n : Nat) (x : ChanSt) : (s.setChan n x).lin = s.lin := rfl
@[simp] theorem State.setChan_vrd (n : Nat) (x : ChanSt) : (s.setChan n x).vrd = s.vrd := rfl
@[simp] theorem State.setChan_hrm (n : Nat) (x : ChanSt) : (s.setChan n x).hrm = s.hrm := rfl
@[simp] theorem State.setChan_trl (n : Nat) (x : ChanSt) : (s.setChan n x).trl = s.trl := rfl
@[simp] theorem State.setChan_pwr (n : Nat) (x : ChanSt) : (s.setChan n x).pwr = s.pwr := rfl
@[simp] theorem State.setChan_grf (n : Nat) (x : ChanSt) : (s.setChan n x).grf = s.grf := rfl
@[simp] theorem State.setChan_sec (n : Nat) (x : ChanSt) : (s.setChan n x).sec = s.sec := rfl

/-! ## `setPort` -/

@[simp] theorem State.setPort_pending (p : Nat) (x : PortSt) : (s.setPort p x).pending = s.pending := rfl
@[simp] theorem State.setPort_fuse (p : Nat) (x : PortSt) : (s.setPort p x).fuse = s.fuse := rfl
@[simp] theorem State.setPort_regs (p : Nat) (x : PortSt) : (s.setPort p x).regs = s.regs := rfl
@[simp] theorem State.setPort_words (p : Nat) (x : PortSt) : (s.setPort p x).words = s.words := rfl
@[simp] theorem State.setPort_mem (p : Nat) (x : PortSt) : (s.setPort p x).mem = s.mem := rfl
@[simp] theorem State.setPort_poison (p : Nat) (x : PortSt) : (s.setPort p x).poison = s.poison := rfl
@[simp] theorem State.setPort_upset (p : Nat) (x : PortSt) : (s.setPort p x).upset = s.upset := rfl
@[simp] theorem State.setPort_free (p : Nat) (x : PortSt) : (s.setPort p x).free = s.free := rfl
@[simp] theorem State.setPort_eccUnc (p : Nat) (x : PortSt) : (s.setPort p x).eccUnc = s.eccUnc := rfl
@[simp] theorem State.setPort_eccWin (p : Nat) (x : PortSt) : (s.setPort p x).eccWin = s.eccWin := rfl
@[simp] theorem State.setPort_irqOut (p : Nat) (x : PortSt) : (s.setPort p x).irqOut = s.irqOut := rfl
@[simp] theorem State.setPort_arr (p : Nat) (x : PortSt) : (s.setPort p x).arr = s.arr := rfl
@[simp] theorem State.setPort_tx (p : Nat) (x : PortSt) : (s.setPort p x).tx = s.tx := rfl
@[simp] theorem State.setPort_lcRows (p : Nat) (x : PortSt) : (s.setPort p x).lcRows = s.lcRows := rfl
@[simp] theorem State.setPort_job (p : Nat) (x : PortSt) : (s.setPort p x).job = s.job := rfl
@[simp] theorem State.setPort_sw (p : Nat) (x : PortSt) : (s.setPort p x).sw = s.sw := rfl
@[simp] theorem State.setPort_swWait (p : Nat) (x : PortSt) : (s.setPort p x).swWait = s.swWait := rfl
@[simp] theorem State.setPort_cp (p : Nat) (x : PortSt) : (s.setPort p x).cp = s.cp := rfl
@[simp] theorem State.setPort_pci (p : Nat) (x : PortSt) : (s.setPort p x).pci = s.pci := rfl
@[simp] theorem State.setPort_ing (p : Nat) (x : PortSt) : (s.setPort p x).ing = s.ing := rfl
@[simp] theorem State.setPort_lin (p : Nat) (x : PortSt) : (s.setPort p x).lin = s.lin := rfl
@[simp] theorem State.setPort_vrd (p : Nat) (x : PortSt) : (s.setPort p x).vrd = s.vrd := rfl
@[simp] theorem State.setPort_str (p : Nat) (x : PortSt) : (s.setPort p x).str = s.str := rfl
@[simp] theorem State.setPort_hrm (p : Nat) (x : PortSt) : (s.setPort p x).hrm = s.hrm := rfl
@[simp] theorem State.setPort_pwr (p : Nat) (x : PortSt) : (s.setPort p x).pwr = s.pwr := rfl
@[simp] theorem State.setPort_grf (p : Nat) (x : PortSt) : (s.setPort p x).grf = s.grf := rfl
@[simp] theorem State.setPort_sec (p : Nat) (x : PortSt) : (s.setPort p x).sec = s.sec := rfl

end Sys2Proof.Machine
end

