-- ==== Sys2Proof/Laws/Store.lean ====
section
/-!
SUPPORT. Laws/Store.lean: the laws of the sparse store: a read after a write, and the canonical form that every write keeps.
-/
namespace Sys2Proof.Machine

variable {β : Type}

/-! ## Reads after writes -/

theorem sget_serase_same (d : Nat → β) (m : SMap β) (k : Nat) : sget d (serase m k) k = d k := by
  induction m with
  | nil => rfl
  | cons x m ih =>
    obtain ⟨k', v⟩ := x
    by_cases h : k' = k
    · simpa [serase, h] using ih
    · simpa [serase, h, sget] using ih

theorem sget_serase_other (d : Nat → β) (m : SMap β) {k j : Nat} (h : j ≠ k) : sget d (serase m k) j = sget d m j := by
  induction m with
  | nil => rfl
  | cons x m ih =>
    obtain ⟨k', v⟩ := x
    by_cases hk : k' = k
    · subst hk
      simpa [serase, sget, h.symm] using ih
    · by_cases hj : k' = j
      · subst hj; simp [serase, hk, sget]
      · simpa [serase, hk, sget, hj] using ih

theorem sget_sinsert_same (d : Nat → β) (m : SMap β) (k : Nat) (v : β) : sget d (sinsert m k v) k = v := by
  induction m with
  | nil => simp [sinsert, sget]
  | cons x m ih =>
    obtain ⟨k', v'⟩ := x
    by_cases h1 : k < k'
    · simp [sinsert, h1, sget]
    · by_cases h2 : k' = k
      · simp [sinsert, h2, sget]
      · simpa [sinsert, h1, h2, sget] using ih

theorem sget_sinsert_other (d : Nat → β) (m : SMap β) {k j : Nat} (v : β) (h : j ≠ k) :
    sget d (sinsert m k v) j = sget d m j := by
  induction m with
  | nil => simp [sinsert, sget, h.symm]
  | cons x m ih =>
    obtain ⟨k', v'⟩ := x
    by_cases h1 : k < k'
    · simp [sinsert, h1, sget, h.symm]
    · by_cases h2 : k' = k
      · subst h2
        simp [sinsert, sget, h.symm]
      · by_cases h3 : k' = j
        · subst h3; simp [sinsert, h1, h2, sget]
        · simpa [sinsert, h1, h2, sget, h3] using ih

variable [DecidableEq β]

/-- A read of the key written gives the value written. -/
theorem sget_sset_same (d : Nat → β) (m : SMap β) (k : Nat) (v : β) : sget d (sset d m k v) k = v := by
  by_cases h : v = d k
  · simp [sset, h, sget_serase_same]
  · simp [sset, h, sget_sinsert_same]

/-- A write leaves every other key as it was. -/
theorem sget_sset_other (d : Nat → β) (m : SMap β) {k j : Nat} (v : β) (h : j ≠ k) :
    sget d (sset d m k v) j = sget d m j := by
  by_cases hv : v = d k
  · simp [sset, hv, sget_serase_other d m h]
  · simp [sset, hv, sget_sinsert_other d m v h]

/-- Both cases at once. -/
theorem sget_sset (d : Nat → β) (m : SMap β) (k j : Nat) (v : β) :
    sget d (sset d m k v) j = if j = k then v else sget d m j := by
  by_cases h : j = k
  · subst h; simp [sget_sset_same]
  · simp [h, sget_sset_other d m v h]

/-! ## The canonical form -/

theorem swfFrom_mono {d : Nat → β} {lo lo' : Nat} {m : SMap β} (h : lo' ≤ lo) (hm : swfFrom d lo m = true) :
    swfFrom d lo' m = true := by
  cases m with
  | nil => rfl
  | cons x m =>
    obtain ⟨k, v⟩ := x
    simp only [swfFrom, Bool.and_eq_true, decide_eq_true_eq] at hm ⊢
    exact ⟨⟨Nat.le_trans h hm.1.1, hm.1.2⟩, hm.2⟩

theorem swfFrom_serase {d : Nat → β} {lo : Nat} {m : SMap β} (k : Nat) (hm : swfFrom d lo m = true) :
    swfFrom d lo (serase m k) = true := by
  induction m generalizing lo with
  | nil => rfl
  | cons x m ih =>
    obtain ⟨k', v⟩ := x
    simp only [swfFrom, Bool.and_eq_true, decide_eq_true_eq] at hm
    by_cases h : k' = k
    · simp only [serase, h, if_true]
      exact ih (swfFrom_mono (by omega) hm.2)
    · simp only [serase, h, if_false, swfFrom, Bool.and_eq_true, decide_eq_true_eq]
      exact ⟨hm.1, ih hm.2⟩

theorem swfFrom_sinsert {d : Nat → β} {lo : Nat} {m : SMap β} {k : Nat} {v : β} (hk : lo ≤ k) (hv : v ≠ d k)
    (hm : swfFrom d lo m = true) : swfFrom d lo (sinsert m k v) = true := by
  induction m generalizing lo with
  | nil => simp [sinsert, swfFrom, hk, hv]
  | cons x m ih =>
    obtain ⟨k', v'⟩ := x
    simp only [swfFrom, Bool.and_eq_true, decide_eq_true_eq] at hm
    by_cases h1 : k < k'
    · simp only [sinsert, h1, if_true, swfFrom, Bool.and_eq_true, decide_eq_true_eq]
      exact ⟨⟨hk, by simpa using hv⟩, ⟨by omega, hm.1.2⟩, hm.2⟩
    · by_cases h2 : k' = k
      · subst h2
        simp only [sinsert, h1, if_false, if_true, swfFrom, Bool.and_eq_true, decide_eq_true_eq]
        exact ⟨⟨hk, by simpa using hv⟩, hm.2⟩
      · simp only [sinsert, h1, h2, if_false, swfFrom, Bool.and_eq_true, decide_eq_true_eq]
        exact ⟨hm.1, ih (by omega) hm.2⟩

/-- Every write keeps the canonical form. -/
theorem swf_sset {d : Nat → β} {m : SMap β} (k : Nat) (v : β) (hm : swf d m = true) : swf d (sset d m k v) = true := by
  by_cases h : v = d k
  · simpa [swf, sset, h] using swfFrom_serase k hm
  · simpa [swf, sset, h] using swfFrom_sinsert (Nat.zero_le k) h hm

theorem swf_nil (d : Nat → β) : swf d ([] : SMap β) = true := rfl

/-- Keeping some entries of a store in canonical form leaves it in canonical form. -/
theorem swfFrom_filter {d : Nat → β} {lo : Nat} {m : SMap β} (p : Nat × β → Bool) (hm : swfFrom d lo m = true) :
    swfFrom d lo (m.filter p) = true := by
  induction m generalizing lo with
  | nil => rfl
  | cons x m ih =>
    obtain ⟨k, v⟩ := x
    simp only [swfFrom, Bool.and_eq_true, decide_eq_true_eq] at hm
    cases h : p (k, v) with
    | true =>
      simp only [List.filter_cons, h, if_true, swfFrom, Bool.and_eq_true, decide_eq_true_eq]
      exact ⟨hm.1, ih hm.2⟩
    | false =>
      simp only [List.filter_cons, h, Bool.false_eq_true, if_false]
      exact ih (swfFrom_mono (by omega) hm.2)

theorem swf_filter {d : Nat → β} {m : SMap β} (p : Nat × β → Bool) (hm : swf d m = true) : swf d (m.filter p) = true :=
  swfFrom_filter p hm

end Sys2Proof.Machine
end

