-- ==== Sys2Proof/Laws/Regs.lean ====
section
/-!
SUPPORT. Laws/Regs.lean: registers and their fields: what a write leaves in the register, in its other fields and in the others.
-/
namespace Sys2Proof.Machine

variable (s t u : State)

/-! ## Registers -/

theorem State.reg_setReg (o p : Nat) (v : Word) : (s.setReg o v).reg p = if p = o then v else s.reg p :=
  sget_sset regDefault s.regs o p v

@[simp] theorem State.reg_setReg_same (o : Nat) (v : Word) : (s.setReg o v).reg o = v := by simp [State.reg_setReg]

theorem State.reg_setReg_other {o p : Nat} (v : Word) (h : p ≠ o) : (s.setReg o v).reg p = s.reg p := by
  simp [State.reg_setReg, h]

/-- A state with the same register store reads the same everywhere. -/
theorem State.reg_congr {s t : State} (h : t.regs = s.regs) (o : Nat) : t.reg o = s.reg o := by
  unfold State.reg; rw [h]

theorem State.reg_fset (f : Fld) (v p : Nat) :
    (s.fset f v).reg p = if p = f.off then f.put (s.reg f.off) v else s.reg p :=
  State.reg_setReg s f.off p _

/-! ## Fields of a word -/

/-- Bit `i` of a field of a word. -/
theorem bitsN_testBit (x lo w i : Nat) : (bitsN x lo w).testBit i = (decide (i < w) && x.testBit (lo + i)) := by
  simp [bitsN, Nat.testBit_mod_two_pow, Nat.testBit_shiftRight]

theorem bitsN_lt (x lo w : Nat) : bitsN x lo w < 2 ^ w := Nat.mod_lt _ (Nat.two_pow_pos w)

theorem Fld.of_lt (f : Fld) (x : Word) : f.of x < 2 ^ f.w := bitsN_lt _ _ _

/-- Bit `j` of a word whose field has been written. -/
theorem Fld.put_getLsbD (f : Fld) (x : Word) (v j : Nat) (hj : j < 32) :
    (f.put x v).getLsbD j = if f.lo ≤ j ∧ j < f.lo + f.w then v.testBit (j - f.lo) else x.getLsbD j := by
  simp only [Fld.put, Fld.mask, BitVec.getLsbD_or, BitVec.getLsbD_and, BitVec.getLsbD_not, BitVec.getLsbD_ofNat,
    Nat.testBit_shiftLeft, Nat.testBit_two_pow_sub_one, Nat.testBit_mod_two_pow, hj]
  by_cases h1 : f.lo ≤ j
  · by_cases h2 : j < f.lo + f.w
    · have h3 : j - f.lo < f.w := by omega
      simp [h1, h2, h3]
    · have h3 : ¬ j - f.lo < f.w := by omega
      simp [h2, h3]
  · simp [h1]

/-- A field just written reads as the value written, cut to its width. -/
theorem Fld.of_put_same (f : Fld) (x : Word) (v : Nat) (h : f.lo + f.w ≤ 32) : f.of (f.put x v) = v % 2 ^ f.w := by
  apply Nat.eq_of_testBit_eq
  intro i
  rw [Fld.of, bitsN_testBit, Nat.testBit_mod_two_pow]
  by_cases hi : i < f.w
  · have := Fld.put_getLsbD f x v (f.lo + i) (by omega)
    simp only [BitVec.getLsbD] at this
    simp [hi, this]
  · simp [hi]

/-- A write of a field leaves a field beside it. -/
theorem Fld.of_put_other (f g : Fld) (x : Word) (v : Nat) (hg : g.lo + g.w ≤ 32)
    (h : g.lo + g.w ≤ f.lo ∨ f.lo + f.w ≤ g.lo) : g.of (f.put x v) = g.of x := by
  apply Nat.eq_of_testBit_eq
  intro i
  rw [Fld.of, Fld.of, bitsN_testBit, bitsN_testBit]
  by_cases hi : i < g.w
  · have := Fld.put_getLsbD f x v (g.lo + i) (by omega)
    have hn : ¬ (f.lo ≤ g.lo + i ∧ g.lo + i < f.lo + f.w) := by omega
    simp only [BitVec.getLsbD, hn, if_false] at this
    simp [hi, this]
  · simp [hi]

theorem State.fget_lt (f : Fld) : s.fget f < 2 ^ f.w := Fld.of_lt f _

theorem State.fget_fset_same (f : Fld) (v : Nat) (h : f.lo + f.w ≤ 32) : (s.fset f v).fget f = v % 2 ^ f.w := by
  simp [State.fget, State.fset, Fld.of_put_same f _ v h]

/-- A field of the same register beside the one written. -/
theorem State.fget_fset_beside (f g : Fld) (v : Nat) (ho : g.off = f.off) (hg : g.lo + g.w ≤ 32)
    (h : g.lo + g.w ≤ f.lo ∨ f.lo + f.w ≤ g.lo) : (s.fset f v).fget g = s.fget g := by
  simp [State.fget, State.fset, ho, Fld.of_put_other f g _ v hg h]

/-- A field of another register. -/
theorem State.fget_fset_elsewhere (f g : Fld) (v : Nat) (h : g.off ≠ f.off) : (s.fset f v).fget g = s.fget g := by
  simp [State.fget, State.fset, State.reg_setReg, h]

theorem State.fget_fcount_same (f : Fld) (n : Nat) (h : f.lo + f.w ≤ 32) :
    (s.fcount f n).fget f = satAdd f.w (s.fget f) n := by
  rw [State.fcount, State.fget_fset_same s f _ h]
  apply Nat.mod_eq_of_lt
  have := Nat.two_pow_pos f.w
  unfold satAdd; split <;> omega

/-! ## What stays -/

theorem State.regsBut_refl (os : List Nat) : s.regsBut s os := fun _ _ => rfl

theorem State.regsBut_of_regs {s t : State} (h : t.regs = s.regs) (os : List Nat) : s.regsBut t os :=
  fun o _ => State.reg_congr h o

theorem State.regsBut_trans {s t u : State} {os : List Nat} (h1 : s.regsBut t os) (h2 : t.regsBut u os) : s.regsBut u os :=
  fun o ho => (h2 o ho).trans (h1 o ho)

theorem State.regsBut_mono {s t : State} {os os' : List Nat} (h : ∀ o ∈ os, o ∈ os') (h1 : s.regsBut t os) : s.regsBut t os' :=
  fun o ho => h1 o fun hm => ho (h o hm)

theorem State.regsBut_setReg (o : Nat) (v : Word) : s.regsBut (s.setReg o v) [o] := fun p hp => by
  simp only [List.mem_singleton] at hp
  exact State.reg_setReg_other s v hp

theorem State.regsBut_fset (f : Fld) (v : Nat) : s.regsBut (s.fset f v) [f.off] := State.regsBut_setReg s _ _

theorem State.regsBut_fcount (f : Fld) (n : Nat) : s.regsBut (s.fcount f n) [f.off] := State.regsBut_setReg s _ _

theorem State.sameMem_refl : s.sameMem s := ⟨fun _ => rfl, fun _ => rfl, fun _ => rfl⟩

/-- A state whose three memory stores are the same is the same to every read. -/
theorem State.sameMem_of_eq {s t : State} (hm : t.mem = s.mem) (hp : t.poison = s.poison) (hu : t.upset = s.upset) :
    s.sameMem t := by
  refine ⟨fun a => ?_, fun a => ?_, fun a => ?_⟩
  · simp [State.byte, hm]
  · simp [State.poisoned, State.copiesAt, hp, hu]
  · simp [State.upsetAt, hu]

theorem State.sameMem_trans {s t u : State} (h1 : s.sameMem t) (h2 : t.sameMem u) : s.sameMem u :=
  ⟨fun a => (h2.1 a).trans (h1.1 a), fun a => (h2.2.1 a).trans (h1.2.1 a), fun a => (h2.2.2 a).trans (h1.2.2 a)⟩

theorem State.sameMem_setReg (o : Nat) (v : Word) : s.sameMem (s.setReg o v) := State.sameMem_of_eq rfl rfl rfl

end Sys2Proof.Machine
end

