-- ==== Sys2Proof/Laws/Memory.lean ====
section
/-!
SUPPORT. Laws/Memory.lean: what reading memory can change besides its answer, what writing it does to every byte, and that every memory
operation keeps the canonical form.
-/
namespace Sys2Proof.Machine

/-! ## What error reporting can change -/

/-- `t` differs from `s` at most in registers, interrupt messages sent or pending, the Rows remembered for the alert and their
counts, and the job's first error. -/
def State.onlyLogs (s t : State) : Prop :=
  ∃ r i c w e n, t = { s with regs := r, irqOut := i, eccUnc := c, eccWin := w, job := { s.job with firstErr := e }, pci := { s.pci with pend := n } }

namespace State.onlyLogs

theorem refl (s : State) : s.onlyLogs s := ⟨_, _, _, _, _, _, rfl⟩

theorem trans {s t u : State} (h1 : s.onlyLogs t) (h2 : t.onlyLogs u) : s.onlyLogs u := by
  obtain ⟨r, i, c, w, e, n, rfl⟩ := h1
  obtain ⟨r', i', c', w', e', n', rfl⟩ := h2
  exact ⟨_, _, _, _, _, _, rfl⟩

theorem mem {s t : State} (h : s.onlyLogs t) : t.mem = s.mem ∧ t.poison = s.poison ∧ t.upset = s.upset ∧ t.words = s.words := by
  obtain ⟨r, i, c, w, e, n, rfl⟩ := h
  exact ⟨rfl, rfl, rfl, rfl⟩

theorem sameMem {s t : State} (h : s.onlyLogs t) : s.sameMem t := State.sameMem_of_eq h.mem.1 h.mem.2.1 h.mem.2.2.1

theorem units {s t : State} (h : s.onlyLogs t) :
    t.arr = s.arr ∧ t.fuse = s.fuse ∧ t.cp = s.cp ∧ t.pending = s.pending ∧ t.str = s.str ∧ t.sec = s.sec ∧ t.pwr = s.pwr ∧
      t.job.running = s.job.running := by
  obtain ⟨r, i, c, w, e, n, rfl⟩ := h
  exact ⟨rfl, rfl, rfl, rfl, rfl, rfl, rfl, rfl⟩

end State.onlyLogs

variable (s : State)

theorem State.onlyLogs_fset (f : Fld) (v : Nat) : s.onlyLogs (s.fset f v) := ⟨_, _, _, _, _, _, rfl⟩

theorem State.onlyLogs_fcount (f : Fld) (n : Nat) : s.onlyLogs (s.fcount f n) := ⟨_, _, _, _, _, _, rfl⟩

theorem State.onlyLogs_note (code : Nat) : s.onlyLogs (s.note code) := by
  unfold State.note
  split
  · exact ⟨_, _, _, _, _, _, rfl⟩
  · exact .refl s

theorem State.onlyLogs_raiseVec (v : Nat) : s.onlyLogs (s.raiseVec v) := by
  unfold State.raiseVec
  split
  · split <;> exact ⟨_, _, _, _, _, _, rfl⟩
  · exact .refl s

/-- Raising a bit of HUB.IRQ_STATUS changes that register and the interrupt messages only. -/
theorem State.onlyLogs_irq (k : Nat) : s.onlyLogs (s.irq k) := by
  unfold State.irq
  split
  · exact .refl s
  · dsimp only
    split
    · exact (State.onlyLogs_fset s _ _).trans (State.onlyLogs_raiseVec _ _)
    · exact State.onlyLogs_fset s _ _

theorem State.regsBut_irq (k : Nat) : s.regsBut (s.irq k) [R.HUB_IRQ_STATUS] := by
  unfold State.irq
  split
  · exact State.regsBut_refl s _
  · dsimp only
    split
    · refine State.regsBut_trans (t := s.fsetBit irqBits k true) (State.regsBut_fset s irqBits _) (State.regsBut_of_regs ?_ _)
      unfold State.raiseVec
      split
      · split <;> rfl
      · rfl
    · exact State.regsBut_fset s irqBits _

theorem State.onlyLogs_eccWin (w : List Nat) : s.onlyLogs { s with eccWin := w } := ⟨_, _, _, _, _, _, rfl⟩

theorem State.onlyLogs_countCorrRow (x : Option (Nat × Nat)) : s.onlyLogs (s.countCorrRow x) := by
  cases x with
  | none => exact State.onlyLogs_fcount s _ _
  | some x =>
    exact ((State.onlyLogs_eccWin s _).trans (State.onlyLogs_fcount _ (F.TER_ROW_ECC_corr x.1 x.2) 1)).trans
      (State.onlyLogs_fcount _ (F.TER_ROW_ECC_win_corr x.1 x.2) 1)

theorem State.onlyLogs_countCorr (a : Nat) : s.onlyLogs (s.countCorr a) := State.onlyLogs_countCorrRow s _

theorem State.onlyLogs_eccAlert (t row cause : Nat) : s.onlyLogs (s.eccAlert t row cause) := by
  unfold State.eccAlert
  split
  · exact .refl s
  · exact .trans ⟨_, _, _, _, _, _, rfl⟩ (State.onlyLogs_irq _ _)

theorem State.onlyLogs_countUncRow (x : Option (Nat × Nat)) : s.onlyLogs (s.countUncRow x) := by
  unfold State.countUncRow
  split
  · dsimp only
    split
    · exact (State.onlyLogs_fcount s _ _).trans (State.onlyLogs_eccAlert _ _ _ _)
    · split
      · exact State.onlyLogs_fcount s _ _
      · exact ⟨_, _, _, _, _, _, rfl⟩
  · exact State.onlyLogs_fcount s _ _

/-- Raising an on-chip memory error counts it and captures the first (R439, R443). -/
theorem State.onlyLogs_raiseEcc (a code : Nat) (scrub : Bool) : s.onlyLogs (s.raiseEcc a code scrub) := by
  unfold State.raiseEcc
  dsimp only
  have h : s.onlyLogs ((s.note code).countUnc a) := (State.onlyLogs_note s code).trans (State.onlyLogs_countUncRow _ _)
  split
  · exact h
  · refine h.trans (.trans ?_ (State.onlyLogs_irq _ _))
    exact ⟨_, _, _, _, _, _, rfl⟩

theorem State.onlyLogs_hrmErr (code ch src off : Nat) : s.onlyLogs (s.hrmErr code ch src off) := by
  unfold State.hrmErr
  dsimp only
  split
  · exact State.onlyLogs_note s code
  · refine (State.onlyLogs_note s code).trans (.trans ?_ (State.onlyLogs_irq _ _))
    exact ⟨_, _, _, _, _, _, rfl⟩

/-- A violation counts and captures the first (R316). -/
theorem State.onlyLogs_violate (src : AccSrc) (a : Nat) (w : Bool) (reason : Nat) : s.onlyLogs (s.violate src a w reason) := by
  have h : s.onlyLogs ((s.note (if reason = 6 then 0x0104 else 0x0105)).fcount F.HUB_VIOL_COUNT_count 1) :=
    (State.onlyLogs_note s _).trans (State.onlyLogs_fcount _ _ _)
  unfold State.violate
  generalize (s.note (if reason = 6 then 0x0104 else 0x0105)).fcount F.HUB_VIOL_COUNT_count 1 = u at h
  dsimp only
  split
  · exact h
  · refine h.trans (.trans ?_ (State.onlyLogs_irq _ _))
    exact ⟨_, _, _, _, _, _, rfl⟩

/-! ## Reading memory changes logs only -/

theorem readCw_onlyLogs (a : Nat) : s.onlyLogs (readCw s a).2.2 := by
  unfold readCw
  dsimp only
  split
  · exact .refl s
  · split
    · exact .refl s
    · exact State.onlyLogs_countCorr s a
    · exact State.onlyLogs_raiseEcc s a _ _

theorem readCws_onlyLogs (a n : Nat) : s.onlyLogs (readCws s a n).2.2 := by
  induction n generalizing s a with
  | zero => exact .refl s
  | succ n ih => exact (readCw_onlyLogs s a).trans (ih (readCw s a).2.2 (a + 8))

theorem readChip_onlyLogs (a n : Nat) : s.onlyLogs (readChip s a n).2.2 := by
  unfold readChip
  split
  · exact .refl s
  · exact readCws_onlyLogs s _ _

theorem State.onlyLogs_ite {s : State} {c : Prop} [Decidable c] {x y : Rd} (hx : s.onlyLogs x.2.2) (hy : s.onlyLogs y.2.2) :
    s.onlyLogs (if c then x else y).2.2 := by split <;> assumption

theorem checkBlock_onlyLogs (a src r : Nat) : s.onlyLogs (checkBlock s a src r).2.2 := by
  exact State.onlyLogs_ite (.refl s) (State.onlyLogs_hrmErr s _ _ _ _)

theorem readBlock_onlyLogs (a src : Nat) : s.onlyLogs (readBlock s a src).2.2 := by
  unfold readBlock
  dsimp only
  split
  · exact .refl s
  · split
    · exact checkBlock_onlyLogs s _ _ _
    · exact (State.onlyLogs_fcount s _ _).trans (checkBlock_onlyLogs _ _ _ _)
    · exact (State.onlyLogs_fcount s _ _).trans (State.onlyLogs_hrmErr _ _ _ _ _)

theorem readBlocks_onlyLogs (src a n : Nat) : s.onlyLogs (readBlocks s src a n).2.2 := by
  induction n generalizing s a with
  | zero => exact .refl s
  | succ n ih => exact (readBlock_onlyLogs s a src).trans (ih (readBlock s a src).2.2 (a + 32))

theorem readHyper_onlyLogs (a n src : Nat) : s.onlyLogs (readHyper s a n src).2.2 := by
  unfold readHyper
  split
  · exact .refl s
  · exact readBlocks_onlyLogs s _ _ _

theorem readInt_onlyLogs (a n src : Nat) : s.onlyLogs (readInt s a n src).2.2 := by
  unfold readInt
  split
  · exact readHyper_onlyLogs s a n src
  · exact readChip_onlyLogs s a n

/-! ## Bytes -/

theorem State.byte_setByte (a p : Nat) (b : Byte) : (s.setByte a b).byte p = if p = a then b else s.byte p :=
  sget_sset zeroB s.mem a p b

theorem State.upsetAt_setUpset (a p x : Nat) : (s.setUpset a x).upsetAt p = if p = a then onBytes a x else s.upsetAt p := by
  simp only [State.upsetAt, State.setUpset, sget_sset]
  split
  · rename_i h; rw [h]
  · rfl

theorem State.copiesAt_setUpset (a p x : Nat) : (s.setUpset a x).copiesAt p = if p = a then onCopies a x else s.copiesAt p := by
  simp only [State.copiesAt, State.setUpset, sget_sset]
  split
  · rename_i h; rw [h]
  · rfl

@[simp] theorem onBytes_zero (a : Nat) : onBytes a 0 = 0 := by simp [onBytes]
@[simp] theorem onCopies_zero (a : Nat) : onCopies a 0 = 0 := by simp [onCopies]

/-- A codeword rewritten with a poison mark reads with that mark (R439). -/
theorem State.poisoned_rewrite (a p : Nat) (b : Bool) :
    ((s.setPoison a b).setUpset a 0).poisoned p = if p = a then b else s.poisoned p := by
  have h : sget zeroF ((s.setPoison a b).setUpset a 0).poison p = if p = a then b else sget zeroF s.poison p :=
    sget_sset zeroF s.poison a p b
  simp only [State.poisoned, h, State.copiesAt_setUpset]
  split
  · simp
  · rfl

/-- A mended codeword keeps its mark, and every other codeword is as it was (R439, R441). -/
theorem State.poisoned_mend (a p : Nat) : (s.mend a).poisoned p = s.poisoned p := by
  unfold State.mend
  rw [State.poisoned_rewrite]
  split
  · rename_i h; rw [h]
  · rfl
theorem State.upsetAt_mend (a p : Nat) : (s.mend a).upsetAt p = if p = a then 0 else s.upsetAt p := by
  unfold State.mend
  rw [State.upsetAt_setUpset, onBytes_zero]
  rfl

theorem State.upsetAt_of_nil {s : State} (h : s.upset = []) : ∀ a, s.upsetAt a = 0 := fun a => by
  simp [State.upsetAt, h, sget, zeroN]

@[simp] theorem State.bytesAt_length (a n : Nat) : (s.bytesAt a n).length = n := by
  induction n generalizing a with
  | zero => rfl
  | succ n ih => simp [State.bytesAt, ih]

/-- A state with the same bytes answers the same runs of bytes. -/
theorem State.bytesAt_congr {s t : State} {a n : Nat} (h : ∀ p, a ≤ p → p < a + n → t.byte p = s.byte p) :
    t.bytesAt a n = s.bytesAt a n := by
  induction n generalizing a with
  | zero => rfl
  | succ n ih =>
    simp only [State.bytesAt]
    rw [h a (by omega) (by omega), ih fun p h1 h2 => h p (by omega) (by omega)]

/-- Storing bytes leaves every byte outside them. -/
theorem State.byte_putBytes_outside (a p : Nat) (bs : List Byte) (h : p < a ∨ a + bs.length ≤ p) :
    (s.putBytes a bs).byte p = s.byte p := by
  induction bs generalizing s a with
  | nil => rfl
  | cons b bs ih =>
    simp only [List.length_cons] at h
    simp only [State.putBytes]
    rw [ih (s.setByte a b) (a + 1) (by omega), State.byte_setByte, if_neg (by omega)]

/-- Bytes stored read back. -/
theorem State.bytesAt_putBytes (a : Nat) (bs : List Byte) : (s.putBytes a bs).bytesAt a bs.length = bs := by
  induction bs generalizing s a with
  | nil => rfl
  | cons b bs ih =>
    simp only [State.putBytes, List.length_cons, State.bytesAt]
    rw [ih (s.setByte a b) (a + 1), State.byte_putBytes_outside _ _ _ _ (by omega), State.byte_setByte, if_pos rfl]

theorem State.putBytes_rest (a : Nat) (bs : List Byte) :
    (s.putBytes a bs).regs = s.regs ∧ (s.putBytes a bs).poison = s.poison ∧ (s.putBytes a bs).upset = s.upset ∧
      (s.putBytes a bs).words = s.words ∧ (s.putBytes a bs).arr = s.arr ∧ (s.putBytes a bs).job = s.job := by
  induction bs generalizing s a with
  | nil => exact ⟨rfl, rfl, rfl, rfl, rfl, rfl⟩
  | cons b bs ih => exact ih (s.setByte a b) (a + 1)

/-- A write of a whole codeword: its bytes, its poison mark, no error, and nothing else (R439). -/
theorem writeCw_whole (a : Nat) (bs : List Byte) (poison : Bool) (h : bs.length = 8) :
    (writeCw s a 0 bs poison).bytesAt a 8 = bs ∧ (writeCw s a 0 bs poison).poisoned a = poison ∧
      (writeCw s a 0 bs poison).upsetAt a = 0 ∧ ∀ p, (p < a ∨ a + 8 ≤ p) → (writeCw s a 0 bs poison).byte p = s.byte p := by
  have e : writeCw s a 0 bs poison = ((s.putBytes a bs).setPoison a poison).setUpset a 0 := by simp [writeCw, h]
  rw [e]
  refine ⟨?_, ?_, ?_, fun p hp => ?_⟩
  · have := State.bytesAt_putBytes s a bs
    rw [h] at this
    exact this
  · exact (State.poisoned_rewrite _ a a poison).trans (if_pos rfl)
  · exact (State.upsetAt_setUpset _ a a 0).trans ((if_pos rfl).trans (onBytes_zero a))
  · exact State.byte_putBytes_outside s a p bs (by omega)

/-! ## The canonical form -/

/-- Bytes, poison marks and error patterns in canonical form. -/
def State.memWf (s : State) : Prop := Memory.wf s.mem = true ∧ swf zeroF s.poison = true ∧ swf zeroN s.upset = true

theorem State.memWf_reset : State.reset.memWf := ⟨rfl, rfl, rfl⟩

theorem State.memWf_of_onlyLogs {s t : State} (h : s.onlyLogs t) (w : s.memWf) : t.memWf := by
  unfold State.memWf
  rw [h.mem.1, h.mem.2.1, h.mem.2.2.1]
  exact w

variable {s}

theorem State.memWf_setByte (a : Nat) (b : Byte) (w : s.memWf) : (s.setByte a b).memWf := ⟨swf_sset a b w.1, w.2.1, w.2.2⟩

theorem State.memWf_setPoison (a : Nat) (b : Bool) (w : s.memWf) : (s.setPoison a b).memWf := ⟨w.1, swf_sset a b w.2.1, w.2.2⟩

theorem State.memWf_setUpset (a x : Nat) (w : s.memWf) : (s.setUpset a x).memWf := ⟨w.1, w.2.1, swf_sset a x w.2.2⟩

theorem State.memWf_putBytes (a : Nat) (bs : List Byte) (w : s.memWf) : (s.putBytes a bs).memWf := by
  induction bs generalizing s a with
  | nil => exact w
  | cons b bs ih => exact ih (a + 1) (State.memWf_setByte a b w)

theorem State.memWf_strike (us : List Upset) (w : s.memWf) : (s.strike us).memWf := by
  induction us generalizing s with
  | nil => exact w
  | cons u us ih => exact ih (State.memWf_setUpset _ _ w)

theorem writeCw_memWf (a o : Nat) (bs : List Byte) (poison : Bool) (w : s.memWf) : (writeCw s a o bs poison).memWf := by
  unfold writeCw
  split
  · exact State.memWf_setUpset _ _ (State.memWf_setPoison _ _ (State.memWf_putBytes _ _ w))
  · exact State.memWf_setUpset _ _ (State.memWf_setPoison _ _ (State.memWf_putBytes _ _
      (State.memWf_of_onlyLogs (readCw_onlyLogs s a) w)))

theorem writeCws_memWf (n a : Nat) (bs : List Byte) (poison : Bool) (w : s.memWf) : (writeCws s n a bs poison).memWf := by
  induction n generalizing s a bs with
  | zero => exact w
  | succ n ih =>
    unfold writeCws
    split
    · exact w
    · exact ih _ _ (writeCw_memWf _ _ _ _ w)

theorem writeChip_memWf (a : Nat) (bs : List Byte) (poison : Bool) (w : s.memWf) : (writeChip s a bs poison).memWf :=
  writeCws_memWf _ _ _ _ w

theorem writeBlock_memWf (a o : Nat) (bs : List Byte) (poison : Bool) (src : Nat) (w : s.memWf) :
    (writeBlock s a o bs poison src).memWf := by
  unfold writeBlock
  split
  · exact State.memWf_setUpset _ _ (State.memWf_setPoison _ _ (State.memWf_putBytes _ _ w))
  · exact State.memWf_setUpset _ _ (State.memWf_setPoison _ _ (State.memWf_putBytes _ _
      (State.memWf_of_onlyLogs (readBlock_onlyLogs s a src) w)))

theorem writeBlocks_memWf (poison : Bool) (src n a : Nat) (bs : List Byte) (w : s.memWf) :
    (writeBlocks s poison src n a bs).memWf := by
  induction n generalizing s a bs with
  | zero => exact w
  | succ n ih =>
    unfold writeBlocks
    split
    · exact w
    · refine ih _ _ ?_
      split
      · exact w
      · exact writeBlock_memWf _ _ _ _ _ w

theorem writeHyper_memWf (a : Nat) (bs : List Byte) (poison : Bool) (src : Nat) (w : s.memWf) :
    (writeHyper s a bs poison src).memWf := writeBlocks_memWf _ _ _ _ _ w

/-- Every write of on-chip or HyperRAM bytes keeps the canonical form. -/
theorem writeInt_memWf (a : Nat) (bs : List Byte) (poison : Bool) (src : Nat) (w : s.memWf) :
    (writeInt s a bs poison src).memWf := by
  unfold writeInt
  split
  · exact writeHyper_memWf _ _ _ _ w
  · exact writeChip_memWf _ _ _ w

end Sys2Proof.Machine
end

