-- ==== Sys2Proof/Laws/Ops.lean ====
section
/-!
SUPPORT. Laws/Ops.lean: the shared operations, each said once: tiles, casks, words and list-held units after an update, what a
completion adds, and what taking one command comes to.
-/
namespace Sys2Proof.Machine

/-! ## Lists of units -/

@[simp] theorem setNth_length {α : Type} (l : List α) (i : Nat) (x : α) : (setNth l i x).length = l.length := by
  induction l generalizing i with
  | nil => rfl
  | cons y l ih => cases i <;> simp [setNth, ih]

theorem nth_setNth_same {α : Type} (d : α) (l : List α) (i : Nat) (x : α) (h : i < l.length) : nth d (setNth l i x) i = x := by
  induction l generalizing i with
  | nil => simp at h
  | cons y l ih =>
    cases i with
    | zero => rfl
    | succ i => exact ih i (by simpa using h)

theorem nth_setNth_other {α : Type} (d : α) (l : List α) {i j : Nat} (x : α) (h : j ≠ i) : nth d (setNth l i x) j = nth d l j := by
  induction l generalizing i j with
  | nil => rfl
  | cons y l ih =>
    cases i with
    | zero => cases j with
      | zero => exact absurd rfl h
      | succ j => rfl
    | succ i => cases j with
      | zero => rfl
      | succ j => exact ih (by omega)

variable (s : State)

/-! ## Tiles, casks, words -/

theorem tileKey_inj {r q : TileRef} (h : tileKey r = tileKey q) : r = q := by
  obtain ⟨⟨a, ha⟩, ⟨b, hb⟩, ⟨c, hc⟩⟩ := r
  obtain ⟨⟨a', ha'⟩, ⟨b', hb'⟩, ⟨c', hc'⟩⟩ := q
  simp only [tileKey] at h
  have h1 : a = a' := by omega
  have h2 : b = b' := by omega
  have h3 : c = c' := by omega
  subst h1; subst h2; subst h3
  rfl

theorem caskKey_inj {c d : CaskRef} (h : caskKey c = caskKey d) : c = d := by
  obtain ⟨⟨a, ha⟩, ⟨b, hb⟩, ⟨m, hm⟩, ⟨i, hi⟩⟩ := c
  obtain ⟨⟨a', ha'⟩, ⟨b', hb'⟩, ⟨m', hm'⟩, ⟨i', hi'⟩⟩ := d
  simp only [caskKey] at h
  have h1 : a = a' := by omega
  have h2 : b = b' := by omega
  have h3 : m = m' := by omega
  have h4 : i = i' := by omega
  subst h1; subst h2; subst h3; subst h4
  rfl

/-- Tile `q` after tile `r` has been set. -/
theorem State.tile_setTile (r q : TileRef) (x : TileSt) : (s.setTile r x).tile q = if q = r then x else s.tile q := by
  by_cases h : q = r
  · subst h
    simp [State.tile, State.setTile, sget_sset_same]
  · have hk : tileKey q ≠ tileKey r := fun e => h (tileKey_inj e)
    simp [State.tile, State.setTile, h, sget_sset_other _ _ _ hk]

/-- Cask `d` after cask `c` has been set. -/
theorem State.cask_setCask (c d : CaskRef) (x : CaskSt) : (s.setCask c x).cask d = if d = c then x else s.cask d := by
  by_cases h : d = c
  · subst h
    simp [State.cask, State.setCask, sget_sset_same]
  · have hk : caskKey d ≠ caskKey c := fun e => h (caskKey_inj e)
    simp [State.cask, State.setCask, h, sget_sset_other _ _ _ hk]

theorem State.tile_setCask (c : CaskRef) (x : CaskSt) (r : TileRef) : (s.setCask c x).tile r = s.tile r := rfl

theorem State.cask_setTile (r : TileRef) (x : TileSt) (c : CaskRef) : (s.setTile r x).cask c = s.cask c := rfl

/-- Setting one tile changes that tile only. -/
theorem State.onlyTile_setTile (r : TileRef) (x : TileSt) : s.onlyTile (s.setTile r x) r x :=
  ⟨by simp [State.tile_setTile], fun q hq => by simp [State.tile_setTile, hq], State.regsBut_refl _ _, State.sameMem_refl _⟩

/-- The indirect word just written. -/
theorem State.word_setWord_same (sp : Space) (u i : Nat) (v : Word) : (s.setWord sp u i v).word sp u i = v :=
  sget_sset_same zeroW s.words _ v

theorem State.word_setWord_other (sp sp' : Space) (u i u' i' : Nat) (v : Word) (h : wordKey sp' u' i' ≠ wordKey sp u i) :
    (s.setWord sp u i v).word sp' u' i' = s.word sp' u' i' :=
  sget_sset_other zeroW s.words v h

/-! ## Completions and commands -/

/-- A completion with a result joins the entries that wait for ring 1; besides it only the job's first error can change (R330). -/
theorem State.complete_ok (tag op code result : Nat) (irq : Bool) (h : code = 0 ∨ result ≠ 0) :
    s.complete tag op code result irq =
      (s.raise code).mapCp fun c => { c with comps := c.comps ++ [⟨1, tag, op, code, result, irq⟩] } := by
  have h' : ¬ (code ≠ 0 ∧ result = 0) := fun hc => h.elim hc.1 fun hr => hr hc.2
  unfold State.complete
  rw [if_neg h']

theorem State.complete_code0 (tag op result : Nat) (irq : Bool) :
    (s.complete tag op 0 result irq).cp.comps = s.cp.comps ++ [⟨1, tag, op, 0, result, irq⟩] := by
  rw [State.complete_ok s tag op 0 result irq (.inl rfl)]
  unfold State.raise State.note
  split
  · simp at *
  · split <;> rfl

/-- A processor that takes reads the entry, frees it, and takes the command at once (R324, R325); REPLAY_PUSH may have to wait, and PLACE
for a channel that initialises (R349). -/
theorem runCmd_takes (op : Nat) (e : CmdEntry) (data : List Byte) (bad : Nat) (h : s.takes)
    (hr : s.replayFull ⟨op, e, data, bad⟩ = false) (hw : s.placeWaits ⟨op, e, data, bad⟩ = false) :
    runCmd op e data bad s = .next (s.consumed.takeCmd ⟨op, e, data, bad⟩) := by
  obtain ⟨h1, h2, h3, h4, h5⟩ := h
  obtain ⟨c, hc⟩ : ∃ c : Cmd, c = ⟨op, e, data, bad⟩ := ⟨_, rfl⟩
  rw [← hc] at hr hw ⊢
  have hcp : { s.cp with cmds := [] } = s.cp := by
    have := h2
    revert this
    generalize s.cp = x
    intro hx
    cases x
    simp only at hx
    subst hx
    rfl
  have hlt : decide (s.cp.cmds.length < s.ringHeld 0) = true := by simp [h2, h3]
  have hheld : State.cpHeld (s.mapCp fun x => { x with cmds := x.cmds ++ [c] }) = false := by
    have ho : ¬ 48 ≤ s.owed := by omega
    have hr' : State.replayFull (s.mapCp fun x => { x with cmds := x.cmds ++ [c] }) c = false := hr
    have ho' : State.owed (s.mapCp fun x => { x with cmds := x.cmds ++ [c] }) = s.owed := rfl
    simp only [State.cpHeld, ho', State.mapCp_cp, h2, List.nil_append, hr', h4, Option.isNone_none, Bool.true_and,
      Bool.or_false, decide_eq_false_iff_not]
    exact ho
  have hpump : State.pump (s.mapCp fun x => { x with cmds := x.cmds ++ [c] }) = s.consumed.takeCmd c := by
    have hl : (s.mapCp fun x => { x with cmds := x.cmds ++ [c] }).cp.cmds = [c] := by simp [State.mapCp, h2]
    have hs : (s.mapCp fun x => { x with cmds := x.cmds ++ [c] }).cp.serial = none := by simp [State.mapCp, h4]
    have hm : ((s.mapCp fun x => { x with cmds := x.cmds ++ [c] }).mapCp fun x => { x with cmds := [] }) = s := by
      simp only [State.mapCp, hcp]
    have hw' : State.placeWaits (s.mapCp fun x => { x with cmds := x.cmds ++ [c] }) c = false := hw
    unfold State.pump
    rw [hl]
    simp only [List.length_cons, List.length_nil, State.pumpCmds, hl, hs, hheld, hw', Option.isSome_none, Bool.or_self,
      Bool.false_eq_true, if_false, hm, State.consumed]
  unfold runCmd State.command
  rw [← hc, h1, hlt, Bool.and_self, if_pos rfl, hpump]

/-! ## Shapes -/

/-- Units listed in a state are checked, units not listed stand as at reset. -/
theorem shaped_of {s : State}
    (h : (s.ing.cams.length = 4 ∧ s.lin.trg.length = 8 ∧ s.lin.mrk.length = 16 ∧ s.str.chans.length = 16) ∧
      (s.trl.ports.length = 2 ∧ s.trl.egress.length = 16 ∧ s.tx.ingress.length = 16 ∧ s.cp.unsig.length = 5) ∧
      (s.pwr.tel.length = 8 ∧ s.pwr.silent.length = 8 ∧ s.pwr.low.length = 5 ∧ s.hrm.slots.length = 4 ∧ s.fuse.keys.length = 8) ∧
      (∀ x ∈ s.arr.tiles, x.2.stages.length = 5 ∧ x.2.outq.length = 4 ∧ x.2.tokens.length = 4 ∧ x.2.rot.length = 4) ∧
      ∀ x ∈ s.lcRows, x.2.cyc.length = 4) : s.shaped := by
  have get {β : Type} (d : Nat → β) (P : β → Prop) (hd : ∀ k, P (d k)) :
      ∀ m : SMap β, (∀ x ∈ m, P x.2) → ∀ k, P (sget d m k) := by
    intro m
    induction m with
    | nil => exact fun _ k => hd k
    | cons x m ih =>
      intro hm k
      obtain ⟨k', v⟩ := x
      simp only [sget]
      split
      · exact hm (k', v) (by simp)
      · exact ih (fun y hy => hm y (by simp [hy])) k
  refine ⟨h.1, h.2.1, h.2.2.1, fun r => ?_, fun t row => ?_⟩
  · exact get (fun _ => TileSt.init) TileSt.shaped (fun _ => ⟨rfl, rfl, rfl, rfl⟩) s.arr.tiles h.2.2.2.1 (tileKey r)
  · exact get (fun _ => LcRow.init) (fun x => x.cyc.length = 4) (fun _ => rfl) s.lcRows h.2.2.2.2 (t * 9 + row)

/-! ## The code of Trellis frames -/

/-- Zero times anything. -/
theorem gfMulN_zero (n b : Nat) : gfMulN n 0 b = 0 := by
  induction n generalizing b with
  | zero => rfl
  | succ n ih =>
    have h : gfX 0 = 0 := rfl
    simp only [gfMulN, h, ih]
    split <;> rfl

/-- Syndromes 0, 0, 0 and another fit no two errors. -/
theorem frameDecode_bad {pat d : Nat} (hs : ((List.range 4).map fun j => synd (gfPow j) 64 pat 0) = [0, 0, 0, d]) (hd : d ≠ 0) :
    frameDecode pat = .bad := by
  have h0 : ∀ x, gfMul 0 x = 0 := gfMulN_zero 8
  have h1 : ∀ p, frameErrs [0, 0, 0, d] [(0, p)] = false := by
    intro p; simp [frameErrs, h0, nth, List.range_succ]; omega
  have h2 : ∀ p q, frameErrs [0, 0, 0, d] (frameTwo 0 0 p q) = false := by
    intro p q; simp [frameTwo, frameErrs, h0, nth, List.range_succ]; omega
  have e0 : nth 0 [0, 0, 0, d] 0 = 0 := rfl
  have e1 : nth 0 [0, 0, 0, d] 1 = 0 := rfl
  unfold frameDecode
  have f1 : (List.range 64).find? (fun _ => false) = none := List.find?_eq_none.mpr (by simp)
  have f2 : (List.range 64).findSome? (fun p => (List.range p).findSome? fun _ => (none : Option (List (Nat × Nat)))) = none :=
    List.findSome?_eq_none_iff.mpr fun _ _ => List.findSome?_eq_none_iff.mpr fun _ _ => rfl
  simp [hs, e0, e1, h1, h2, f1, f2, hd]

/-- A frame with such a codeword is uncorrectable. -/
theorem decodeFrame_none {pat d : Nat} (f : FrameIn) (l : List Nat) (h : f.err = pat :: l)
    (hs : ((List.range 4).map fun j => synd (gfPow j) 64 pat 0) = [0, 0, 0, d]) (hd : d ≠ 0) : decodeFrame f = none := by
  unfold decodeFrame
  simp [List.range_succ, h, nth, frameDecode_bad hs hd]

end Sys2Proof.Machine
end

