-- ==== Sys2Proof/Tests/Slice0.lean ====
section
/-!
SUPPORT. Tests/Slice0.lean: the model's own tests: a witness for the hypotheses of every statement, ill-formed commands that the check
refuses, and single commands on small states with results taken from the spec.
-/
set_option linter.unusedVariables false
set_option Elab.async false
namespace Sys2Proof.Tests
open Sys2Proof Sys2Proof.Machine

/-! ## Small states -/

/-- State.reset with the registers named set. -/
def withRegs (l : List (Nat × Word)) (s : State) : State := l.foldl (fun s x => s.setReg x.1 x.2) s
/-- A state with the register fields named set. -/
def withFields (l : List (Fld × Nat)) (s : State) : State := l.foldl (fun s x => s.fset x.1 x.2) s
/-- The reset has ended: the boot has released the device. -/
def booted : State := { State.reset with sec := { SecSt.init with released := true } }
/-- Ring 0 enabled with one entry published: the command processor takes a command. -/
def cmdState : State := withRegs [(R.PCI_RING_CFG 0, 0x106), (R.PCI_RING_PROD 0, 1)] booted
/-- The same with the Cellarmaster running. -/
def cmState : State := cmdState.setCm 2
/-- A command entry with tag 5, its irq flag set, and operand bytes from 8 up. -/
def entry (ops : Nat) : CmdEntry := ⟨1, 5, 0, BitVec.ofNat 448 ops⟩
/-- A performance report: patch stride 16 columns, bands of 16 to 256 lines. -/
def smallReport : List Byte := bytesOf 14 0 ++ bytesOf 2 64 ++ bytesOf 2 0 ++ bytesOf 1 16 ++ bytesOf 1 0 ++ bytesOf 44 0
/-- One camera of 64 pixels, Vintage 0 placed with `smallReport`: START_JOB is accepted. -/
def jobState : State :=
  let s := withFields [(F.ING_CAM_CFG_links 0, 1), (F.ING_CAM_CFG_width_m1 0, 63), (F.ING_CAM_POS_trig 0, 15),
    (F.SLC_CFG_own_width_m1, 63), (F.ING_LINK_STATUS_lock, 1), (F.HUB_VNT_STATUS_placed, 1), (F.HUB_SS_R_base 3, 16),
    (F.HUB_SS_R_size 3, 4), (F.HUB_SS_R_base 7, 32), (F.HUB_SS_R_size 7, 1)] cmState
  { s with hrm := { s.hrm with placed := setNth s.hrm.placed 0 { PlacedSt.init with report := smallReport } } }
/-- A job of 64-line bands runs. -/
def running (s : State) : State :=
  { s with job := { s.job with running := true, bandLen := 64 }, arr := { s.arr with clocked := true } }
/-- A descriptor that copies 64 bytes from host address 0 to on-chip address 0. -/
def hostRead : List Word := [0, 63, 0, 0, 0, 0x80, 0, 0, 0, 0, 0, 0, 0, 0, 0, 0]
/-- The array runs in its ac 100. -/
def arrayOn : State := (let s := running State.reset; { s with arr := { s.arr with runAc := 100 } })
/-- Tile `r` stands as `x` at micro-instruction `w`. -/
def atWord (r : TileRef) (w : Word) (x : TileSt) : State :=
  (arrayOn.setWord .param (tileKey r) (x.vint * 0x40 + x.pc) w).setTile r { x with started := true, st := .waiting }
/-- The circuit from MM tile 0's MR0 to MX tile 0's A-in, of latency 3. -/
def mmCircuit : Circuit := ⟨.tile ⟨0, 0, 16⟩ 0, [⟨.row 0 0 0, 2, 0x00120001⟩], [(.tile ⟨0, 0, 0⟩ 0, 3)]⟩
/-- MM tile 0 holds one flit at MR0, and the Slot Table routes it. -/
def mmEmits : State :=
  (arrayOn.setWord .slot 0 0 0x00120001).setTile ⟨0, 0, 16⟩ { TileSt.init with outq := [[⟨100, Flit.zero, none, false⟩], [], [], []] }
/-- The circuit from cask 0 of MM tile 0 to MX tile 0's A-in. -/
def caskCircuit : Circuit := ⟨.cask ⟨0, 0, 0, 0⟩, [⟨.row 0 0 0, 2, 0x00920001⟩], [(.tile ⟨0, 0, 0⟩ 0, 3)]⟩
/-- That cask offers a word of zeros with tag 2 that ends a packet. -/
def caskReads : State :=
  ((arrayOn.setWord .slot 0 0 0x00920001).setWord .desc 0 0 0x80040000).setCask ⟨0, 0, 0, 0⟩
    { CaskSt.init with cnt := 1, wp := 1, side := [⟨false, 2, true, false, false, false, false, 98, caskCircuit⟩] }
/-- An Elastic Vintage whose cycle 31 has a one-group ring at the start of HyperRAM for cask 0. -/
def ringState : State :=
  let s := (withFields [(F.HRM_CH_CFG_devices 0, 1), (F.HUB_VNT_STATUS_elastic, 1)] arrayOn).setHyper 0 2
  ((s.setWord .cycle 0 248 0x10000).setWord .cycle 0 254 1).setWord .desc 0 0 0x80040000
/-- The ring holds one word of zeros for the cask. -/
def heldRing : State :=
  { ringState with mem := [(hyperBase, 1)] }.setCask ⟨0, 0, 0, 0⟩ { CaskSt.init with ringWords := 1, ringTail := 1, ringBase := 0, ringSize := 1 }
/-- A Blend image of one variant without tiles: REPORT, VARIANTS, an empty HUBCFG and a CLASSMAP of zeros; it is unsigned. -/
def tinyImage : List Byte :=
  bytesOf 4 0x444E4C42 ++ bytesOf 2 1 ++ bytesOf 2 0x80 ++ bytesOf 4 1476 ++ bytesOf 4 1476 ++ bytesOf 2 0x6400 ++ bytesOf 2 1 ++
    bytesOf 2 4 ++ bytesOf 2 1 ++ ([LatClass.mx1, .mx2, .mx3, .mx4, .mx5, .sf1, .sf2, .sf3, .mm1, .mm2, .mm3, .mm4, .rk1, .io1, .io2].map
      fun k => BitVec.ofNat 8 (latLevel 1 k)) ++ bytesOf 1 0 ++ bytesOf 16 0 ++ bytesOf 4 128 ++ bytesOf 68 0 ++
    (bytesOf 4 0x10001 ++ bytesOf 4 0 ++ bytesOf 4 192 ++ bytesOf 4 68) ++ (bytesOf 4 0x10002 ++ bytesOf 4 0 ++ bytesOf 4 288 ++ bytesOf 4 80) ++
    (bytesOf 4 0x10020 ++ bytesOf 12 0) ++ (bytesOf 4 0x10021 ++ bytesOf 4 0 ++ bytesOf 4 384 ++ bytesOf 4 1092) ++
    (bytesOf 16 0 ++ bytesOf 2 16 ++ bytesOf 14 0 ++ bytesOf 2 1 ++ bytesOf 34 0) ++ bytesOf 28 0 ++ bytesOf 96 0 ++ bytesOf 1092 0
/-- Slot 3 of a Blend store of 1 MiB slots at the start of HyperRAM; the Cellarmaster runs. -/
def storeState : State :=
  (withFields [(F.HRM_CH_CFG_devices 0, 1), (F.HRM_CH_CFG_density 0, 3), (F.HRM_BSTORE_slot_mib, 1)] cmState).setHyper 0 2
/-- It holds `tinyImage`, read and valid. -/
def heldImage : State :=
  { storeState.putBytes (hyperBase + 3 * 2 ^ 20) tinyImage with
    hrm := { storeState.hrm with slots := setNth storeState.hrm.slots 3 ⟨true, 1476, [], 0, 0⟩ } }

/-- A state changed by a function. -/
def put (s : State) (f : State → State) : State := f s

/-- The root of a running tree of two devices. -/
def rootState : State :=
  put (withFields [(F.TRL_CFG_en, 1)] cmState) fun s => { s with trl := { s.trl with n := 2, phase := 3, dev := 0, root := true } }

/-- Channels without an active descriptor. -/
theorem chan_idle {s : State} (h : s.str.chans.all (·.active.isNone) = true) (n : Nat) : (s.chan n).active = none := by
  have key : ∀ (l : List ChanSt) (n : Nat), l.all (·.active.isNone) = true → (nth ChanSt.init l n).active = none := by
    intro l
    induction l with
    | nil => intro n _; rfl
    | cons c cs ih =>
      intro n h
      simp only [List.all_cons, Bool.and_eq_true] at h
      cases n with
      | zero => exact Option.isNone_iff_eq_none.mp h.1
      | succ n => exact ih n h.2
  exact key _ n h

/-- Is a result no error? -/
def isOk {α β : Type} : Except α β → Bool
  | .ok _ => true
  | .error _ => false
/-- What a result that is no error is. -/
theorem ok_of_isOk {α β : Type} {x : Except α β} (h : isOk x = true) : ∃ y, x = .ok y := by
  cases x with
  | ok y => exact ⟨y, rfl⟩
  | error _ => cases h
/-- What a PLACE of slot 3 into Vintage 1 reads from `heldImage`. -/
def heldRead : Rd :=
  readHyper ((heldImage.placeStart (entry 0x103)).inOrder (hyperBase + (heldImage.slotPlace (placeOps (entry 0x103)).slot).1)
      (nth SlotSt.init heldImage.hrm.slots (placeOps (entry 0x103)).slot).len)
    (hyperBase + (heldImage.slotPlace (placeOps (entry 0x103)).slot).1) (nth SlotSt.init heldImage.hrm.slots (placeOps (entry 0x103)).slot).len 5
/-- It reads the image without poison. -/
theorem heldRead_eq : heldRead = (tinyImage, false, heldRead.2.2) := by decide +kernel
/-- Steps 5 to 8 of that PLACE. -/
def heldStage : Except LdErr (PCtx × List (Nat × List Byte)) :=
  (if (placeOps (entry 0x103)).remap then heldRead.2.2.remapRows (placeOps (entry 0x103)).v (nth 0 (masksOf tinyImage) 0)
    else heldRead.2.2).stagePlace (placeOps (entry 0x103)) tinyImage 0
set_option maxRecDepth 100000 in
/-- They find no error. -/
theorem heldStage_ok : isOk heldStage = true := by decide +kernel

/-! ## Witnesses: the hypotheses of every statement can be met -/

theorem witness_StepRunsTheFrontCommand :
    (∃ (s : State), s.pending = []) :=
  ⟨State.reset, by decide +kernel⟩

theorem witness_StoresStayCanonical :
    (∃ (s : State) (t : State), step s = .next t ∧ s.storesWf) :=
  ⟨{ cmdState with pending := [.heartbeatPacket 1] }, cmdState, rfl, by decide +kernel⟩

theorem witness_UnitsStayInNumber :
    (∃ (s : State) (t : State), s.shaped ∧ step s = .next t) :=
  ⟨{ cmdState with pending := [.heartbeatPacket 1] }, cmdState, shaped_of (by decide +kernel), rfl⟩

theorem witness_FusesOnlyBurn :
    (∃ (s : State) (t : State), step s = .next t) :=
  ⟨{ cmdState with pending := [.heartbeatPacket 1] }, cmdState, rfl⟩

theorem witness_NopCompletes :
    (∃ (e : CmdEntry) (s : State), s.takes ∧ e.flags.toNat < 2 ∧ e.rsv = 0 ∧ e.ops.toNat < 2 ^ 64) :=
  ⟨entry 0xABCD, cmdState, by decide +kernel⟩

theorem witness_MalformedCommandRefused :
    (∃ (e : CmdEntry) (s : State) (x : Nat × Instr), s.takes ∧ x = (15, .attest e) ∧ (reservedSet ⟨x.1, e, [], 0⟩ = true ∨ outOfRange
      ⟨x.1, e, [], 0⟩ = true)) :=
  ⟨⟨3, 5, 0, 0⟩, cmdState, _, by decide +kernel, rfl, by decide +kernel⟩

theorem witness_PowerCommandsComplete :
    (∃ (e : CmdEntry) (s : State), s.takes ∧ malformed ⟨8, e, [], 0⟩ = false) ∧
    (∃ (e : CmdEntry) (s : State), s.takes ∧ malformed ⟨7, e, [], 0⟩ = false) :=
  ⟨⟨entry 300, cmdState, by decide +kernel⟩,
    ⟨entry (1 + 2 ^ 32 * 100 + 2 ^ 64 * 16), cmdState, by decide +kernel⟩⟩

theorem witness_FenceWaitsForWrites :
    (∃ (e : CmdEntry) (s : State), s.takes ∧ malformed ⟨6, e, [], 0⟩ = false ∧ s.str.writes = []) ∧
    (∃ (e : CmdEntry) (s : State), s.takes ∧ malformed ⟨6, e, [], 0⟩ = false ∧ s.str.writes ≠ []) ∧
    (∃ (ch : Fin 4) (e : CmdEntry) (w : HyperWr) (n : Nat) (s : State), s.str.writes = [w] ∧ s.chanOf (w.addr - hyperBase) = some ch.val
      ∧ s.chanInit ch = false ∧ s.str.fenceTo = some n ∧ w.no < n ∧ s.cp.serial = some ⟨6, e, [], 0⟩ ∧ s.cp.cmds = [] ∧ w.addr % 32 = 0 ∧
      w.bytes.length = 32 ∧ s.spanOk w.addr 32 = true ∧ s.hitsBstore w.addr 32 = false) ∧
    (∃ (ch : Fin 4) (w : HyperWr) (s : State), s.str.writes = [w] ∧ s.chanOf (w.addr - hyperBase) = some ch.val ∧ s.chanInit ch = true) :=
  ⟨⟨entry 0, cmdState, by decide +kernel⟩,
    ⟨entry 0, { cmdState with str := { StrSt.init with writes := [⟨0, 8, hyperBase, [1], false⟩] } }, by decide +kernel⟩,
    ⟨0, entry 0, ⟨0, 8, hyperBase + 2 ^ 23, List.replicate 32 9, false⟩, 1,
      { storeState with str := { storeState.str with writes := [⟨0, 8, hyperBase + 2 ^ 23, List.replicate 32 9, false⟩], fenceTo := some 1 }, cp := { storeState.cp with serial := some ⟨6, entry 0, [], 0⟩ } },
      by decide +kernel⟩,
    ⟨0, ⟨0, 8, hyperBase, List.replicate 32 9, false⟩, (put (storeState.setHyper 0 1) fun s =>
      { s with str := { s.str with writes := [⟨0, 8, hyperBase, List.replicate 32 9, false⟩] } }), by decide +kernel⟩⟩

theorem witness_StartJobStartsTheFills :
    (∃ (e : CmdEntry) (s : State), s.takes ∧ malformed ⟨3, e, [], 0⟩ = false ∧ s.consumed.startCode (CmdF e 8 2) = 0) ∧
    (∃ (e : CmdEntry) (s : State), s.takes ∧ malformed ⟨3, e, [], 0⟩ = false ∧ s.consumed.startCode (CmdF e 8 2) ≠ 0) ∧
    (∃ (e : CmdEntry) (s : State), s.job.filling = true ∧ s.pwr.tripped = false ∧ s.job.system = false ∧ s.trl.waitStart = false ∧
      s.cp.serial = some ⟨3, e, [], 0⟩ ∧ s.cp.cmds = []) :=
  ⟨⟨entry 64, jobState, by decide +kernel⟩,
    ⟨entry 17, jobState, by decide +kernel⟩,
    ⟨entry 64,
      { jobState with job := { jobState.job with running := true, filling := true }, cp := { jobState.cp with serial := some ⟨3, entry 64, [], 0⟩ } },
      by decide +kernel⟩⟩

theorem witness_StartedTilesStandAtPcZero :
    (∃ (e : CmdEntry) (s : State) (r : TileRef), s.takes ∧ malformed ⟨3, e, [], 0⟩ = false ∧ s.consumed.startCode (CmdF e 8 2) = 0 ∧
      s.usesTile r s.activeV = true) :=
  ⟨entry 64, withFields [(F.MX_SEQ_CTRL_use_v (tb ⟨0, 0, 0⟩), 1)] jobState, ⟨0, 0, 0⟩, by decide +kernel⟩

theorem witness_EndJobAndSwitchOutsideJob :
    (∃ (e : CmdEntry) (s : State), s.takes ∧ malformed ⟨4, e, [], 0⟩ = false ∧ s.job.running = true ∧ s.job.endReq = none ∧ s.job.system
      = false) ∧
    (∃ (e : CmdEntry) (s : State), s.takes ∧ malformed ⟨4, e, [], 0⟩ = false ∧ s.job.running = false) ∧
    (∃ (e : CmdEntry) (s : State), s.takes ∧ malformed ⟨5, e, [], 0⟩ = false ∧ s.job.running = false ∧ s.isPlaced (CmdF e 8 1) = true ∧
      s.consumed.mapRetired (CmdF e 8 1) = false) ∧
    (∃ (e : CmdEntry) (s : State), s.takes ∧ malformed ⟨5, e, [], 0⟩ = false ∧ s.isPlaced (CmdF e 8 1) = false) :=
  ⟨⟨entry 2, running jobState, by decide +kernel⟩,
    ⟨entry 2, jobState, by decide +kernel⟩,
    ⟨entry 0, jobState, by decide +kernel⟩,
    ⟨entry 3, jobState, by decide +kernel⟩⟩

theorem witness_LoaderCommands :
    (∃ (e : CmdEntry) (s : State), s.takes ∧ malformed ⟨1, e, [], 0⟩ = false ∧ s.cmRuns = true) ∧
    (∃ (e : CmdEntry) (im : List Byte) (bad : Nat) (s : State), s.hrm.loading = some (CmdF e 8 1) ∧ s.cp.serial = some ⟨1, e, [], 0⟩ ∧
      s.cp.cmds = [] ∧ bad ≠ 0) ∧
    (∃ (e : CmdEntry) (im : List Byte) (slot : Nat) (s : State), s.shaped ∧ s.hrm.loading = some slot ∧ slot < 4 ∧ s.cp.serial = some ⟨1,
      e, [], 0⟩ ∧ s.cp.cmds = [] ∧ 0 < (s.slotPlace slot).2 ∧ s.rangeGood (s.slotPlace slot).1 (s.slotPlace slot).2 = true ∧ s.imageBad
      im (CmdF e 12 4) = none ∧ s.waitsInit (hyperBase + (s.slotPlace slot).1) im.length = false ∧ s.str.writes = []) ∧
    (∃ (e : CmdEntry) (s : State), s.takes ∧ malformed ⟨2, e, [], 0⟩ = false ∧ s.cmRuns = true ∧ s.job.running = false ∧ s.placeWaits ⟨2,
      e, [], 0⟩ = false ∧ (nth SlotSt.init s.hrm.slots (CmdF e 8 1)).valid = false ∧
      let k := s.slotPlace (CmdF e 8 1); (0 < (s.slotPlace (CmdF e 8 1)).2 ∧ s.rangeGood (s.slotPlace (CmdF e 8 1)).1 (s.slotPlace (CmdF
          e 8 1)).2 = false)) ∧
    (∃ (e : CmdEntry) (s : State), s.takes ∧ malformed ⟨2, e, [], 0⟩ = false ∧ s.cmRuns = true ∧ s.job.running = false ∧ s.placeWaits ⟨2,
      e, [], 0⟩ = false ∧ (nth SlotSt.init s.hrm.slots (CmdF e 8 1)).valid = false ∧
      let k := s.slotPlace (CmdF e 8 1); (s.slotPlace (CmdF e 8 1)).2 = 0) ∧
    (∃ (e : CmdEntry) (im : List Byte) (k : Nat) (c : PCtx) (ws : List (Nat × List Byte)) (s s1 : State), s.takes ∧ malformed ⟨2, e, [],
      0⟩ = false ∧ s.cmRuns = true ∧ s.job.running = false ∧ s.placeWaits ⟨2, e, [], 0⟩ = false ∧ s.str.fenceTo = none ∧ (nth SlotSt.init
      s.hrm.slots (placeOps e).slot).valid = true ∧ s.rangeGood (s.slotPlace (placeOps e).slot).1 (s.slotPlace (placeOps e).slot).2 =
      true ∧ readHyper ((s.placeStart e).inOrder (hyperBase + (s.slotPlace (placeOps e).slot).1) (nth SlotSt.init s.hrm.slots (placeOps
      e).slot).len) (hyperBase + (s.slotPlace (placeOps e).slot).1) (nth SlotSt.init s.hrm.slots (placeOps e).slot).len 5 = (im, false,
      s1) ∧ s1.latShort (leAt im 0x12 1) = false ∧ s1.pickVariant (placeOps e) (masksOf im) = .ok k ∧ (if (placeOps e).remap then
      s1.remapRows (placeOps e).v (nth 0 (masksOf im) k) else s1).stagePlace (placeOps e) im k = .ok (c, ws)) ∧
    (∃ (e : CmdEntry) (p : PlaceSt) (s : State), s.hrm.placing = some p ∧ s.cp.serial = some ⟨2, e, [], 0⟩ ∧ s.cp.cmds = [] ∧ p.v < 4 ∧
      p.weights = [] ∧ p.casks = [] ∧ p.dropCasks = [] ∧ p.rows = [] ∧ p.touched = false ∧ (nth SlotSt.init s.hrm.slots
      p.rec1.slot).valid = true ∧ p.v ≠ s.activeV ∧ s.pci.d3Wait = false) :=
  ⟨⟨entry 3, cmState, by decide +kernel⟩,
    ⟨entry 3, [], 0x0A10,
      { cmState with hrm := { cmState.hrm with loading := some 3 }, cp := { cmState.cp with serial := some ⟨1, entry 3, [], 0⟩ } },
      by decide +kernel⟩,
    ⟨entry (3 + 2 ^ 32 * 1476), tinyImage, 3,
      { storeState with hrm := { storeState.hrm with loading := some 3 }, cp := { storeState.cp with serial := some ⟨1, entry (3 + 2 ^ 32 * 1476), [], 0⟩ } },
      shaped_of (by decide +kernel), by decide +kernel⟩,
    ⟨entry 3, withFields [(F.HRM_BSTORE_slot_mib, 1)] cmState, by decide +kernel⟩,
    ⟨entry 3, cmState, by decide +kernel⟩,
    (have ⟨x, hx⟩ := ok_of_isOk (x := heldStage) heldStage_ok;
      ⟨entry 0x103, tinyImage, 0, x.1, x.2, heldImage, heldRead.2.2,
      by decide +kernel, by decide +kernel, by decide +kernel, by decide +kernel, by decide +kernel, by decide +kernel,
      by decide +kernel, by decide +kernel, heldRead_eq, by decide +kernel, by decide +kernel, hx⟩),
    ⟨entry 1, ⟨1, [], [], [], [], PlacedSt.init, false, 0, [], false⟩,
      { cmState with hrm := { cmState.hrm with placing := some ⟨1, [], [], [], [], PlacedSt.init, false, 0, [], false⟩, slots := setNth cmState.hrm.slots 0 ⟨true, 4096, [], 1, 1⟩ }, cp := { cmState.cp with serial := some ⟨2, entry 1, [], 0⟩ } },
      by decide +kernel⟩⟩

theorem witness_QueueingCommands :
    (∃ (e : CmdEntry) (data : List Byte) (bad : Nat) (s : State), s.takes ∧ malformed ⟨9, e, data, bad⟩ = false ∧ s.grf.queue = [] ∧
      s.pwr.deferBg = true) ∧
    (∃ (e : CmdEntry) (s : State), s.takes ∧ malformed ⟨0x0A, e, [], 0⟩ = false ∧ s.grf.queue = [] ∧ s.pwr.deferBg = true) ∧
    (∃ (e : CmdEntry) (data : List Byte) (bad : Nat) (s : State), s.takes ∧ malformed ⟨9, e, data, bad⟩ = false ∧ 16 ≤
      s.grf.queue.length) ∧
    (∃ (e : CmdEntry) (s : State), s.takes ∧ malformed ⟨0x0A, e, [], 0⟩ = false ∧ 16 ≤ s.grf.queue.length) ∧
    (∃ (e : CmdEntry) (data : List Byte) (s : State), s.takes ∧ malformed ⟨0x0D, e, data, 0⟩ = false ∧ s.replayJob = true ∧ s.camOn (CmdF
      e 8 1) = true ∧ CmdF e 12 2 ≠ 0 ∧ s.cp.replay.length < 16) :=
  ⟨⟨entry 1, [], 0, { cmState with pwr := { cmState.pwr with deferBg := true } }, by decide +kernel⟩,
    ⟨entry 0, { cmState with pwr := { cmState.pwr with deferBg := true } }, by decide +kernel⟩,
    ⟨entry 1, [], 0,
      { cmState with grf := { cmState.grf with queue := List.replicate 16 ⟨false, 0, false, false, 1, [], 0, 0, none, false, 0, false, false, none⟩ } },
      by decide +kernel⟩,
    ⟨entry 1,
      { cmState with grf := { cmState.grf with queue := List.replicate 16 ⟨false, 0, false, false, 1, [], 0, 0, none, false, 0, false, false, none⟩ } },
      by decide +kernel⟩,
    ⟨entry (2 ^ 32 * 1), [], (put (running jobState) fun s => { s with job := { s.job with replay := true } }), by decide +kernel⟩⟩

theorem witness_BarrierAndSnapshotAlone :
    (∃ (e : CmdEntry) (s : State), s.takes ∧ malformed ⟨0x0B, e, [], 0⟩ = false ∧ s.cp.barrier = none ∧ s.inSystem = false ∧
      s.trl.arrivals = [] ∧ s.fbit F.PWR_LOAM_en = false) ∧
    (∃ (e : CmdEntry) (s : State), s.takes ∧ malformed ⟨0x0C, e, [], 0⟩ = false ∧ s.cp.snap = none ∧ s.inSystem = false ∧ s.trl.arrivals
      = []) :=
  ⟨⟨entry 7, cmState, by decide +kernel⟩,
    ⟨entry 7, cmState, by decide +kernel⟩⟩

theorem witness_QueryAndAttest :
    (∃ (e : CmdEntry) (s : State), s.takes ∧ malformed ⟨0x0E, e, [], 0⟩ = false ∧ s.cmRuns = true ∧ CmdF e 8 1 = 0) ∧
    (∃ (e : CmdEntry) (s : State), s.takes ∧ malformed ⟨0x0E, e, [], 0⟩ = false ∧ s.cmRuns = true ∧ CmdF e 8 1 = 1 ∧
      let bs := (s.placedRec (CmdF e 9 1)).report.take (CmdF e 12 4); s.isPlaced (CmdF e 9 1) = true) ∧
    (∃ (e : CmdEntry) (s : State), s.takes ∧ malformed ⟨0x0E, e, [], 0⟩ = false ∧ s.cmRuns = true ∧ CmdF e 8 1 = 1 ∧
      let bs := (s.placedRec (CmdF e 9 1)).report.take (CmdF e 12 4); s.isPlaced (CmdF e 9 1) = false) ∧
    (∃ (e : CmdEntry) (s : State), s.takes ∧ malformed ⟨0x0E, e, [], 0⟩ = false ∧ s.cmRuns = true ∧ CmdF e 8 1 = 2) ∧
    (∃ (e : CmdEntry) (s : State), s.takes ∧ malformed ⟨0x0F, e, [], 0⟩ = false ∧ s.cmRuns = true ∧ s.cp.attest = none ∧ (s.fuse.lc = 1 ∨
      s.fuse.lc = 2) ∧ s.idBank.isSome = true ∧ 8240 ≤ CmdF e 48 4) ∧
    (∃ (a : AttestSt) (s : State), s.cp.attest = some a) :=
  ⟨⟨entry 0, cmState, by decide +kernel⟩,
    ⟨entry (1 + 2 ^ 32 * 100), jobState, by decide +kernel⟩,
    ⟨entry (1 + 2 ^ 32 * 100), cmState, by decide +kernel⟩,
    ⟨entry (2 + 2 ^ 32), cmState, by decide +kernel⟩,
    ⟨entry (2 ^ (8 * 40) * 8240), (put cmState fun s =>
      { s with fuse := { s.fuse with lc := 1, banks := 1, idSeed := [[1]], bankOk := [true] } }), by decide +kernel⟩,
    ⟨⟨5, true, 0x1000, []⟩, { cmState with cp := { cmState.cp with attest := some ⟨5, true, 0x1000, []⟩ } }, by decide +kernel⟩⟩

theorem witness_RegisterWriteByAccessCodes :
    (∃ (src : AccSrc) (o : Nat) (v : Word) (env : WriteEnv) (s : State), src ≠ .config ∧ s.rstRank = 0 ∧ s.barred src o = none ∧ s.sealed
      = false ∧ o < 0x8000 ∧ o % 4 = 0 ∧ (regAt o).isSome = true ∧ (s.job.running && jobLocked o) = false ∧ o ∉ [R.HUB_IRQ_MASK,
      R.HUB_PRB_CTRL, R.HUB_RST_CTRL, R.HUB_PRB_DATA_HI, R.HUB_DLD_STATUS]) :=
  ⟨.bar0, R.HUB_SS_R 3, 0xFFFFFFFF, ⟨0, [], 0⟩, State.reset, by decide +kernel⟩

theorem witness_ReadsLatchAndClear :
    (∃ (src : AccSrc) (o : Nat) (s : State), src ≠ .bar4 ∧ src ≠ .config ∧ s.rstRank = 0 ∧ s.barred src o = none ∧ isLow o = true ∧
      (s.cp.latch.find? fun y => y.1 == o) = none) ∧
    (∃ (src : AccSrc) (o : Nat) (w : Word) (s : State), src ≠ .bar4 ∧ src ≠ .config ∧ s.rstRank = 0 ∧ s.barred src o = none ∧ o % 4 = 0 ∧
      s.indOf o = none ∧ (s.cp.latch.find? fun y => y.1 == o) = some (o, w)) ∧
    (∃ (src : AccSrc) (o : Nat) (s : State), src ≠ .bar4 ∧ src ≠ .config ∧ s.rstRank = 0 ∧ s.barred src o = none ∧ o % 4 = 0 ∧ s.indOf o
      = none ∧ isLow o = false ∧ (s.cp.latch.find? fun y => y.1 == o) = none) :=
  ⟨⟨.bar0, 0x50018, withRegs [(0x50018, 5), (0x5001C, 9)] State.reset, by decide +kernel⟩,
    ⟨.bar0, 0x5001C, 7, { State.reset with cp := { State.reset.cp with latch := [(0x5001C, 7)] } }, by decide +kernel⟩,
    ⟨.bar0, R.PWR_EVENT, withRegs [(R.PWR_EVENT, 0xFFFFFFFF)] State.reset, by decide +kernel⟩⟩

theorem witness_IndirectWriteAndAutoinc :
    (∃ (src : AccSrc) (o : Nat) (u : Nat) (i : Nat) (addr : Nat) (width : Nat) (sp : Space) (vo : Option Nat) (v : Word) (s : State),
      s.rstRank = 0 ∧ s.barred src o = none ∧ o % 4 = 0 ∧ s.job.running = false ∧ s.hrm.placing = none ∧ s.indOf o = some ⟨addr, width,
      .word sp u i vo⟩ ∧ sp ≠ .probe ∧ s.upsetAt (wordCw sp u i) = 0) :=
  ⟨.bar0, R.VRD_CMAP_DATA, 3, 272, R.VRD_CMAP_ADDR, 9, .cmap, some 3, 0x12345678, withRegs [(R.VRD_CMAP_ADDR, 0x80000710),
    (R.HUB_VNT_STATUS, 0xF00)] State.reset, by decide +kernel⟩

theorem witness_BadAccessesAreLogged :
    (∃ (write : Bool) (off : Nat) (len : Nat) (s : State), s.rstRank = 0 ∧ (len ≠ 4 ∨ off % 4 ≠ 0) ∧ s.fbit F.HUB_VIOL_INFO_valid = false
      ∧ off < 2 ^ 20) ∧
    (∃ (write : Bool) (off : Nat) (r : Nat) (s : State), s.rstRank = 0 ∧ off % 4 = 0 ∧ s.barred .bar0 off = some r ∧ s.fbit
      F.HUB_VIOL_INFO_valid = false ∧ off < 2 ^ 20) ∧
    (∃ (off : Nat) (s : State), placeOf off = .unmapped) ∧
    (∃ (off : Nat) (len : Nat) (s : State), s.rstRank = 0 ∧ 0 < len ∧ s.pwr.park = false ∧ s.bar2Ok off len = false ∧ s.fbit
      F.HUB_VIOL_INFO_valid = false) ∧
    (∃ (off : Nat) (v : Word) (s : State), s.rstRank = 0 ∧ isBell off = true ∧ s.bellOk (off / 4) v = false ∧ s.fbit
      F.HUB_VIOL_INFO_valid = false) :=
  ⟨⟨false, 0xFFFFF, 2, State.reset, by decide +kernel⟩,
    ⟨true, 0x10000, 0, withFields [(F.PWR_STATE_cause, 2)] { State.reset with pwr := { PwrSt.init with park := true } },
      by decide +kernel⟩,
    ⟨0x100000, State.reset, by decide +kernel⟩,
    ⟨0xFFFFFF, 2, State.reset, by decide +kernel⟩,
    ⟨0x10, 1, State.reset, by decide +kernel⟩⟩

theorem witness_ApertureReadsAndWrites :
    (∃ (off : Nat) (len : Nat) (s : State), (∀ a, s.upsetAt a = 0) ∧ s.rstRank = 0 ∧ 0 < len ∧ s.pwr.park = false ∧ s.bar2Ok off len =
      true) ∧
    (∃ (off : Nat) (bs : List Byte) (s : State), s.rstRank = 0 ∧ bs.length = 8 ∧ off % 8 = 0 ∧ s.pwr.park = false ∧ s.bar2Ok off 8 = true
      ∧ s.job.running = false) :=
  ⟨⟨0xFF0001, 13, withFields [(F.PCI_BAR2_WIN_en, 1), (F.PCI_BAR2_WIN_base, 0xF0), (F.PCI_BAR2_WIN_size, 16)] State.reset,
      State.upsetAt_of_nil (by decide +kernel), by decide +kernel⟩,
    ⟨0xFFFFF8, [1, 2, 3, 4, 5, 6, 7, 8], withFields [(F.PCI_BAR2_WIN_en, 1), (F.PCI_BAR2_WIN_base, 0xF0), (F.PCI_BAR2_WIN_size, 16)]
      State.reset, by decide +kernel⟩⟩

theorem witness_HostRings :
    (∃ (off : Nat) (v : Word) (s : State), s.rstRank = 0 ∧ isBell off = true ∧ 0 < off ∧ s.bellOk (off / 4) v = true) ∧
    (∃ (r : Fin 5) (v : Word) (s : State), s.hostOk (R.PCI_RING_CFG r) ∧ s.ringOn r = false ∧ bitW v 8 = true ∧ 6 ≤ bitsW v 0 5 ∧ bitsW v
      0 5 ≤ 16) ∧
    (∃ (r : Fin 5) (v : Word) (s : State), s.hostOk (R.PCI_RING_CFG r) ∧ s.ringOn r = true ∧ bitW v 8 = false ∧ bitsW v 0 5 = s.fget
      (F.PCI_RING_CFG_log2size r) ∧ r = 0) ∧
    (∃ (k : Fin 6) (s : State), s.hostOk R.HUB_IRQ_MASK ∧ s.reg R.HUB_IRQ_MASK = 0 ∧ bitN (s.fget irqBits) k = true ∧ s.masked (irqVector
      k) = false) :=
  ⟨⟨0x10, 3, withRegs [(R.PCI_RING_CFG 4, 0x106), (R.PCI_RING_PROD 4, 5)] State.reset, by decide +kernel⟩,
    ⟨4, 0x110, State.reset, by decide +kernel⟩,
    ⟨0, 6, cmdState, by decide +kernel⟩,
    ⟨5, (put (withFields [(irqBits, 0x3F)] State.reset) fun s => { s with pci := { s.pci with msiEn := true } }), by decide +kernel⟩⟩

theorem witness_ColdResetKeepsOnlyFuses :
    (∃ (failed : List (Fin 4 × Fin 8)) (s : State), s.rstLevel < 4) ∧
    (∃ (failed : List (Fin 4 × Fin 8)) (s : State), s.sec.off = false) :=
  ⟨⟨[], running jobState, by decide +kernel⟩,
    ⟨[], running jobState, by decide +kernel⟩⟩

theorem witness_WarmResetAndFlr :
    (∃ (failed : List (Fin 4 × Fin 8)) (s : State), s.rstLevel = 0 ∧ s.tooHot = false ∧ (s.pwr.park && s.pwr.dpd) = false) ∧
    (∃ (failed : List (Fin 4 × Fin 8)) (s : State), s.rstLevel = 0 ∧ s.pwr.park = false) :=
  ⟨⟨[], running jobState, by decide +kernel⟩,
    ⟨[], running jobState, by decide +kernel⟩⟩

theorem witness_ArrayResetReturnsClassV :
    (∃ (failed : List (Fin 4 × Fin 8)) (s : State), s.rstLevel = 0 ∧ s.storesWf ∧ s.job.running = true) ∧
    (∃ (failed : List (Fin 4 × Fin 8)) (s : State), s.rstLevel = 0 ∧ s.storesWf ∧ s.grf.wait = [] ∧ s.grf.queue = [] ∧ s.pwr.settle =
      false ∧ s.wanted = s.binNow ∧ s.job.running = false) :=
  ⟨⟨[], withFields [(F.HUB_ECC_HUB_corr, 3)] (running jobState), by decide +kernel⟩,
    ⟨[], withFields [(F.HUB_ECC_HUB_corr, 3)] jobState, by decide +kernel⟩⟩

theorem witness_CellarmasterAndBoot :
    (∃ (s : State), s.rstLevel = 0 ∧ s.sec.restart = false ∧ s.cp.serial = none ∧ s.cp.attest = none ∧ s.cp.cmds = [] ∧ s.hrm.placing =
      none ∧ s.pci.d3Wait = false) ∧
    (∃ (c : Cmd) (s : State), s.rstLevel = 0 ∧ s.sec.restart = false ∧ s.pci.d3Wait = false ∧ s.cp.serial = some c ∧ (c.op = 1 ∨ c.op =
      2) ∧ s.cp.attest = none ∧ s.cp.cmds = []) ∧
    (∃ (s : State), s.rstLevel = 0 ∧ s.sec.restart = false ∧ s.cp.serial = none ∧ s.cp.attest = none ∧ s.cp.cmds = [] ∧ s.pci.d3Wait =
      false ∧ s.fget F.HUB_CM_WDT_timeout_ms ≠ 0 ∧ s.cmRuns = true ∧ s.fbit F.SEC_ERR_valid = false) ∧
    (∃ (s : State), s.rstHeld = true) ∧
    (∃ (s : State), s.rstHeld = false ∧ s.sec.released = false ∧ s.sec.restart = false ∧ bootHeadOk (s.flashBytes 0 64) = false ∧
      bootHeadOk (s.flashBytes 0x2000000 64) = false ∧ s.fbit F.SEC_ERR_valid = false) ∧
    (∃ (s : State), s.rstHeld = false ∧ s.sec.released = false ∧ s.sec.restart = false ∧ bitN s.sec.wipeDone s.fuse.lc = true) ∧
    (∃ (s : State), s.rstHeld = false ∧ s.sec.released = true ∧ s.sec.restart = true) :=
  ⟨⟨booted, by decide +kernel⟩,
    ⟨⟨2, entry 1, [], 0⟩, { cmState with cp := { cmState.cp with serial := some ⟨2, entry 1, [], 0⟩ } }, by decide +kernel⟩,
    ⟨withFields [(F.HUB_CM_WDT_timeout_ms, 100)] cmState, by decide +kernel⟩,
    ⟨{ State.reset with sec := { SecSt.init with testEn := true } }, by decide +kernel⟩,
    ⟨State.reset, by decide +kernel⟩,
    ⟨{ State.reset with sec := { SecSt.init with wipeDone := 1 } }, by decide +kernel⟩,
    ⟨{ State.reset with sec := { SecSt.init with released := true, restart := true } }, by decide +kernel⟩⟩

theorem witness_WipeAndHoldsEnd :
    (∃ (s : State), s.sec.trans = none) ∧
    (∃ (t : Fin 4) (row : Fin 9) (s : State), (s.lcRow t row).go = true ∧ (s.lcRow t row).stage < 3 ∧ s.pwr.park = false ∧ (∃ g < 4,
      s.treeRuns t g = true) ∧ (∀ g < 4, s.treeRuns t g = true → 64 ≤ nth 0 (s.lcRow t row).cyc g)) :=
  ⟨⟨{ State.reset with sec := { State.reset.sec with wiping := true } }, by decide +kernel⟩,
    ⟨3, 8, withFields [(F.TER_LC_TREE_V_src 3 0 0, 0)] (State.reset.setLcRow 3 8
      { LcRow.init with go := true, stage := 2, cyc := [64, 64, 64, 64] }), by decide +kernel⟩⟩

theorem witness_ParkEntryAndExit :
    (∃ (s : State), s.pwr.park = false ∧ s.pci.d3 = false ∧ s.hrm.placing = none ∧ s.job.running = true ∧ s.ringFree 1 = false) ∧
    (∃ (s : State), s.pwr.park = false ∧ s.pci.d3 = false ∧ s.hrm.placing = none ∧ s.job.running = true ∧ s.ringFree 1 = true ∧
      s.cp.comps = []) ∧
    (∃ (failed : List (Fin 4 × Fin 8)) (s : State), s.pwr.park = true ∧ s.fget F.PWR_STATE_cause = 1 ∧ s.pwr.dpd = false) ∧
    (∃ (failed : List (Fin 4 × Fin 8)) (s : State), s.hostOk R.PWR_STATE ∧ s.pwr.park = true ∧ s.fget F.PWR_STATE_cause = 2 ∧
      s.pwr.low.any id = false ∧ s.pwr.dpd = false) :=
  ⟨⟨running jobState, by decide +kernel⟩,
    ⟨withFields [] (running (withRegs [(R.PCI_RING_CFG 1, 0x106)] jobState)), by decide +kernel⟩,
    ⟨[], (put (withFields [(F.PWR_STATE_cause, 1), (F.HRM_CTRL_park_dpd, 1)] State.reset) fun s =>
      { s with pwr := { s.pwr with park := true } }), by decide +kernel⟩,
    ⟨[], (put (withFields [(F.PWR_STATE_cause, 2), (F.HRM_CTRL_park_dpd, 1)] State.reset) fun s =>
      { s with pwr := { s.pwr with park := true } }), by decide +kernel⟩⟩

theorem witness_ParkClosesBlocks :
    (∃ (o : Nat) (v : Word) (env : WriteEnv) (s : State), s.pwr.park = true ∧ s.rstRank = 0 ∧ o % 4 = 0 ∧ parkClosed o = true ∧ s.fbit
      F.HUB_VIOL_INFO_valid = false) ∧
    (∃ (o : Nat) (s : State), s.pwr.park = true ∧ s.rstRank = 0 ∧ o % 4 = 0 ∧ parkClosed o = true ∧ s.fbit F.HUB_VIOL_INFO_valid = false) ∧
    (∃ (off : Nat) (len : Nat) (wr : Option (List (Option Byte))) (s : State), s.pwr.park = true ∧ s.rstRank = 0 ∧ 0 < len ∧ s.fbit
      F.HUB_VIOL_INFO_valid = false) ∧
    (∃ (src : AccSrc) (o : Nat) (s : State), s.pwr.park = true) :=
  ⟨⟨0x2BFFC, 1, ⟨0, [], 0⟩, (put (withFields [(F.PWR_STATE_cause, 2), (F.HRM_CTRL_park_dpd, 1)] State.reset) fun s =>
      { s with pwr := { s.pwr with park := true } }), by decide +kernel⟩,
    ⟨0x2BFFC, (put (withFields [(F.PWR_STATE_cause, 2)] State.reset) fun s => { s with pwr := { s.pwr with park := true } }),
      by decide +kernel⟩,
    ⟨0, 1, some [some 3], (put (withFields [(F.PWR_STATE_cause, 2)] State.reset) fun s => { s with pwr := { s.pwr with park := true } }),
      by decide +kernel⟩,
    ⟨.bar0, 0x10000, (put (withFields [(F.PWR_STATE_cause, 2)] State.reset) fun s => { s with pwr := { s.pwr with park := true } }),
      by decide +kernel⟩⟩

theorem witness_SyncAndCalibration :
    (∃ (s : State), s.hostOk R.TRL_CTRL ∧ s.trl.root = true) ∧
    (∃ (s : State), s.systemJob = false) ∧
    (∃ (s : State), s.systemJob = true ∧ s.fbit F.TRL_ERR_valid = false) ∧
    (∃ (now : Nat) (s : State), s.hostOk R.TRL_CTRL ∧ s.trl.root = true ∧ s.job.running = false) ∧
    (∃ (s : State), s.hostOk R.TRL_CTRL) :=
  ⟨⟨rootState, by decide +kernel⟩,
    ⟨State.reset, by decide +kernel⟩,
    ⟨(put (running rootState) fun s => { s with job := { s.job with system := true } }), by decide +kernel⟩,
    ⟨100, rootState, by decide +kernel⟩,
    ⟨rootState, by decide +kernel⟩⟩

theorem witness_RingBringUp :
    (∃ (v : Word) (root : Fin 64) (s : State), s.hostOk R.TRL_CFG ∧ s.inSystem = false ∧ s.fbit F.PWR_FREQ_boost = false) ∧
    (∃ (p : Fin 2) (chain : Bool) (s : State), s.inSystem = true ∧ s.trl.phase = 1 ∧ s.trl.ports.length = 2 ∧ s.trl.seen.length + 1 ≠
      s.trl.n) ∧
    (∃ (p : Nat) (k : SyncTok) (s : State), s.trl.rxTok = [(p, k)] ∧ k.kind = 1 ∧ s.trl.phase = 2 ∧ s.trl.censusBad = false ∧ k.origin ≠
      s.trl.dev ∧ s.trl.seen = [] ∧ s.trl.chain = false ∧ k.hops = 1 ∧ p < 2 ∧ s.trl.n = 2) ∧
    (∃ (p : Nat) (k : SyncTok) (s : State), s.trl.rxTok = [(p, k)] ∧ k.kind = 1 ∧ s.trl.phase = 2 ∧ s.trl.censusBad = false ∧ k.origin ≠
      s.trl.dev ∧ s.trl.seen = [] ∧ s.trl.chain = false ∧ k.hops = 1 ∧ p < 2 ∧ s.trl.n = 3) ∧
    (∃ (s : State), s.trl.phase = 2 ∧ s.trl.seen.length + 1 ≠ s.trl.n ∧ s.fbit F.TRL_ERR_valid = false) ∧
    (∃ (v : Word) (s : State), s.hostOk R.TRL_RETIRE ∧ bitW v 1 = true) :=
  ⟨⟨1, 0, State.reset, by decide +kernel⟩,
    ⟨1, false, (put (withFields [(F.TRL_CFG_en, 1)] cmState) fun s =>
      { s with trl := { s.trl with n := 2, phase := 1, dev := 0, root := true } }), by decide +kernel⟩,
    ⟨0, ⟨1, 1, 1, 0⟩, (put (put (withFields [(F.TRL_CFG_en, 1)] cmState) fun s =>
      { s with trl := { s.trl with n := 2, phase := 2, dev := 0, root := true } }) fun s =>
      { s with trl := { s.trl with rxTok := [(0, ⟨1, 1, 1, 0⟩)]  } }), by decide +kernel⟩,
    ⟨0, ⟨1, 1, 1, 0⟩, (put (put (withFields [(F.TRL_CFG_en, 1)] cmState) fun s =>
      { s with trl := { s.trl with n := 3, phase := 2, dev := 0, root := true } }) fun s =>
      { s with trl := { s.trl with rxTok := [(0, ⟨1, 1, 1, 0⟩)]  } }), by decide +kernel⟩,
    ⟨(put (withFields [(F.TRL_CFG_en, 1)] cmState) fun s => { s with trl := { s.trl with n := 2, phase := 2, dev := 0, root := true } }),
      by decide +kernel⟩,
    ⟨2, rootState, by decide +kernel⟩⟩

theorem witness_FramesAndSegments :
    (∃ (p : Fin 2) (f : FrameIn) (bs : List Byte) (s : State), s.portUp p = true ∧ decodeFrame f = some (bs, 0) ∧ leAt bs 0 2 ≠ (s.port
      p).next) ∧
    (∃ (p : Fin 2) (f : FrameIn) (bs : List Byte) (n : Nat) (s : State), s.trl.ports.length = 2 ∧ s.portUp p = true ∧ s.trl.phase ≠ 5 ∧
      decodeFrame f = some (bs, n) ∧ leAt bs 0 2 = (s.port p).next) ∧
    (∃ (p : Fin 2) (f : FrameIn) (s : State), s.trl.ports.length = 2 ∧ s.portUp p = true ∧ decodeFrame f = none ∧ s.fbit F.TRL_ERR_valid
      = false) ∧
    (∃ (x : PortSt), x.resend = true ∧ x.again = 0 ∧ x.next < 65536) ∧
    (∃ (p : Fin 2) (s : State), (s.port p).up = true ∧ (s.port p).down = false ∧ (s.port p).retired = false ∧ s.trl.phase ≠ 5 ∧
      s.trl.chain = true ∧ s.trl.repair = none ∧ s.trl.ports.length = 2 ∧ s.fbit F.TRL_ERR_valid = false) ∧
    (∃ (p : Fin 2) (s : State), (s.port p).up = true ∧ (s.port p).down = false ∧ (s.port p).retired = false ∧ s.trl.phase ≠ 5 ∧
      s.trl.chain = false ∧ s.trl.repair = none ∧ s.fbit F.TRL_ERR_valid = false ∧ s.trl.ports.length = 2) :=
  ⟨⟨0, ⟨[1], []⟩, bytesOf 256 1, (put rootState fun s =>
      { s with trl := { s.trl with ports := [{ PortSt.init with up := true }, PortSt.init] } }), by decide +kernel⟩,
    ⟨0, ⟨[], []⟩, bytesOf 256 0, 0, (put rootState fun s =>
      { s with trl := { s.trl with ports := [{ PortSt.init with up := true }, PortSt.init] } }), by decide +kernel⟩,
    ⟨0, ⟨[1], [0x080E0701]⟩, (put rootState fun s =>
      { s with trl := { s.trl with ports := [{ PortSt.init with up := true }, PortSt.init] } }), by decide +kernel, by decide +kernel,
      decodeFrame_none (pat := 0x080E0701) (d := 72) _ [] rfl (by decide +kernel) (by decide), by decide +kernel⟩,
    ⟨{ PortSt.init with up := true, resend := true, next := 65535 }, by decide +kernel⟩,
    ⟨0, (put rootState fun s => { s with trl := { s.trl with chain := true, ports := [{ PortSt.init with up := true }, PortSt.init] } }),
      by decide +kernel⟩,
    ⟨0, (put rootState fun s => { s with trl := { s.trl with ports := [{ PortSt.init with up := true }, PortSt.init] } }),
      by decide +kernel⟩⟩

theorem witness_RemoteMessages :
    (∃ (p : Nat) (m : TrlMsg) (s : State), (∀ a, s.upsetAt a = 0) ∧ s.trl.rxMsg = [(p, m)] ∧ m.kind = 1 ∧ m.aux = m.data.length - 1 ∧ 0 <
      m.data.length ∧ m.addr % 32 + m.data.length ≤ 32 ∧ s.inRegion 6 m.addr m.data.length = true) ∧
    (∃ (p : Nat) (m : TrlMsg) (s : State), s.trl.rxMsg = [(p, m)] ∧ m.kind = 1 ∧ s.inRegion 6 m.addr (m.data.take (bitsN m.aux 0 16 +
      1)).length = false ∧ s.fbit F.HUB_VIOL_INFO_valid = false ∧ s.fbit F.TRL_ERR_valid = false) ∧
    (∃ (p : Nat) (m : TrlMsg) (s : State), (∀ a, s.upsetAt a = 0) ∧ s.trl.rxMsg = [(p, m)] ∧ m.kind = 2 ∧ m.origin ≠ s.trl.dev ∧ bitN
      m.aux 0 = false ∧ bitsN m.aux 32 32 = 0xFFFFFFFF ∧ m.addr % 4 = 0 ∧ m.data.length = 4 ∧ s.inRegion 6 m.addr 4 = true) ∧
    (∃ (p : Nat) (m : TrlMsg) (s : State), s.trl.rxMsg = [(p, m)] ∧ m.kind = 2 ∧ m.origin = s.trl.dev ∧ s.fbit F.TRL_ERR_valid = false) :=
  ⟨⟨0, { kind := 1, dest := 0, origin := 1, addr := 0x1FFFE, aux := 1, data := [0xAA, 0xBB] }, (put (withFields [(F.HUB_SS_R_base 6, 1),
      (F.HUB_SS_R_size 6, 1)] rootState) fun s =>
      { s with trl := { s.trl with rxMsg := [(0, { kind := 1, dest := 0, origin := 1, addr := 0x1FFFE, aux := 1, data := [0xAA, 0xBB] })]  } }),
      State.upsetAt_of_nil (by decide +kernel), by decide +kernel⟩,
    ⟨0, { kind := 1, dest := 0, origin := 1, addr := 0x1FFFF, aux := 1, data := [0xAA, 0xBB] }, (put (withFields [(F.HUB_SS_R_base 6, 1),
      (F.HUB_SS_R_size 6, 1)] rootState) fun s =>
      { s with trl := { s.trl with rxMsg := [(0, { kind := 1, dest := 0, origin := 1, addr := 0x1FFFF, aux := 1, data := [0xAA, 0xBB] })]  } }),
      by decide +kernel⟩,
    ⟨0, { kind := 2, dest := 0, origin := 1, addr := 0x1FFFC, aux := 2 ^ 32 * 0xFFFFFFFF, data := [0xFF, 0xFF, 0xFF, 0xFF] }, (put
      (withFields [(F.HUB_SS_R_base 6, 1), (F.HUB_SS_R_size 6, 1)] rootState) fun s =>
      { s with trl := { s.trl with rxMsg := [(0, { kind := 2, dest := 0, origin := 1, addr := 0x1FFFC, aux := 2 ^ 32 * 0xFFFFFFFF, data := [0xFF, 0xFF, 0xFF, 0xFF] })]  } }),
      State.upsetAt_of_nil (by decide +kernel), by decide +kernel⟩,
    ⟨0, { kind := 2, dest := 0, origin := 0, addr := 0, aux := 0, data := [1, 2, 3, 4] }, (put rootState fun s =>
      { s with trl := { s.trl with rxMsg := [(0, { kind := 2, dest := 0, origin := 0, addr := 0, aux := 0, data := [1, 2, 3, 4] })] } }),
      by decide +kernel⟩⟩

theorem witness_RemoteStreamsAndHalos :
    (∃ (p : Nat) (m : TrlMsg) (s : State), s.trl.rxMsg = [(p, m)] ∧ m.kind = 4 ∧ s.waitsHalo m.addr (bitsN m.aux 0 3) (bitN m.aux 3) =
      true ∧ (m.data.take (bitsN m.aux 8 16)).length = s.fget (if bitN m.aux 3 then F.SLC_HALO_halo_r else F.SLC_HALO_halo_l)) ∧
    (∃ (p : Nat) (m : TrlMsg) (s : State), s.trl.rxMsg = [(p, m)] ∧ m.kind = 4 ∧ (m.data.take (bitsN m.aux 8 16)).length ≠ s.fget (if
      bitN m.aux 3 then F.SLC_HALO_halo_r else F.SLC_HALO_halo_l)) ∧
    (∃ (p : Nat) (m : TrlMsg) (s : State), s.trl.rxMsg = [(p, m)] ∧ m.kind = 5 ∧ s.tx.ingress.length = 16) ∧
    (∃ (p : Nat) (m : TrlMsg) (s : State), s.trl.rxMsg = [(p, m)] ∧ m.kind = 6 ∧ s.trl.egress.length = 16 ∧ (nth ⟨[], 0⟩ s.trl.egress
      (bitsN m.addr 0 4)).q = []) :=
  ⟨⟨0, { kind := 4, dest := 0, origin := 1, addr := 7, aux := 3 + 8 + 512, data := [1, 2] }, (put (withFields [(F.SLC_HALO_halo_r, 2)]
      { rootState with ing := { IngSt.init with lines := [⟨7, 3, [], none, none, 0, true, false, 0⟩] } }) fun s =>
      { s with trl := { s.trl with rxMsg := [(0, { kind := 4, dest := 0, origin := 1, addr := 7, aux := 3 + 8 + 512, data := [1, 2] })]  } }),
      by decide +kernel⟩,
    ⟨0, { kind := 4, dest := 0, origin := 1, addr := 7, aux := 3 + 8 + 512, data := [1, 2] }, (put rootState fun s =>
      { s with trl := { s.trl with rxMsg := [(0, { kind := 4, dest := 0, origin := 1, addr := 7, aux := 3 + 8 + 512, data := [1, 2] })]  } }),
      by decide +kernel⟩,
    ⟨0, { kind := 5, dest := 0, origin := 1, addr := 15, aux := 0, data := List.replicate 64 1 }, (put rootState fun s =>
      { s with trl := { s.trl with rxMsg := [(0, { kind := 5, dest := 0, origin := 1, addr := 15, aux := 0, data := List.replicate 64 1 })]  } }),
      by decide +kernel⟩,
    ⟨0, { kind := 6, dest := 0, origin := 1, addr := 15, aux := 64, data := [] }, (put rootState fun s =>
      { s with trl := { s.trl with rxMsg := [(0, { kind := 6, dest := 0, origin := 1, addr := 15, aux := 64, data := [] })]  } }),
      by decide +kernel⟩⟩

theorem witness_SystemJobTokens :
    (∃ (p : Nat) (k : SyncTok) (s : State), s.trl.rxTok = [(p, k)] ∧ k.kind = 5 ∧ k.hops ≤ 1 ∧ s.job.running = true ∧ s.job.system = true
      ∧ s.trl.waitStart = true ∧ bitsN k.value 80 8 = s.job.bandLen / 16 ∧ s.trl.time < s.trimmed (bitsN k.value 32 48)) ∧
    (∃ (p : Nat) (k : SyncTok) (s : State), s.trl.rxTok = [(p, k)] ∧ k.kind = 5 ∧ k.hops ≤ 1 ∧ s.job.running = true ∧ s.job.system = true
      ∧ s.trl.waitStart = true ∧ bitsN k.value 80 8 = s.job.bandLen / 16 ∧ s.trimmed (bitsN k.value 32 48) ≤ s.trl.time ∧ s.trl.noLines =
      false) ∧
    (∃ (p : Nat) (k : SyncTok) (s : State), s.trl.rxTok = [(p, k)] ∧ k.kind = 5 ∧ k.hops ≤ 1 ∧ s.job.running = true ∧ s.job.system = true
      ∧ s.trl.waitStart = true ∧ bitsN k.value 80 8 ≠ s.job.bandLen / 16 ∧ s.fbit F.TRL_ERR_valid = false) ∧
    (∃ (p : Nat) (k : SyncTok) (s : State), s.trl.rxTok = [(p, k)] ∧ k.kind = 7 ∧ k.hops ≤ 1) ∧
    (∃ (p : Nat) (k : SyncTok) (b : BarrierSt) (s : State), s.trl.rxTok = [(p, k)] ∧ k.kind = 4 ∧ k.hops ≤ 1 ∧ bitsN k.value 32 8 = 0 ∧
      s.cp.barrier = some b ∧ bitsN k.value 0 32 = b.id) ∧
    (∃ (p : Nat) (k : SyncTok) (s : State), s.trl.rxTok = [(p, k)] ∧ k.kind = 3 ∧ s.arrived 2 (bitsN k.value 0 32) (bitsN k.value 32 8) =
      false ∧ bitsN k.value 32 8 < 2 ∧ p < 2) ∧
    (∃ (p : Nat) (now : Nat) (k : SyncTok) (s : State), s.trl.rxTok = [(p, k)] ∧ k.kind = 2 ∧ k.hops ≤ 1 ∧ s.trl.calSent = true) ∧
    (∃ (p : Nat) (now : Nat) (segs : List (Int × Int)) (k : SyncTok) (s : State), s.trl.rxTok = [(p, k)] ∧ k.kind = 2 ∧ k.hops ≤ 1 ∧
      s.trl.calSent = true ∧
      let s1 : State := { s with trl := { s.trl with rxTok := [], calTimes := s.trl.calTimes ++ [(p, bitsN k.value 0 64, now)] } };
      let os := (s1.offsets segs).1.map (· / 2);
      let far := os.any fun x => decide (63 < x - os.foldl min 0); (s1.offsets segs).2 = true ∧ far = false) ∧
    (∃ (p : Nat) (now : Nat) (segs : List (Int × Int)) (k : SyncTok) (s : State), s.trl.rxTok = [(p, k)] ∧ k.kind = 2 ∧ k.hops ≤ 1 ∧
      s.trl.calSent = true ∧
      let s1 : State := { s with trl := { s.trl with rxTok := [], calTimes := s.trl.calTimes ++ [(p, bitsN k.value 0 64, now)] } };
      let os := (s1.offsets segs).1.map (· / 2);
      let far := os.any fun x => decide (63 < x - os.foldl min 0); (s1.offsets segs).2 = false ∨ far = true) ∧
    (∃ (p : Nat) (k : SyncTok) (far : Bool) (s : State), s.trl.rxTok = [(p, k)] ∧ k.kind = 6 ∧ k.hops ≤ 1 ∧ s.systemJob = false) ∧
    (∃ (p : Nat) (k : SyncTok) (far : Bool) (s : State), s.trl.rxTok = [(p, k)] ∧ k.kind = 6 ∧ k.hops ≤ 1 ∧ s.systemJob = true ∧
      s.trl.line0 = none) :=
  ⟨⟨0, ⟨5, 1, 1, 2 ^ 80 * 4 + 2 ^ 88 * 20 + 2 ^ 32 * 5000⟩, (put (put (running rootState) fun s =>
      { s with job := { s.job with system := true }, trl := { s.trl with waitStart := true } }) fun s =>
      { s with trl := { s.trl with rxTok := [(0, ⟨5, 1, 1, 2 ^ 80 * 4 + 2 ^ 88 * 20 + 2 ^ 32 * 5000⟩)]  } }), by decide +kernel⟩,
    ⟨0, ⟨5, 1, 1, 2 ^ 80 * 4 + 2 ^ 88 * 20 + 2 ^ 32 * 5000⟩, (put (put (put (running rootState) fun s =>
      { s with job := { s.job with system := true }, trl := { s.trl with waitStart := true } }) fun s =>
      { s with trl := { s.trl with rxTok := [(0, ⟨5, 1, 1, 2 ^ 80 * 4 + 2 ^ 88 * 20 + 2 ^ 32 * 5000⟩)]  } }) fun s =>
      { s with trl := { s.trl with time := 5000 } }), by decide +kernel⟩,
    ⟨0, ⟨5, 1, 1, 2 ^ 80 * 3 + 2 ^ 88 * 20 + 2 ^ 32 * 5000⟩, (put (put (running rootState) fun s =>
      { s with job := { s.job with system := true }, trl := { s.trl with waitStart := true } }) fun s =>
      { s with trl := { s.trl with rxTok := [(0, ⟨5, 1, 1, 2 ^ 80 * 3 + 2 ^ 88 * 20 + 2 ^ 32 * 5000⟩)]  } }), by decide +kernel⟩,
    ⟨0, ⟨7, 1, 1, 5 + 2 ^ 32 * 9⟩, (put rootState fun s => { s with trl := { s.trl with rxTok := [(0, ⟨7, 1, 1, 5 + 2 ^ 32 * 9⟩)]  } }),
      by decide +kernel⟩,
    ⟨0, ⟨4, 1, 1, 7⟩, ⟨5, true, 7, true, 0, none, none⟩, (put (put rootState fun s =>
      { s with cp := { s.cp with barrier := some ⟨5, true, 7, true, 0, none, none⟩ } }) fun s =>
      { s with trl := { s.trl with rxTok := [(0, ⟨4, 1, 1, 7⟩)]  } }), by decide +kernel⟩,
    ⟨0, ⟨3, 1, 1, 7 + 2 ^ 40⟩, (put rootState fun s => { s with trl := { s.trl with rxTok := [(0, ⟨3, 1, 1, 7 + 2 ^ 40⟩)]  } }),
      by decide +kernel⟩,
    ⟨0, 5, ⟨2, 1, 1, 1000⟩, (put rootState fun s => { s with trl := { s.trl with rxTok := [(0, ⟨2, 1, 1, 1000⟩)] , calSent := true } }),
      by decide +kernel⟩,
    ⟨0, 1004, [], ⟨2, 1, 1, 1000⟩, (put rootState fun s =>
      { s with trl := { s.trl with calSent := true, rxTok := [(0, ⟨2, 1, 1, 1000⟩)] } }), by decide +kernel⟩,
    ⟨0, 5, [], ⟨2, 1, 1, 1000⟩, (put rootState fun s =>
      { s with trl := { s.trl with calSent := true, rxTok := [(0, ⟨2, 1, 1, 1000⟩)] } }), by decide +kernel⟩,
    ⟨0, ⟨6, 1, 1, 1000⟩, false, (put rootState fun s => { s with trl := { s.trl with rxTok := [(0, ⟨6, 1, 1, 1000⟩)]  } }),
      by decide +kernel⟩,
    ⟨0, ⟨6, 1, 1, 1000⟩, true, (put (put (running rootState) fun s =>
      { s with job := { s.job with system := true }, trl := { s.trl with waitStart := true } }) fun s =>
      { s with trl := { s.trl with rxTok := [(0, ⟨6, 1, 1, 1000⟩)]  } }), by decide +kernel⟩⟩

theorem witness_SystemHolds :
    (∃ (p : Nat) (k : SyncTok) (s : State), s.trl.rxTok = [(p, k)] ∧ k.kind = 8 ∧ k.hops ≤ 1 ∧ s.trl.holds = []) ∧
    (∃ (p : Nat) (k : SyncTok) (h : HoldSt) (s : State), s.trl.rxTok = [(p, k)] ∧ k.kind = 9 ∧ k.hops ≤ 1 ∧ s.trl.holds = [h] ∧ h.origin
      = k.origin ∧ h.no = bitsN k.value 48 8 ∧ h.off = none ∧ s.trl.time < s.trimmed (bitsN k.value 0 48)) ∧
    (∃ (now : Nat) (h : HoldSt) (o : Nat) (s : State), s.trl.holds = [h] ∧ h.off = some o ∧ s.trimmed o ≤ now ∧ s.trl.time ≤ now ∧ now <
      2 ^ 64) ∧
    (∃ (now : Nat) (h : HoldSt) (s : State), s.trl.holds = [h] ∧ h.off = none ∧ s.trl.time ≤ now ∧ now < 2 ^ 64 ∧ s.trimmed h.on ≤ now) ∧
    (∃ (now : Nat) (h : HoldSt) (s : State), s.trl.holds = [h] ∧ h.off = none ∧ s.trl.time ≤ now ∧ now < 2 ^ 64 ∧ now < s.trimmed h.on ∧
      h.active = false) :=
  ⟨⟨0, ⟨8, 1, 1, 1000 + 2 ^ 48 * 3⟩, (put rootState fun s =>
      { s with trl := { s.trl with rxTok := [(0, ⟨8, 1, 1, 1000 + 2 ^ 48 * 3⟩)]  } }), by decide +kernel⟩,
    ⟨0, ⟨9, 1, 1, 1000 + 2 ^ 48 * 3⟩, ⟨1, 3, 900, none, false⟩, (put rootState fun s =>
      { s with trl := { s.trl with rxTok := [(0, ⟨9, 1, 1, 1000 + 2 ^ 48 * 3⟩)] , holds := [⟨1, 3, 900, none, false⟩] } }),
      by decide +kernel⟩,
    ⟨1000, ⟨1, 3, 900, some 1000, true⟩, 1000, (put rootState fun s =>
      { s with trl := { s.trl with holds := [⟨1, 3, 900, some 1000, true⟩] } }), by decide +kernel⟩,
    ⟨1000, ⟨1, 3, 1000, none, false⟩, (put rootState fun s => { s with trl := { s.trl with holds := [⟨1, 3, 1000, none, false⟩] } }),
      by decide +kernel⟩,
    ⟨999, ⟨1, 3, 1000, none, false⟩, (put rootState fun s => { s with trl := { s.trl with holds := [⟨1, 3, 1000, none, false⟩] } }),
      by decide +kernel⟩⟩

theorem witness_SystemTicks :
    (∃ (p : Nat) (k : SyncTok) (s : State), s.trl.rxTok = [(p, k)] ∧ k.kind = 0x0A ∧ k.hops ≤ 1 ∧ s.trl.repair = none ∧ s.trl.chain =
      false ∧ s.trl.phase ≠ 5 ∧ s.trl.time < s.trimmed (bitsN k.value 16 48) ∧ s.trl.time < 2 ^ 64) ∧
    (∃ (p : Nat) (k : SyncTok) (s : State), s.trl.rxTok = [(p, k)] ∧ k.kind = 0x0B ∧ k.hops ≤ 1 ∧ s.trl.lastReset ≠ some (bitsN k.value 0
      48) ∧ s.trl.time ≤ s.trimmed (bitsN k.value 0 48)) ∧
    (∃ (p : Nat) (k : SyncTok) (s : State), s.trl.rxTok = [(p, k)] ∧ k.kind = 0x0B ∧ k.hops ≤ 1 ∧ s.trl.lastReset ≠ some (bitsN k.value 0
      48) ∧ s.trimmed (bitsN k.value 0 48) < s.trl.time) ∧
    (∃ (now : Nat) (E : Nat) (bin : Nat) (s : State), s.trl.start = some (E, bin) ∧ s.trl.waitStart = true ∧ s.trl.noLines = false ∧
      s.job.running = true ∧ bin < 32 ∧ s.trl.time ≤ now ∧ now < 2 ^ 64 ∧ s.trimmed E ≤ now) ∧
    (∃ (now : Nat) (E : Nat) (bin : Nat) (s : State), s.trl.start = some (E, bin) ∧ s.trl.waitStart = true ∧ s.trl.noLines = false ∧
      s.job.running = true ∧ bin < 32 ∧ s.trl.time ≤ now ∧ now < 2 ^ 64 ∧ now < s.trimmed E) ∧
    (∃ (s : State), s.trl.start.isSome = true ∧ s.job.running = true ∧ s.job.system = true) ∧
    (∃ (now : Nat) (tick : Nat) (up : Nat) (b : Bool) (s : State), s.trl.repair = some (tick, up, b) ∧ s.isRoot = false ∧ s.trl.time ≤
      now ∧ now < 2 ^ 64 ∧ s.trimmed tick ≤ now) ∧
    (∃ (now : Nat) (tick : Nat) (up : Nat) (b : Bool) (s : State), s.trl.repair = some (tick, up, b) ∧ s.isRoot = false ∧ s.trl.time ≤
      now ∧ now < 2 ^ 64 ∧ now < s.trimmed tick) :=
  ⟨⟨0, ⟨10, 1, 1, 1 + 2 ^ 16 * 9000⟩, (put rootState fun s =>
      { s with trl := { s.trl with rxTok := [(0, ⟨10, 1, 1, 1 + 2 ^ 16 * 9000⟩)]  } }), by decide +kernel⟩,
    ⟨0, ⟨11, 1, 1, 8000⟩, (put rootState fun s => { s with trl := { s.trl with rxTok := [(0, ⟨11, 1, 1, 8000⟩)]  } }), by decide +kernel⟩,
    ⟨0, ⟨11, 1, 1, 8000⟩, (put rootState fun s => { s with trl := { s.trl with rxTok := [(0, ⟨11, 1, 1, 8000⟩)] , time := 8001 } }),
      by decide +kernel⟩,
    ⟨5000, 5000, 20, (put (put (running rootState) fun s =>
      { s with job := { s.job with system := true }, trl := { s.trl with waitStart := true } }) fun s =>
      { s with trl := { s.trl with start := some (5000, 20) } }), by decide +kernel⟩,
    ⟨4999, 5000, 20, (put (put (running rootState) fun s =>
      { s with job := { s.job with system := true }, trl := { s.trl with waitStart := true } }) fun s =>
      { s with trl := { s.trl with start := some (5000, 20) } }), by decide +kernel⟩,
    ⟨(put (put (running rootState) fun s => { s with job := { s.job with system := true }, trl := { s.trl with waitStart := true } }) fun
      s => { s with trl := { s.trl with start := some (5000, 20) } }), by decide +kernel⟩,
    ⟨9000, 9000, 1, false, (put rootState fun s => { s with trl := { s.trl with root := false, repair := some (9000, 1, false) } }),
      by decide +kernel⟩,
    ⟨8999, 9000, 1, false, (put rootState fun s => { s with trl := { s.trl with root := false, repair := some (9000, 1, false) } }),
      by decide +kernel⟩⟩

theorem witness_FrequencyAndLoamWrites :
    (∃ (v : Word) (s : State), s.hostOk R.PWR_FREQ ∧ s.freqCode v ≠ 0 ∧ s.fbit F.PWR_ERR_valid = false) ∧
    (∃ (v : Word) (s : State), bitW v 16 = true ∧ s.inSystem = true) ∧
    (∃ (v : Word) (s : State), (bitW v 16 = false ∨ s.inSystem = false) ∧ (fTopOf v < s.floorBin ∨ 20 < bitsW v 0 5 ∨ ∃ b, s.lowBin =
      some b ∧ b < fTopOf v)) ∧
    (∃ (s : State) (r : TileRef), r ∈ allMx ∧ (s.placedList.any fun w => s.usesTile r w) = true) ∧
    (∃ (v : Word) (s : State), s.hostOk R.PWR_FREQ ∧ s.freqCode v = 0) ∧
    (∃ (v : Word) (s : State), s.hostOk R.PWR_LOAM ∧ s.job.running = false) ∧
    (∃ (v : Word) (s : State), s.hostOk R.PWR_LOAM ∧ s.job.running = true) :=
  ⟨⟨0x10000, rootState, by decide +kernel⟩,
    ⟨0x10000, rootState, by decide +kernel⟩,
    ⟨21, cmState, by decide +kernel⟩,
    ⟨withFields [(F.MX_SEQ_CTRL_use_v (tb ⟨3, 8, 15⟩), 1)] jobState, ⟨3, 8, 15⟩, by decide +kernel⟩,
    ⟨20, jobState, by decide +kernel⟩,
    ⟨0xFFFFFFFF, jobState, by decide +kernel⟩,
    ⟨0xFFFFFFFF, running jobState, by decide +kernel⟩⟩

theorem witness_TelemetrySample :
    (∃ (ans : List RegAnswer) (s : State), s.pwr.tel.length = 8 ∧ s.pwr.silent.length = 8) ∧
    (∃ (s : State), s.fbit F.PWR_ERR_valid = false ∧ s.pwr.silent.length = 8 ∧ nth 0 s.pwr.silent 0 = 9 ∧ s.fbit (F.PWR_REG_present 0) =
      true) :=
  ⟨⟨[some (700, 1000)], withFields [(F.PWR_REG_present 0, 1), (F.PWR_REG_present 7, 1)] (put jobState fun s =>
      { s with pwr := { s.pwr with tel := setNth s.pwr.tel 7 (1200, 500) } }), by decide +kernel⟩,
    ⟨withFields [(F.PWR_REG_present 0, 1)] (put jobState fun s => { s with pwr := { s.pwr with silent := setNth s.pwr.silent 0 9 } }),
      by decide +kernel⟩⟩

theorem witness_ThermalControl :
    (∃ (readings : List Int) (x : Int) (s : State), readings = [x] ∧ 420 ≤ x ∧ x < 2 ^ 15 ∧ s.pwr.warmWait = none ∧ s.pwr.temps = [] ∧
      s.pwr.hot = false ∧ s.fbit F.PWR_ERR_valid = false) ∧
    (∃ (x : Int) (s : State), x < 420 ∧ s.pwr.warmWait = none ∧ s.pwr.temps = []) ∧
    (∃ (readings : List Int) (x : Int) (T : Int) (s : State), maxI readings = some x ∧ maxI ((x :: s.pwr.temps).take 10) = some T ∧ (∀ y
      ∈ readings, -2 ^ 15 ≤ y ∧ y < 2 ^ 15) ∧ (∀ y ∈ s.pwr.temps, -2 ^ 15 ≤ y ∧ y < 2 ^ 15) ∧ s.pwr.warmWait = none) :=
  ⟨⟨[420], 420, jobState, by decide +kernel⟩,
    ⟨419, { jobState with pwr := { jobState.pwr with hot := true } }, by decide +kernel⟩,
    ⟨[-5, 421, 3], 421, 430, { jobState with pwr := { jobState.pwr with temps := [12, 430] } }, by decide +kernel⟩⟩

theorem witness_SuppliesAndSettles :
    (∃ (k : Supply) (s : State), k ≠ 4 ∧ nth false s.pwr.low k = false ∧ s.pwr.settle = false ∧ s.pwr.low.length = 5) ∧
    (∃ (k : Supply) (s : State), k ≠ 4 ∧ nth false s.pwr.low k = true ∧ (setNth s.pwr.low k false).any id = false ∧ s.pwr.settle = true) ∧
    (∃ (s : State), s.pwr.settle = true ∧ s.terLow = false ∧ s.pwr.tail = 0) ∧
    (∃ (failed : List (Fin 4 × Fin 8)) (s : State), s.pwr.low.any id = true ∧ s.fbit F.PWR_SUPPLY_policy = false ∧ s.pwr.park = false ∧
      s.fbit F.PWR_ERR_valid = false) :=
  ⟨⟨3, jobState, by decide +kernel⟩,
    ⟨3, { jobState with pwr := { jobState.pwr with low := [false, false, false, true, false], settle := true } }, by decide +kernel⟩,
    ⟨withFields [(F.HUB_HOLD_STATUS_settle, 1)] { jobState with pwr := { jobState.pwr with settle := true } }, by decide +kernel⟩,
    ⟨[], (put (running jobState) fun s => { s with pwr := { s.pwr with low := [true, false, false, false, false] } }), by decide +kernel⟩⟩

theorem witness_ClockAndFiller :
    (∃ (bin : Nat) (s : State), s.pwr.window = some (0, bin) ∧ bin < 32) ∧
    (∃ (s : State), (∀ bin, s.pwr.window ≠ some (0, bin))) ∧
    (∃ (s : State), s.pwr.ramp = 1) ∧
    (∃ (s : State), s.pwr.hint = none) ∧
    (∃ (phase : Nat) (b : Nat) (n : Nat) (s : State), s.pwr.hint = some (phase, b, n)) :=
  ⟨⟨31, withFields [(F.HUB_HOLD_STATUS_freq, 1)] { jobState with pwr := { jobState.pwr with window := some (0, 31) } },
      by decide +kernel⟩,
    ⟨jobState, (fun _ h => nomatch (show (none : Option (Nat × Nat)) = some _ from h))⟩,
    ⟨withFields [(F.PWR_LOAM_active, 1)] { jobState with pwr := { jobState.pwr with ramp := 1 } }, by decide +kernel⟩,
    ⟨jobState, by decide +kernel⟩,
    ⟨2, 10, 5, { jobState with pwr := { jobState.pwr with hint := some (2, 10, 5) } }, by decide +kernel⟩⟩

theorem witness_StreamGoAndStop :
    (∃ (n : Fin 8) (s : State), s.hostOk (R.STR_CH_CTRL (8 + n)) ∧ s.descCode (s.staged16 (8 + n)) = 0 ∧ (s.chan (8 + n)).active = none ∧
      s.str.chans.length = 16) ∧
    (∃ (n : Fin 8) (s : State), s.hostOk (R.STR_CH_CTRL (8 + n)) ∧ s.descCode (s.staged16 (8 + n)) = 0 ∧ (s.chan (8 + n)).active.isSome =
      true ∧ (s.chan (8 + n)).halted = false ∧ (s.chan (8 + n)).shadow = none ∧ s.str.chans.length = 16) ∧
    (∃ (n : Fin 8) (s : State), s.hostOk (R.STR_CH_CTRL (8 + n)) ∧ s.descCode (s.staged16 (8 + n)) = 0 ∧ (s.chan (8 + n)).active.isSome =
      true ∧ (s.chan (8 + n)).halted = false ∧ (s.chan (8 + n)).shadow.isSome = true ∧ s.fbit (F.STR_CH_ERR_valid (8 + n)) = false) ∧
    (∃ (n : Fin 8) (s : State), s.hostOk (R.STR_CH_CTRL (8 + n)) ∧ (s.chan (8 + n)).active.isSome = true ∧ (s.chan (8 + n)).halted =
      false ∧ (s.chan (8 + n)).fence = []) :=
  ⟨⟨7, cmState, by decide +kernel⟩,
    ⟨7, (put cmState fun s =>
      { s with str := { s.str with chans := setNth s.str.chans 15 ({ ChanSt.init with active := some (List.replicate 16 0) }) } }),
      by decide +kernel⟩,
    ⟨7, (put cmState fun s =>
      { s with str := { s.str with chans := setNth s.str.chans 15 ({ ChanSt.init with active := some (List.replicate 16 0), shadow := some (List.replicate 16 0) }) } }),
      by decide +kernel⟩,
    ⟨7, (put cmState fun s =>
      { s with str := { s.str with chans := setNth s.str.chans 15 ({ ChanSt.init with active := some (List.replicate 16 0) }) } }),
      by decide +kernel⟩⟩

theorem witness_StreamMoves :
    (∃ (n : Fin 16) (d : DescW) (s : State), s.str.chans.length = 16 ∧ 8 ≤ n.val ∧ s.pwr.park = false ∧ s.rstRank = 0 ∧ (s.chan n).active
      = some d ∧ (s.chan n).walk.done = false ∧ s.burstReady n = true ∧ s.outranked n (burstClass d (s.chan n).walk) = false ∧ (burstSrcs
      d (s.runLen d (s.chan n).walk) (runAt d (s.chan n).walk).1 (s.chan n).walk.off ((s.pace n d).burstLen d (s.chan n).walk)).all
      isHost = true ∧ s.pace n d = s) ∧
    (∃ (n : Fin 16) (q : ReadReq) (qs : List ReadReq) (s : State), s.str.chans.length = 16 ∧ (s.chan n).reads = q :: qs ∧ s.fbit
      (F.STR_CH_ERR_valid n) = false) ∧
    (∃ (n : Fin 16) (d : DescW) (q : ReadReq) (qs : List ReadReq) (s : State), (s.chan n).active = some d ∧ (s.chan n).reads = q :: qs ∧
      q.barrier = true) ∧
    (∃ (n : Fin 16) (d : DescW) (q : ReadReq) (qs : List ReadReq) (bs : List Byte) (s : State), s.str.chans.length = 16 ∧ (s.chan
      n).active = some d ∧ (s.chan n).reads = q :: qs ∧ q.barrier = false ∧ q.srcs.all isHost = true ∧ bs.length = q.srcs.length ∧
      s.writeTag q.dst = true ∧ inHyper q.dst = true ∧ s.waitsInit q.dst q.n = false ∧ s.dstOk q.dst q.n = true) ∧
    (∃ (n : Fin 16) (d : DescW) (next : List Word) (s : State), s.str.chans.length = 16 ∧ n ≠ 6 ∧ (s.chan n).active = some d ∧ s.descDone
      n d = true ∧ dBit d 11 = false ∧ (s.chan n).stop = true) ∧
    (∃ (n : Fin 16) (d : DescW) (e : DescW) (next : List Word) (s : State), s.str.chans.length = 16 ∧ n ≠ 6 ∧ (s.chan n).active = some d
      ∧ s.descDone n d = true ∧ dBit d 11 = false ∧ (s.chan n).stop = false ∧ (s.chan n).shadow = some e) :=
  ⟨⟨15, hostRead, (put cmState fun s =>
      { s with str := { s.str with chans := setNth s.str.chans 15 ({ ChanSt.init with active := some hostRead, total := 64 }) } }),
      by decide +kernel⟩,
    ⟨15, ⟨[0x8000000000], 0x1000, 1, Walk.init, false⟩, [], (put cmState fun s =>
      { s with str := { s.str with chans := setNth s.str.chans 15 ({ ChanSt.init with active := some hostRead, reads := [⟨[0x8000000000], 0x1000, 1, Walk.init, false⟩] }) } }),
      by decide +kernel⟩,
    ⟨15, hostRead, ⟨[0x8000000000], 0x1000, 1, Walk.init, true⟩, [], (put cmState fun s =>
      { s with str := { s.str with chans := setNth s.str.chans 15 ({ ChanSt.init with active := some hostRead, reads := [⟨[0x8000000000], 0x1000, 1, Walk.init, true⟩] }) } }),
      by decide +kernel⟩,
    ⟨15, hostRead, ⟨[0x8000000000, 0x8000000001], hyperBase + 2 ^ 23, 2, Walk.init, false⟩, [], [0xAA, 0xBB], (put storeState fun s =>
      { s with str := { s.str with chans := setNth s.str.chans 15 { ChanSt.init with active := some hostRead, total := 2, reads := [⟨[0x8000000000, 0x8000000001], hyperBase + 2 ^ 23, 2, Walk.init, false⟩] } } }),
      by decide +kernel⟩,
    ⟨15, hostRead, [], (put cmState fun s =>
      { s with str := { s.str with chans := setNth s.str.chans 15 ({ ChanSt.init with active := some hostRead, walk := { Walk.init with done := true }, stop := true }) } }),
      by decide +kernel⟩,
    ⟨15, hostRead, hostRead, [], (put cmState fun s =>
      { s with str := { s.str with chans := setNth s.str.chans 15 ({ ChanSt.init with active := some hostRead, walk := { Walk.init with done := true }, shadow := some hostRead }) } }),
      by decide +kernel⟩⟩

theorem witness_RingWrites :
    (∃ (c : Comp) (cs : List Comp) (s : State), s.rstRank = 0 ∧ s.pci.d3 = false ∧ s.cp.comps = c :: cs ∧ s.ringFree 1 = true ∧ s.cp.cmds
      = []) ∧
    (∃ (r : Fin 5) (s : State), 0 < r.val ∧ 0 < nth 0 s.cp.unsig r ∧ s.fget (F.PCI_RING_IRQ_time_us r) ≠ 0 ∧ s.masked r = false ∧
      s.cp.unsig.length = 5) :=
  ⟨⟨⟨1, 5, 0, 0, 7, true⟩, [], withRegs [(R.PCI_RING_CFG 1, 0x106), (R.PCI_RING_BASE_LO 1, 0x1000), (R.PCI_RING_PROD 1, 63)]
      { cmState with cp := { cmState.cp with comps := [⟨1, 5, 0, 0, 7, true⟩] } }, by decide +kernel⟩,
    ⟨4, withFields [(F.PCI_RING_IRQ_time_us 4, 10)]
      { cmState with cp := { cmState.cp with unsig := [0, 0, 0, 0, 2] }, pci := { cmState.pci with msiEn := true } }, by decide +kernel⟩⟩

theorem witness_InterruptVectors :
    (∃ (k : Fin 6) (s : State), s.masked (irqVector k) = false ∧ bitN (s.fget irqBits) k = false) ∧
    (∃ (k : Fin 6) (s : State), bitN (s.fget irqBits) k = true) ∧
    (∃ (k : Fin 6) (s : State), s.hostOk R.HUB_IRQ_MASK ∧ bitW (s.reg R.HUB_IRQ_MASK) k = false) :=
  ⟨⟨5, { cmState with pci := { cmState.pci with msiEn := true } }, by decide +kernel⟩,
    ⟨5, withFields [(irqBits, 0x20)] cmState, by decide +kernel⟩,
    ⟨5, withFields [(irqBits, 0x20)] { cmState with pci := { cmState.pci with msiEn := true } }, by decide +kernel⟩⟩

theorem witness_HyperRamChannels :
    (∃ (c : Fin 4) (cause : Fin 3) (s : State), s.chanAt c ≠ 0 ∧ s.chanAt c ≠ 3 ∧ s.cp.cmds = []) ∧
    (∃ (c : Fin 4) (s : State), s.hostOk (R.HRM_CH_STATUS c) ∧ s.chanAt c ≠ 0 ∧ s.chanAt c ≠ 3 ∧ s.cp.cmds = []) ∧
    (∃ (c : Fin 4) (s : State), s.chanAt c = 1 ∧ s.cp.cmds = []) ∧
    (∃ (v : Word) (s : State), s.hostOk R.HRM_BSTORE) ∧
    (∃ (size : Bool) (v : Word) (s : State), s.hostOk (if size then R.HRM_CROP_SIZE else R.HRM_CROP_BASE) ∧ s.vrd.crops = [] ∧
      s.hrm.heldBase = none ∧ s.hrm.heldSize = none) :=
  ⟨⟨3, 2, (withFields [(F.HRM_CH_CFG_devices 3, 1)] State.reset).setHyper 3 2, by decide +kernel⟩,
    ⟨3, (withFields [(F.HRM_CH_CFG_devices 3, 1)] State.reset).setHyper 3 2, by decide +kernel⟩,
    ⟨3, (withFields [(F.HRM_CH_CFG_devices 3, 1)] State.reset).setHyper 3 1, by decide +kernel⟩,
    ⟨0xFFFFFFFF, State.reset, by decide +kernel⟩,
    ⟨true, 0x1FFFF, State.reset, by decide +kernel⟩⟩

theorem witness_ScrubbersAndWindow :
    (∃ (off : Nat) (s : State), off % 32 = 0 ∧ s.upsetAt (hyperBase + off) = 0 ∧ s.lastBlock ≠ some off ∧ s.str.writes = []) ∧
    (∃ (off : Nat) (c : Nat) (x : Nat) (s : State), off % 32 = 0 ∧ s.str.writes = [] ∧ s.fbit F.HRM_CTRL_scrub_en = true ∧ s.pwr.deferBg
      = false ∧ s.chanOf off = some c ∧ s.chanReady c = true ∧ s.upsetAt (hyperBase + off) ≠ 0 ∧ rsDecode 36 (s.upsetAt (hyperBase +
      off)) = .corrected x ∧ bitsN x 256 8 = 0 ∧ s.lastBlock ≠ some off) ∧
    (∃ (a : Nat) (s : State), a % 8 = 0 ∧ s.upsetAt a = 0) ∧
    (∃ (a : Nat) (r : Nat) (s : State), a % 8 = 0 ∧ a < 0x01000000 ∧ s.pwr.park = false ∧ s.upsetAt a ≠ 0 ∧ rsDecode 11 (s.upsetAt a) =
      .corrected r) ∧
    (∃ (s : State), s.fbit F.HRM_CTRL_scrub_en = true) ∧
    (∃ (s : State), s.fbit F.HRM_CTRL_scrub_en = false) ∧
    (∃ (s : State), s.rstLevel = 0 ∧ s.sec.restart = false) ∧
    (∃ (s : State), s.cmRuns = true) ∧
    (∃ (k : Nat) (s : State), s.cmRuns = true ∧ k < 36 ∧ s.fget F.HUB_ECC_CFG_corr_limit ≠ 0 ∧ (∀ i < k, nth 0 s.eccWin i < s.fget
      F.HUB_ECC_CFG_corr_limit) ∧ s.fget F.HUB_ECC_CFG_corr_limit ≤ nth 0 s.eccWin k ∧ s.fbit F.HUB_ECC_ALERT_valid = false) ∧
    (∃ (T : Nat) (row : Nat) (l : List (Nat × Nat)) (s : State), s.cmRuns = true ∧ s.eccUnc = (T, row) :: l ∧ T < 4 ∧ row < 9 ∧ (s.fget
      F.HUB_ECC_CFG_corr_limit = 0 ∨ ∀ i < 36, nth 0 s.eccWin i < s.fget F.HUB_ECC_CFG_corr_limit) ∧ s.fbit F.HUB_ECC_ALERT_valid =
      false) ∧
    (∃ (s : State), s.cmRuns = false) :=
  ⟨⟨0x20, State.reset, by decide +kernel⟩,
    ⟨0x20, 0, 0, withFields [(F.HRM_CTRL_scrub_en, 1)] { storeState with upset := [(hyperBase + 0x20, 128)] }, by decide +kernel⟩,
    ⟨0xFFFFF8, State.reset, by decide +kernel⟩,
    ⟨0xFFFFF8, 0, { State.reset with upset := [(0xFFFFF8, 0x80)] }, by decide +kernel⟩,
    ⟨withFields [(F.HRM_CTRL_scrub_en, 1)] State.reset, by decide +kernel⟩,
    ⟨withFields [(F.HRM_CTRL_scrub_en, 0)] State.reset, by decide +kernel⟩,
    ⟨booted, by decide +kernel⟩,
    ⟨withFields [(F.TER_ROW_ECC_win_corr 3 8, 5)] { cmState with eccUnc := [(3, 8)] }, by decide +kernel⟩,
    ⟨35, withFields [(F.HUB_ECC_CFG_corr_limit, 300)] { cmState with eccWin := List.replicate 35 299 ++ [300] }, by decide +kernel⟩,
    ⟨3, 8, [], { cmState with eccUnc := [(3, 8)] }, by decide +kernel⟩,
    ⟨State.reset, by decide +kernel⟩⟩

theorem witness_FusesAndKeys :
    (∃ (v : Word) (failed : List (Fin 4 × Fin 8)) (s : State), s.hostOk R.SEC_LC_CTRL ∧ bitW v 2 = false ∧ bitsW v 8 8 = 0xA5 ∧
      s.sec.trans = none ∧ s.lcCode (bitsW v 0 2) = 0 ∧
      let g := bitsW v 0 2; g = 1) ∧
    (∃ (v : Word) (failed : List (Fin 4 × Fin 8)) (s : State), s.hostOk R.SEC_LC_CTRL ∧ bitW v 2 = false ∧ bitsW v 8 8 = 0xA5 ∧
      s.sec.trans = none ∧ s.lcCode (bitsW v 0 2) = 0 ∧
      let g := bitsW v 0 2; g ≠ 1) ∧
    (∃ (x : TransSt) (s : State), s.sec.trans = some x ∧ x.burning = true) ∧
    (∃ (x : TransSt) (s : State), s.sec.trans = some x ∧ x.burning = false ∧ s.sec.wiping = true) ∧
    (∃ (v : Word) (failed : List (Fin 4 × Fin 8)) (s : State), s.hostOk R.SEC_LC_CTRL ∧ bitW v 2 = false ∧ (bitsW v 8 8 ≠ 0xA5 ∨
      s.sec.trans.isSome = true ∨ s.lcCode (bitsW v 0 2) ≠ 0) ∧ bitsW v 8 8 = 0xA5 ∧ s.sec.trans = none ∧ s.fbit F.SEC_ERR_valid = false) ∧
    (∃ (v : Word) (failed : List (Fin 4 × Fin 8)) (s : State), s.hostOk R.SEC_LC_CTRL ∧ bitW v 2 = false ∧ (bitsW v 8 8 ≠ 0xA5 ∨
      s.sec.trans.isSome = true ∨ s.lcCode (bitsW v 0 2) ≠ 0) ∧ bitsW v 8 8 ≠ 0xA5) ∧
    (∃ (b : BootSt) (s : State), s.hostOk R.SEC_LC_CTRL ∧ s.sec.boot = some b) ∧
    (∃ (s : State), s.hostOk R.SEC_LC_CTRL ∧ s.sec.boot = none) ∧
    (∃ (v : Word) (s : State), s.shaped ∧ s.hostOk R.SEC_KEY_CTRL ∧ s.sealed = false ∧
      let k := bitsW v 0 3;
      let old := nth ⟨false, false, false, []⟩ s.fuse.keys k; (nth ⟨false, false, false, []⟩ s.fuse.keys (bitsW v 0 3)).written = false) ∧
    (∃ (v : Word) (s : State), s.shaped ∧ s.hostOk R.SEC_KEY_CTRL ∧ s.sealed = false ∧
      let k := bitsW v 0 3;
      let old := nth ⟨false, false, false, []⟩ s.fuse.keys k; (nth ⟨false, false, false, []⟩ s.fuse.keys (bitsW v 0 3)).written = true) ∧
    (∃ (v : Word) (s : State), s.shaped ∧ s.hostOk R.SEC_KEY_CTRL) :=
  ⟨⟨0xA501, [], State.reset, by decide +kernel⟩,
    ⟨0xA502, [], { State.reset with fuse := { Fuses.init with lc := 1, keys := setNth Fuses.init.keys 7 ⟨true, false, false, []⟩ } },
      by decide +kernel⟩,
    ⟨⟨1, true, []⟩, { State.reset with sec := { SecSt.init with trans := some ⟨1, true, []⟩  } }, by decide +kernel⟩,
    ⟨⟨1, false, []⟩, { State.reset with sec := { SecSt.init with trans := some ⟨1, false, []⟩ , wiping := true } }, by decide +kernel⟩,
    ⟨0xA502, [], State.reset, by decide +kernel⟩,
    ⟨0, [], State.reset, by decide +kernel⟩,
    ⟨⟨0, 1, 9, 0, []⟩, { State.reset with sec := { SecSt.init with boot := some ⟨0, 1, 9, 0, []⟩ } }, by decide +kernel⟩,
    ⟨State.reset, by decide +kernel⟩,
    ⟨15, State.reset, shaped_of (by decide +kernel), by decide +kernel⟩,
    ⟨15, { State.reset with fuse := { Fuses.init with keys := setNth Fuses.init.keys 7 ⟨true, false, false, []⟩ } }, shaped_of
      (by decide +kernel), by decide +kernel⟩,
    ⟨7, State.reset, shaped_of (by decide +kernel), by decide +kernel⟩⟩

theorem witness_FlashAndDebug :
    (∃ (s : State), s.hostOk R.SEC_FL_CTRL ∧ s.fbit F.SEC_FL_CTRL_busy = false ∧
      let a := s.fget F.SEC_FL_ADDR_addr; s.fget F.SEC_FL_ADDR_addr % 256 = 0 ∧ s.bootedAt (s.fget F.SEC_FL_ADDR_addr) 256 = false) ∧
    (∃ (s : State), s.hostOk R.SEC_FL_CTRL ∧ s.fbit F.SEC_FL_CTRL_busy = false ∧
      let a := s.fget F.SEC_FL_ADDR_addr; s.fget F.SEC_FL_ADDR_addr % 65536 = 0 ∧ s.bootedAt (s.fget F.SEC_FL_ADDR_addr) 65536 = false) ∧
    (∃ (s : State), s.hostOk R.SEC_FL_CTRL ∧ s.fbit F.SEC_FL_CTRL_busy = true) ∧
    (∃ (f : FlashOp) (s : State), s.sec.flashOp = some f ∧ f.op = 2) ∧
    (∃ (f : FlashOp) (s : State), s.sec.flashOp = some f ∧ f.op = 1) ∧
    (∃ (f : FlashOp) (s : State), s.sec.flashOp = some f ∧ f.op = 3) ∧
    (∃ (v : Word) (s : State), s.hostOk R.SEC_DBG_CTRL) ∧
    (∃ (s : State), s.hostOk R.SEC_DBG_CTRL ∧ s.sec.challenge.isSome = true) ∧
    (∃ (s : State), s.hostOk R.SEC_DBG_CTRL ∧ s.sec.challenge = none) ∧
    (∃ (scope : Nat) (c : List Byte) (sig : List Byte) (s : State), s.sec.verify = some (scope, c, sig) ∧ scope < 16) :=
  ⟨⟨withRegs [(R.SEC_FL_ADDR, 0x100)] State.reset, by decide +kernel⟩,
    ⟨withRegs [(R.SEC_FL_ADDR, 0x10000)] State.reset, by decide +kernel⟩,
    ⟨withFields [(F.SEC_FL_CTRL_busy, 1)] State.reset, by decide +kernel⟩,
    ⟨⟨2, 0x3FFFF00, 0⟩, { State.reset with sec := { SecSt.init with flashOp := some ⟨2, 0x3FFFF00, 0⟩ } }, by decide +kernel⟩,
    ⟨⟨1, 0x3FFFF00, 0⟩, { State.reset with sec := { SecSt.init with flashOp := some ⟨1, 0x3FFFF00, 0⟩ } }, by decide +kernel⟩,
    ⟨⟨3, 0x3FF0000, 0⟩, { State.reset with sec := { SecSt.init with flashOp := some ⟨3, 0x3FF0000, 0⟩ } }, by decide +kernel⟩,
    ⟨15, { State.reset with sec := { SecSt.init with verify := some (15, [1], [2]) } }, by decide +kernel⟩,
    ⟨{ State.reset with sec := { SecSt.init with challenge := some [1, 2, 3] } }, by decide +kernel⟩,
    ⟨State.reset, by decide +kernel⟩,
    ⟨15, [1], [2], { State.reset with sec := { SecSt.init with verify := some (15, [1], [2]) } }, by decide +kernel⟩⟩

theorem witness_ProbeAndLogicCells :
    (∃ (v : Word) (s : State), s.hostOk R.HUB_PRB_CTRL ∧ s.debugOpen 0 = true ∧ s.sec.probeRun = false ∧ bitW v 1 = false) ∧
    (∃ (v : Word) (s : State), s.hostOk R.HUB_PRB_CTRL ∧ s.debugOpen 0 = true ∧ bitW v 0 = true ∧ bitsW v 16 16 ≠ 0 ∧ (s.sec.probeRun =
      true → s.sec.probeTrig = false)) ∧
    (∃ (v : Word) (s : State), s.hostOk R.HUB_PRB_CTRL ∧ s.debugOpen 0 = false) ∧
    (∃ (mesh : LogicNets) (s : State), s.probeClocked = true ∧ s.fget F.HUB_PRB_CTRL_row < 9 ∧ s.sec.probeRun = true ∧
      let u := s.fget F.HUB_PRB_CTRL_terrace * 9 + s.fget F.HUB_PRB_CTRL_row;
      let z := s.lcSettle (s.fget F.HUB_PRB_CTRL_terrace) mesh;
      let bus := (z.probeBus u (z.lcRow (s.fget F.HUB_PRB_CTRL_terrace) (s.fget F.HUB_PRB_CTRL_row)) ⟨z.lcNets (s.fget
          F.HUB_PRB_CTRL_terrace), mesh⟩ 64).1;
      let i := if 65535 ≤ s.sec.probeLast then 0 else s.sec.probeLast + 1;
      let mask := s.fget F.HUB_PRB_MASK_LO_value + 2 ^ 32 * s.fget F.HUB_PRB_MASK_HI_value;
      let want := s.fget F.HUB_PRB_MATCH_LO_value + 2 ^ 32 * s.fget F.HUB_PRB_MATCH_HI_value; s.sec.probeTrig = false) ∧
    (∃ (mesh : LogicNets) (s : State), s.probeClocked = true ∧ s.fget F.HUB_PRB_CTRL_row < 9 ∧ s.sec.probeRun = true ∧
      let u := s.fget F.HUB_PRB_CTRL_terrace * 9 + s.fget F.HUB_PRB_CTRL_row;
      let z := s.lcSettle (s.fget F.HUB_PRB_CTRL_terrace) mesh;
      let bus := (z.probeBus u (z.lcRow (s.fget F.HUB_PRB_CTRL_terrace) (s.fget F.HUB_PRB_CTRL_row)) ⟨z.lcNets (s.fget
          F.HUB_PRB_CTRL_terrace), mesh⟩ 64).1;
      let i := if 65535 ≤ s.sec.probeLast then 0 else s.sec.probeLast + 1;
      let mask := s.fget F.HUB_PRB_MASK_LO_value + 2 ^ 32 * s.fget F.HUB_PRB_MASK_HI_value;
      let want := s.fget F.HUB_PRB_MATCH_LO_value + 2 ^ 32 * s.fget F.HUB_PRB_MATCH_HI_value; s.sec.probeTrig = true ∧ s.sec.probeLeft =
          1) ∧
    (∃ (T : Fin 4) (row : Fin 9) (g : Fin 4) (mesh : LogicNets) (io : LogicIo) (s : State), s.shaped ∧ s.pwr.park = false ∧ s.rowGood T
      row = true ∧ s.treeRuns T g = true ∧ s.lcSee T row = (false, s) ∧ (s.lcRow T row).stage = 0) ∧
    (∃ (T : Fin 4) (row : Fin 9) (g : Fin 4) (mesh : LogicNets) (io : LogicIo) (c : Nat) (s : State), s.shaped ∧ s.pwr.park = false ∧
      s.rowGood T row = true ∧ s.treeRuns T g = true ∧ s.lcSee T row = (false, s) ∧ (s.lcRow T row).stage = 3 ∧ s.fbit
      (F.TER_LC_TREE_V_rst T s.activeV g) = false ∧ io.took = [] ∧ c < 2048 ∧
      let u : Nat := T * 9 + row;
      let x := s.lcRow T row;
      let w := s.lcWord u (4 * c + 3);
      let m := (s.lcWave T g row mesh).1;
      let outs := s.lcOuts u (c / 32) x m 33; bitsN w 1 2 = g ∧ (outs.all Option.isSome = true)) :=
  ⟨⟨1, State.reset, by decide +kernel⟩,
    ⟨0x10001, State.reset, by decide +kernel⟩,
    ⟨1, { State.reset with fuse := { Fuses.init with lc := 2 } }, by decide +kernel⟩,
    ⟨0, withFields [(F.HUB_PRB_CTRL_terrace, 3), (F.HUB_PRB_CTRL_row, 8)]
      { State.reset with sec := { SecSt.init with probeRun := true, probeLast := 65535 } }, by decide +kernel⟩,
    ⟨0, withFields [(F.HUB_PRB_CTRL_terrace, 3), (F.HUB_PRB_CTRL_row, 8)]
      { State.reset with sec := { SecSt.init with probeRun := true, probeLast := 65535, probeTrig := true, probeLeft := 1 } },
      by decide +kernel⟩,
    ⟨3, 8, 3, 0, ⟨[], [], 0⟩, withFields [(F.TER_LC_TREE_V_src 3 0 3, 6)] State.reset, shaped_of (by decide +kernel), by decide +kernel⟩,
    ⟨3, 8, 3, 0, ⟨[⟨4, 5, false, 3, true, false, false, false⟩], [], 0xFFFF⟩, 2047, withFields [(F.TER_LC_TREE_V_src 3 0 3, 0)]
      ((State.reset.setWord .lcCfg 35 8191 0x100006).setLcRow 3 8 { LcRow.init with stage := 3 }), shaped_of (by decide +kernel),
      by decide +kernel⟩⟩

theorem witness_EncoderAndTriggers :
    (∃ (a : Bool) (b : Bool) (a' : Bool) (b' : Bool) (now : Nat) (s : State), s.rstHeld = false ∧ s.fget F.STP_ENC_CFG_decode ≤ 2 ∧ (a !=
      a') ≠ (b != b')) ∧
    (∃ (a : Bool) (b : Bool) (now : Nat) (s : State), s.rstHeld = false) ∧
    (∃ (k : Fin 8) (now : Nat) (s : State), s.shaped ∧ s.fbit (F.STP_TRG_CFG_en k) = true ∧ s.fget (F.STP_TRG_CFG_src k) = 1 ∧ (s.trg
      k).last = none) ∧
    (∃ (k : Fin 8) (now : Nat) (last : Int) (s : State), s.fbit (F.STP_TRG_CFG_en k) = true ∧ s.fget (F.STP_TRG_CFG_src k) = 1 ∧ (s.trg
      k).last = some last ∧ ((max s.trl.time (now % 2 ^ 64) : Nat) : Int) - last < (s.fget (F.STP_TRG_MIN_min k) : Int)) ∧
    (∃ (k : Fin 8) (v : Word) (now : Nat) (s : State), s.shaped ∧ s.hostOk (R.STP_TRG_CFG k) ∧ bitW v 6 = true ∧ bitW v 0 = true ∧ bitsW
      v 1 2 = 2 ∧ (s.trg k).last = none) ∧
    (∃ (k : Fin 8) (s : State), s.shaped) ∧
    (∃ (k : Fin 16) (s : State), s.shaped) :=
  ⟨⟨false, false, true, false, 5, State.reset, by decide +kernel⟩,
    ⟨false, true, 5, State.reset, by decide +kernel⟩,
    ⟨7, 5, withFields [(F.STP_TRG_CFG_en 7, 1), (F.STP_TRG_CFG_src 7, 1)] State.reset, shaped_of (by decide +kernel), by decide +kernel⟩,
    ⟨7, 104, 5, withFields [(F.STP_TRG_CFG_en 7, 1), (F.STP_TRG_CFG_src 7, 1), (F.STP_TRG_MIN_min 7, 100)]
      { State.reset with lin := { LinSt.init with trg := setNth LinSt.init.trg 7 ⟨0, 0, some 5, false⟩ } }, by decide +kernel⟩,
    ⟨7, 0x45, 5, State.reset, shaped_of (by decide +kernel), by decide +kernel⟩,
    ⟨7, { State.reset with lin := { LinSt.init with trg := setNth LinSt.init.trg 7 ⟨0, 0, some 5, true⟩ } }, shaped_of
      (by decide +kernel)⟩,
    ⟨15, { State.reset with lin := { LinSt.init with mrk := setNth LinSt.init.mrk 15 ⟨[(9, true, 3)], true, none, none⟩ } }, shaped_of
      (by decide +kernel)⟩⟩

theorem witness_MarkerQueue :
    (∃ (k : Fin 16) (due : Nat) (s : State), s.shaped ∧ atOrBeyond s.lin.pos due = false ∧ (s.mrk k).queue.length < 1024) ∧
    (∃ (k : Fin 16) (due : Nat) (s : State), s.shaped ∧ atOrBeyond s.lin.pos due = false ∧ 1024 ≤ (s.mrk k).queue.length) ∧
    (∃ (k : Fin 16) (due : Nat) (s : State), s.shaped ∧ atOrBeyond s.lin.pos due = true ∧ s.pwr.tripped = false ∧ s.fget
      (F.STP_MRK_CFG_mode k) = 0) ∧
    (∃ (k : Fin 16) (due : Nat) (s : State), s.shaped ∧ atOrBeyond s.lin.pos due = true ∧ s.pwr.tripped = false ∧ s.fget
      (F.STP_MRK_CFG_mode k) = 1 ∧ (s.mrk k).upTo = none ∧ (s.mrk k).queue = [] ∧ atOrBeyond s.lin.pos ((due + s.fget
      (F.STP_MRK_WID_width k)) % posMod) = false) :=
  ⟨⟨15, 6, (put (withFields [(F.STP_MRK_CFG_mode 15, 1), (F.STP_MRK_WID_width 15, 3)]
      { State.reset with lin := { LinSt.init with pos := 5 } }) fun s => s.setMrk 15
      { s.mrk 15 with queue := List.replicate 1023 (9, true, 3) }), shaped_of (by decide +kernel), by decide +kernel⟩,
    ⟨15, 6, (put (withFields [(F.STP_MRK_CFG_mode 15, 1), (F.STP_MRK_WID_width 15, 3)]
      { State.reset with lin := { LinSt.init with pos := 5 } }) fun s => s.setMrk 15
      { s.mrk 15 with queue := List.replicate 1024 (9, true, 3) }), shaped_of (by decide +kernel), by decide +kernel⟩,
    ⟨15, 5, { State.reset with lin := { LinSt.init with pos := 5 } }, shaped_of (by decide +kernel), by decide +kernel⟩,
    ⟨15, 5, withFields [(F.STP_MRK_CFG_mode 15, 1), (F.STP_MRK_WID_width 15, 3)]
      { State.reset with lin := { LinSt.init with pos := 5 } }, shaped_of (by decide +kernel), by decide +kernel⟩⟩

theorem witness_LinksAndMailboxes :
    (∃ (c : Fin 4) (v : Word) (s : State), s.hostOk (R.ING_MBX_CTRL c) ∧ bitW v 27 = false) ∧
    (∃ (c : Fin 4) (ev : Bool) (bs : List Byte) (s : State), bs.length ≤ 1023 ∧ s.fbit (F.ING_MBX_CTRL_rx_full c) = false) ∧
    (∃ (c : Fin 4) (ev : Bool) (bs : List Byte) (s : State), bs.length ≤ 1023 ∧ s.fbit (F.ING_MBX_CTRL_rx_full c) = true) ∧
    (∃ (l : Fin 8) (s : State), s.shaped) :=
  ⟨⟨3, 1023, State.reset, by decide +kernel⟩,
    ⟨3, true, [1, 2], State.reset, by decide +kernel⟩,
    ⟨3, true, [1, 2], withFields [(F.ING_MBX_CTRL_rx_full 3, 1)] State.reset, by decide +kernel⟩,
    ⟨0, jobState, shaped_of (by decide +kernel)⟩⟩

theorem witness_CameraLines :
    (∃ (p : StreamPkt) (s : State), s.shaped ∧ s.camOn p.cam = true ∧ p.supported = true ∧ s.replayJob = false ∧ p.crcOk = true ∧
      s.headerOk p = true ∧ (s.cam p.cam).lost = false ∧ (s.cam p.cam).refused = false ∧ p.ahead = 0 ∧
      let x := s.cam p.cam;
      let n := if s.fbit (F.ING_CAM_CFG_frame p.cam) then p.ySize else 1;
      let cur := putPx (if x.busy then x.cur else List.replicate (s.camWidth p.cam) none) p.first p.px; min p.line (n - 1) = x.frameLine
          ∧ cur.all Option.isSome = true) ∧
    (∃ (p : StreamPkt) (s : State), s.shaped ∧ s.camOn p.cam = true ∧ p.supported = true ∧ s.replayJob = false ∧ p.crcOk = true ∧
      s.headerOk p = true ∧ (s.cam p.cam).lost = false ∧ (s.cam p.cam).refused = false ∧ p.ahead = 0 ∧
      let x := s.cam p.cam;
      let n := if s.fbit (F.ING_CAM_CFG_frame p.cam) then p.ySize else 1;
      let cur := putPx (if x.busy then x.cur else List.replicate (s.camWidth p.cam) none) p.first p.px; min p.line (n - 1) = x.frameLine
          ∧ cur.all Option.isSome = false) ∧
    (∃ (p : StreamPkt) (s : State), s.shaped ∧ s.camOn p.cam = true ∧ p.supported = true ∧ s.replayJob = false ∧ p.crcOk = true ∧
      s.headerOk p = false ∧ (s.cam p.cam).lost = false ∧ (s.cam p.cam).frameLine = 0 ∧ p.line = 0 ∧ p.ahead = 0) ∧
    (∃ (p : StreamPkt) (s : State), (s.camOn p.cam = false ∨ p.supported = false ∨ (s.replayJob = false ∧ p.crcOk = false))) ∧
    (∃ (p : StreamPkt) (s : State), s.camOn p.cam = true ∧ p.supported = true ∧ s.replayJob = true) ∧
    (∃ (c : Fin 4) (pos : Nat) (time : Nat) (job : Nat) (q : List (Nat × Nat × Nat)) (s : State), s.shaped ∧ s.camOn c = true ∧
      s.camTriggered c = true ∧ (s.cam c).trig = (pos, time, job) :: q ∧ (s.cam c).frameLine < s.imgLines c) ∧
    (∃ (c : Fin 4) (d : Nat) (s : State), s.shaped ∧ s.camOn c = true ∧ s.camTriggered c = false ∧ d ∈ s.cams ∧ d ≠ c ∧ (s.cam d).lines ≠
      [] ∧ (s.cam c).lines = [] ∧ (s.cam c).trig = []) ∧
    (∃ (s : State), s.shaped ∧ s.cams ≠ [] ∧ s.replayJob = false ∧ (∀ c ∈ s.cams, (s.cam c).lines ≠ []) ∧
      let mine := (s.job.running = true ∧ s.job.stopped = none ∧ s.trl.noLines = false ∧ ∀ c ∈ s.cams, ∀ l, (s.cam c).lines.head? = some
          l → l.job = s.ing.jobs);
      let j := s.job.lineNo; ¬ mine) ∧
    (∃ (s : State), s.shaped ∧ s.cams ≠ [] ∧ s.replayJob = false ∧ (∀ c ∈ s.cams, (s.cam c).lines ≠ []) ∧
      let mine := (s.job.running = true ∧ s.job.stopped = none ∧ s.trl.noLines = false ∧ ∀ c ∈ s.cams, ∀ l, (s.cam c).lines.head? = some
          l → l.job = s.ing.jobs);
      let j := s.job.lineNo; mine ∧ s.job.system = false) ∧
    (∃ (s : State), s.replayJob = true ∧ s.job.stopped = none ∧ s.trl.noLines = false ∧ s.cams ≠ [] ∧ (∀ c ∈ s.cams, ∃ r ∈ s.cp.replay,
      r.cam = c) ∧ (∀ p ∈ s.planes, s.ringUsed p < s.fget (F.RSH_PLANE_ring_m1 p) + 1)) ∧
    (∃ (line : Nat) (plane : Fin 8) (right : Bool) (s : State), s.waitsHalo line plane right = true) ∧
    (∃ (s : State), s.job.running = true ∧ s.job.filling = false ∧ s.job.stopped = none ∧ s.ing.nextStart < s.job.lineNo ∧
      s.trl.waitStart = false ∧ s.ing.nextStart % s.job.bandLen ≠ 0 ∧ (s.ing.nextStart + 1) % s.job.bandLen ≠ 0 ∧
      let mine := s.ing.lines.filter fun l => l.line == s.ing.nextStart; (∀ l ∈ mine, l.haloL.isSome = true ∧ l.haloR.isSome = true)) ∧
    (∃ (s : State), s.job.running = true ∧ s.job.filling = false ∧ s.job.stopped = none ∧ s.ing.nextStart < s.job.lineNo ∧
      s.trl.waitStart = false ∧ s.ing.nextStart % s.job.bandLen = 0 ∧ s.stopsAt (s.ing.nextStart / s.job.bandLen) = true ∧ (∀ l ∈
      s.ing.lines, l.line = s.ing.nextStart → l.haloL.isSome = true ∧ l.haloR.isSome = true)) :=
  ⟨⟨⟨0, true, true, 64, 1, 0, true, 0, 0, 0, List.replicate 64 5⟩, jobState, shaped_of (by decide +kernel), by decide +kernel⟩,
    ⟨⟨0, true, true, 64, 1, 0, true, 0, 0, 63, [5]⟩, jobState, shaped_of (by decide +kernel), by decide +kernel⟩,
    ⟨⟨0, true, true, 63, 1, 0, true, 0, 0, 0, List.replicate 64 5⟩, running jobState, shaped_of (by decide +kernel), by decide +kernel⟩,
    ⟨⟨0, true, false, 64, 1, 0, true, 0, 0, 0, List.replicate 64 5⟩, jobState, by decide +kernel⟩,
    ⟨⟨0, true, true, 64, 1, 0, true, 0, 0, 0, List.replicate 64 5⟩, (put (running jobState) fun s =>
      { s with job := { s.job with replay := true } }), by decide +kernel⟩,
    ⟨0, 1, 2, 3, [], withFields [(F.ING_CAM_POS_trig 0, 7)]
      { jobState with ing := { IngSt.init with cams := setNth IngSt.init.cams 0 { CamSt.init with trig := [(1, 2, 3)] } } }, shaped_of
      (by decide +kernel), by decide +kernel⟩,
    ⟨0, 1, withFields [(F.ING_CAM_CFG_links 1, 1), (F.ING_CAM_CFG_width_m1 1, 63), (F.ING_CAM_POS_trig 1, 15), (F.ING_CAM_POS_trig 0,
      15)] { jobState with ing := { IngSt.init with cams := setNth IngSt.init.cams 1 { CamSt.init with lines := [⟨[], 0, 0, 0⟩] } } },
      shaped_of (by decide +kernel), by decide +kernel⟩,
    ⟨{ jobState with ing := { IngSt.init with cams := setNth IngSt.init.cams 0 { CamSt.init with lines := [⟨List.replicate 64 (some 1), 0, 0, 0⟩] } } },
      shaped_of (by decide +kernel), by decide +kernel⟩,
    ⟨{ running jobState with ing := { IngSt.init with cams := setNth IngSt.init.cams 0 { CamSt.init with lines := [⟨List.replicate 64 (some 1), 0, 0, 0⟩] } } },
      shaped_of (by decide +kernel), by decide +kernel⟩,
    ⟨(put (running jobState) fun s =>
      { s with job := { s.job with replay := true }, cp := { s.cp with replay := [⟨5, true, 0, 1, 64, 0, 0, 0, List.replicate 64 1, 0⟩] } }),
      by decide +kernel⟩,
    ⟨7, 7, true, { running jobState with ing := { IngSt.init with lines := [⟨7, 7, [(1, false)], some [], none, 0, true, false, 0⟩] } },
      by decide +kernel⟩,
    ⟨(put (running jobState) fun s =>
      { s with job := { s.job with lineNo := 2 }, ing := { IngSt.init with nextStart := 1, lines := [⟨1, 7, List.replicate 64 (1, false), some [], some [], 0, true, false, 0⟩] } }),
      by decide +kernel⟩,
    ⟨(put (running jobState) fun s =>
      { s with job := { s.job with lineNo := 65, stopFault := true }, ing := { IngSt.init with nextStart := 64 } }), by decide +kernel⟩⟩

theorem witness_SequencerSteps :
    (∃ (r : TileRef) (s : State) (pc : Nat) (ls : List LoopSt), s.standsAt r 0 ∧ (s.tile r).next + bitsN (s.curWord r) 0 16 ≤ s.arr.runAc
      ∧ loopEnd (s.tile r).pc (s.tile r).loops = .goto pc ls) ∧
    (∃ (r : TileRef) (s : State), s.standsAt r 0 ∧ (s.tile r).next + bitsN (s.curWord r) 0 16 ≤ s.arr.runAc ∧ loopEnd (s.tile r).pc
      (s.tile r).loops = .fault) ∧
    (∃ (r : TileRef) (s : State), s.standsAt r 1) ∧
    (∃ (r : TileRef) (s : State), s.standsAt r 2) ∧
    (∃ (r : TileRef) (s : State), s.standsAt r 4) ∧
    (∃ (r : TileRef) (s : State) (pc : Nat) (ls : List LoopSt), s.standsAt r 5 ∧ loopEnd (s.tile r).pc (s.tile r).loops = .goto pc ls) ∧
    (∃ (r : TileRef) (s : State), s.standsAt r 6) ∧
    (∃ (r : TileRef) (s : State) (pc : Nat) (ls : List LoopSt), s.standsAt r 3 ∧ bitsN (s.curWord r) 24 4 = 1 ∧ loopEnd (s.tile r).pc
      (s.tile r).loops = .goto pc ls ∧
      let x := s.tile r; lineCount (s.tile r).latch ≠ 0) ∧
    (∃ (r : TileRef) (s : State) (pc : Nat) (ls : List LoopSt), s.standsAt r 3 ∧ bitsN (s.curWord r) 24 4 = 1 ∧ loopEnd (s.tile r).pc
      (s.tile r).loops = .goto pc ls ∧
      let x := s.tile r; lineCount (s.tile r).latch = 0) ∧
    (∃ (r : TileRef) (s : State) (pc : Nat) (ls : List LoopSt), s.standsAt r 3 ∧ bitsN (s.curWord r) 24 4 = 0 ∧ s.sw = none ∧ s.grf.queue
      = [] ∧ (s.tile r).inBand = false ∧ s.wantsGain r (s.tile r).vint = false ∧ loopEnd (s.tile r).pc (s.tile r).loops = .goto pc ls ∧
      let x := s.tile r; headBand (s.tile r).latch = some 3) ∧
    (∃ (r : TileRef) (s : State) (pc : Nat) (ls : List LoopSt), s.standsAt r 3 ∧ bitsN (s.curWord r) 24 4 = 0 ∧ s.sw = none ∧ s.grf.queue
      = [] ∧ (s.tile r).inBand = false ∧ s.wantsGain r (s.tile r).vint = false ∧ loopEnd (s.tile r).pc (s.tile r).loops = .goto pc ls ∧
      let x := s.tile r; headBand (s.tile r).latch = none) :=
  ⟨⟨⟨3, 8, 29⟩, atWord ⟨3, 8, 29⟩ 5 { TileSt.init with pc := 63 }, 64, [], by decide +kernel⟩,
    ⟨⟨3, 8, 29⟩, atWord ⟨3, 8, 29⟩ 5 { TileSt.init with pc := 63, loops := [⟨0, 0, 63, 2, 0⟩] }, by decide +kernel⟩,
    ⟨⟨3, 8, 29⟩, atWord ⟨3, 8, 29⟩ 0x10000003 { TileSt.init with pc := 63 }, by decide +kernel⟩,
    ⟨⟨3, 8, 29⟩, atWord ⟨3, 8, 29⟩ 0x21000003 { TileSt.init with pc := 63 }, by decide +kernel⟩,
    ⟨⟨3, 8, 29⟩, atWord ⟨3, 8, 29⟩ 0x40000003 { TileSt.init with pc := 63 }, by decide +kernel⟩,
    ⟨⟨3, 8, 29⟩, atWord ⟨3, 8, 29⟩ 0x50000000 { TileSt.init with pc := 63 }, 64, [], by decide +kernel⟩,
    ⟨⟨3, 8, 29⟩, atWord ⟨3, 8, 29⟩ 0x60000000 { TileSt.init with pc := 63 }, by decide +kernel⟩,
    ⟨⟨3, 8, 29⟩, atWord ⟨3, 8, 29⟩ 0x31000000 { TileSt.init with pc := 63, latch := [.band 3, .line] }, 64, [], by decide +kernel⟩,
    ⟨⟨3, 8, 29⟩, atWord ⟨3, 8, 29⟩ 0x31000000 { TileSt.init with pc := 63 }, 64, [], by decide +kernel⟩,
    ⟨⟨3, 8, 29⟩, atWord ⟨3, 8, 29⟩ 0x30000000 { TileSt.init with pc := 63, latch := [.band 3, .line] }, 64, [], by decide +kernel⟩,
    ⟨⟨3, 8, 29⟩, atWord ⟨3, 8, 29⟩ 0x30000000 { TileSt.init with pc := 63, latch := [.line] }, 64, [], by decide +kernel⟩⟩

theorem witness_FabricEvents :
    (∃ (r : TileRef) (p : Fin 4) (e : OutEntry) (q : List OutEntry) (c : Circuit) (s : State), s.shaped ∧ s.arrayRuns = true ∧ (s.tile
      r).out p = e :: q ∧ e.due ≤ s.arr.runAc ∧ (e.bound = none ∨ e.bound = some c) ∧ s.mayEmit (.tile r p) (s.dress r p e.flit) c) ∧
    (∃ (r : TileRef) (p : Fin 4) (e : OutEntry) (q : List OutEntry) (c : Circuit) (s : State), s.shaped ∧ s.arrayRuns = true ∧ (s.tile
      r).out p = e :: q ∧ e.due ≤ s.arr.runAc ∧ (e.bound = none ∨ e.bound = some c) ∧ e.logged = false ∧ s.arr.emitted.contains (.tile r
      p) = false ∧ circuitAt s (s.carryV (s.dress r p e.flit).tag) (.tile r p) s.arr.runAc = some c ∧ (∀ x ∈ c.sinks, s.graftFlow
      (s.carryV (s.dress r p e.flit).tag) (.tile r p) x.1 = false) ∧ (∃ x ∈ c.sinks, s.credit c x.1 = 0)) ∧
    (∃ (src : SrcRef) (snk : SnkRef) (x : CreditFlight) (y : CreditCtr) (s : State), s.arrayRuns = true ∧ s.arr.creditFlights = [x] ∧
      x.circ.src = hubPort src ∧ x.snk = snk ∧ x.due ≤ s.arr.runAc ∧ s.sw = none ∧ s.arr.credits.find? (·.is x.circ snk) = some y) ∧
    (∃ (n : Nat) (code : BridgeCode) (y : Flight) (T : Fin 4) (io : Fin 4) (s : State), s.arrayRuns = true ∧ s.arr.flights[n]? = some y ∧
      y.due ≤ s.arr.runAc + y.skip ∧ y.stop = .sink (.hub T io)) ∧
    (∃ (n : Nat) (code : BridgeCode) (y : Flight) (r : TileRef) (p : Fin 5) (s : State), s.shaped ∧ s.arrayRuns = true ∧
      s.arr.flights[n]? = some y ∧ y.due ≤ s.arr.runAc + y.skip ∧ y.stop = .sink (.tile r p) ∧ y.cross = none ∧ kindOf r.k = .sf ∧
      s.arr.holdTile = none ∧ ((y.flit.evLine = false ∧ y.flit.evBand = false) ∨ (s.evPort r (s.evVint r y.flit.tag) ≠ p ∧ s.readsClean
      (some (r.t, r.row)) [wordCw .unit r.t (8 * ((s.evVint r y.flit.tag * 9 + r.row) * 30 + r.k))]))) ∧
    (∃ (r : TileRef) (b : Bcast) (s : State), s.arrayRuns = true ∧ s.arr.bcast = [b] ∧ b.tile = tileKey r ∧ b.due ≤ s.arr.runAc ∧ b.band
      = false ∧ lineCount (s.tile r).latch < 15 ∧ s.usesTile r (s.evVint r b.tag) = true ∧ s.readsClean (some (r.t, r.row)) [wordCw .unit
      r.t (8 * ((s.evVint r b.tag * 9 + r.row) * 30 + r.k))]) ∧
    (∃ (r : TileRef) (f : FireSt) (v : Nat) (s : State), s.shaped ∧ s.seqReady r = true ∧ (s.tile r).fire = some f ∧ f.d = 1 ∧ f.b + 1 <
      f.len ∧ kindOf r.k = .mm ∧ (s.tile r).st = .firing ∧ (s.tile r).gainNeed = false ∧ (s.tile r).outHeld 0 = false ∧ s.readsClean
      (some (r.t, r.row)) (s.fireCws r f) ∧ genAddr s r (s.tile r) 0 f.b = some v ∧ bitsW (s.opd r (s.tile r).vint 0) 0 3 = 0 ∧
      s.cleanWord (mmBase r.t r.row (idxOf r.k) + 32 * v)) ∧
    (∃ (r : TileRef) (d : DrainSt) (s : State), s.arrayRuns = true ∧ (s.tile r).drain = some d ∧ d.lastRead ≤ s.arr.runAc ∧ d.wait = [] ∧
      (s.tile r).fire = none) ∧
    (∃ (r : TileRef) (u : Fin 4) (tk : Token) (e : StageEntry) (q : List StageEntry) (s : State), s.shaped ∧ s.arrayRuns = true ∧ kindOf
      r.k = .rk ∧ (s.tile r).started = true ∧ (s.tile r).st ≠ .faulted ∧ s.readsClean (some (r.t, r.row)) [s.opdCw r (s.tile r).vint u] ∧
      bitsW (s.opd r (s.tile r).vint u) 0 3 = 1 ∧ nth none (s.tile r).govern u = some tk ∧ tk.poison = false ∧ (s.tile r).stage u = e ::
      q ∧ e.arr < s.arr.runAc ∧ e.flit.last = true ∧ (s.tile r).tiHeld = [] ∧ (s.tile r).stage 4 = [] ∧
      let o := if tk.v then u.val + 1 else u.val; (s.tile r).outHeld o = false) :=
  ⟨⟨⟨0, 0, 16⟩, 0, ⟨100, Flit.zero, none, false⟩, [], mmCircuit, mmEmits, shaped_of (by decide +kernel), by decide +kernel⟩,
    ⟨⟨0, 0, 16⟩, 0, ⟨100, Flit.zero, none, false⟩, [], mmCircuit,
      { mmEmits with arr := { mmEmits.arr with credits := [⟨mmCircuit, .tile ⟨0, 0, 0⟩ 0, 0⟩] } }, shaped_of (by decide +kernel),
      by decide +kernel⟩,
    ⟨.tile ⟨0, 0, 16⟩ 0, .tile ⟨0, 0, 0⟩ 0, ⟨mmCircuit, .tile ⟨0, 0, 0⟩ 0, 100, 0⟩, ⟨mmCircuit, .tile ⟨0, 0, 0⟩ 0, 0⟩,
      { mmEmits with arr := { mmEmits.arr with credits := [⟨mmCircuit, .tile ⟨0, 0, 0⟩ 0, 0⟩], creditFlights := [⟨mmCircuit, .tile ⟨0, 0, 0⟩ 0, 100, 0⟩] } },
      by decide +kernel⟩,
    ⟨0, .uncorrectable, ⟨.sink (.hub 3 3), 100, Flit.zero, mmCircuit, some (3, 3), 0⟩, 3, 3,
      { arrayOn with arr := { arrayOn.arr with flights := [⟨.sink (.hub 3 3), 100, Flit.zero, mmCircuit, some (3, 3), 0⟩] } },
      by decide +kernel⟩,
    ⟨0, .clean, ⟨.sink (.tile ⟨3, 8, 27⟩ 2), 100, Flit.zero, mmCircuit, none, 0⟩, ⟨3, 8, 27⟩, 2,
      { arrayOn with arr := { arrayOn.arr with flights := [⟨.sink (.tile ⟨3, 8, 27⟩ 2), 100, Flit.zero, mmCircuit, none, 0⟩] } },
      shaped_of (by decide +kernel), by decide +kernel⟩,
    ⟨⟨3, 8, 29⟩, ⟨1079, 100, false, 0⟩, withFields [(F.MX_SEQ_CTRL_use_v (tb ⟨3, 8, 29⟩), 1)]
      { arrayOn with arr := { arrayOn.arr with bcast := [⟨1079, 100, false, 0⟩] } }, by decide +kernel⟩,
    ⟨⟨0, 0, 16⟩, ⟨1, 0, false, false, 2, 0, 0, 0, [], false⟩, 0, arrayOn.setTile ⟨0, 0, 16⟩
      { TileSt.init with started := true, st := .firing, fire := some ⟨1, 0, false, false, 2, 0, 0, 0, [], false⟩ }, shaped_of
      (by decide +kernel), by decide +kernel⟩,
    ⟨⟨0, 0, 15⟩, ⟨100, [], 0⟩, arrayOn.setTile ⟨0, 0, 15⟩ { TileSt.init with drain := some ⟨100, [], 0⟩ }, by decide +kernel⟩,
    ⟨⟨3, 8, 29⟩, 3, ⟨false, false, 10⟩, ⟨{ Flit.zero with last := true }, 99, mmCircuit⟩, [], (arrayOn.setWord .param 1079 0x153
      1).setTile ⟨3, 8, 29⟩
      { TileSt.init with started := true, govern := [none, none, none, some ⟨false, false, 10⟩], stages := [[], [], [], [⟨{ Flit.zero with last := true }, 99, mmCircuit⟩], []] },
      shaped_of (by decide +kernel), by decide +kernel⟩⟩

theorem witness_CasksAndScale :
    (∃ (c : CaskRef) (y : Flight) (s : State), s.arrayRuns = true ∧ s.arr.flights = [y] ∧ y.stop = .sink (.cask c) ∧ y.due ≤ s.arr.runAc
      + y.skip ∧ s.isElastic s.activeV = false ∧
      let k := s.cask c;
      let a := s.caskAddr c k.wp;
      let frees := s.caskEn c && s.caskReadable c && s.arrAc y.due y.skip == s.arr.runAc; s.caskEn c = true ∧ (s.cask c).cnt <
          s.caskBound c) ∧
    (∃ (c : CaskRef) (y : Flight) (s : State), s.arrayRuns = true ∧ s.arr.flights = [y] ∧ y.stop = .sink (.cask c) ∧ y.due ≤ s.arr.runAc
      + y.skip ∧ s.isElastic s.activeV = false ∧
      let k := s.cask c;
      let a := s.caskAddr c k.wp;
      let frees := s.caskEn c && s.caskReadable c && s.arrAc y.due y.skip == s.arr.runAc; s.caskBound c ≤ (s.cask c).cnt) ∧
    (∃ (c : CaskRef) (ci : Circuit) (x : SideRec) (xs : List SideRec) (s : State), s.arrayRuns = true ∧ s.sw = none ∧ s.isElastic
      s.activeV = false ∧ circuitAt s s.activeV (.cask c) s.arr.runAc = some ci ∧ (∀ q ∈ ci.sinks, s.credit ci q.1 ≠ 0) ∧
      s.arr.emitted.contains (.cask c) = false ∧ (s.cask c).spilled = false ∧ s.caskClass c ≠ 2 ∧ caskOffers s c (s.cask c) s.arr.runAc =
      true ∧ (s.cask c).side = x :: xs ∧ s.cleanWord (s.caskAddr c (s.cask c).rp) ∧
      let d := dataOf (s.bytesAt (s.caskAddr c (s.cask c).rp) 32); parityOf d x.poison x.last x.evLine x.evBand x.smk x.tag = x.parity) ∧
    (∃ (c : CaskRef) (rp : Nat) (wp : Nat) (cnt : Nat) (s : State), s.caskPriv c = true ∧ s.caskEn c = true ∧ s.grf.queue = [] ∧
      let k := s.cask c; ¬ (rp = (s.cask c).rp ∧ wp = (s.cask c).wp ∧ cnt = (s.cask c).cnt)) ∧
    (∃ (c : CaskRef) (rp : Nat) (wp : Nat) (cnt : Nat) (s : State), s.caskPriv c = true ∧ s.caskEn c = true ∧ s.grf.queue = [] ∧
      let k := s.cask c; rp = (s.cask c).rp ∧ wp = (s.cask c).wp ∧ cnt = (s.cask c).cnt) ∧
    (∃ (cyc : Fin 32) (s : State), s.elastic = true ∧ s.arrayRuns = true ∧ 4096 ≤ (sget (fun _ => ⟨0, false⟩) s.arr.cycles cyc).wait ∧
      bitsW (s.cycWord cyc 0) 16 4 ≠ 0 ∧ (s.cask (s.cycCask cyc)).decant = 0 ∧
      let c := s.cycCask cyc;
      let k := s.cask c; s.decantRoom cyc = true) ∧
    (∃ (cyc : Fin 32) (s : State), s.elastic = true ∧ s.arrayRuns = true ∧ 4096 ≤ (sget (fun _ => ⟨0, false⟩) s.arr.cycles cyc).wait ∧
      bitsW (s.cycWord cyc 0) 16 4 ≠ 0 ∧ (s.cask (s.cycCask cyc)).decant = 0 ∧
      let c := s.cycCask cyc;
      let k := s.cask c; s.decantRoom cyc = false) ∧
    (∃ (c : CaskRef) (x : SideRec) (xs : List SideRec) (s : State), (s.cask c).side = x :: xs ∧
      let k := s.cask c;
      let t := s.decantWord c; s.rangeGood k.ringBase (288 * k.ringSize) = true) ∧
    (∃ (c : CaskRef) (x : SideRec) (xs : List SideRec) (s : State), (s.cask c).side = x :: xs ∧
      let k := s.cask c;
      let t := s.decantWord c; s.rangeGood k.ringBase (288 * k.ringSize) = false) ∧
    (∃ (c : CaskRef) (s : State), s.canRefill c = true) ∧
    (∃ (c : CaskRef) (p : Nat) (f : Flit) (s : State) (s1 : State),
      let k := s.cask c;
      let z := s.inOrder (hyperBase + k.ringBase) (288 * k.ringSize); z.rangeGood k.ringBase (288 * k.ringSize) = true ∧ ringWord z
          k.ringBase k.ringSize (k.ringSize + 1) k.ringHead = some (p, f, s1)) ∧
    (∃ (r : TileRef) (h : Nat) (s : State), s.shaped ∧ s.arrayRuns = true ∧ (s.tile r).chain = some h ∧ h + 4 ≤ s.arr.runAc ∧
      s.readsClean (some (r.t, r.row)) ((adaptCws r (s.tile r).vint).take 1) ∧
      let x := s.tile r; s.isFirst r x.vint = true ∧ s.collects r x.vint = true ∧ s.isLead r x.vint = false) ∧
    (∃ (r : TileRef) (h : Nat) (s : State), s.shaped ∧ s.arrayRuns = true ∧ (s.tile r).chain = some h ∧ (s.tile r).adInit = true ∧
      s.readsClean (some (r.t, r.row)) (adaptCws r (s.tile r).vint) ∧
      let x := s.tile r;
      let g := bitsW (s.adapt r x.vint 2) 0 16; s.isLead r x.vint = true) :=
  ⟨⟨⟨3, 8, 7, 15⟩, ⟨.sink (.cask ⟨3, 8, 7, 15⟩), 100, Flit.zero, mmCircuit, none, 0⟩,
      (({ arrayOn with arr := { arrayOn.arr with flights := [⟨.sink (.cask ⟨3, 8, 7, 15⟩), 100, Flit.zero, mmCircuit, none, 0⟩] } }).setWord
      .desc (caskKey ⟨3, 8, 7, 15⟩) 0 0x80040000).setCask ⟨3, 8, 7, 15⟩ { CaskSt.init with wp := 3, cnt := 3 }, by decide +kernel⟩,
    ⟨⟨3, 8, 7, 15⟩, ⟨.sink (.cask ⟨3, 8, 7, 15⟩), 100, Flit.zero, mmCircuit, none, 0⟩,
      (({ arrayOn with arr := { arrayOn.arr with flights := [⟨.sink (.cask ⟨3, 8, 7, 15⟩), 100, Flit.zero, mmCircuit, none, 0⟩] } }).setWord
      .desc (caskKey ⟨3, 8, 7, 15⟩) 0 0x80040000).setCask ⟨3, 8, 7, 15⟩ { CaskSt.init with wp := 3, cnt := 4 }, by decide +kernel⟩,
    ⟨⟨0, 0, 0, 0⟩, caskCircuit, ⟨false, 2, true, false, false, false, false, 98, caskCircuit⟩, [], caskReads, by decide +kernel⟩,
    ⟨⟨3, 8, 7, 15⟩, 1, 0, 0, (State.reset.setWord .desc (caskKey ⟨3, 8, 7, 15⟩) 0 0x80040000).setWord .desc (caskKey ⟨3, 8, 7, 15⟩) 1 4,
      by decide +kernel⟩,
    ⟨⟨3, 8, 7, 15⟩, 0, 0, 0, (State.reset.setWord .desc (caskKey ⟨3, 8, 7, 15⟩) 0 0x80040000).setWord .desc (caskKey ⟨3, 8, 7, 15⟩) 1 4,
      by decide +kernel⟩,
    ⟨31, (put ringState fun s => { s with arr := { s.arr with cycles := [(31, ⟨4096, false⟩)] } }).setCask ⟨0, 0, 0, 0⟩
      { CaskSt.init with cnt := 1, wp := 1, side := [⟨false, 2, true, false, false, false, false, 98, caskCircuit⟩] }, by decide +kernel⟩,
    ⟨31, (put ringState fun s => { s with arr := { s.arr with cycles := [(31, ⟨4096, false⟩)] } }).setCask ⟨0, 0, 0, 0⟩
      { CaskSt.init with cnt := 9, wp := 9 }, by decide +kernel⟩,
    ⟨⟨0, 0, 0, 0⟩, ⟨false, 2, true, false, false, false, false, 98, caskCircuit⟩, [], ringState.setCask ⟨0, 0, 0, 0⟩
      { CaskSt.init with cnt := 1, wp := 1, decant := 1, moving := true, ringSize := 1, side := [⟨false, 2, true, false, false, false, false, 98, caskCircuit⟩] },
      by decide +kernel⟩,
    ⟨⟨0, 0, 0, 0⟩, ⟨false, 2, true, false, false, false, false, 98, caskCircuit⟩, [], State.reset.setCask ⟨0, 0, 0, 0⟩
      { CaskSt.init with cnt := 1, wp := 1, decant := 1, moving := true, ringSize := 1, side := [⟨false, 2, true, false, false, false, false, 98, caskCircuit⟩] },
      by decide +kernel⟩,
    ⟨⟨0, 0, 0, 0⟩, heldRing, by decide +kernel⟩,
    ⟨⟨0, 0, 0, 0⟩, 0, Flit.zero, heldRing, heldRing, by decide +kernel⟩,
    ⟨⟨3, 8, 27⟩, 96, ((arrayOn.setWord .param (tileKey ⟨3, 8, 27⟩) 0x3A0 0x20000000).setWord .param (tileKey ⟨3, 8, 27⟩) 0x150
      0x40).setTile ⟨3, 8, 27⟩ { TileSt.init with chain := some 96, mOwn := 77, band := 1 }, shaped_of (by decide +kernel),
      by decide +kernel⟩,
    ⟨⟨3, 8, 27⟩, 96, ((arrayOn.setWord .param (tileKey ⟨3, 8, 27⟩) 0x3A0 0x10000000).setWord .param (tileKey ⟨3, 8, 27⟩) 0x3A2
      0x8000).setTile ⟨3, 8, 27⟩ { TileSt.init with chain := some 96, adInit := true, band := 1 }, shaped_of (by decide +kernel),
      by decide +kernel⟩⟩

theorem witness_JobVerdictGraft :
    (∃ (w : SwitchSt) (s : State), s.sw = some w ∧ w.armed = true ∧ allTiles.all (s.tileSwitched w) = true ∧ s.swWait = none ∧ w.tag <
      65536 ∧ w.target < 4 ∧ s.grf.queue = []) ∧
    (∃ (c : CaskRef) (o : Option Nat) (w : Nat) (ws : List Nat) (s : State), s.arr.holdRemote = some (c, o) ∧ (s.cask c).wrPeriod = w ::
      ws ∧ w + 24 ≤ s.arr.period) ∧
    (∃ (s : State), s.job.running = true ∧ 0 < s.fget F.HUB_HOLD_LIMIT_limit_us ∧ s.periodsOf (s.fget F.HUB_HOLD_LIMIT_limit_us) <
      s.arr.holdRun ∧ s.fbit F.HUB_HOLD_STATUS_remote = true ∧ s.job.firstErr = 0) ∧
    (∃ (be : Nat) (a : Nat) (s : State), s.job.stopped = some (be, a) ∧ s.job.running = true ∧ (s.dueRows be ≤ s.vrd.row ∨ (s.tx.entered
      = true ∧ a + 2 * s.vrd.aAc ≤ s.arr.runAc)) ∧ s.sw = none ∧ s.swWait = none ∧ s.grf.queue = [] ∧ s.job.endReq = none) ∧
    (∃ (T : Fin 4) (io : Fin 4) (src : SrcRef) (fs : List Flit) (s : State), upToLast (s.hubQueue T io src) = some fs ∧ s.vrd.warm = 0) ∧
    (∃ (T : Fin 4) (io : Fin 4) (src : SrcRef) (fs : List Flit) (s : State), upToLast (s.hubQueue T io src) = some fs ∧ 0 < s.vrd.warm) ∧
    (∃ (T : Fin 4) (io : Fin 4) (src : SrcRef) (e : StageEntry) (q : List StageEntry) (s : State), s.hubQueue T io src = e :: q ∧
      let v := s.carryV e.flit.tag;
      let n := s.fget (F.VRD_TAP_V_flits_m1 v) + 1;
      let fs := ((e :: q).take n).map StageEntry.flit; s.fbit (F.VRD_TAP_V_en v) = true ∧ n ≤ q.length + 1 ∧ s.vrd.featNo = 0 ∧
          s.vrd.feats.length < s.fget (F.VRD_TAP_V_depth v)) ∧
    (∃ (q : CropReq) (qs : List CropReq) (top : Nat) (s : State), s.vrd.reqs = q :: qs ∧ (s.vrd.patchH * q.row : Nat) + s.fgetS
      (F.VRD_CROP_OFS_V_oy q.vint) = (top : Int) ∧
      let h := s.fget (F.VRD_CROP_V_h_m1 q.vint) + 1; top + h ≤ s.ing.nextStart ∧ s.staged = 0 ∧ (∀ i < h, ∀ p ∈ s.cropPlanes q.vint,
          s.phaseOf (top + i) = s.fget (F.RSH_PLANE_ill p) → (s.histAt p (top + i)).isSome = true)) ∧
    (∃ (q : CropReq) (qs : List CropReq) (s : State), s.vrd.reqs = q :: qs ∧ (s.vrd.patchH * q.row : Nat) + s.fgetS (F.VRD_CROP_OFS_V_oy
      q.vint) < 0) ∧
    (∃ (s : State), s.stepReady = true) ∧
    (∃ (q : GraftCmd) (s : State), (∀ n, (s.chan n).active = none) ∧ (∀ a, s.upsetAt a = 0) ∧ s.grf.stepping = true ∧ s.grfCur = some q ∧
      q.commit = false ∧ q.appended = true ∧ q.done + 1 < q.steps ∧ s.grf.mode = .ready ∧ s.graftReach = true ∧ s.graftRead.1 = false ∧
      (s.graftRead.2.stepSamples (s.grf.step + 1)).2.1 = false ∧ s.str.writes = []) ∧
    (∃ (q : GraftCmd) (s : State), s.grf.queue = [q] ∧ q.commit = true ∧ q.staging = true ∧ q.staged = false ∧ s.job.running = false) ∧
    (∃ (q : GraftCmd) (s : State), s.grf.queue = [q] ∧ q.commit = true ∧ q.staging = true ∧ q.staged = false ∧ s.job.running = true ∧
      q.target = s.activeV) ∧
    (∃ (q : GraftCmd) (b : Nat) (s : State), s.grf.queue = [q] ∧ q.armed = some b ∧ (s.headTiles q.target).all s.grf.changed.contains =
      true) :=
  ⟨⟨⟨5, true, 1, 0, 10, true⟩, { arrayOn with sw := some ⟨5, true, 1, 0, 10, true⟩ }, by decide +kernel⟩,
    ⟨⟨3, 8, 7, 15⟩, none, 76, [], (withFields [(F.HUB_HOLD_STATUS_remote, 1)]
      { arrayOn with arr := { arrayOn.arr with holdRemote := some (⟨3, 8, 7, 15⟩, none), period := 100 } }).setCask ⟨3, 8, 7, 15⟩
      { CaskSt.init with wrPeriod := [76] }, by decide +kernel⟩,
    ⟨withFields [(F.HUB_HOLD_LIMIT_limit_us, 1), (F.HUB_HOLD_STATUS_remote, 1)]
      { arrayOn with arr := { arrayOn.arr with holdRun := 10000 } }, by decide +kernel⟩,
    ⟨1, 0, (put arrayOn fun s =>
      { s with job := { s.job with stopped := some (1, 0), firstErr := 0x0230 }, vrd := { s.vrd with row := 64 } }), by decide +kernel⟩,
    ⟨3, 3, .tile ⟨0, 0, 16⟩ 0, [{ Flit.zero with last := true }],
      { arrayOn with arr := { arrayOn.arr with hubIn := [(3, 3, ⟨{ Flit.zero with last := true }, 50, mmCircuit⟩)] } },
      by decide +kernel⟩,
    ⟨3, 3, .tile ⟨0, 0, 16⟩ 0, [{ Flit.zero with last := true }], (put
      ({ arrayOn with arr := { arrayOn.arr with hubIn := [(3, 3, ⟨{ Flit.zero with last := true }, 50, mmCircuit⟩)] } }) fun s =>
      { s with vrd := { s.vrd with warm := 1 } }), by decide +kernel⟩,
    ⟨3, 3, .tile ⟨0, 0, 16⟩ 0, ⟨{ Flit.zero with last := true }, 50, mmCircuit⟩, [], withFields [(F.VRD_TAP_V_en 0, 1),
      (F.VRD_TAP_V_depth 0, 1)]
      { arrayOn with arr := { arrayOn.arr with hubIn := [(3, 3, ⟨{ Flit.zero with last := true }, 50, mmCircuit⟩)] } },
      by decide +kernel⟩,
    ⟨⟨9, 0, 0, 0⟩, [], 0, { arrayOn with vrd := { VrdSt.init with reqs := [⟨9, 0, 0, 0⟩] }, ing := { IngSt.init with nextStart := 1 } },
      by decide +kernel⟩,
    ⟨⟨9, 0, 0, 0⟩, [], withFields [(F.VRD_CROP_OFS_V_oy 0, 0xFFFF)] { arrayOn with vrd := { VrdSt.init with reqs := [⟨9, 0, 0, 0⟩] } },
      by decide +kernel⟩,
    ⟨withFields [(F.HUB_GRF_CTRL_en, 1), (F.HUB_VNT_STATUS_placed, 1)]
      { arrayOn with hrm := { HrmSt.init with placed := setNth HrmSt.init.placed 0 { PlacedSt.init with graft := [1] } }, grf := { GrfSt.init with bound := some [], mode := .ready, poolLen := 1, queue := [⟨false, 5, true, false, 2, [], 0, 0, none, true, 0, false, false, none⟩] } },
      by decide +kernel⟩,
    ⟨⟨false, 5, true, false, 2, [], 0, 0, none, true, 0, false, false, none⟩,
      { arrayOn with grf := { GrfSt.init with mode := .ready, stepping := true, queue := [⟨false, 5, true, false, 2, [], 0, 0, none, true, 0, false, false, none⟩] } },
      chan_idle (by decide +kernel), State.upsetAt_of_nil (by decide +kernel), by decide +kernel⟩,
    ⟨⟨true, 5, true, false, 0, [], 0, 0, none, false, 0, true, false, none⟩,
      { State.reset with grf := { GrfSt.init with mode := .ready, queue := [⟨true, 5, true, false, 0, [], 0, 0, none, false, 0, true, false, none⟩] } },
      by decide +kernel⟩,
    ⟨⟨true, 5, true, false, 0, [], 0, 0, none, false, 0, true, false, none⟩, running
      ({ State.reset with grf := { GrfSt.init with mode := .ready, queue := [⟨true, 5, true, false, 0, [], 0, 0, none, false, 0, true, false, none⟩] } }),
      by decide +kernel⟩,
    ⟨⟨true, 5, true, false, 0, [], 0, 0, none, false, 0, true, true, some 7⟩, 7, withFields [(F.HUB_GRF_GEN_gen, 65535)]
      { arrayOn with grf := { GrfSt.init with mode := .ready, queue := [⟨true, 5, true, false, 0, [], 0, 0, none, false, 0, true, true, some 7⟩] } },
      by decide +kernel⟩⟩

/-! ## Ill-formed commands are refused -/

/-- A read's code of 17 bits. -/
theorem test_wf_read_code : Instr.wf (.graftSubmit (entry 0) [] (2 ^ 16)) = false ∧ Instr.wf (.replayPush (entry 0) [] (2 ^ 16)) = false ∧
    Instr.wf (.loadBlendDone [] (2 ^ 16)) = false := by decide +kernel
/-- An offset past its aperture: BAR4 64 KiB, BAR0 1 MiB, BAR2 16 MiB. -/
theorem test_wf_aperture : Instr.wf (.doorbell 0xFFFD 0 []) = false ∧ Instr.wf (.registerWrite (.word .bar0 0xFFFFD 0) ⟨0, [], 0⟩) = false ∧
    Instr.wf (.lowWordRead .bar0 0x100000) = false ∧ Instr.wf (.rcFieldRead .bar0 0x100000) = false ∧
    Instr.wf (.indirectDataAccess .bar0 0x100000 none) = false ∧ Instr.wf (.bar0InvalidAccess true 0xFFFFF 2) = false ∧
    Instr.wf (.bar2Access 0xFFFFFF 2 none []) = false := by decide +kernel
/-- An access of no bytes. -/
theorem test_wf_empty_access : Instr.wf (.bar0InvalidAccess false 0 0) = false ∧ Instr.wf (.bar2Access 0 0 none []) = false := by
  decide +kernel
/-- A command read by the ring with an opcode of nine bits. -/
theorem test_wf_opcode : Instr.wf (.doorbell 0 0 [⟨256, entry 0, [], 0⟩]) = false := by decide +kernel
/-- Sizes that PCI Express lacks. -/
theorem test_wf_link : Instr.wf (.registerWrite (.link 64 512 0) ⟨0, [], 0⟩) = false ∧
    Instr.wf (.registerWrite (.link 256 300 0) ⟨0, [], 0⟩) = false := by decide +kernel
/-- Write bytes that are not as many as the access is long. -/
theorem test_wf_write_length : Instr.wf (.bar2Access 0 4 (some [some 1]) []) = false := by decide +kernel
/-- An error pattern wider than its codeword, and one off a block. -/
theorem test_wf_upset : Instr.wf (.waitBand ⟨0, 0, 0⟩ [⟨0, 2 ^ 91⟩]) = false ∧ Instr.wf (.firing ⟨0, 0, 0⟩ [⟨0x0100000001, 1⟩]) = false ∧
    Instr.wf (.streamBurst 0 [⟨0, 2 ^ 91⟩]) = false ∧ Instr.wf (.caskWordRead ⟨0, 0, 0, 0⟩ false [⟨0x0100000000, 2 ^ 288⟩]) = false := by
  decide +kernel
/-- An encoder event without a change. -/
theorem test_wf_encoder : Instr.wf (.encoderEdge true false true false 0) = false := by decide +kernel
/-- A pixel of thirteen bits. -/
theorem test_wf_pixel : Instr.wf (.streamPacket ⟨0, true, true, 64, 64, 0, true, 0, 0, 0, [2 ^ 12]⟩) = false := by decide +kernel
/-- A control packet of more than 1,024 bytes. -/
theorem test_wf_packet : Instr.wf (.replyOrEventPacket 0 false (List.replicate 1025 0)) = false := by decide +kernel
/-- A pointer of seventeen bits. -/
theorem test_wf_pointer : Instr.wf (.caskPointerMismatch ⟨0, 0, 0, 0⟩ (2 ^ 16) 0 0) = false := by decide +kernel
/-- A descriptor of one word. -/
theorem test_wf_descriptor : Instr.wf (.descriptorComplete 0 [0]) = false := by decide +kernel
/-- A frame without its 256 bytes. -/
theorem test_wf_frame : Instr.wf (.frame 0 ⟨[1], [0, 0, 0, 0]⟩) = false := by decide +kernel
/-- Seven regulators, seventeen sensors. -/
theorem test_wf_samples : Instr.wf (.telemetrySample (List.replicate 7 none)) = false ∧
    Instr.wf (.thermalSample (List.replicate 17 250)) = false := by decide +kernel
/-- A scrubbed block off its boundary. -/
theorem test_wf_scrub : Instr.wf (.hyperramScrub 1 []) = false ∧ Instr.wf (.sramScrub (.mem 4) [] false) = false := by decide +kernel

/-! ## The worked cases of the spec -/

/-- Worked case 0.1: a low word read latches the high word, which an increment between the reads does not reach. -/
theorem test_low_word_latch :
    let s0 := { State.reset with arr := { State.reset.arr with elast := 0x1FFFFFFFF } }
    let s1 := readFrom s0 .bar0 0x610
    let s2 := readFrom (s1.addElast 1) .bar0 0x614
    let s3 := readFrom (readFrom s2 .bar0 0x610) .bar0 0x614
    s1.cp.resp = .value 0xFFFFFFFF ∧ s2.cp.resp = .value 1 ∧ s3.cp.resp = .value 2 := by decide +kernel
/-- Under Table 1.6: the weight store of MX tile 5 in physical Row 2 of T3, in the shared store at 0x00_4000_0000. -/
theorem test_weight_store : wsBase 3 2 5 = 0x72850000 := by decide +kernel
/-- Worked case 2.2: the LOOP word at pc 1 opens C3 with 32 trips and end 5. -/
theorem test_loop_word : ((loopEff (atWord ⟨0, 0, 5⟩ 0x1C140020 { TileSt.init with pc := 1 }) ⟨0, 0, 5⟩).tile ⟨0, 0, 5⟩).loops =
    [⟨3, 2, 5, 32, 32⟩] := by decide +kernel
/-- Worked case 2.2: the FIRE word at pc 5 is d 0, e C1, clr_first, swap_last, len 64. -/
theorem test_fire_word : ((fireEff (atWord ⟨0, 0, 5⟩ 0x2070003F { TileSt.init with pc := 5 }) ⟨0, 0, 5⟩).tile ⟨0, 0, 5⟩).fire =
    some ⟨0, 1, true, true, 64, 0, 0, 0, [], false⟩ := by decide +kernel
/-- Worked case 3.1: index 5 of group 0 against a_0 = 12, and an index past the group's size at row 2, column 4. -/
theorem test_codebook :
    let book : List Byte := [0xC0, 0xEB, 0xFB, 0, 9, 37] ++ List.replicate 122 0 ++ [6] ++ List.replicate 3 0
    cbRow (bytesOf 768 (5 * 2 ^ 9)) book 3 3 12 0 = (444, false) ∧ cbRow (bytesOf 768 (6 * 2 ^ 396)) book 3 4 12 2 = (0, true) := by
  decide +kernel
/-- Worked case 3.2: requantising 23,456 and 30,000 by 19,661 and 22. -/
theorem test_requantise : rqT 23456 19661 22 = (110, false) ∧ outQ 110 (-5) (-128) 127 = (105, false) ∧ rqT 30000 19661 22 = (141, false) ∧
    outQ 141 (-5) (-128) 127 = (127, true) := by decide +kernel
/-- Worked case 3.3: a leaky ReLU of slope 1/8 at t = −300. -/
theorem test_segment : segEval (fun s => ⟨(1024 * s - 32768) / 8, 128, 0⟩) (-300) = -37 := by decide +kernel
/-- Worked case 3.4: the gains of bands 41 and 42 and their reciprocals. -/
theorem test_gain : nextGain 16384 73 320 127 2 8192 32767 = (20480, true, false) ∧ rcpOf 20480 = 13107 ∧
    nextGain 20480 91 320 127 2 8192 32767 = (22866, false, false) ∧ rcpOf 22866 = 11740 := by decide +kernel
/-- Worked case 3.4: the scaled multipliers and the scaled bias. -/
theorem test_scaled : scaleMult 19661 20480 = 24576 ∧ scaleMult 21000 13107 = 16800 ∧ scaledBias (-3000) 154880 20480 = -3750 + 154880 := by
  decide +kernel
/-- Worked case 4.3: the transforms of a block and of its kernel, and the drained outputs. -/
theorem test_winograd :
    let d : List Nat := [10, 20, 30, 40, 12, 25, 33, 41, 14, 22, 36, 50, 9, 18, 27, 60]
    let g : Nat → Nat → Int := fun i j => nth 0 [1, 0, -1, 2, 0, -2, 1, 0, -1] (3 * i + j)
    (List.range 16).map (winoV (d.map (BitVec.ofNat 256)) 0) = [2, -8, -4, 8, -43, 116, 22, -44, -1, 0, 6, -12, -3, 13, -1, 26] ∧
    (List.range 16).map (winoU g) = [4, 0, 0, -4, 8, 0, 0, -8, 0, 0, 0, 0, 4, 0, 0, -4] ∧
    (let m : Nat → Int := nth 0 [8, 0, 0, -32, -344, 0, 0, 352, 0, 0, 0, 0, -12, 0, 0, -104]
     [winoY m 0 0, winoY m 0 1, winoY m 1 0, winoY m 1 1] = [-84, -80, -83, -114]) := by decide +kernel
/-- Worked case 4.4: a block at 3:4, its first bytes and what it decodes to. -/
theorem test_silt :
    let x : List Byte := [-20, -18, -15, -10, -5, 0, 4, 9, 15, 22, 30, 41, 55, 70, 88, 107]
    let e := siltEncBlock 1 x
    e.length = 12 ∧ e.take 6 = [0xEC, 0x03, 0x20, 0x04, 0x31, 0x06] ∧
    siltDecBlock 1 e = [-20, -20, -12, -12, -4, 4, 4, 12, 12, 20, 28, 44, 52, 68, 92, 108] ∧
    siltDecBlock 2 (siltEncBlock 2 x) = [-20, -20, -20, -20, -20, 12, 12, 12, 12, 12, 44, 44, 44, 76, 76, 108] := by decide +kernel
/-- Worked case 6.1: the event word of MX tile 5 in Row 2 of V0 is unit word 520. -/
theorem test_unit_word : (State.reset.setWord .unit 0 520 7).unitWord ⟨0, 2, 5⟩ 0 0 = 7 := by decide +kernel
/-- Worked case 8.1: the exponents, roundings and root of one update. -/
theorem test_graft_update : exOf 40100 24 = 9 ∧ sround (-9410) 9 193 = -19 ∧ sround (-9410) 9 194 = -18 ∧ isqrt 94373888 = 9714 ∧
    Int.tdiv (-11968 * 4096) 9730 = -5038 ∧ sround (-201520000) 26 193407 = -4 ∧ sround (-201520000) 26 193408 = -3 ∧
    exOf 30200 24 = 8 ∧ sround (-11968) 8 191 = -47 ∧ sround (-11968) 8 192 = -46 := by decide +kernel
/-- Worked case 8.1: the deployed code of master 1,253. -/
theorem test_deployed_code : asr (1253 + 128) 8 = 5 := by decide +kernel
/-- Worked case 9.1: a bright-field pixel as a level and as a bit-plane. -/
theorem test_plane_code :
    planeCode (withFields [(F.RSH_PLANE_sh 0, 4), (F.RSH_PLANE_zp 0, 0x80)] State.reset) 0 2705 = (41, false) ∧
    planeCode (withFields [(F.RSH_PLANE_sh 0, 0), (F.RSH_PLANE_mode 0, 1)] State.reset) 0 2705 = (17, false) := by decide +kernel
/-- Worked case 10.1: the packed row of codes 10, 12, 11 and 11. -/
theorem test_packed_row : packRow none [10, 12, 11, 11] = [0x02, 0x1F, 0x21, 0x00] := by decide +kernel
/-- Worked case 11.1: the verdict record of patch row 1,000, column 40, but for the phase bit. -/
theorem test_verdict_record :
    let s := { State.reset with
      job := { State.reset.job with number := 23, bandLen := 64 }
      vrd := { State.reset.vrd with patchH := 64 }
      ing := { State.reset.ing with posOf := [(64000, 0x1000FA00)] } }
    verdictRec s ⟨0, 1000, 40, 3, 7, 85, [], false, true, false, 6⟩ =
      [0x10, 0x02, 0x03, 0x07, 0x55, 0x00, 0x06, 0x00, 0xE8, 0x03, 0, 0, 0x28, 0, 0, 0, 0x00, 0xFA, 0x00, 0x10, 0, 0, 0, 0,
       0xE8, 0x03, 0, 0, 0x17, 0, 0, 0] := by decide +kernel

/-! ## Codes against published values -/

/-- FIPS 180-4's example: the digest of "abc" begins ba7816bf. -/
theorem test_sha256 : (sha256 [0x61, 0x62, 0x63]).take 4 = [0xBA, 0x78, 0x16, 0xBF] := by decide +kernel
/-- R340: one wrong byte of a block is corrected; with a second wrong byte this pattern is not. -/
theorem test_block_code : rsDecode 36 (0x5A * 2 ^ 64) = .corrected 0 ∧ rsDecode 36 (1 + 2 ^ 16) = .bad := by decide +kernel

/-! ## Commands on small states -/

/-- The table gives no bits, so no word spells a command. -/
theorem test_no_word : decodeTableWord 32 0 = none := by decide +kernel
/-- A block with nothing pending idles in its reset state but for its clocks: nothing is answered. -/
theorem test_idle_answers_nothing : (match step State.reset with | .next t => t.cp.resp == .none && t.pending.isEmpty | _ => false) = true := by
  decide +kernel
/-- A command is taken from the front of the queue. -/
theorem test_step_takes_front :
    (match step { State.reset with pending := [.wipeDone, .sync] } with | .next t => t.pending == [.sync] | _ => false) = true := by
  decide +kernel

end Sys2Proof.Tests
end

section
/-!
PROOFS. Accesses of the register space (00, 0.4): the way of an access that no rule bars, what a write by access codes leaves, what a read
latches and clears, and what a Row loses when the last Vintage placed in it is unplaced.
-/
namespace Sys2Proof.Machine

variable (s : State)

/-! ## Offsets below the Terrace windows -/

theorem placeOf_of_lt {o : Nat} (h : o < 0x80000) : placeOf o = .hub := by
  simp [placeOf, inHubBlocks, h]

/-- Below the Terrace windows three offsets are data registers, and no other (R473). -/
theorem State.indOf_of_lt {o : Nat} (h : o < 0x80000) (hd : o ∉ [R.VRD_CMAP_DATA, R.STR_PROG_DATA, R.HUB_PRB_DATA_HI]) :
    s.indOf o = none := by
  simp only [List.mem_cons, List.not_mem_nil, or_false, not_or] at hd
  obtain ⟨hcmap, hprog, hprb⟩ := hd
  simp only [State.indOf, placeOf_of_lt h, hcmap, hprog, hprb, if_false]

/-- The low words of 64-bit quantities are aligned offsets below the Terrace windows, and the offset of no data register. -/
theorem isLow_spec {o : Nat} (h : isLow o = true) :
    o % 4 = 0 ∧ o < 0x80000 ∧ o ∉ [R.VRD_CMAP_DATA, R.STR_PROG_DATA, R.HUB_PRB_DATA_HI] := by
  simp only [isLow, List.contains_eq_mem, List.mem_cons, List.not_mem_nil, or_false, Bool.or_eq_true, Bool.and_eq_true,
    decide_eq_true_eq, beq_iff_eq] at h
  simp only [R.VRD_CMAP_DATA, R.STR_PROG_DATA, R.HUB_PRB_DATA_HI, List.mem_cons, List.not_mem_nil, or_false, not_or]
  omega

/-! ## Accesses that no rule bars -/

variable {s} in
/-- A write of an aligned word outside a reset that no rule bars reaches the register (R314). -/
theorem State.regWrite_of_not_barred {src : AccSrc} {o : Nat} (v : Word) (env : WriteEnv) (hr : s.rstRank = 0)
    (hb : s.barred src o = none) (ho : o % 4 = 0) : s.regWrite src o v env = s.writeReg src o v env := by
  simp [State.regWrite, hr, hb, ho]

variable {s} in
/-- A read of an aligned word outside a reset that no rule bars answers what the register reads as (R314). -/
theorem readFrom_of_not_barred {src : AccSrc} {o : Nat} {w : Word} {t : State} (hbar4 : src ≠ .bar4) (hcfg : src ≠ .config)
    (hr : s.rstRank = 0) (hb : s.barred src o = none) (ho : o % 4 = 0) (hread : s.readReg o = (w, t)) :
    readFrom s src o = t.respond (.value w.toNat) := by
  simp [readFrom, hbar4, hcfg, ho, State.regRead, hr, hb, hread, State.respond]

/-! ## Writes by access codes (R7, R9) -/

/-- What a write by access codes leaves of `old` before Sealed: bits with code RW or RWS take the value, W1C bits written as 1 clear. -/
abbrev byAccessCodes (o : Nat) (old v : Word) : Word :=
  (old &&& ~~~((accMask (fun a => a == .rw) o ||| accMask (fun a => a == .rws) o) ||| (accMask (fun a => a == .w1c) o &&& v))) |||
    (v &&& (accMask (fun a => a == .rw) o ||| accMask (fun a => a == .rws) o))

/-- Below the Terrace windows a write by access codes changes the register alone, but for HUB.DLD_STATUS, whose valid bit clears its fail
bit too. -/
theorem State.storeReg_of_lt (src : AccSrc) {o : Nat} (v : Word) (hs : s.sealed = false) (h : o < 0x80000)
    (hd : o ≠ R.HUB_DLD_STATUS) : s.storeReg src o v = s.setReg o (byAccessCodes o (s.reg o) v) := by
  have hclear : ∀ t : State, t.clearCapture o v = t := fun t => by
    simp only [State.clearCapture, placeOf_of_lt h, hd, if_false, ite_self]
  simp only [State.storeReg, hs, placeOf_of_lt h, hclear, Bool.false_and, Bool.false_eq_true, if_false]
  exact congrArg _ BitVec.or_zero

/-- A write of a HUB register that no row of its own takes and no job locks goes by the access codes. -/
theorem State.blockWrite_hub (src : AccSrc) {o : Nat} (v : Word) (env : WriteEnv) (h : o < 0x8000) (hreg : (regAt o).isSome = true)
    (hjob : (s.job.running && jobLocked o) = false) (hrow : o ∉ [R.HUB_IRQ_MASK, R.HUB_PRB_CTRL, R.HUB_RST_CTRL]) :
    s.blockWrite src o v env = s.storeReg src o v := by
  simp only [List.mem_cons, List.not_mem_nil, or_false, not_or] at hrow
  obtain ⟨hmask, hprb, hrst⟩ := hrow
  have hring : ¬ (0x8100 ≤ o ∧ o < 0x81A0) := by omega
  have hlt : o < 0x10000 := by omega
  have hhub : hubWrite s src o v env = s.storeReg src o v := by simp only [hubWrite, hmask, hprb, hrst, hring, if_false]
  simp only [State.blockWrite, hjob, Bool.false_and, Bool.false_eq_true, hlt, hreg, hhub, if_true, if_false]

/-- The row REGISTER_WRITE is a write of the register space, from every source but configuration space. -/
theorem exec_registerWrite_word {src : AccSrc} (o : Nat) (v : Word) (env : WriteEnv) (h : src ≠ .config) :
    exec (.registerWrite (.word src o v) env) s = .next (s.regWrite src o v env) := by
  have e : exec (.registerWrite (.word src o v) env) s = .next (registerWriteEff s (.word src o v) env) := rfl
  simp [e, registerWriteEff, h]

/-! ## Reads that latch and clear (R6, R8) -/

/-- Clearing the RC fields writes the register back without them; only a read of MM.CASK_HWM sets a cask besides. -/
theorem State.readClear_cases (o : Nat) :
    let t := s.setReg o (s.reg o &&& ~~~ accMask (fun a => a == .rc) o)
    s.readClear o = t ∨ ∃ c x, s.readClear o = t.setCask c x := by
  intro t
  unfold State.readClear
  dsimp only
  split
  · split
    · exact .inr ⟨_, _, rfl⟩
    · exact .inl rfl
  · exact .inl rfl

theorem State.readClear_regs (o : Nat) :
    (s.readClear o).regs = (s.setReg o (s.reg o &&& ~~~ accMask (fun a => a == .rc) o)).regs := by
  obtain h | ⟨c, x, h⟩ := s.readClear_cases o <;> rw [h]
  exact State.setCask_regs _ c x

theorem State.readClear_cp (o : Nat) : (s.readClear o).cp = s.cp := by
  obtain h | ⟨c, x, h⟩ := s.readClear_cases o <;> rw [h]
  · exact State.setReg_cp s _ _
  · exact State.setCask_cp _ c x

theorem State.sameMem_readClear (o : Nat) : s.sameMem (s.readClear o) := by
  obtain h | ⟨c, x, h⟩ := s.readClear_cases o <;> rw [h]
  · exact State.sameMem_setReg s _ _
  · exact State.sameMem_of_eq rfl rfl rfl

theorem State.reg_readClear (o : Nat) : (s.readClear o).reg o = s.reg o &&& ~~~ accMask (fun a => a == .rc) o :=
  (State.reg_congr (s.readClear_regs o) o).trans (State.reg_setReg_same s o _)

theorem State.regsBut_readClear (o : Nat) : s.regsBut (s.readClear o) [o] :=
  State.regsBut_trans (State.regsBut_setReg s o _) (State.regsBut_of_regs (s.readClear_regs o) _)

variable {s}

/-- A high word that stands latched is answered and used up (R6). -/
theorem State.readReg_latched {o p : Nat} {w : Word} (hi : s.indOf o = none)
    (hl : (s.cp.latch.find? fun y => y.1 == o) = some (p, w)) :
    s.readReg o = (w, s.mapCp fun c => { c with latch := c.latch.filter fun y => y.1 != o }) := by
  simp only [State.readReg, hi, hl]

/-- Any other register answers what it shows; the high word of a low one is latched and RC fields clear (R6, R8). -/
theorem State.readReg_unlatched {o : Nat} (hi : s.indOf o = none) (hl : (s.cp.latch.find? fun y => y.1 == o) = none) :
    s.readReg o = (s.view o, (if isLow o then s.latchHigh (o + 4) (s.view (o + 4)) else s).readClear o) := by
  simp only [State.readReg, hi, hl]

/-- A word of a list of latched words that has been taken out is not found there. -/
theorem find?_latch_filter (l : List (Nat × Word)) (o : Nat) : ((l.filter fun y => y.1 != o).find? fun y => y.1 == o) = none := by
  simp [List.find?_eq_none]

/-! ## Rows that lose their contents (R385) -/

/-- An entry that does not stay in a store reads as its default. -/
theorem sget_filter_gone {β : Type} (d : Nat → β) (m : SMap β) (p : Nat × β → Bool) (k : Nat) (h : ∀ v, p (k, v) = false) :
    sget d (m.filter p) k = d k := by
  induction m with
  | nil => rfl
  | cons x m ih =>
    obtain ⟨k', v⟩ := x
    cases hp : p (k', v) with
    | false => simpa [List.filter_cons, hp] using ih
    | true =>
      have hk : k' ≠ k := fun e => by simp [e, h v] at hp
      simpa [List.filter_cons, hp, sget, hk] using ih

/-- A parameter word of a tile in a lost Row reads 0. -/
theorem State.param_loseRows {lost : Nat → Bool} {u i : Nat} (hu : u < 2 ^ 16) (hi : i < 2 ^ 16) (h : lost (u / 30) = true) :
    (s.loseRows lost).word .param u i = 0 := by
  have hspace : wordKey .param u i / 2 ^ 32 = 0 := by simp only [wordKey, Space.num]; omega
  have hunit : wordKey .param u i / 2 ^ 16 % 2 ^ 16 = u := by simp only [wordKey, Space.num]; omega
  refine sget_filter_gone zeroW s.words _ _ fun v => ?_
  simp only [hspace, hunit, h]
  rfl

/-- From a state that keeps a Row to one that does not, the parameter words of the Row's tiles are lost. -/
theorem State.param_settleRows {t : State} {u i : Nat} (hu : u < 1080) (hi : i < 2 ^ 16) (hs : s.rowKept (u / 30) = true)
    (ht : t.rowKept (u / 30) = false) : (s.settleRows t).word .param u i = 0 := by
  have hoff : u / 30 ∈ (List.range 36).filter fun n => s.rowKept n && !t.rowKept n := by
    simp only [List.mem_filter, List.mem_range, hs, ht, Bool.not_false, Bool.and_self, and_true]
    omega
  have hne : ((List.range 36).filter fun n => s.rowKept n && !t.rowKept n).isEmpty = false := by
    simpa [List.isEmpty_eq_false_iff] using List.ne_nil_of_mem hoff
  simp only [State.settleRows, hne, Bool.false_eq_true, if_false]
  exact State.param_loseRows (by omega) hi (List.contains_iff_mem.mpr hoff)

/-- Outside a job a write of placement state unplaces first, writes, and then lets the Rows that nothing keeps any longer lose what they
hold. -/
theorem State.word_placeTouch (hj : s.job.running = false) (src : AccSrc) (o w : Nat) (k : State → State) (sp : Space) (u i : Nat) :
    (s.placeTouch src o [w] k).word sp u i = (s.settleRows (k (s.unplace w))).word sp u i := by
  have hv : s.vLocked w = false := by simp [State.vLocked, hj]
  simp only [State.placeTouch, List.any_cons, List.any_nil, hv, Bool.or_self, Bool.false_eq_true, if_false, List.foldl_cons,
    List.foldl_nil]
  split
  · split <;> rfl
  · rfl

theorem State.word_autoinc (x : IndReg) (sp : Space) (u i : Nat) : (s.autoinc x).word sp u i = s.word sp u i := by
  unfold State.autoinc
  dsimp only
  split <;> rfl

/-- Vintage 1 is placed and only it uses MX tile 0 of Row 0 of Terrace 0, whose PARAM_ADDR selects its first program word. -/
def soleUser : State :=
  ((State.reset.setReg (R.MX_SEQ_CTRL (tb ⟨0, 0, 0⟩)) 2).setReg (R.MX_PARAM_ADDR (tb ⟨0, 0, 0⟩)) 0x40).setReg R.HUB_VNT_STATUS 2

theorem soleUser_indOf : soleUser.indOf (R.MX_PARAM_DATA (tb ⟨0, 0, 0⟩)) =
    some ⟨R.MX_PARAM_ADDR (tb ⟨0, 0, 0⟩), 10, .word .param 0 0x40 (some 1)⟩ := by decide +kernel

theorem soleUser_not_barred : soleUser.barred .bar0 (R.MX_PARAM_DATA (tb ⟨0, 0, 0⟩)) = none := by decide +kernel

/-- Row 0 keeps its contents for Vintage 1, and nothing keeps them once a write of its program word has unplaced that. -/
theorem soleUser_rowKept : soleUser.rowKept 0 = true ∧ ((soleUser.unplace 1).ctlWrite .param 0 0x40 5).rowKept 0 = false := by
  decide +kernel

/-- The program word written is lost with the Row. -/
theorem soleUser_write_lost (env : WriteEnv) :
    (soleUser.regWrite .bar0 (R.MX_PARAM_DATA (tb ⟨0, 0, 0⟩)) 5 env).word .param 0 0x40 = 0 := by
  rw [State.regWrite_of_not_barred 5 env rfl soleUser_not_barred rfl]
  simp only [State.writeReg, soleUser_indOf, State.indWrite]
  rw [State.word_autoinc, State.word_placeTouch rfl]
  exact State.param_settleRows (by decide) (by decide) soleUser_rowKept.1 soleUser_rowKept.2

end Sys2Proof.Machine

open Sys2Proof Sys2Proof.Machine

/-- Settles O18: the write passes every check on its way to State.storeReg, which is the access codes and nothing else. -/
theorem registerWriteByAccessCodes : Obligations.RegisterWriteByAccessCodes := by
  unfold Obligations.RegisterWriteByAccessCodes
  intro src o v env s hcfg hr hb hsealed hlt ho hreg hjob hrow
  have h80000 : o < 0x80000 := by omega
  simp only [List.mem_cons, List.not_mem_nil, or_false, not_or] at hrow
  obtain ⟨hmask, hprb, hrst, hhi, hdld⟩ := hrow
  have hind : s.indOf o = none := s.indOf_of_lt h80000 (by
    simp only [R.VRD_CMAP_DATA, R.STR_PROG_DATA, List.mem_cons, List.not_mem_nil, or_false, not_or]
    exact ⟨by omega, by omega, hhi⟩)
  have hwrite : s.writeReg src o v env = s.blockWrite src o v env := by
    simp only [State.writeReg, hind, placeOf_of_lt h80000]
  rw [exec_registerWrite_word s o v env hcfg, State.regWrite_of_not_barred v env hr hb ho, hwrite,
    s.blockWrite_hub src v env hlt hreg hjob (by simp [hmask, hprb, hrst]), s.storeReg_of_lt src v hsealed h80000 hdld]

/-- Settles O19: a low word, a latched high word and a register with RC fields are the three ways through State.readReg. -/
theorem readsLatchAndClear : Obligations.ReadsLatchAndClear := by
  unfold Obligations.ReadsLatchAndClear
  refine ⟨?low, ?high, ?rc⟩
  case low =>
    intro src o s hbar4 hcfg hr hb hlow hlatch
    obtain ⟨ho, hlt, hdata⟩ := isLow_spec hlow
    have hread := State.readReg_unlatched (s.indOf_of_lt hlt hdata) hlatch
    rw [if_pos hlow] at hread
    refine ⟨_, congrArg Host.Outcome.next (readFrom_of_not_barred hbar4 hcfg hr hb ho hread), rfl, ?_,
      (s.latchHigh (o + 4) (s.view (o + 4))).regsBut_readClear o, (s.latchHigh (o + 4) (s.view (o + 4))).sameMem_readClear o⟩
    simp [State.respond, State.readClear_cp, State.latchHigh]
  case high =>
    intro src o w s hbar4 hcfg hr hb ho hi hlatch
    have hread := State.readReg_latched hi hlatch
    exact ⟨_, congrArg Host.Outcome.next (readFrom_of_not_barred hbar4 hcfg hr hb ho hread), rfl,
      find?_latch_filter s.cp.latch o, State.regsBut_refl s _, State.sameMem_refl s⟩
  case rc =>
    intro src o s hbar4 hcfg hr hb ho hi hlow hlatch
    have hread := State.readReg_unlatched hi hlatch
    rw [if_neg (by simp [hlow])] at hread
    exact ⟨_, congrArg Host.Outcome.next (readFrom_of_not_barred hbar4 hcfg hr hb ho hread), rfl,
      s.reg_readClear o, s.regsBut_readClear o, s.sameMem_readClear o⟩

/-- Refutes O20: when the Vintage that the word belongs to is the last one placed in the tile's Row, the write unplaces it (R472), the Row
loses its contents (R385, log 48) and the word written reads 0, not its value 5. -/
theorem not_indirectWriteAndAutoinc : ¬ Obligations.IndirectWriteAndAutoinc := by
  unfold Obligations.IndirectWriteAndAutoinc
  intro h
  obtain ⟨t, ht, hword, -⟩ := h .bar0 (R.MX_PARAM_DATA (tb ⟨0, 0, 0⟩)) 0 0x40 (R.MX_PARAM_ADDR (tb ⟨0, 0, 0⟩)) 10 .param (some 1) 5
    soleUser rfl soleUser_not_barred rfl rfl rfl soleUser_indOf (by decide) rfl
  have hexec : exec (.indirectDataAccess .bar0 (R.MX_PARAM_DATA (tb ⟨0, 0, 0⟩)) (some 5)) soleUser =
      .next (soleUser.regWrite .bar0 (R.MX_PARAM_DATA (tb ⟨0, 0, 0⟩)) 5 soleUser.plainEnv) := rfl
  obtain rfl := Host.Outcome.next.inj (hexec.symm.trans ht)
  rw [soleUser_write_lost] at hword
  exact absurd hword (by decide)

end

section
/-!
PROOFS. Lines and the command processor (09 R280; 11 R324, R328): LINE_COMPLETE lets the processor go on, since the line may end a
REPLAY_PUSH, and what the processor then takes acts in the same command. A START_JOB can stand in its queue with nothing left to hold it.
-/
namespace Sys2Proof.Machine

/-- LINE_COMPLETE takes or discards the device line, and then the processor takes what it may. -/
theorem exec_lineComplete (s : State) : exec .lineComplete s = .next (lineCompleteEff s).pump := rfl

/-- The performance report of a Vintage with patch stride 16 and bands of 16 to 256 lines. -/
def stride16Report : List Byte := bytesOf 14 0 ++ bytesOf 2 16 ++ bytesOf 2 0 ++ bytesOf 1 16 ++ bytesOf 1 0 ++ bytesOf 44 0

/-- One camera of 64 pixels on link 0, with the regions of the shared store that its jobs need (Table 10.1). -/
def oneCamera : State :=
  [(F.ING_CAM_CFG_links 0, 1), (F.ING_CAM_CFG_width_m1 0, 63), (F.ING_CAM_POS_trig 0, 15), (F.ING_LINK_STATUS_lock, 1),
    (F.SLC_CFG_own_width_m1, 63), (F.HUB_SS_R_base 3, 16), (F.HUB_SS_R_size 3, 4), (F.HUB_SS_R_base 7, 32), (F.HUB_SS_R_size 7, 1),
    (F.HUB_VNT_STATUS_placed, 1)].foldl (fun s x => s.fset x.1 x.2) State.reset

/-- A replay job has just ended (R182, R328). It leaves in the processor's queue a REPLAY_PUSH, which was held while 16 were in hand and which
nothing holds outside a replay job, and behind it a START_JOB of 64-line bands, which Vintage 0 passes. The camera has completed a line. -/
def restartQueued : State :=
  { oneCamera with
    sec := { oneCamera.sec with released := true }
    hrm := { oneCamera.hrm with placed := setNth oneCamera.hrm.placed 0 { PlacedSt.init with report := stride16Report } }
    ing := { oneCamera.ing with cams := setNth oneCamera.ing.cams 0 { CamSt.init with lines := [⟨List.replicate 64 (some 5), 0, 0, 0⟩] } }
    cp := { oneCamera.cp with
      replay := List.replicate 16 ⟨4, false, 0, 1, 64, 0, 0, 0, List.replicate 64 5, 0⟩
      cmds := [⟨0x0D, ⟨0, 5, 0, 0⟩, [], 0⟩, ⟨0x03, ⟨0, 6, 0, 64⟩, [], 0⟩] } }

theorem restartQueued_shaped : restartQueued.shaped := shaped_of (by decide +kernel)

theorem restartQueued_cams : restartQueued.cams = [0] := by decide +kernel

/-- The processor then answers the REPLAY_PUSH and takes the START_JOB, whose job runs. -/
theorem restartQueued_pump : (lineCompleteEff restartQueued).pump.job.running = true := by decide +kernel

end Sys2Proof.Machine

open Sys2Proof Sys2Proof.Machine

/-- Refutes O56, in its clause on complete lines: outside a job a line is discarded and, it says, the job stays as it was; but where the end of
a replay job has freed a START_JOB in the queue, LINE_COMPLETE lets the processor take it, and a job runs. No premise keeps the queue empty. -/
theorem not_cameraLines : ¬ Obligations.CameraLines := by
  unfold Obligations.CameraLines
  intro h
  obtain ⟨-, -, -, -, -, -, hcomplete, -⟩ := h
  have hlines : ∀ c ∈ restartQueued.cams, (restartQueued.cam c).lines ≠ [] := by
    rw [restartQueued_cams]
    decide
  obtain ⟨t, ht, -, -, hdiscard, -⟩ := hcomplete restartQueued restartQueued_shaped (by simp [restartQueued_cams]) rfl hlines
  obtain rfl := Host.Outcome.next.inj ((exec_lineComplete restartQueued).symm.trans ht)
  have hidle : restartQueued.job.running = false := rfl
  obtain ⟨hjob, -⟩ := hdiscard (.inl fun hmine => Bool.false_ne_true (hidle.symm.trans hmine.1))
  exact Bool.false_ne_true (hidle.symm.trans ((congrArg JobSt.running hjob).symm.trans restartQueued_pump))

end

section
/-!
PROOFS. START_JOB and the end of its fills (02 R52, R112; 11 R326): what a START_JOB that passes its checks leaves, where every tile then
stands, and what the fill records can change before the job runs.
-/
namespace Sys2Proof.Machine

variable (s : State)

/-! ## What a completion changes besides ring 1 -/

theorem State.onlyLogs_capture (k : Nat) (fCode fValid : Fld) (code : Nat) : s.onlyLogs (s.capture k fCode fValid code) := by
  unfold State.capture
  split
  · exact .refl s
  · exact ((State.onlyLogs_fset s _ _).trans (State.onlyLogs_fset _ _ _)).trans (State.onlyLogs_irq _ _)

theorem State.onlyLogs_raise (code : Nat) : s.onlyLogs (s.raise code) := by
  unfold State.raise
  split
  · exact (State.onlyLogs_note s code).trans (State.onlyLogs_capture _ _ _ _ _)
  · exact State.onlyLogs_note s code

/-- A completion takes an open value where it ends in an error without a result, logs its code, and joins the entries that wait (R330). -/
theorem State.complete_spec (tag op code result : Nat) (irq : Bool) :
    ∃ res n u, (code = 0 → res = result) ∧ ({ s with free := n } : State).onlyLogs u ∧
      s.complete tag op code result irq = u.mapCp fun c => { c with comps := c.comps ++ [⟨1, tag, op, code, res, irq⟩] } := by
  by_cases h : code ≠ 0 ∧ result = 0
  · refine ⟨(s.freshBelow (2 ^ 64)).1, s.free + 1, _, fun h0 => absurd h0 h.1, State.onlyLogs_raise _ code, ?_⟩
    unfold State.complete
    rw [if_pos h]
    rfl
  · refine ⟨result, s.free, _, fun _ => rfl, State.onlyLogs_raise s code, ?_⟩
    unfold State.complete
    rw [if_neg h]

/-! ## The command START_JOB -/

/-- The state in which a START_JOB taken from ring 0 begins its job: its entry consumed, the command in hand (R325). -/
def State.startTaken (s : State) (e : CmdEntry) : State := s.consumed.mapCp fun x => { x with serial := some ⟨3, e, [], 0⟩ }

variable {s} in
/-- A processor that takes a well-formed START_JOB checks it at once (R325, R326). -/
theorem exec_startJob_takes {e : CmdEntry} (h : s.takes) (hm : malformed ⟨3, e, [], 0⟩ = false) :
    exec (.startJob e) s = .next (takeStart s.consumed ⟨3, e, [], 0⟩) := by
  have hop : ¬ 0x0F < (⟨3, e, [], 0⟩ : Cmd).op := by change ¬ 15 < 3; decide
  have hrun := runCmd_takes s 3 e [] 0 h (by simp [State.replayFull]) (by simp [State.placeWaits])
  simp only [State.takeCmd, hm, if_neg hop, Bool.false_eq_true, if_false] at hrun
  exact hrun

variable {s} in
theorem exec_startJob_passes {e : CmdEntry} (h : s.takes) (hm : malformed ⟨3, e, [], 0⟩ = false)
    (hcode : s.consumed.startCode (CmdF e 8 2) = 0) :
    exec (.startJob e) s = .next ((s.startTaken e).beginJob e.tag.toNat (CmdF e 8 2) (bitN (CmdF e 10 1) 0) (bitN (CmdF e 10 1) 1)
      (CmdF e 12 4)) :=
  (exec_startJob_takes h hm).trans (congrArg _ (if_neg (not_not_intro hcode)))

variable {s} in
theorem exec_startJob_fails {e : CmdEntry} (h : s.takes) (hm : malformed ⟨3, e, [], 0⟩ = false)
    (hcode : s.consumed.startCode (CmdF e 8 2) ≠ 0) :
    exec (.startJob e) s = .next (s.consumed.complete e.tag.toNat 3 (s.consumed.startCode (CmdF e 8 2)) 0 (e.flags.getLsbD 0)) :=
  (exec_startJob_takes h hm).trans (congrArg _ (if_pos hcode))

/-- Taking an entry of ring 0 leaves every field outside the ring's consumer index. -/
theorem State.fget_startTaken (e : CmdEntry) {f : Fld} (h : f.off ≠ R.PCI_RING_CONS 0) : (s.startTaken e).fget f = s.fget f :=
  congrArg f.of (State.reg_setReg_other s _ h)

@[simp] theorem State.activeV_startTaken (e : CmdEntry) : (s.startTaken e).activeV = s.activeV := s.fget_startTaken e (by decide)

/-- A tile's registers lie above the first Row window of its Terrace (R39, R41). -/
theorem rowBase_le_tb (r : TileRef) : 0x82000 + r.t * 0x20000 ≤ tb r := by
  simp only [tb, tileBase, rowBase]
  omega

@[simp] theorem State.usesTile_startTaken (e : CmdEntry) (r : TileRef) (v : Nat) :
    (s.startTaken e).usesTile r v = s.usesTile r v := by
  have hoff : (F.MX_SEQ_CTRL_use_v (tb r)).off ≠ R.PCI_RING_CONS 0 := by
    have := rowBase_le_tb r
    simp only [F.MX_SEQ_CTRL_use_v, R.MX_SEQ_CTRL, R.PCI_RING_CONS]
    omega
  simp only [State.usesTile, s.fget_startTaken e hoff]

/-! ## What a job finds as it begins

State.beginJob is a long chain of updates: a proof by reduction compares whole states, so these rewrite with equations instead. -/

section
variable (tag B : Nat) (replay system : Bool) (number : Nat)

theorem State.beginJob_job : (s.beginJob tag B replay system number).job =
    { JobSt.init with running := true, filling := true, number := number, bandLen := B, replay := replay, system := system, tag := tag } := by
  simp only [State.beginJob]

@[simp] theorem State.beginJob_cp : (s.beginJob tag B replay system number).cp = s.cp := by
  simp -implicitDefEqProofs [State.beginJob, State.startVrd, State.startArray]

theorem State.beginJob_arr : (s.beginJob tag B replay system number).arr = s.startArray.arr := by
  simp -implicitDefEqProofs [State.beginJob, State.startVrd]

/-- Of the registers a START_JOB writes PWR.STATE.state alone. -/
theorem State.beginJob_regs : (s.beginJob tag B replay system number).regs = (s.fset F.PWR_STATE_state 0).regs := by
  simp -implicitDefEqProofs [State.beginJob, State.startVrd, State.startArray, State.fset, State.setReg, State.reg]

theorem State.sameMem_beginJob : s.sameMem (s.beginJob tag B replay system number) := by
  apply State.sameMem_of_eq <;> simp -implicitDefEqProofs [State.beginJob, State.startVrd, State.startArray]

/-- PWR.STATE.state is 0 in a job. -/
theorem State.beginJob_power : (s.beginJob tag B replay system number).fget F.PWR_STATE_state = 0 :=
  (congrArg _ (State.reg_congr (s.beginJob_regs tag B replay system number) _)).trans (s.fget_fset_same F.PWR_STATE_state 0 (by decide))

theorem State.regsBut_beginJob : s.regsBut (s.beginJob tag B replay system number) [R.PWR_STATE] := fun o ho =>
  (State.reg_congr (s.beginJob_regs tag B replay system number) o).trans (s.regsBut_fset F.PWR_STATE_state 0 o ho)

end

/-- The array's counts start at 0, its casks and wires empty, at every tile's own start (R52, R145, R150). -/
theorem State.startArray_arr : s.startArray.arr =
    { ArraySt.init with
      tiles := allTiles.foldl (fun m r => sset (fun _ => TileSt.init) m (tileKey r) (startTile s r)) [], period := s.arr.period } := by
  simp only [State.startArray, State.mapArr_arr]

theorem mem_allTiles (r : TileRef) : r ∈ allTiles := by
  obtain ⟨t, row, k⟩ := r
  simp only [allTiles, List.mem_flatMap, List.mem_map, List.mem_range]
  exact ⟨t, t.isLt, row, row.isLt, k, k.isLt, by simp⟩

/-- Tiles set one after the other, each to a value of its own: a tile in the list reads as its value. -/
theorem sget_foldl_tiles (f : TileRef → TileSt) (r : TileRef) (rs : List TileRef) (m : SMap TileSt)
    (h : r ∈ rs ∨ sget (fun _ => TileSt.init) m (tileKey r) = f r) :
    sget (fun _ => TileSt.init) (rs.foldl (fun m q => sset (fun _ => TileSt.init) m (tileKey q) (f q)) m) (tileKey r) = f r := by
  induction rs generalizing m with
  | nil => exact h.resolve_left List.not_mem_nil
  | cons q rs ih =>
    refine ih _ ?_
    by_cases hq : r = q
    · subst hq
      exact .inr (sget_sset_same _ m _ _)
    · have hk : tileKey r ≠ tileKey q := fun e => hq (tileKey_inj e)
      rw [sget_sset_other _ m _ hk]
      exact h.imp_left fun hm => (List.mem_cons.mp hm).resolve_left hq

/-- Every tile stands as START_JOB puts it (R52). -/
theorem State.tile_startArray (r : TileRef) : s.startArray.tile r = startTile s r := by
  simp only [State.tile, State.startArray_arr]
  exact sget_foldl_tiles (startTile s) r allTiles [] (.inl (mem_allTiles r))

theorem State.tile_beginJob (tag B : Nat) (replay system : Bool) (number : Nat) (r : TileRef) :
    (s.beginJob tag B replay system number).tile r = startTile s r := by
  rw [State.tile, State.beginJob_arr]
  exact s.tile_startArray r

/-! ## What the fills can change (R112) -/

/-- `t` differs from `s` at most in the contents of memory and in what error reporting can change. -/
def State.onlyData (s t : State) : Prop :=
  ∃ m p u, ({ s with mem := m, poison := p, upset := u } : State).onlyLogs t

namespace State.onlyData

theorem refl (s : State) : s.onlyData s := ⟨s.mem, s.poison, s.upset, .refl s⟩

theorem trans {s t u : State} (h1 : s.onlyData t) (h2 : t.onlyData u) : s.onlyData u := by
  obtain ⟨m, p, x, r, i, c, w, e, n, rfl⟩ := h1
  obtain ⟨m', p', x', r', i', c', w', e', n', rfl⟩ := h2
  exact ⟨m', p', x', r', i', c', w', e', n', rfl⟩

theorem of_logs {s t : State} (h : s.onlyLogs t) : s.onlyData t := ⟨s.mem, s.poison, s.upset, h⟩

theorem foldl {α : Type} (f : State → α → State) (h : ∀ (s : State) a, s.onlyData (f s a)) (l : List α) (s : State) :
    s.onlyData (l.foldl f s) := by
  induction l generalizing s with
  | nil => exact refl s
  | cons a l ih => exact (h s a).trans (ih (f s a))

end State.onlyData

theorem State.onlyData_putBytes (a : Nat) (bs : List Byte) : s.onlyData (s.putBytes a bs) := by
  induction bs generalizing s a with
  | nil => exact .refl s
  | cons b bs ih =>
    have hbyte : s.onlyData (s.setByte a b) := ⟨_, s.poison, s.upset, .refl _⟩
    exact hbyte.trans (ih (s.setByte a b) (a + 1))

/-- A codeword rewritten: its bytes, its mark, no error. -/
theorem State.onlyData_rewrite (a : Nat) (bs : List Byte) (p : Bool) :
    s.onlyData (((s.putBytes a bs).setPoison a p).setUpset a 0) :=
  (s.onlyData_putBytes a bs).trans ⟨(s.putBytes a bs).mem, _, _, .refl _⟩

theorem writeCw_onlyData (a o : Nat) (bs : List Byte) (p : Bool) : s.onlyData (writeCw s a o bs p) := by
  unfold writeCw
  split
  · exact s.onlyData_rewrite a bs p
  · exact (State.onlyData.of_logs (readCw_onlyLogs s a)).trans (State.onlyData_rewrite _ a _ _)

theorem writeCws_onlyData (n a : Nat) (bs : List Byte) (p : Bool) : s.onlyData (writeCws s n a bs p) := by
  induction n generalizing s a bs with
  | zero => exact .refl s
  | succ n ih =>
    unfold writeCws
    split
    · exact .refl s
    · exact (writeCw_onlyData s _ _ _ p).trans (ih _ _ _)

theorem fillWords_onlyData (base enc fill w n : Nat) : s.onlyData (fillWords s base enc fill w n) := by
  induction n generalizing s w with
  | zero => exact .refl s
  | succ n ih => exact (writeCws_onlyData s _ _ _ false).trans (ih _ (w + 1))

theorem fillTile_onlyData (r : TileRef) : s.onlyData (fillTile s r) := by
  refine State.onlyData.foldl _ (fun u v => State.onlyData.foldl _ (fun w f => ?_) _ u) _ s
  dsimp only
  split
  · exact fillWords_onlyData w _ _ _ _ _
  · exact .refl w

/-- A processor with nothing read ahead has nothing to take. -/
theorem State.pump_nil {s : State} (h : s.cp.cmds = []) : s.pump = s := by
  simp [State.pump, h, State.pumpCmds]

/-- The fills of a job that is no system job end: the array is clocked and START_JOB completes (R112). -/
theorem fillRecordsDoneEff_filling {s : State} {c : Cmd} (hfill : s.job.filling = true) (htrip : s.pwr.tripped = false)
    (hsys : s.job.system = false) (hserial : s.cp.serial = some c) :
    ∃ u, s.onlyData u ∧ fillRecordsDoneEff s =
      (((u.mapJob fun j => { j with filling := false }).mapArr fun a => { a with clocked := true }).mapCp
        fun x => { x with serial := none }).complete c.e.tag.toNat 3 0 0 (c.e.flags.getLsbD 0) := by
  have hu := State.onlyData.foldl fillTile fillTile_onlyData (allTiles.filter fun r => kindOf r.k == .mm) s
  refine ⟨_, hu, ?_⟩
  unfold fillRecordsDoneEff
  generalize (allTiles.filter fun r => kindOf r.k == .mm).foldl fillTile s = u at hu
  obtain ⟨m, p, x, r, i, b, w, e, n, rfl⟩ := hu
  simp [hfill, htrip, hsys, hserial]

/-- With nothing in ring 0 read ahead FILL_RECORDS_DONE of a job that is no system job ends there. -/
theorem exec_fillRecordsDone {s : State} {e : CmdEntry} (hfill : s.job.filling = true) (htrip : s.pwr.tripped = false)
    (hsys : s.job.system = false) (hwait : s.trl.waitStart = false) (hserial : s.cp.serial = some ⟨3, e, [], 0⟩)
    (hcmds : s.cp.cmds = []) :
    ∃ t, exec .fillRecordsDone s = .next t ∧ t.job.filling = false ∧ t.arr.clocked = true ∧ t.cp.serial = none ∧
      s.answered t (doneEntry 3 e 0 0) := by
  obtain ⟨u, ⟨m, p, x, r, i, b, w, fe, n, rfl⟩, heff⟩ := fillRecordsDoneEff_filling hfill htrip hsys hserial
  obtain ⟨res, k, v, hres, ⟨r', i', b', w', fe', n', rfl⟩, hdone⟩ := State.complete_spec _ e.tag.toNat 3 0 0 (e.flags.getLsbD 0)
  obtain rfl := hres rfl
  have hexec : exec .fillRecordsDone s = .next (fillsDone s) := rfl
  refine ⟨_, hexec, ?_⟩
  simp only [fillsDone, heff]
  rw [hdone]
  simp only [State.mapCp_trl, State.mapArr_trl, State.mapJob_trl, hwait, Bool.false_and, Bool.false_eq_true, if_false]
  rw [State.pump_nil (by simpa using hcmds)]
  exact ⟨rfl, rfl, rfl, rfl⟩

end Sys2Proof.Machine

open Sys2Proof Sys2Proof.Machine

/-- Settles O11: START_JOB is taken at once and comes to State.beginJob or to its refusal; the fills that follow write memory only. -/
theorem startJobStartsTheFills : Obligations.StartJobStartsTheFills := by
  unfold Obligations.StartJobStartsTheFills
  refine ⟨?passes, ?fails, ?filled⟩
  case passes =>
    intro e s htakes hgood hcode
    refine ⟨_, exec_startJob_passes htakes hgood hcode, ?_⟩
    have htaken : s.regsBut (s.startTaken e) [R.PCI_RING_CONS 0] := s.regsBut_setReg _ _
    have hmem : s.sameMem (s.startTaken e) := State.sameMem_of_eq rfl rfl rfl
    rw [State.beginJob_job, State.beginJob_cp, State.beginJob_arr, State.startArray_arr]
    exact ⟨rfl, rfl, rfl, rfl, rfl, rfl, rfl, rfl, rfl, rfl, rfl, State.beginJob_power _ _ _ _ _ _,
      State.regsBut_trans (State.regsBut_mono (by simp) htaken) (State.regsBut_mono (by simp) (State.regsBut_beginJob _ _ _ _ _ _)),
      State.sameMem_trans hmem (State.sameMem_beginJob _ _ _ _ _ _)⟩
  case fails =>
    intro e s htakes hgood hcode
    obtain ⟨res, n, u, -, ⟨r, i, c, w, fe, pn, rfl⟩, hdone⟩ :=
      s.consumed.complete_spec e.tag.toNat 3 (s.consumed.startCode (CmdF e 8 2)) 0 (e.flags.getLsbD 0)
    exact ⟨_, res, (exec_startJob_fails htakes hgood hcode).trans (congrArg _ hdone), rfl, rfl⟩
  case filled =>
    intro e s hfill htrip hsys hwait hserial hcmds
    exact exec_fillRecordsDone hfill htrip hsys hwait hserial hcmds

/-- Settles O12: a tile reads as startTile puts it, and taking the command from ring 0 changes neither its use bit nor the active Vintage. -/
theorem startedTilesStandAtPcZero : Obligations.StartedTilesStandAtPcZero := by
  unfold Obligations.StartedTilesStandAtPcZero
  intro e s r htakes hgood hcode
  refine ⟨_, exec_startJob_passes htakes hgood hcode, ?_⟩
  rw [State.tile_beginJob]
  simp only [startTile, State.activeV_startTaken, State.usesTile_startTaken]
  constructor
  · intro hused
    rw [if_pos hused]
    exact ⟨rfl, rfl, rfl, rfl, rfl, rfl, rfl, rfl⟩
  · intro hunused
    rw [if_neg (by simp [hunused])]

end

section
/-!
PROOFS. The local sequencer (02 R45–R53; 06 R179, R183): what it comes to that a ready tile stands at a micro-instruction whose control words
read without error, what the loop-end test leaves, which registers a fault writes, and how a band starts at a WAIT BAND.
-/
namespace Sys2Proof.Machine

variable (s : State)

/-! ## Tiles after an update -/

theorem State.tile_congr {s t : State} (h : t.arr.tiles = s.arr.tiles) (r : TileRef) : t.tile r = s.tile r := by
  unfold State.tile
  rw [h]

@[simp] theorem State.tile_setTile_same (r : TileRef) (x : TileSt) : (s.setTile r x).tile r = x := by
  simp [State.tile_setTile]

/-- Where only tile `r` has changed, setting it once more changes it only. -/
theorem State.onlyTile.setTile {s t : State} {r : TileRef} {x : TileSt} (h : s.onlyTile t r x) (y : TileSt) :
    s.onlyTile (t.setTile r y) r y := by
  obtain ⟨-, hothers, hregs, hmem⟩ := h
  refine ⟨t.tile_setTile_same r y, fun q hq => ?_, hregs, hmem⟩
  rw [State.tile_setTile, if_neg hq, hothers q hq]

/-! ## Standing at a micro-instruction (R45, R65, R439) -/

/-- Control words that read without error leave the tile to act on the state as it is. -/
theorem State.withCtl_clean {s : State} {r : TileRef} {cws : List Nat} (f : State → State)
    (h : s.readsClean (some (r.t, r.row)) cws) : s.withCtl r cws f = f s := by
  simp only [State.withCtl, h, Bool.false_eq_true, if_false]

/-- A tile that stands at an instruction of this opcode, whose condition holds, runs its effect. -/
theorem State.atInstr_stands {s : State} {r : TileRef} {op : Nat} {p : Nat → Bool} (f : State → Nat → State) (h : s.standsAt r op)
    (hp : p (s.curWord r) = true) : s.atInstr r op p f = f s (s.curWord r) := by
  obtain ⟨hready, hfire, hprog, hop, hclean⟩ := h
  simp only [State.atInstr, hready, hfire, hprog, hop, hp, Option.isNone_none, Bool.and_self, beq_self_eq_true, Bool.false_eq_true,
    if_true, if_false]
  exact State.withCtl_clean (fun t => f t (s.curWord r)) hclean

/-- The row of an instruction that a tile stands at. -/
theorem exec_atInstr {i : Instr} {s : State} {r : TileRef} {op : Nat} {p : Nat → Bool} {f : State → Nat → State}
    (hexec : exec i s = .next (s.atInstr r op p f)) (h : s.standsAt r op) (hp : p (s.curWord r) = true) :
    exec i s = .next (f s (s.curWord r)) :=
  hexec.trans (congrArg _ (State.atInstr_stands f h hp))

/-! ## The loop-end test (R46) -/

/-- An instruction that completes where only its own tile has changed: the next one stands where the test says, and acts an ac later. -/
theorem State.onlyTile.seqDone {s t : State} {r : TileRef} {x : TileSt} {pc : Nat} {ls : List LoopSt} (h : s.onlyTile t r x) (a : Nat)
    (hend : loopEnd x.pc x.loops = .goto pc ls) :
    s.onlyTile (t.seqDone r a) r
      { x with pc := pc % 64, loops := ls, next := a + 1, st := .firing, why := .none, fire := none } := by
  have htile : t.tile r = x := h.1
  simp only [State.seqDone, htile, hend]
  exact h.setTile _

/-! ## What a fault writes (R73, R74) -/

theorem State.fget_of_regsBut {s t : State} {os : List Nat} {f : Fld} (h : s.regsBut t os) (hf : f.off ∉ os) : t.fget f = s.fget f :=
  congrArg f.of (h _ hf)

/-- `t` differs from `s` in the registers listed and in what error reporting can change beside registers. -/
def State.logsIn (s t : State) (os : List Nat) : Prop := s.onlyLogs t ∧ s.regsBut t os

namespace State.logsIn

variable {s t u : State} {os : List Nat}

theorem refl (s : State) (os : List Nat) : s.logsIn s os := ⟨.refl s, s.regsBut_refl os⟩

theorem trans (h1 : s.logsIn t os) (h2 : t.logsIn u os) : s.logsIn u os := ⟨h1.1.trans h2.1, State.regsBut_trans h1.2 h2.2⟩

theorem mono {os' : List Nat} (h : s.logsIn t os) (hos : ∀ o ∈ os, o ∈ os') : s.logsIn t os' := ⟨h.1, State.regsBut_mono hos h.2⟩

theorem fset (h : s.logsIn t os) (f : Fld) (v : Nat) (hf : f.off ∈ os) : s.logsIn (t.fset f v) os :=
  h.trans (mono ⟨t.onlyLogs_fset f v, t.regsBut_fset f v⟩ (by simpa using hf))

theorem irq (h : s.logsIn t os) (k : Nat) (hk : R.HUB_IRQ_STATUS ∈ os) : s.logsIn (t.irq k) os :=
  h.trans (mono ⟨t.onlyLogs_irq k, t.regsBut_irq k⟩ (by simpa using hk))

theorem note (h : s.logsIn t os) (code : Nat) : s.logsIn (t.note code) os := by
  refine h.trans ⟨t.onlyLogs_note code, State.regsBut_of_regs ?_ os⟩
  unfold State.note
  split <;> rfl

end State.logsIn

/-- The registers in which Terrace `n` counts and captures a fault, and HUB.IRQ_STATUS. -/
def terFaultRegs (n : Nat) : List Nat := [R.HUB_IRQ_STATUS, R.TER_FAULT_COUNT n, R.TER_FAULT_LOC n, R.TER_FAULT_BAND n, R.TER_FAULT_AUX n]

theorem State.terFault_logsIn (l : FaultLoc) (code : Nat) : s.logsIn (s.terFault l code) (terFaultRegs l.n) := by
  have hirq : R.HUB_IRQ_STATUS ∈ terFaultRegs l.n := by simp [terFaultRegs]
  have hloc : R.TER_FAULT_LOC l.n ∈ terFaultRegs l.n := by simp [terFaultRegs]
  have hband : R.TER_FAULT_BAND l.n ∈ terFaultRegs l.n := by simp [terFaultRegs]
  have haux : R.TER_FAULT_AUX l.n ∈ terFaultRegs l.n := by simp [terFaultRegs]
  have hcount : s.logsIn ((s.note code).fcount (F.TER_FAULT_COUNT_count l.n) 1) (terFaultRegs l.n) :=
    ((State.logsIn.refl s _).note code).fset _ _ (by simp [terFaultRegs, F.TER_FAULT_COUNT_count])
  unfold State.terFault
  dsimp only
  split
  · exact hcount
  · exact ((((((((((((hcount.fset (F.TER_FAULT_LOC_code l.n) _ hloc).fset (F.TER_FAULT_LOC_phys_row l.n) _ hloc).fset
      (F.TER_FAULT_LOC_kind l.n) _ hloc).fset (F.TER_FAULT_LOC_index l.n) _ hloc).fset (F.TER_FAULT_LOC_vintage l.n) _ hloc).fset
      (F.TER_FAULT_LOC_valid l.n) _ hloc).fset (F.TER_FAULT_BAND_pc l.n) _ hband).fset (F.TER_FAULT_BAND_band l.n) _ hband).fset
      (F.TER_FAULT_AUX_mm_tile l.n) _ haux).fset (F.TER_FAULT_AUX_port l.n) _ haux).fset (F.TER_FAULT_AUX_unit l.n) _ haux).fset
      (F.TER_FAULT_AUX_terrace l.n) _ haux).irq 0 hirq

/-- No register in which a Terrace captures faults is a tile's. -/
theorem MX_FAULT_not_mem_terFaultRegs (r : TileRef) : R.MX_FAULT (tb r) ∉ terFaultRegs r.t := by
  have := rowBase_le_tb r
  simp only [terFaultRegs, R.MX_FAULT, R.TER_FAULT_COUNT, R.TER_FAULT_LOC, R.TER_FAULT_BAND, R.TER_FAULT_AUX, R.HUB_IRQ_STATUS,
    List.mem_cons, List.not_mem_nil, or_false]
  omega

/-- What the FAULT register of a tile holds once it has taken a fault, before the Terrace captures it. -/
def State.tileCapture (s : State) (r : TileRef) (code : Nat) : State :=
  if s.fbit (F.MX_FAULT_valid (tb r)) then s
  else (((((s.fset (F.MX_FAULT_code (tb r)) code).fset (F.MX_FAULT_pc (tb r)) (s.tile r).pc).fset (F.MX_FAULT_vintage (tb r))
    (s.tile r).vint).fset (F.MX_FAULT_valid (tb r)) 1).irq 0)

theorem State.tileFaultAt_eq (r : TileRef) (code port unit : Nat) :
    s.tileFaultAt r code port unit = (s.tileCapture r code).terFault (tileLoc (s.tileCapture r code) r port unit) code := rfl

theorem State.onlyLogs_tileCapture (r : TileRef) (code : Nat) : s.onlyLogs (s.tileCapture r code) := by
  unfold State.tileCapture
  split
  · exact .refl s
  · exact ((((s.onlyLogs_fset _ _).trans (State.onlyLogs_fset _ _ _)).trans (State.onlyLogs_fset _ _ _)).trans
      (State.onlyLogs_fset _ _ _)).trans (State.onlyLogs_irq _ 0)

/-- A fault of a tile changes no more than error reporting can. -/
theorem State.onlyLogs_tileFault (r : TileRef) (code : Nat) : s.onlyLogs (s.tileFault r code) := by
  rw [State.tileFault, State.tileFaultAt_eq]
  exact (s.onlyLogs_tileCapture r code).trans (State.terFault_logsIn _ _ _).1

/-- A tile whose FAULT register is free captures the code of a fault in it. -/
theorem State.tileFault_code {s : State} {r : TileRef} (code : Nat) (h : s.fbit (F.MX_FAULT_valid (tb r)) = false) :
    (s.tileFault r code).fget (F.MX_FAULT_code (tb r)) = code % 2 ^ 16 := by
  have hirq : R.MX_FAULT (tb r) ∉ [R.HUB_IRQ_STATUS] := fun hm =>
    MX_FAULT_not_mem_terFaultRegs r (List.mem_append_left _ hm)
  have beside (t : State) (f : Fld) (v : Nat) (ho : R.MX_FAULT (tb r) = f.off) (hlo : 16 ≤ f.lo) :
      (t.fset f v).fget (F.MX_FAULT_code (tb r)) = t.fget (F.MX_FAULT_code (tb r)) :=
    t.fget_fset_beside f _ v ho (show 0 + 16 ≤ 32 by decide) (.inl hlo)
  have hcap : (s.tileCapture r code).fget (F.MX_FAULT_code (tb r)) = code % 2 ^ 16 := by
    unfold State.tileCapture
    rw [h, if_neg Bool.false_ne_true, State.fget_of_regsBut (State.regsBut_irq _ 0) hirq]
    rw [beside _ (F.MX_FAULT_valid (tb r)) 1 rfl (show 16 ≤ 31 by decide), beside _ (F.MX_FAULT_vintage (tb r)) _ rfl (show 16 ≤ 22 by decide),
      beside _ (F.MX_FAULT_pc (tb r)) _ rfl (show 16 ≤ 16 by decide)]
    exact s.fget_fset_same _ code (show 0 + 16 ≤ 32 by decide)
  rw [← hcap, State.tileFault, State.tileFaultAt_eq]
  exact State.fget_of_regsBut (State.terFault_logsIn _ _ _).2 (MX_FAULT_not_mem_terFaultRegs r)

theorem State.stopJob_eq_or (s : State) : s.stopJob = s ∨ s.stopJob = s.mapJob fun j => { j with stopFault := true } := by
  unfold State.stopJob
  split
  · exact .inr rfl
  · exact .inl rfl

@[simp] theorem State.stopJob_arr : s.stopJob.arr = s.arr := by
  obtain h | h := s.stopJob_eq_or <;> rw [h]
  rfl

@[simp] theorem State.stopJob_regs : s.stopJob.regs = s.regs := by
  obtain h | h := s.stopJob_eq_or <;> rw [h]
  rfl

theorem State.sameMem_stopJob : s.sameMem s.stopJob := by
  obtain h | h := s.stopJob_eq_or <;> rw [h]
  · exact s.sameMem_refl
  · exact State.sameMem_of_eq rfl rfl rfl

/-- A tile that raises a fault after which it no longer fires stands in state 5; its FAULT register, where it was free, holds the code, and
memory stays (R74). -/
theorem State.tileDead_spec (r : TileRef) (code : Nat) :
    ((s.tileDead r code).tile r).st = .faulted ∧ s.sameMem (s.tileDead r code) ∧
      (s.fbit (F.MX_FAULT_valid (tb r)) = false → (s.tileDead r code).fget (F.MX_FAULT_code (tb r)) = code % 2 ^ 16) := by
  have hmem := (s.onlyLogs_tileFault r code).sameMem
  have hcode := State.tileFault_code (s := s) (r := r) code
  unfold State.tileDead
  dsimp only
  generalize s.tileFault r code = u at hmem hcode
  obtain ⟨htile, -, hregs, hset⟩ := u.onlyTile_setTile r { u.tile r with st := .faulted, fire := none }
  generalize u.setTile r { u.tile r with st := .faulted, fire := none } = w at htile hregs hset
  refine ⟨?_, State.sameMem_trans hmem (State.sameMem_trans hset w.sameMem_stopJob), fun h => ?_⟩
  · rw [State.tile_congr (congrArg ArraySt.tiles w.stopJob_arr), htile]
  · rw [State.fget_of_regsBut (State.regsBut_of_regs w.stopJob_regs []) List.not_mem_nil, State.fget_of_regsBut hregs List.not_mem_nil]
    exact hcode h

/-- An instruction that completes where only its own tile has changed and whose loop has no trip left: E-0710 (R46). -/
theorem State.onlyTile.seqDone_fault {s t : State} {r : TileRef} {x : TileSt} (h : s.onlyTile t r x) (a : Nat)
    (hend : loopEnd x.pc x.loops = .fault) :
    ((t.seqDone r a).tile r).st = .faulted ∧ (s.fbit (F.MX_FAULT_valid (tb r)) = false →
      (t.seqDone r a).fget (F.MX_FAULT_code (tb r)) = 0x0710) ∧ s.sameMem (t.seqDone r a) := by
  obtain ⟨htile, -, hregs, hmem⟩ := h
  obtain ⟨hst, hdead, hcode⟩ := t.tileDead_spec r 0x0710
  simp only [State.seqDone, htile, hend]
  refine ⟨hst, fun hfree => hcode ?_, State.sameMem_trans hmem hdead⟩
  rw [State.fbit, State.fget_of_regsBut hregs List.not_mem_nil]
  exact hfree

/-! ## Starting a band (R50, R98, R179) -/

/-- With no commit in the queue a band event changes nothing at a head tile (R252). -/
theorem State.graftFlip_idle {s : State} (h : s.grf.queue = []) (r : TileRef) : s.graftFlip r = s := by
  simp [State.graftFlip, h]

/-- A tile that needs no gain entry takes none (R104). -/
theorem State.tryGain_unneeded {s : State} {r : TileRef} (h : (s.tile r).gainNeed = false) : s.tryGain r = s := by
  simp [State.tryGain, h]

theorem State.onlyTile.tryGain {s t : State} {r : TileRef} {x : TileSt} (h : s.onlyTile t r x) (hneed : x.gainNeed = false) :
    s.onlyTile (t.tryGain r) r x := by
  rw [State.tryGain_unneeded (h.1 ▸ hneed)]
  exact h

/-- The maxima handed over at a band event leave the sequencer's part of a tile (R98). -/
theorem TileSt.handOver_ite (x : TileSt) (c : Prop) [Decidable c] : ∃ co cb cl m,
    (if c then x.handOver else x) = { x with collObs := co, collBand := cb, coll := cl, mOwn := m } := by
  split
  · exact ⟨_, _, _, _, rfl⟩
  · exact ⟨x.collObs, x.collBand, x.coll, x.mOwn, rfl⟩

/-- A tile that has closed its band, takes no gain and has no commit to follow starts a band on the event it holds. -/
theorem State.startBand_plain {s : State} {r : TileRef} {pc : Nat} {ls : List LoopSt} (hband : (s.tile r).inBand = false)
    (hgain : s.wantsGain r (s.tile r).vint = false) (hq : s.grf.queue = [])
    (hend : loopEnd (s.tile r).pc (s.tile r).loops = .goto pc ls) :
    let x := s.tile r
    ∃ y, s.onlyTile (s.startBand r fun t => t.graftFlip r) r y ∧ y.latch = eraseFirst (fun e => e != .line) x.latch ∧
      y.band = (if x.begun then x.band + 1 else x.band) ∧ y.inBand = true ∧ y.begun = true ∧ y.pc = pc % 64 ∧
      y.next = s.arr.runAc + 1 ∧ y.markBand = outPorts r.k := by
  obtain ⟨co, cb, cl, m, hover⟩ := (s.tile r).handOver_ite ((kindOf r.k == .sf) = true)
  simp only [State.startBand, hband, Bool.false_eq_true, if_false, hover, hgain, Bool.false_and]
  rw [State.graftFlip_idle (by exact hq)]
  refine ⟨_, State.onlyTile.tryGain (State.onlyTile.seqDone (pc := pc) (ls := ls) (s.onlyTile_setTile r _) _ ?loops) ?gain, rfl, rfl, rfl,
    rfl, rfl, rfl, rfl⟩
  case loops => exact hend
  case gain => rfl

end Sys2Proof.Machine

open Sys2Proof Sys2Proof.Machine

/-- Settles O57: State.atInstr_stands runs the effect of the instruction, which sets its own tile, and the loop-end test sets it again. -/
theorem sequencerSteps : Obligations.SequencerSteps := by
  unfold Obligations.SequencerSteps
  refine ⟨?idle, ?idleFault, ?loop, ?fire, ?jump, ?rot, ?halt, ?waitLine, ?waitBand⟩
  case idle =>
    intro r s pc ls hat hdue hend
    exact ⟨_, exec_atInstr rfl hat (decide_eq_true hdue), (s.onlyTile_setTile r _).seqDone _ hend⟩
  case idleFault =>
    intro r s hat hdue hend
    exact ⟨_, exec_atInstr rfl hat (decide_eq_true hdue), (s.onlyTile_setTile r _).seqDone_fault _ hend⟩
  case loop =>
    intro r s hat
    exact ⟨_, exec_atInstr rfl hat rfl, s.onlyTile_setTile r _⟩
  case fire =>
    intro r s hat
    exact ⟨_, exec_atInstr rfl hat rfl, s.onlyTile_setTile r _⟩
  case jump =>
    intro r s hat
    exact ⟨_, exec_atInstr rfl hat rfl, s.onlyTile_setTile r _⟩
  case rot =>
    intro r s pc ls hat hend
    refine ⟨_, exec_atInstr rfl hat rfl, ?_⟩
    simp only [hend]
    exact s.onlyTile_setTile r _
  case halt =>
    intro r s hat
    exact ⟨_, exec_atInstr rfl hat rfl, s.onlyTile_setTile r _⟩
  case waitLine =>
    intro r s pc ls hat hsel hend
    refine ⟨_, exec_atInstr rfl hat (beq_iff_eq.mpr hsel), fun hnone => ?_, fun hsome => ?_⟩
    · rw [if_pos hnone]
      exact s.onlyTile_setTile r _
    · rw [if_neg hsome]
      exact (s.onlyTile_setTile r _).seqDone _ hend
  case waitBand =>
    intro r s pc ls hat hsel hsw hq hband hgain hend
    have hrun := exec_atInstr (i := .waitBand r []) rfl hat (beq_iff_eq.mpr hsel)
    cases hhead : headBand (s.tile r).latch with
    | none =>
      simp only [hhead] at hrun
      obtain ⟨htile, hothers, hregs, hmem⟩ := s.onlyTile_setTile r { s.tile r with st := .waiting }
      exact ⟨_, hrun, hothers, hregs, hmem, fun _ => htile, fun _ h => absurd (hhead.symm.trans h) (by simp)⟩
    | some tag =>
      have hswitch : s.switchAt tag = none := by simp only [State.switchAt, hsw]
      simp only [hhead, hswitch] at hrun
      obtain ⟨y, ⟨rfl, hothers, hregs, hmem⟩, hy⟩ := State.startBand_plain hband hgain hq hend
      exact ⟨_, hrun, hothers, hregs, hmem, fun h => absurd (hhead.symm.trans h) (by simp), fun _ _ => hy⟩

end

section
/-!
PROOFS. The fabric (05 R139–R148, R159–R164, R177; 04 R129; 02 R59): an emission and its credits, a credit on its way back, arrivals at the
Hub and at an input stage, a broadcast event, the read port of an MM tile, the end of a drain, and a join under a governing token.
-/
namespace Sys2Proof.Machine

variable (s : State)

/-! ## Control words read while the array is updated -/

theorem State.fcount_mapArr (f : ArraySt → ArraySt) (g : Fld) (n : Nat) : (s.mapArr f).fcount g n = (s.fcount g n).mapArr f := rfl

theorem State.countCorrRow_mapArr (f : ArraySt → ArraySt) (row : Option (Nat × Nat)) :
    (s.mapArr f).countCorrRow row = (s.countCorrRow row).mapArr f := by
  cases row with
  | none => exact s.fcount_mapArr f _ 1
  | some tp =>
    have hwin : ∀ e, { s.mapArr f with eccWin := e } = { s with eccWin := e }.mapArr f := fun _ => rfl
    simp only [State.countCorrRow, State.mapArr_eccWin, hwin, State.fcount_mapArr]

/-- Control words that read without error read so whatever the array holds. -/
theorem State.seeCws_mapArr (f : ArraySt → ArraySt) (row : Option (Nat × Nat)) (cap : Bool) (cws : List Nat) {s t : State}
    (h : s.seeCws row cap cws = (false, t)) : (s.mapArr f).seeCws row cap cws = (false, t.mapArr f) := by
  induction cws generalizing s t with
  | nil =>
    obtain ⟨-, rfl⟩ := Prod.mk.inj h
    rfl
  | cons cw cws ih =>
    have hrs : (s.mapArr f).cwRs cw = s.cwRs cw := rfl
    simp only [State.seeCws, hrs] at h ⊢
    cases hcw : s.cwRs cw with
    | good e =>
      simp only [hcw, Prod.mk.injEq, Bool.or_eq_false_iff] at h ⊢
      obtain ⟨⟨hpoison, hfst⟩, hsnd⟩ := h
      have hrest := ih (Prod.ext hfst hsnd)
      exact ⟨⟨hpoison, congrArg Prod.fst hrest⟩, congrArg Prod.snd hrest⟩
    | corrected e =>
      simp only [hcw] at h ⊢
      rw [State.countCorrRow_mapArr]
      exact ih h
    | bad => simp [hcw] at h

theorem State.readsClean.mapArr {s : State} {row : Option (Nat × Nat)} {cws : List Nat} (h : s.readsClean row cws)
    (f : ArraySt → ArraySt) : (s.mapArr f).readsClean row cws := State.seeCws_mapArr f row true cws h

/-- A unit-table entry that reads without error leaves the state as it is (R185, R439). -/
theorem State.unitSee_clean {s : State} {r : TileRef} {v : Nat}
    (h : s.readsClean (some (r.t, r.row)) [wordCw .unit r.t (8 * ((v * 9 + r.row) * 30 + r.k))]) : s.unitSee r v 0 1 = s :=
  State.withCtl_clean id h

/-! ## Input stages and output ports (R144–R147) -/

theorem TileSt.stage_setStage_same (x : TileSt) {p : Nat} (q : List StageEntry) (hp : p < x.stages.length) : (x.setStage p q).stage p = q :=
  nth_setNth_same [] x.stages p q hp

theorem TileSt.stage_setStage_other (x : TileSt) {p o : Nat} (q : List StageEntry) (ho : o ≠ p) : (x.setStage p q).stage o = x.stage o :=
  nth_setNth_other [] x.stages q ho

theorem TileSt.out_setOut_same (x : TileSt) {p : Nat} (q : List OutEntry) (hp : p < x.outq.length) : (x.setOut p q).out p = q :=
  nth_setNth_same [] x.outq p q hp

/-- A flit offered at an output port joins the end of its queue. -/
theorem TileSt.out_offer_one (x : TileSt) {p : Nat} (due : Nat) (f : Flit) (hp : p < x.outq.length) :
    ∃ d, (x.offer p due [f]).out p = x.out p ++ [⟨d, f, none, false⟩] :=
  ⟨_, x.out_setOut_same _ hp⟩

/-- An offer changes the output queues alone. -/
theorem TileSt.offer_eq (x : TileSt) (p due : Nat) (fs : List Flit) : ∃ q, x.offer p due fs = { x with outq := q } := by
  induction fs generalizing x due with
  | nil => exact ⟨x.outq, rfl⟩
  | cons f fs ih =>
    obtain ⟨q, hq⟩ := ih (x.setOut p _) _
    exact ⟨q, hq⟩

/-! ## Credits while no switch is in hand (R145) -/

section
variable {s : State} (hsw : s.sw = none)
include hsw

theorem State.outgoing_none (c : Circuit) (k : SnkRef) : s.outgoing c k = none := by
  simp only [State.outgoing, hsw]

theorem State.credit_eq (c : Circuit) (k : SnkRef) :
    s.credit c k = ((s.arr.credits.find? (·.is c k)).map CreditCtr.n).getD (sinkCap s k) := by
  rw [State.credit, State.outgoing_none hsw]
  cases s.arr.credits.find? (·.is c k) <;> rfl

/-- The counters left once that of a circuit and a sink is set: every other one, and this one unless it stands at the sink's capacity. -/
theorem State.setCredit_credits (c : Circuit) (k : SnkRef) (n : Nat) :
    (s.setCredit c k n).arr.credits =
      s.arr.credits.filter (fun x => !x.is c k) ++ if n = sinkCap s k then [] else [⟨c, k, n⟩] := by
  have hgone : (if s.arr.credits.any (·.is c k) then none else s.outgoing c k) = none := by
    rw [State.outgoing_none hsw, ite_self]
  have hkeep : ∀ x : CreditCtr, (some x != none) = true := fun _ => rfl
  simp only [State.setCredit, hgone, State.mapArr_arr, hkeep, Bool.and_true]
  split <;> simp

end

theorem CreditCtr.is_iff (x : CreditCtr) (c : Circuit) (k : SnkRef) : x.is c k = true ↔ x.circ = c ∧ x.snk = k := by
  simp [CreditCtr.is]

/-- A credit counter just set reads the value set. -/
theorem State.credit_setCredit_same {s : State} (hsw : s.sw = none) (c : Circuit) (k : SnkRef) (n : Nat) :
    (s.setCredit c k n).credit c k = n := by
  have hcap : sinkCap (s.setCredit c k n) k = sinkCap s k := by cases k <;> rfl
  have hnone : (s.arr.credits.filter fun x => !x.is c k).find? (·.is c k) = none := by simp [List.find?_eq_none]
  rw [State.credit_eq (s := s.setCredit c k n) hsw, State.setCredit_credits hsw, hcap, List.find?_append, hnone]
  by_cases hn : n = sinkCap s k
  · simp [hn]
  · simp [hn, CreditCtr.is]

/-- Setting a counter leaves those of the circuit's other sinks. -/
theorem State.credit_setCredit_other {s : State} (hsw : s.sw = none) (c : Circuit) {k k' : SnkRef} (n : Nat) (hk : k' ≠ k) :
    (s.setCredit c k n).credit c k' = s.credit c k' := by
  have hcap : sinkCap (s.setCredit c k n) k' = sinkCap s k' := by cases k' <;> rfl
  have hfind : (s.arr.credits.filter fun x => !x.is c k).find? (·.is c k') = s.arr.credits.find? (·.is c k') := by
    rw [List.find?_filter]
    refine congrArg (fun p => s.arr.credits.find? p) (funext fun x => ?_)
    by_cases hx : x.is c k' = true
    · have hsnk : x.snk ≠ k := ((x.is_iff c k').mp hx).2 ▸ hk
      have hother : x.is c k = false := by simp [CreditCtr.is, hsnk]
      rw [hx, hother]
      rfl
    · simp [hx]
  rw [State.credit_eq (s := s.setCredit c k n) hsw, State.credit_eq hsw, State.setCredit_credits hsw, hcap, List.find?_append, hfind]
  by_cases hn : n = sinkCap s k
  · simp [hn]
  · simp [hn, CreditCtr.is, hk.symm]

/-- Spending credits changes the counters alone. -/
theorem State.spend_eq (c : Circuit) (ks : List (SnkRef × Nat)) : ∃ cs, s.spend c ks = { s with arr := { s.arr with credits := cs } } := by
  induction ks generalizing s with
  | nil => exact ⟨s.arr.credits, rfl⟩
  | cons k ks ih =>
    obtain ⟨cs, hcs⟩ := ih (s.setCredit c k.1 (s.credit c k.1 - 1))
    exact ⟨cs, hcs⟩

theorem State.credit_spend_other {s : State} (hsw : s.sw = none) (c : Circuit) (ks : List (SnkRef × Nat)) {k : SnkRef}
    (hk : k ∉ ks.map fun x => x.1) : (s.spend c ks).credit c k = s.credit c k := by
  induction ks generalizing s with
  | nil => rfl
  | cons y ks ih =>
    obtain ⟨hne, hrest⟩ : k ≠ y.1 ∧ k ∉ ks.map fun x => x.1 := by simpa using hk
    exact (ih (s := s.setCredit c y.1 (s.credit c y.1 - 1)) hsw hrest).trans (State.credit_setCredit_other hsw c _ hne)

/-- Each sink of a circuit loses one credit (R145). -/
theorem State.credit_spend {s : State} (hsw : s.sw = none) (c : Circuit) (ks : List (SnkRef × Nat)) (hnodup : (ks.map fun x => x.1).Nodup) :
    ∀ x ∈ ks, (s.spend c ks).credit c x.1 = s.credit c x.1 - 1 := by
  induction ks generalizing s with
  | nil => exact fun x hx => absurd hx List.not_mem_nil
  | cons y ks ih =>
    obtain ⟨hy, hks⟩ := List.nodup_cons.mp hnodup
    intro x hx
    obtain rfl | hx := List.mem_cons.mp hx
    · exact (State.credit_spend_other (s := s.setCredit c x.1 (s.credit c x.1 - 1)) hsw c ks hy).trans
        (State.credit_setCredit_same hsw c x.1 _)
    · have hne : x.1 ≠ y.1 := ne_of_mem_of_not_mem (List.mem_map_of_mem (f := fun x => x.1) hx) hy
      rw [← State.credit_setCredit_other hsw c (s.credit c y.1 - 1) hne]
      exact ih (s := s.setCredit c y.1 (s.credit c y.1 - 1)) hsw hks x hx

/-! ## Emission (R145, R147, R148) -/

/-- A flit that may be emitted leaves its source as one flight on its circuit; only the array's counters, flights and sources that have emitted
change. -/
theorem emitVia_sent {s : State} {src : SrcRef} {f : Flit} {bound : Option Circuit} {c : Circuit} (hruns : s.arrayRuns = true)
    (hbound : bound = none ∨ bound = some c) (hmay : s.mayEmit src f c) :
    ∃ y ems, emitVia s src f bound = .sent
      { s with arr := { s.arr with credits := (s.spend c c.sinks).arr.credits, flights := s.arr.flights ++ [y], emitted := ems } } c ∧
        y.flit = f ∧ y.circ = c := by
  obtain ⟨hcirc, hem, hcr⟩ := hmay
  obtain ⟨cs, hcs⟩ := s.spend_eq c c.sinks
  have hmoves : s.moves c = true := by simp [State.moves, hruns]
  have hfind : c.sinks.find? (fun x => s.credit c x.1 == 0) = none := by simpa [List.find?_eq_none] using hcr
  obtain rfl | rfl := hbound
  all_goals
    simp only [emitVia, hcirc, hem, hmoves, hfind, hcs, bne_self_eq_false, Bool.or_self, Bool.not_true, Bool.false_eq_true, if_false,
      State.mapArr]
    exact ⟨_, _, rfl, rfl, rfl⟩

/-- A circuit with a sink without credit keeps the flit at its source. -/
theorem emitVia_noCredit {s : State} {src : SrcRef} {f : Flit} {bound : Option Circuit} {c : Circuit} (hruns : s.arrayRuns = true)
    (hbound : bound = none ∨ bound = some c) (hcirc : circuitAt s (s.carryV f.tag) src (s.srcAc src) = some c)
    (hem : s.arr.emitted.contains (hubPort src) = false) (hcr : ∃ x ∈ c.sinks, s.credit c x.1 = 0) :
    ∃ x ∈ c.sinks, emitVia s src f bound = .noCredit c x.1 := by
  have hmoves : s.moves c = true := by simp [State.moves, hruns]
  obtain ⟨x, hfind⟩ : ∃ x, c.sinks.find? (fun x => s.credit c x.1 == 0) = some x :=
    Option.isSome_iff_exists.mp (by simpa [List.find?_isSome] using hcr)
  refine ⟨x, List.mem_of_find?_eq_some hfind, ?_⟩
  obtain rfl | rfl := hbound
  all_goals
    simp only [emitVia, hcirc, hem, hmoves, hfind, bne_self_eq_false, Bool.or_self, Bool.not_true, Bool.false_eq_true, if_false]

theorem tileEmit_sent {s u : State} {r : TileRef} {p : Fin 4} {e : OutEntry} {q : List OutEntry} {c : Circuit}
    (hout : (s.tile r).out p = e :: q) (hdue : e.due ≤ s.arr.runAc)
    (hsent : emitVia s (.tile r p) (s.dress r p e.flit) e.bound = .sent u c) :
    ∃ y, tileEmit s r p = u.setTile r y ∧ y.outq = ((u.tile r).setOut p q).outq := by
  have hp : Fin.ofNat 4 p.val = p := Fin.ofNat_val_eq_self p
  simp only [tileEmit, hout, hdue, hp, hsent, if_true]
  refine ⟨_, rfl, ?_⟩
  split <;> rfl

theorem tileEmit_noCredit {s : State} {r : TileRef} {p : Fin 4} {e : OutEntry} {q : List OutEntry} {c : Circuit} {k : SnkRef}
    (hout : (s.tile r).out p = e :: q) (hdue : e.due ≤ s.arr.runAc) (hlog : e.logged = false)
    (hno : emitVia s (.tile r p) (s.dress r p e.flit) e.bound = .noCredit c k) :
    tileEmit s r p = (s.setTile r ((s.tile r).setOut p ({ e with bound := some c, logged := true } :: q))).noCreditFault
      (s.carryV (s.dress r p e.flit).tag) (.tile r p) k (s.tile r).pc (s.tile r).band := by
  have hp : Fin.ofNat 4 p.val = p := Fin.ofNat_val_eq_self p
  simp only [tileEmit, hout, hdue, hp, hno, hlog, if_true, Bool.false_eq_true, if_false]

/-- A presentation without credit changes no tile, flight or memory; in Elastic mode it writes no register, in Locked mode it stops the job
(R67, R148). -/
theorem State.noCreditFault_spec {s : State} {v : Nat} {src : SrcRef} {k : SnkRef} (pc band : Nat) (hgraft : s.graftFlow v src k = false) :
    let t := s.noCreditFault v src k pc band
    t.arr.tiles = s.arr.tiles ∧ t.arr.flights = s.arr.flights ∧ s.sameMem t ∧ (s.elastic = true → s.regsBut t []) ∧
      (s.elastic = false → s.job.running = true → t.job.stopFault = true) := by
  simp only [State.noCreditFault, hgraft, Bool.false_eq_true, if_false]
  cases hel : s.elastic with
  | true =>
    simp only [if_true]
    exact ⟨rfl, rfl, State.sameMem_of_eq rfl rfl rfl, fun _ => State.regsBut_of_regs rfl [], fun h => absurd h (by decide)⟩
  | false =>
    simp only [Bool.false_eq_true, if_false]
    have hlogs := (s.terFault_logsIn (sinkLoc s (srcTer src) pc band k) 0x0601).1
    generalize s.terFault (sinkLoc s (srcTer src) pc band k) 0x0601 = u at hlogs
    obtain ⟨_, _, _, _, _, _, rfl⟩ := hlogs
    refine ⟨by rw [State.stopJob_arr], by rw [State.stopJob_arr], State.sameMem_trans (State.sameMem_of_eq rfl rfl rfl) (State.sameMem_stopJob _),
      fun h => absurd h (by decide), fun _ hrun => ?_⟩
    simp only [State.stopJob]
    rw [if_pos (by exact hrun)]
    rfl

/-- Credit counters depend on the counters listed and on what their sinks can hold, while no switch is in hand. -/
theorem State.credit_congr {s t : State} (hs : s.sw = none) (ht : t.sw = none) (hcr : t.arr.credits = s.arr.credits)
    (hcap : ∀ k, sinkCap t k = sinkCap s k) (c : Circuit) (k : SnkRef) : t.credit c k = s.credit c k := by
  rw [State.credit_eq ht, State.credit_eq hs, hcr, hcap]

theorem State.shaped_tile {s : State} (h : s.shaped) (r : TileRef) : (s.tile r).stages.length = 5 ∧ (s.tile r).outq.length = 4 := by
  obtain ⟨-, -, -, htiles, -⟩ := h
  exact ⟨(htiles r).1, (htiles r).2.1⟩

theorem TileSt.out_congr {x y : TileSt} (h : x.outq = y.outq) (p : Nat) : x.out p = y.out p := congrArg (nth [] · p) h

theorem exec_flitEmission_tile (r : TileRef) (p : Fin 4) : exec (.flitEmission (.tile r p)) s = .next (tileEmit s r p) := rfl

/-- A flit with credit leaves its port as one flight and takes one credit of every sink (R145, R147). -/
theorem exec_flitEmission_sent {s : State} {r : TileRef} {p : Fin 4} {e : OutEntry} {q : List OutEntry} {c : Circuit} (hshape : s.shaped)
    (hruns : s.arrayRuns = true) (hout : (s.tile r).out p = e :: q) (hdue : e.due ≤ s.arr.runAc) (hbound : e.bound = none ∨ e.bound = some c)
    (hmay : s.mayEmit (.tile r p) (s.dress r p e.flit) c) :
    ∃ t y, exec (.flitEmission (.tile r p)) s = .next t ∧ (t.tile r).out p = q ∧ t.arr.flights = s.arr.flights ++ [y] ∧
      y.flit = s.dress r p e.flit ∧ y.circ = c ∧ s.regsBut t [] ∧ s.sameMem t ∧
      (s.sw = none → (c.sinks.map fun x => x.1).Nodup → ∀ x ∈ c.sinks, t.credit c x.1 = s.credit c x.1 - 1) := by
  obtain ⟨y, ems, hsent, hflit, hcirc⟩ := emitVia_sent hruns hbound hmay
  obtain ⟨x, hemit, hoq⟩ := tileEmit_sent hout hdue hsent
  refine ⟨_, y, (exec_flitEmission_tile s r p).trans (congrArg _ hemit), ?_, rfl, hflit, hcirc, State.regsBut_of_regs rfl [],
    State.sameMem_of_eq rfl rfl rfl, ?_⟩
  · rw [State.tile_setTile_same, TileSt.out_congr hoq]
    exact (s.tile r).out_setOut_same q (by rw [(State.shaped_tile hshape r).2]; exact p.isLt)
  · intro hsw hnodup k hk
    rw [← State.credit_spend hsw c c.sinks hnodup k hk]
    obtain ⟨cs, hcs⟩ := s.spend_eq c c.sinks
    have hcap : ∀ k, sinkCap (s.spend c c.sinks) k = sinkCap s k := fun k => by rw [hcs]; cases k <;> rfl
    refine State.credit_congr (s := s.spend c c.sinks) (by rw [hcs]; exact hsw) (by exact hsw) ?_ (fun k => ?_) c k.1
    · rfl
    · rw [hcap]
      cases k <;> rfl

/-- A flit without credit stays at its port, bound and logged (R147, R148). -/
theorem exec_flitEmission_noCredit {s : State} {r : TileRef} {p : Fin 4} {e : OutEntry} {q : List OutEntry} {c : Circuit} (hshape : s.shaped)
    (hruns : s.arrayRuns = true) (hout : (s.tile r).out p = e :: q) (hdue : e.due ≤ s.arr.runAc) (hbound : e.bound = none ∨ e.bound = some c)
    (hlog : e.logged = false) (hem : s.arr.emitted.contains (.tile r p) = false)
    (hcirc : circuitAt s (s.carryV (s.dress r p e.flit).tag) (.tile r p) s.arr.runAc = some c)
    (hgraft : ∀ x ∈ c.sinks, s.graftFlow (s.carryV (s.dress r p e.flit).tag) (.tile r p) x.1 = false)
    (hcr : ∃ x ∈ c.sinks, s.credit c x.1 = 0) :
    ∃ t, exec (.flitEmission (.tile r p)) s = .next t ∧ (t.tile r).out p = { e with bound := some c, logged := true } :: q ∧
      t.arr.flights = s.arr.flights ∧ s.sameMem t ∧ (s.elastic = true → s.regsBut t []) ∧
      (s.elastic = false → s.job.running = true → t.job.stopFault = true) := by
  obtain ⟨x, hx, hno⟩ := emitVia_noCredit (src := .tile r p) hruns hbound hcirc hem hcr
  have hemit := tileEmit_noCredit hout hdue hlog hno
  obtain ⟨htiles, hflights, hmem, hregs, hstop⟩ := State.noCreditFault_spec
    (s := s.setTile r ((s.tile r).setOut p ({ e with bound := some c, logged := true } :: q))) (v := s.carryV (s.dress r p e.flit).tag)
    (src := .tile r p) (k := x.1) (s.tile r).pc (s.tile r).band (by exact hgraft x hx)
  refine ⟨_, (exec_flitEmission_tile s r p).trans (congrArg _ hemit), ?_, hflights,
    State.sameMem_trans (State.sameMem_of_eq rfl rfl rfl) hmem, hregs, hstop⟩
  rw [State.tile_congr htiles, State.tile_setTile_same]
  exact (s.tile r).out_setOut_same _ (by rw [(State.shaped_tile hshape r).2]; exact p.isLt)

/-- The one credit on its way to a source raises its counter once it is due (R145). -/
theorem exec_creditArrival_due {s : State} {src : SrcRef} {snk : SnkRef} {x : CreditFlight} {y : CreditCtr} (hruns : s.arrayRuns = true)
    (hfly : s.arr.creditFlights = [x]) (hsrc : x.circ.src = hubPort src) (hsnk : x.snk = snk) (hdue : x.due ≤ s.arr.runAc)
    (hsw : s.sw = none) (hctr : s.arr.credits.find? (·.is x.circ snk) = some y) :
    ∃ t, exec (.creditArrival src snk) s = .next t ∧ t.credit x.circ snk = s.credit x.circ snk + 1 ∧ t.arr.creditFlights = [] ∧
      s.regsBut t [] ∧ s.sameMem t := by
  have hhit : (x.circ.src == hubPort src && x.snk == snk && s.dueBy x.due x.skip && s.moves x.circ) = true := by
    simp [hsrc, hsnk, State.dueBy, State.moves, hruns, Nat.le_add_right_of_le hdue]
  have hrun : creditArrive s src snk = (s.mapArr fun a => { a with creditFlights := [] }).setCredit x.circ snk (y.n + 1) := by
    simp only [creditArrive, hfly, List.find?_cons, hhit, hctr, State.mapArr, eraseFirst, if_true]
  refine ⟨_, (show exec (.creditArrival src snk) s = .next (creditArrive s src snk) from rfl).trans (congrArg _ hrun), ?_, rfl,
    State.regsBut_of_regs rfl [], State.sameMem_of_eq rfl rfl rfl⟩
  rw [State.credit_setCredit_same (by exact hsw), State.credit_eq hsw, hctr]
  rfl

/-! ## Arrivals (R144, R146, R159) -/

/-- The registers in which IO tile `io` of Terrace `n` counts crossings and Terrace `n` captures faults. -/
def crossRegs (n io : Nat) : List Nat := R.IO_BRIDGE_STATUS (ioBase n io) :: terFaultRegs n

theorem HOLD_STATUS_not_mem_crossRegs (n io : Nat) : R.HUB_HOLD_STATUS ∉ crossRegs n io := by
  simp only [crossRegs, terFaultRegs, R.HUB_HOLD_STATUS, R.IO_BRIDGE_STATUS, ioBase, R.HUB_IRQ_STATUS, R.TER_FAULT_COUNT, R.TER_FAULT_LOC,
    R.TER_FAULT_BAND, R.TER_FAULT_AUX, List.mem_cons, List.not_mem_nil, or_false]
  omega

/-- The check of a crossing writes no more than its counter and what a fault writes (R159). -/
theorem crossCheck_logsIn (n io : Nat) (code : BridgeCode) (f : Flit) :
    s.logsIn (crossCheck s (some (n, io)) code f).1 (crossRegs n io) := by
  have hcount : R.IO_BRIDGE_STATUS (ioBase n io) ∈ crossRegs n io := List.mem_cons_self
  have hrefl : s.logsIn s (crossRegs n io) := .refl s _
  cases code with
  | corrected => exact hrefl.fset (F.IO_BRIDGE_STATUS_corr (ioBase n io)) _ hcount
  | uncorrectable =>
    exact (hrefl.fset (F.IO_BRIDGE_STATUS_uncorr (ioBase n io)) _ hcount).trans
      ((State.terFault_logsIn _ _ _).mono fun o ho => List.mem_cons_of_mem _ ho)
  | clean => exact hrefl

theorem crossCheck_arr (cross : Option (Nat × Nat)) (code : BridgeCode) (f : Flit) :
    (crossCheck s cross code f).1.arr = s.arr ∧ (crossCheck s cross code f).1.arrayRuns = s.arrayRuns ∧
      s.sameMem (crossCheck s cross code f).1 := by
  cases cross with
  | none => exact ⟨rfl, rfl, s.sameMem_refl⟩
  | some x =>
    obtain ⟨hlogs, hregs⟩ := crossCheck_logsIn s x.1 x.2 code f
    have hheld := State.fget_of_regsBut (f := State.holdFld) hregs (HOLD_STATUS_not_mem_crossRegs x.1 x.2)
    obtain ⟨harr, -⟩ := State.onlyLogs.units hlogs
    refine ⟨harr, ?_, State.onlyLogs.sameMem hlogs⟩
    rw [State.arrayRuns, State.arrayRuns, State.held, State.held, harr, hheld]

theorem crossCheck_clean {s : State} {cross : Option (Nat × Nat)} {code : BridgeCode} (f : Flit) (h : cross = none ∨ code = .clean) :
    crossCheck s cross code f = (s, f) := by
  obtain rfl | rfl := h
  · rfl
  · cases cross <;> rfl

theorem crossCheck_uncorrectable {s : State} {cross : Option (Nat × Nat)} (f : Flit) (h : cross ≠ none) :
    (crossCheck s cross .uncorrectable f).2 = { f with poison := true } := by
  cases cross with
  | none => exact absurd rfl h
  | some x => rfl

theorem State.arrAc_runs {s : State} (h : s.arrayRuns = true) (due skip : Nat) : s.arrAc due skip = due - skip := by
  simp [State.arrAc, h]

theorem State.sameMem_mapArr (f : ArraySt → ArraySt) : s.sameMem (s.mapArr f) := State.sameMem_of_eq rfl rfl rfl

/-- The state once flight `n` has left the wires. -/
def State.dropFlight (s : State) (n : Nat) : State := s.mapArr fun q => { q with flights := dropNth q.flights n }

theorem State.sameMem_dropFlight (n : Nat) : s.sameMem (s.dropFlight n) := s.sameMem_mapArr _

/-- A flight due at the Hub leaves the wires and joins the flits the Hub has taken (R146, R159). -/
theorem flitArrivalEff_hub {s : State} {n : Nat} {code : BridgeCode} {y : Flight} {T io : Fin 4} (hruns : s.arrayRuns = true)
    (hfly : s.arr.flights[n]? = some y) (hdue : y.due ≤ s.arr.runAc + y.skip) (hstop : y.stop = .sink (.hub T io)) :
    let z := crossCheck (s.dropFlight n) y.cross code y.flit
    flitArrivalEff s n code = z.1.mapArr fun q => { q with hubIn := q.hubIn ++ [(T.val, io.val, ⟨z.2, y.due - y.skip, y.circ⟩)] } := by
  intro z
  have hzruns : z.1.arrayRuns = true := (crossCheck_arr _ y.cross code y.flit).2.1.trans hruns
  have hgo : (s.moves y.circ && s.dueBy y.due y.skip) = true := by simp [State.moves, State.dueBy, hruns, hdue]
  simp only [flitArrivalEff, hfly, hgo, hstop, if_true]
  rw [show crossCheck (s.mapArr _) y.cross code y.flit = z from rfl, State.arrAc_runs hzruns]

theorem exec_flitArrival_none (n : Nat) (code : BridgeCode) : exec (.flitArrival n code none) s = .next (flitArrivalEff s n code) := rfl

theorem exec_flitArrival_hub {s : State} {n : Nat} {code : BridgeCode} {y : Flight} {T io : Fin 4} (hruns : s.arrayRuns = true)
    (hfly : s.arr.flights[n]? = some y) (hdue : y.due ≤ s.arr.runAc + y.skip) (hstop : y.stop = .sink (.hub T io)) :
    ∃ t, exec (.flitArrival n code none) s = .next t ∧ t.arr.flights = dropNth s.arr.flights n ∧ s.sameMem t ∧
      (y.cross = none ∨ code = .clean → s.regsBut t [] ∧ t.arr.hubIn = s.arr.hubIn ++ [(T.val, io.val, ⟨y.flit, y.due - y.skip, y.circ⟩)]) ∧
      (y.cross ≠ none → code = .uncorrectable →
        t.arr.hubIn = s.arr.hubIn ++ [(T.val, io.val, ⟨{ y.flit with poison := true }, y.due - y.skip, y.circ⟩)]) := by
  refine ⟨_, (exec_flitArrival_none s n code).trans (congrArg _ (flitArrivalEff_hub hruns hfly hdue hstop)), ?_, ?_, fun hclean => ?_,
    fun hcross hcode => ?_⟩
  · exact congrArg ArraySt.flights (crossCheck_arr _ y.cross code y.flit).1
  · exact State.sameMem_trans (s.sameMem_dropFlight n) (State.sameMem_trans (crossCheck_arr _ y.cross code y.flit).2.2 (State.sameMem_mapArr _ _))
  · rw [crossCheck_clean y.flit hclean]
    exact ⟨State.regsBut_of_regs rfl [], rfl⟩
  · subst hcode
    rw [crossCheck_uncorrectable y.flit hcross, State.mapArr_arr, (crossCheck_arr _ y.cross .uncorrectable y.flit).1]
    rfl

/-- A flit at an SF tile whose event port is another joins its input stage where there is room and does nothing more (R144–R146). -/
theorem deliverTile_quiet {s : State} {r : TileRef} {p : Nat} {f : Flit} (a : Nat) (c : Circuit) (hkind : kindOf r.k = .sf)
    (hhold : s.arr.holdTile = none) (hev : (f.evLine = false ∧ f.evBand = false) ∨ (s.evPort r (s.evVint r f.tag) ≠ p ∧
      s.readsClean (some (r.t, r.row)) [wordCw .unit r.t (8 * ((s.evVint r f.tag * 9 + r.row) * 30 + r.k))])) :
    deliverTile s r p a f c = if ((s.tile r).stage p).length < 8 then
      s.setTile r ((s.tile r).setStage p ((s.tile r).stage p ++ [⟨f, a, c⟩])) else s := by
  have hpump (t : State) : portPump t r p a = t := by simp only [portPump, hkind]
  have hrelease (x : TileSt) : (s.setTile r x).releaseTile = s.setTile r x := by
    have hhold' : (s.setTile r x).arr.holdTile = none := hhold
    simp only [State.releaseTile, hhold']
  unfold deliverTile
  dsimp only
  by_cases hroom : ((s.tile r).stage p).length < 8
  · rw [if_neg (Nat.not_le.mpr hroom), if_pos hroom, hpump]
    obtain ⟨hline, hband⟩ | ⟨hport, hclean⟩ := hev
    · simp only [hline, hband, Bool.or_self, Bool.and_false, Bool.false_eq_true, if_false]
      exact hrelease _
    · have hsee (x : TileSt) : (s.setTile r x).unitSee r (s.evVint r f.tag) 0 1 = s.setTile r x :=
        State.unitSee_clean (hclean.mapArr fun b => { b with tiles := sset (fun _ => TileSt.init) b.tiles (tileKey r) x })
      have hport' (x : TileSt) : ((s.setTile r x).evPort r (s.evVint r f.tag) == p) = false := beq_eq_false_iff_ne.mpr hport
      simp only [hsee, hport', Bool.false_eq_true, if_false, ite_self]
      exact hrelease _
  · rw [if_pos (Nat.not_lt.mp hroom), if_neg hroom]

theorem exec_flitArrival_tile {s : State} {n : Nat} {code : BridgeCode} {y : Flight} {r : TileRef} {p : Fin 5} (hshape : s.shaped)
    (hruns : s.arrayRuns = true) (hfly : s.arr.flights[n]? = some y) (hdue : y.due ≤ s.arr.runAc + y.skip)
    (hstop : y.stop = .sink (.tile r p)) (hcross : y.cross = none) (hkind : kindOf r.k = .sf) (hhold : s.arr.holdTile = none)
    (hev : (y.flit.evLine = false ∧ y.flit.evBand = false) ∨ (s.evPort r (s.evVint r y.flit.tag) ≠ p ∧
      s.readsClean (some (r.t, r.row)) [wordCw .unit r.t (8 * ((s.evVint r y.flit.tag * 9 + r.row) * 30 + r.k))])) :
    ∃ t, exec (.flitArrival n code none) s = .next t ∧ t.arr.flights = dropNth s.arr.flights n ∧ s.regsBut t [] ∧ s.sameMem t ∧
      (t.tile r).stage p = (if ((s.tile r).stage p).length < 8 then (s.tile r).stage p ++ [⟨y.flit, y.due - y.skip, y.circ⟩]
        else (s.tile r).stage p) := by
  have hgo : (s.moves y.circ && s.dueBy y.due y.skip) = true := by simp [State.moves, State.dueBy, hruns, hdue]
  have hac : (s.dropFlight n).arrAc y.due y.skip = y.due - y.skip := State.arrAc_runs hruns _ _
  have hquiet := deliverTile_quiet (s := s.dropFlight n) (y.due - y.skip) y.circ hkind hhold
    (hev.imp_right fun ⟨hport, hclean⟩ => ⟨hport, hclean.mapArr _⟩)
  have hrun : flitArrivalEff s n code =
      deliverTile (s.dropFlight n) r p (y.due - y.skip) y.flit y.circ := by
    simp only [flitArrivalEff, hfly, hgo, hstop, if_true, crossCheck_clean y.flit (.inl hcross)]
    rw [← State.dropFlight, hac]
  refine ⟨_, (exec_flitArrival_none s n code).trans (congrArg _ (hrun.trans hquiet)), ?_⟩
  have htile : (s.dropFlight n).tile r = s.tile r := rfl
  simp only [htile]
  split
  · refine ⟨rfl, State.regsBut_of_regs rfl [], State.sameMem_of_eq rfl rfl rfl, ?_⟩
    rw [State.tile_setTile_same]
    exact (s.tile r).stage_setStage_same _ (by rw [(State.shaped_tile hshape r).1]; exact p.isLt)
  · exact ⟨rfl, State.regsBut_of_regs rfl [], State.sameMem_of_eq rfl rfl rfl, rfl⟩

/-! ## Broadcast events and drains (R59, R129, R177) -/

/-- A line event that reaches a latch with room joins it (R49). -/
theorem State.latchEvents_line {s : State} {r : TileRef} (tag : Nat) (hroom : lineCount (s.tile r).latch < 15) :
    s.latchEvents r true false tag = s.setTile r { s.tile r with latch := (s.tile r).latch ++ [.line] } := by
  have hfull : decide (lineCount (s.tile r).latch ≥ 15) = false := decide_eq_false (Nat.not_le.mpr hroom)
  simp only [State.latchEvents, State.latchOne, hfull, Bool.false_eq_true, if_false, if_true]

/-- The one line event on a Terrace's broadcast latches at a tile in use once it is due (R177). -/
theorem exec_broadcastEvent_line {s : State} {r : TileRef} {b : Bcast} (hruns : s.arrayRuns = true) (hone : s.arr.bcast = [b])
    (htile : b.tile = tileKey r) (hdue : b.due ≤ s.arr.runAc) (hline : b.band = false) (hroom : lineCount (s.tile r).latch < 15)
    (huses : s.usesTile r (s.evVint r b.tag) = true)
    (hclean : s.readsClean (some (r.t, r.row)) [wordCw .unit r.t (8 * ((s.evVint r b.tag * 9 + r.row) * 30 + r.k))]) :
    ∃ t, exec (.broadcastEvent r) s = .next t ∧ t.arr.bcast = [] ∧
      s.onlyTile t r { s.tile r with latch := (s.tile r).latch ++ [.line] } := by
  have hhit : (b.tile == tileKey r && decide (b.due ≤ s.arr.runAc)) = true := by simp [htile, hdue]
  have hrun : broadcastEventEff s r = (s.mapArr fun a => { a with bcast := [] }).latchEvents r true false b.tag := by
    have hsee := State.unitSee_clean (hclean.mapArr fun a => { a with bcast := [] })
    simp only [broadcastEventEff, hruns, hone, List.find?_cons, hhit, hline, State.mapArr, eraseFirst, if_true]
    rw [if_pos (by exact huses)]
    exact congrArg (fun t => t.latchEvents r true false b.tag) hsee
  rw [State.latchEvents_line b.tag (by exact hroom)] at hrun
  refine ⟨_, (show exec (.broadcastEvent r) s = .next (broadcastEventEff s r) from rfl).trans (congrArg _ hrun), rfl, ?_⟩
  exact State.onlyTile_setTile _ r _

/-- A drain whose last read is due ends; no hand-over waits for it (R59). -/
theorem drainDoneEff_due {s : State} {r : TileRef} {d : DrainSt} (hruns : s.arrayRuns = true) (hdrain : (s.tile r).drain = some d)
    (hdue : d.lastRead ≤ s.arr.runAc) (hwait : d.wait = []) (hfire : (s.tile r).fire = none) :
    drainDoneEff s r = s.setTile r { s.tile r with drain := none } := by
  simp only [drainDoneEff, hdrain, hruns, hdue, hwait, hfire, decide_true, List.isEmpty_nil, Bool.and_self, if_true]

/-! ## Reading an MM tile (R129, R437) -/

/-- Bytes at successive addresses. -/
theorem State.bytesAt_add (a m n : Nat) : s.bytesAt a (m + n) = s.bytesAt a m ++ s.bytesAt (a + m) n := by
  induction m generalizing a with
  | zero => simp [State.bytesAt]
  | succ m ih => simp [State.bytesAt, Nat.add_right_comm m 1 n, ih, Nat.add_assoc, Nat.add_comm 1 m]

/-- Codewords without error read as the bytes they hold and leave the state as it is. -/
theorem readCws_clean {s : State} {a n : Nat} (h : ∀ i < n, s.upsetAt (a + 8 * i) = 0) : ∃ p, readCws s a n = (s.bytesAt a (8 * n), p, s) := by
  induction n generalizing a with
  | zero => exact ⟨false, rfl⟩
  | succ n ih =>
    obtain ⟨p, hrest⟩ := ih (a := a + 8) fun i hi => by
      rw [Nat.add_assoc, Nat.add_comm 8, ← Nat.mul_succ]
      exact h (i + 1) (Nat.succ_lt_succ hi)
    have hfirst : readCw s a = (s.bytesAt a 8, s.poisoned a, s) := by
      simp only [readCw, show s.upsetAt a = 0 from h 0 n.succ_pos, if_true]
    refine ⟨s.poisoned a || p, ?_⟩
    simp only [readCws, hfirst, hrest, Nat.mul_add_one, Nat.add_comm (8 * n) 8, State.bytesAt_add]

theorem readChip_clean {s : State} {a : Nat} (h : s.cleanWord a) : ∃ p, readChip s a 32 = (s.bytesAt a 32, p, s) := by
  obtain ⟨halign, hclean⟩ := h
  obtain ⟨p, hread⟩ := readCws_clean hclean
  have hlo : a / 8 * 8 = a := by omega
  have hn : (a + 32 - 1) / 8 - a / 8 + 1 = 4 := by omega
  refine ⟨p, ?_⟩
  simp only [readChip, hlo, hn, hread, Nat.sub_self, List.drop_zero, OfNat.ofNat_ne_zero, if_false]
  rw [List.take_of_length_le (by rw [State.bytesAt_length])]

/-! ## One firing of an MM read port (R68, R129) -/

/-- A plain read port offers the word at an address without error. -/
theorem mmRead_plain {s : State} {r : TileRef} {x : TileSt} {g v : Nat} (hplain : bitsW (s.opd r x.vint g) 0 3 = 0)
    (hclean : s.cleanWord (mmBase r.t r.row (idxOf r.k) + 32 * v)) :
    ∃ due p, mmRead s r x g v = s.setTile r ((s.tile r).offer g due
      [{ Flit.zero with data := dataOf (s.bytesAt (mmBase r.t r.row (idxOf r.k) + 32 * v) 32), poison := p }]) := by
  obtain ⟨p, hread⟩ := readChip_clean hclean
  simp only [mmRead, mmAccess, hplain, hread, Nat.zero_ne_one, if_true, if_false]
  exact ⟨_, p, rfl⟩

/-- A firing of read port 0 alone, whose output is free, is its read (R475). -/
theorem mmFire_one {s : State} {r : TileRef} {x : TileSt} {f : FireSt} {v : Nat} (hmask : f.d = 1) (hheld : x.outHeld 0 = false)
    (haddr : genAddr s r x 0 f.b = some v) : mmFire s r x f = .ok (mmRead s r x 0 v) := by
  have hports : (List.range 4).filter (maskHas 1) = [0] := by decide
  simp [mmFire, hmask, hports, haddr, hheld]

theorem kindFire_mm {s : State} {r : TileRef} {f : FireSt} (hkind : kindOf r.k = .mm) (hgain : (s.tile r).gainNeed = false) :
    kindFire s r f = mmFire s r (s.tile r) f := by
  simp only [kindFire, State.tryGain_unneeded hgain, hgain, hkind, Bool.false_eq_true, if_false]

/-- A firing that has not stalled is not late (R66). -/
theorem State.lateFault_firing {was : TileSt} (r : TileRef) (h : was.st = .firing) : s.lateFault r was = s := by
  simp [State.lateFault, h]

/-- A tile whose open FIRE has made one more firing, in ac `a` (R65, R68). -/
def TileSt.fired (x : TileSt) (f : FireSt) (a : Nat) : TileSt :=
  { x with fire := some { f with b := f.b + 1 }, st := .firing, why := .none, next := a + 1, led := { x.led with fire := x.led.fire + 1 } }

/-- A firing of an MM tile that is not its FIRE's last counts one and lets the tile act in the next ac (R65, R68). -/
theorem firingEff_mm {s u : State} {r : TileRef} {f : FireSt} (hready : s.seqReady r = true) (hfire : (s.tile r).fire = some f)
    (hlen : f.b + 1 < f.len) (hkind : kindOf r.k = .mm) (hst : (s.tile r).st = .firing)
    (hclean : s.readsClean (some (r.t, r.row)) (s.fireCws r f)) (hok : kindFire s r f = .ok u) (hu : (u.tile r).fire = some f) :
    firingEff s r [] = u.setTile r ((u.tile r).fired f u.arr.runAc) := by
  have hwino (t : State) : t.winoPump r = t := by simp [State.winoPump, hkind]
  have hmore : f.b < f.len := Nat.lt_of_succ_lt hlen
  simp only [firingEff, State.strike, hfire, hready, hmore, hclean, hok, State.lateFault_firing u r hst, hu, Option.getD_some, decide_true,
    Bool.and_self, Bool.false_eq_true, if_true, if_false, Nat.ne_of_lt hlen, hwino, ite_self, TileSt.fired]

/-- A firing of MM read port 0 offers the word its generator addresses (R68, R129, R475). -/
theorem exec_firing_mm {s : State} {r : TileRef} {f : FireSt} {v : Nat} (hshape : s.shaped) (hready : s.seqReady r = true)
    (hfire : (s.tile r).fire = some f) (hmask : f.d = 1) (hlen : f.b + 1 < f.len) (hkind : kindOf r.k = .mm)
    (hst : (s.tile r).st = .firing) (hgain : (s.tile r).gainNeed = false) (hheld : (s.tile r).outHeld 0 = false)
    (hclean : s.readsClean (some (r.t, r.row)) (s.fireCws r f)) (haddr : genAddr s r (s.tile r) 0 f.b = some v)
    (hplain : bitsW (s.opd r (s.tile r).vint 0) 0 3 = 0) (hword : s.cleanWord (mmBase r.t r.row (idxOf r.k) + 32 * v)) :
    ∃ t y, exec (.firing r []) s = .next t ∧ (t.tile r).fire = some { f with b := f.b + 1 } ∧
      (t.tile r).led.fire = (s.tile r).led.fire + 1 ∧ (t.tile r).next = s.arr.runAc + 1 ∧ (t.tile r).out 0 = (s.tile r).out 0 ++ [y] ∧
      y.flit.data = dataOf (s.bytesAt (mmBase r.t r.row (idxOf r.k) + 32 * v) 32) ∧ s.regsBut t [] ∧ s.sameMem t := by
  obtain ⟨due, p, hread⟩ := mmRead_plain hplain hword
  generalize hflit : { Flit.zero with data := dataOf (s.bytesAt (mmBase r.t r.row (idxOf r.k) + 32 * v) 32), poison := p } = fl at hread
  have hout : 0 < (s.tile r).outq.length := by rw [(State.shaped_tile hshape r).2]; decide
  obtain ⟨d, hoffer⟩ := (s.tile r).out_offer_one due fl hout
  obtain ⟨oq, heq⟩ := (s.tile r).offer_eq 0 due [fl]
  have hok : kindFire s r f = .ok (s.setTile r ((s.tile r).offer 0 due [fl])) := by
    rw [kindFire_mm hkind hgain, mmFire_one hmask hheld haddr, hread]
  have hac : (s.setTile r ((s.tile r).offer 0 due [fl])).arr.runAc = s.arr.runAc := rfl
  have honly := s.onlyTile_setTile r ((s.tile r).offer 0 due [fl])
  generalize s.setTile r ((s.tile r).offer 0 due [fl]) = u at hok hac honly
  have htile : u.tile r = (s.tile r).offer 0 due [fl] := honly.1
  have hrun := firingEff_mm hready hfire hlen hkind hst hclean hok (by rw [htile, heq]; exact hfire)
  obtain ⟨hsame, -, hregs, hmem⟩ := honly.setTile ((u.tile r).fired f u.arr.runAc)
  refine ⟨_, ⟨d, fl, none, false⟩, (show exec (.firing r []) s = .next (firingEff s r []) from rfl).trans (congrArg _ hrun), ?_⟩
  rw [hsame, htile, hac]
  refine ⟨rfl, ?_, rfl, hoffer, ?_, hregs, hmem⟩
  · rw [heq]
    rfl
  · rw [← hflit]

/-! ## A join under a governing token (R162–R164) -/

/-- Taking the head of an input stage changes of the tile only the stage, and no register or memory. -/
theorem State.takeStage_cons {s : State} {r : TileRef} {p : Nat} {e : StageEntry} {q : List StageEntry} (a : Nat)
    (hstage : (s.tile r).stage p = e :: q) :
    (s.takeStage r p a).tile r = (s.tile r).setStage p q ∧ s.regsBut (s.takeStage r p a) [] ∧ s.sameMem (s.takeStage r p a) := by
  obtain ⟨htile, -, hregs, hmem⟩ := s.onlyTile_setTile r ((s.tile r).setStage p q)
  simp only [State.takeStage, hstage]
  generalize s.setTile r ((s.tile r).setStage p q) = t at htile hregs hmem ⊢
  exact ⟨htile, hregs, hmem⟩

theorem TileSt.headAt_cons {x : TileSt} {p a : Nat} {e : StageEntry} {q : List StageEntry} (hstage : x.stage p = e :: q) (harr : e.arr < a) :
    x.headAt p a = some e := by
  simp only [TileSt.headAt, hstage, harr, if_true]

/-- The ti port does nothing while its stage is empty (R161). -/
theorem tiPump_empty {s : State} {r : TileRef} (a n : Nat) (h : (s.tile r).stage 4 = []) : tiPump s r a n = s := by
  cases n with
  | zero => rfl
  | succ n => simp only [tiPump, h]

/-- A tile whose join has taken its flit `f`: its token governs no longer, and `f` waits at output `o`. -/
def TileSt.joined (x : TileSt) (u o due : Nat) (f : Flit) : TileSt := { x with govern := setNth x.govern u none }.offer o due [f]

/-- A join changes of its tile, beside the stage, the output queues and the governing token. -/
theorem TileSt.joined_eq (x : TileSt) (u o due : Nat) (f : Flit) :
    ∃ oq, x.joined u o due f = { x with govern := setNth x.govern u none, outq := oq } := by
  obtain ⟨oq, h⟩ := { x with govern := setNth x.govern u none }.offer_eq o due [f]
  exact ⟨oq, h⟩

theorem TileSt.out_joined (x : TileSt) (u : Nat) {o : Nat} (due : Nat) (f : Flit) (ho : o < x.outq.length) :
    ∃ d, (x.joined u o due f).out o = x.out o ++ [⟨d, f, none, false⟩] :=
  { x with govern := setNth x.govern u none }.out_offer_one due f ho

/-- A token without poison that governs a unit of kind 1 steers the last flit of its packet by its value and then governs no longer. -/
theorem joinEff_governed {s t : State} {r : TileRef} {u : Fin 4} {tk : Token} {e : StageEntry} {q : List StageEntry}
    (hruns : s.arrayRuns = true) (hkind : kindOf r.k = .rk) (hstarted : (s.tile r).started = true) (hst : (s.tile r).st ≠ .faulted)
    (hclean : s.readsClean (some (r.t, r.row)) [s.opdCw r (s.tile r).vint u]) (hsteer : bitsW (s.opd r (s.tile r).vint u) 0 3 = 1)
    (hgov : nth none (s.tile r).govern u = some tk) (hpoison : tk.poison = false) (hstage : (s.tile r).stage u = e :: q)
    (harr : e.arr < s.arr.runAc) (hlast : e.flit.last = true) (hheld : (s.tile r).outHeld (if tk.v then u.val + 1 else u.val) = false)
    (ht : s.takeStage r u s.arr.runAc = t) :
    ∃ due, joinEff s r u =
      tiPump (t.setTile r ((t.tile r).joined u (if tk.v then u.val + 1 else u.val) due e.flit)) r s.arr.runAc 20 := by
  have hst' : ((s.tile r).st != .faulted) = true := bne_iff_ne.mpr hst
  have hhead := TileSt.headAt_cons hstage harr
  have hdone : (bitW (s.opd r (s.tile r).vint u) 3 && !e.flit.last) = false := by rw [hlast, Bool.not_true, Bool.and_false]
  refine ⟨s.arr.runAc + t.lat (tb r) (t.tile r).vint .rk1, ?_⟩
  simp only [joinEff, hruns, hkind, hstarted, hst', hsteer, hgov, hpoison, hhead, hheld, hdone, ht, State.withCtl_clean _ hclean,
    beq_self_eq_true, decide_false, Nat.reduceBEq, Nat.reduceEqDiff, Option.isSome_some, Option.isNone_some, Bool.not_true, Bool.and_self,
    Bool.false_and, Bool.or_false, Bool.false_eq_true, reduceIte]
  rfl

/-- The token register that governed a unit is empty once it is set so. -/
theorem nth_setNth_none {α : Type} (l : List (Option α)) (i : Nat) : nth none (setNth l i none) i = none := by
  induction l generalizing i with
  | nil => rfl
  | cons x l ih =>
    cases i with
    | zero => rfl
    | succ i => exact ih i

theorem exec_join (r : TileRef) (u : Fin 4) : exec (.join r u) s = .next (joinEff s r u) := rfl

/-- The data of a governed unit leaves its stage for the output its token selects (R162–R164). -/
theorem exec_join_governed {s : State} {r : TileRef} {u : Fin 4} {tk : Token} {e : StageEntry} {q : List StageEntry} (hshape : s.shaped)
    (hruns : s.arrayRuns = true) (hkind : kindOf r.k = .rk) (hstarted : (s.tile r).started = true) (hst : (s.tile r).st ≠ .faulted)
    (hclean : s.readsClean (some (r.t, r.row)) [s.opdCw r (s.tile r).vint u]) (hsteer : bitsW (s.opd r (s.tile r).vint u) 0 3 = 1)
    (hgov : nth none (s.tile r).govern u = some tk) (hpoison : tk.poison = false) (hstage : (s.tile r).stage u = e :: q)
    (harr : e.arr < s.arr.runAc) (hlast : e.flit.last = true) (hti : (s.tile r).stage 4 = [])
    (hheld : (s.tile r).outHeld (if tk.v then u.val + 1 else u.val) = false) :
    ∃ t, exec (.join r u) s = .next t ∧ nth none (t.tile r).govern u = none ∧ (t.tile r).tokens = (s.tile r).tokens ∧
      (t.tile r).stage u = q ∧ s.regsBut t [] ∧ s.sameMem t ∧ ((if tk.v then u.val + 1 else u.val) < 4 →
        ∃ y, (t.tile r).out (if tk.v then u.val + 1 else u.val) = (s.tile r).out (if tk.v then u.val + 1 else u.val) ++ [y] ∧
          y.flit = e.flit) := by
  obtain ⟨hstages, houts⟩ := State.shaped_tile hshape r
  obtain ⟨htile, hregs, hmem⟩ := State.takeStage_cons s.arr.runAc hstage
  obtain ⟨due, hrun⟩ := joinEff_governed hruns hkind hstarted hst hclean hsteer hgov hpoison hstage harr hlast hheld rfl
  generalize s.takeStage r u s.arr.runAc = w at htile hregs hmem hrun
  generalize (if tk.v = true then u.val + 1 else u.val) = o at hrun ⊢
  obtain ⟨oq, heq⟩ := (w.tile r).joined_eq u o due e.flit
  obtain ⟨hsame, -, hregs', hmem'⟩ := w.onlyTile_setTile r ((w.tile r).joined u o due e.flit)
  have hstages' (p : Nat) : ((w.tile r).joined u o due e.flit).stage p = ((s.tile r).setStage u q).stage p := by
    rw [heq, htile]
    rfl
  have hfour : ((w.tile r).joined u o due e.flit).stage 4 = [] := by
    rw [hstages', ← hti]
    exact (s.tile r).stage_setStage_other q (by omega)
  rw [tiPump_empty _ _ (by rw [hsame, hfour])] at hrun
  generalize w.setTile r ((w.tile r).joined u o due e.flit) = t at hrun hsame hregs' hmem'
  refine ⟨t, (exec_join s r u).trans (congrArg _ hrun), ?_, ?_, ?_, State.regsBut_trans hregs hregs', State.sameMem_trans hmem hmem',
    fun ho => ?_⟩
  · rw [hsame, heq]
    exact nth_setNth_none _ _
  · rw [hsame, heq, htile]
    rfl
  · rw [hsame, hstages']
    exact (s.tile r).stage_setStage_same q (by omega)
  · obtain ⟨d, hout⟩ := (w.tile r).out_joined u due e.flit (o := o) (by rw [htile]; exact ho.trans_eq houts.symm)
    rw [hsame, hout, htile]
    exact ⟨_, rfl, rfl⟩

end Sys2Proof.Machine

open Sys2Proof Sys2Proof.Machine

/-- Settles O58: one lemma per event of the fabric, each by what its effect comes to on the state given. -/
theorem fabricEvents : Obligations.FabricEvents := by
  unfold Obligations.FabricEvents
  refine ⟨?emission, ?noCredit, ?credit, ?hub, ?tile, ?broadcast, ?firing, ?drain, ?join⟩
  case emission => exact fun r p e q c s => exec_flitEmission_sent
  case noCredit => exact fun r p e q c s => exec_flitEmission_noCredit
  case credit => exact fun src snk x y s => exec_creditArrival_due
  case hub => exact fun n code y T io s => exec_flitArrival_hub
  case tile => exact fun n code y r p s => exec_flitArrival_tile
  case broadcast => exact fun r b s => exec_broadcastEvent_line
  case firing => exact fun r f v s => exec_firing_mm
  case drain =>
    intro r d s hruns hdrain hdue hwait hfire
    have hexec : exec (.drainDone r) s = .next (drainDoneEff s r) := rfl
    rw [hexec, drainDoneEff_due hruns hdrain hdue hwait hfire]
  case join =>
    intro r u tk e q s hshape hruns hkind hstarted hst hclean hsteer hgov hpoison hstage harr hlast _ hti o hheld
    exact exec_join_governed hshape hruns hkind hstarted hst hclean hsteer hgov hpoison hstage harr hlast hti hheld

end

section
/-!
PROOFS. Memory beside the array (05 R151; 12 R342–R344): a write of whole codewords changes their bytes, marks and error patterns alone, and the
HyperRAM controller's reads and writes come to the same whatever the array and the configuration words hold.
-/
namespace Sys2Proof.Machine

variable (s : State)

/-! ## Whole codewords (R439) -/

theorem State.putBytes_append (a : Nat) (xs ys : List Byte) :
    s.putBytes a (xs ++ ys) = (s.putBytes a xs).putBytes (a + xs.length) ys := by
  induction xs generalizing s a with
  | nil => rfl
  | cons x xs ih => simp only [List.cons_append, State.putBytes, ih, List.length_cons, Nat.add_assoc, Nat.add_comm 1]

theorem State.putBytes_eq (a : Nat) (bs : List Byte) : s.putBytes a bs = { s with mem := (s.putBytes a bs).mem } := by
  induction bs generalizing s a with
  | nil => rfl
  | cons b bs ih => exact ih (s.setByte a b) (a + 1)

theorem State.putBytes_mem_congr {s t : State} (h : t.mem = s.mem) (a : Nat) (bs : List Byte) :
    (t.putBytes a bs).mem = (s.putBytes a bs).mem := by
  induction bs generalizing s t a with
  | nil => exact h
  | cons b bs ih => exact ih (by simp only [State.setByte, h]) (a + 1)

/-- A write of whole codewords stores its bytes; beside them it changes only marks and error patterns. -/
theorem writeCws_whole {n k a : Nat} {bs : List Byte} (b : Bool) (ha : a % 8 = 0) (hlen : bs.length = 8 * k) (hk : k ≤ n) :
    ∃ p u, writeCws s n a bs b = { s with mem := (s.putBytes a bs).mem, poison := p, upset := u } := by
  induction n generalizing s k a bs with
  | zero =>
    obtain rfl : bs = [] := List.eq_nil_of_length_eq_zero (by omega)
    exact ⟨s.poison, s.upset, rfl⟩
  | succ n ih =>
    cases k with
    | zero =>
      obtain rfl : bs = [] := List.eq_nil_of_length_eq_zero hlen
      exact ⟨s.poison, s.upset, rfl⟩
    | succ k =>
      have hne : bs.isEmpty = false := by
        rw [List.isEmpty_eq_false_iff, ← List.length_pos_iff]
        omega
      have htake : (bs.take 8).length = 8 := by rw [List.length_take]; omega
      have hdrop : (bs.drop 8).length = 8 * k := by rw [List.length_drop]; omega
      have hcw : writeCw s a 0 (bs.take 8) b = ((s.putBytes a (bs.take 8)).setPoison a b).setUpset a 0 := if_pos htake
      obtain ⟨p, u, hrest⟩ := ih (((s.putBytes a (bs.take 8)).setPoison a b).setUpset a 0) (a := a + 8) (bs := bs.drop 8) (k := k) (by omega)
        hdrop (by omega)
      have hmem : ((((s.putBytes a (bs.take 8)).setPoison a b).setUpset a 0).putBytes (a + 8) (bs.drop 8)).mem = (s.putBytes a bs).mem := by
        rw [State.putBytes_mem_congr (s := s.putBytes a (bs.take 8)) (t := ((s.putBytes a (bs.take 8)).setPoison a b).setUpset a 0) rfl]
        conv_rhs => rw [← List.take_append_drop 8 bs, State.putBytes_append, htake]
      refine ⟨p, u, ?_⟩
      simp only [writeCws, hne, ha, Nat.sub_zero, hcw, Bool.false_eq_true, if_false]
      rw [hrest, hmem, State.putBytes_eq]
      rfl

theorem writeChip_whole {a : Nat} {bs : List Byte} (b : Bool) (ha : a % 8 = 0) (hlen : bs.length % 8 = 0) :
    ∃ p u, writeChip s a bs b = { s with mem := (s.putBytes a bs).mem, poison := p, upset := u } :=
  writeCws_whole s b ha (k := bs.length / 8) (by omega) (by omega)

/-- A write of whole codewords leaves the array and the registers, and changes no byte but those it writes. -/
theorem writeChip_spec {a : Nat} {bs : List Byte} (b : Bool) (ha : a % 8 = 0) (hlen : bs.length % 8 = 0) :
    let t := writeChip s a bs b
    t.arr = s.arr ∧ t.regs = s.regs ∧ t.bytesAt a bs.length = bs ∧ ∀ p, (p < a ∨ a + bs.length ≤ p) → t.byte p = s.byte p := by
  obtain ⟨p, u, h⟩ := writeChip_whole s b ha hlen
  have hbytes (t : State) (ht : t.mem = (s.putBytes a bs).mem) (q : Nat) : t.byte q = (s.putBytes a bs).byte q := by
    simp only [State.byte, ht]
  have hmem : (writeChip s a bs b).mem = (s.putBytes a bs).mem := by rw [h]
  refine ⟨by rw [h], by rw [h], ?_, fun q hq => ?_⟩
  · rw [State.bytesAt_congr fun q _ _ => hbytes _ hmem q]
    exact s.bytesAt_putBytes a bs
  · rw [hbytes _ hmem]
    exact s.byte_putBytes_outside a q bs hq

/-! ## The HyperRAM controller apart from the array (R342–R344) -/

/-- The state with another array and other configuration words. -/
def State.withFabric (s : State) (a : ArraySt) (w : SMap Word) : State := { s with arr := a, words := w }

/-- The answer of a read with the state it leaves changed so. -/
def Rd.withFabric (x : Rd) (a : ArraySt) (w : SMap Word) : Rd := (x.1, x.2.1, x.2.2.withFabric a w)

variable (a : ArraySt) (w : SMap Word)

variable {a w} in
theorem State.ite_withFabric {c : Prop} [Decidable c] {x y x' y' : State} (hx : x' = x.withFabric a w) (hy : y' = y.withFabric a w) :
    (if c then x' else y') = (if c then x else y).withFabric a w := by
  rw [hx, hy, apply_ite (State.withFabric · a w)]

variable {a w} in
theorem Rd.ite_withFabric {c : Prop} [Decidable c] {x y x' y' : Rd} (hx : x' = Rd.withFabric x a w) (hy : y' = Rd.withFabric y a w) :
    (if c then x' else y') = Rd.withFabric (if c then x else y) a w := by
  rw [hx, hy, apply_ite (Rd.withFabric · a w)]

theorem State.note_withFabric (code : Nat) : (s.withFabric a w).note code = (s.note code).withFabric a w :=
  State.ite_withFabric rfl rfl

theorem State.raiseVec_withFabric (v : Nat) : (s.withFabric a w).raiseVec v = (s.raiseVec v).withFabric a w := by
  have hmsg : (s.withFabric a w).msgFor v = s.msgFor v := rfl
  unfold State.raiseVec
  rw [hmsg]
  cases s.msgFor v with
  | none => rfl
  | some m => exact State.ite_withFabric rfl rfl

@[simp] theorem State.fbit_withFabric (f : Fld) : (s.withFabric a w).fbit f = s.fbit f := rfl
@[simp] theorem State.fset_withFabric (f : Fld) (v : Nat) : (s.withFabric a w).fset f v = (s.fset f v).withFabric a w := rfl
@[simp] theorem State.fcount_withFabric (f : Fld) (n : Nat) : (s.withFabric a w).fcount f n = (s.fcount f n).withFabric a w := rfl
@[simp] theorem State.mapStr_withFabric (f : StrSt → StrSt) : (s.withFabric a w).mapStr f = (s.mapStr f).withFabric a w := rfl
@[simp] theorem State.mapCp_withFabric (f : CpSt → CpSt) : (s.withFabric a w).mapCp f = (s.mapCp f).withFabric a w := rfl

theorem State.fsetBit_withFabric (f : Fld) (i : Nat) (b : Bool) :
    (s.withFabric a w).fsetBit f i b = (s.fsetBit f i b).withFabric a w := rfl

@[simp] theorem State.irq_withFabric (k : Nat) : (s.withFabric a w).irq k = (s.irq k).withFabric a w := by
  have hbits (f : Fld) : (s.withFabric a w).fget f = s.fget f := rfl
  unfold State.irq
  dsimp only
  rw [hbits, hbits, State.fsetBit_withFabric, State.raiseVec_withFabric]
  exact State.ite_withFabric rfl (State.ite_withFabric rfl rfl)

@[simp] theorem State.hrmErr_withFabric (code ch src off : Nat) :
    (s.withFabric a w).hrmErr code ch src off = (s.hrmErr code ch src off).withFabric a w := by
  unfold State.hrmErr
  dsimp only
  rw [State.note_withFabric, State.fbit_withFabric, State.fset_withFabric, State.fset_withFabric, State.fset_withFabric,
    State.fset_withFabric, State.fset_withFabric, State.irq_withFabric]
  exact State.ite_withFabric rfl rfl

@[simp] theorem State.chanOf_withFabric (o : Nat) : (s.withFabric a w).chanOf o = s.chanOf o := rfl

theorem State.spanOk_withFabric (o n : Nat) : (s.withFabric a w).spanOk o n = s.spanOk o n := by
  have hterrace (p : Nat) : (s.withFabric a w).terraceOk p = s.terraceOk p := rfl
  have haddr (p : Nat) : (s.withFabric a w).addrOk p = s.addrOk p := by
    unfold State.addrOk
    rw [hterrace, State.chanOf_withFabric]
    cases s.chanOf (p - hyperBase) <;> rfl
  simp only [State.spanOk, haddr]

theorem checkBlock_withFabric (o src r : Nat) :
    checkBlock (s.withFabric a w) o src r = Rd.withFabric (checkBlock s o src r) a w := by
  have hbytes : (s.withFabric a w).bytesAt o 32 = s.bytesAt o 32 := State.bytesAt_congr fun _ _ _ => rfl
  have hcheck (p : Nat) : (s.withFabric a w).addrCheck p = s.addrCheck p := rfl
  have hmark : (s.withFabric a w).poisoned o = s.poisoned o := rfl
  simp only [checkBlock, hbytes, hcheck, hmark, State.chanOf_withFabric, State.hrmErr_withFabric]
  exact Rd.ite_withFabric rfl rfl

theorem readBlock_withFabric (o src : Nat) : readBlock (s.withFabric a w) o src = Rd.withFabric (readBlock s o src) a w := by
  have hbytes : (s.withFabric a w).bytesAt o 32 = s.bytesAt o 32 := State.bytesAt_congr fun _ _ _ => rfl
  have hup : (s.withFabric a w).upsetAt o = s.upsetAt o := rfl
  have hmark : (s.withFabric a w).poisoned o = s.poisoned o := rfl
  simp only [readBlock, hbytes, hup, hmark, State.chanOf_withFabric, State.fcount_withFabric, checkBlock_withFabric, State.hrmErr_withFabric]
  refine Rd.ite_withFabric rfl ?_
  cases rsDecode 36 (s.upsetAt o) <;> rfl

theorem readBlocks_withFabric (src n o : Nat) :
    readBlocks (s.withFabric a w) src o n = Rd.withFabric (readBlocks s src o n) a w := by
  induction n generalizing s o with
  | zero => rfl
  | succ n ih => simp only [readBlocks, readBlock_withFabric, Rd.withFabric, ih]

theorem readHyper_withFabric (o n src : Nat) : readHyper (s.withFabric a w) o n src = Rd.withFabric (readHyper s o n src) a w := by
  simp only [readHyper, readBlocks_withFabric]
  exact Rd.ite_withFabric rfl rfl

theorem State.putBytes_withFabric (p : Nat) (bs : List Byte) :
    (s.withFabric a w).putBytes p bs = (s.putBytes p bs).withFabric a w := by
  induction bs generalizing s p with
  | nil => rfl
  | cons b bs ih => exact ih (s.setByte p b) (p + 1)

theorem writeBlock_withFabric (p o : Nat) (bs : List Byte) (b : Bool) (src : Nat) :
    writeBlock (s.withFabric a w) p o bs b src = (writeBlock s p o bs b src).withFabric a w := by
  simp only [writeBlock, readBlock_withFabric, Rd.withFabric, State.putBytes_withFabric]
  exact State.ite_withFabric rfl rfl

theorem writeBlocks_withFabric (b : Bool) (src n p : Nat) (bs : List Byte) :
    writeBlocks (s.withFabric a w) b src n p bs = (writeBlocks s b src n p bs).withFabric a w := by
  induction n generalizing s p bs with
  | zero => rfl
  | succ n ih =>
    have hstore : (s.withFabric a w).hitsBstore (p - p % 32) 32 = s.hitsBstore (p - p % 32) 32 := rfl
    simp only [writeBlocks, hstore, writeBlock_withFabric]
    rw [State.ite_withFabric rfl rfl, ih]
    exact State.ite_withFabric rfl rfl

theorem writeHyper_withFabric (p : Nat) (bs : List Byte) (b : Bool) (src : Nat) :
    writeHyper (s.withFabric a w) p bs b src = (writeHyper s p bs b src).withFabric a w := writeBlocks_withFabric s a w b src _ p bs

theorem State.capture_withFabric (k : Nat) (fCode fValid : Fld) (code : Nat) :
    (s.withFabric a w).capture k fCode fValid code = (s.capture k fCode fValid code).withFabric a w := by
  simp only [State.capture, State.fbit_withFabric, State.fset_withFabric, State.irq_withFabric]
  exact State.ite_withFabric rfl rfl

theorem State.raise_withFabric (code : Nat) : (s.withFabric a w).raise code = (s.raise code).withFabric a w := by
  simp only [State.raise, State.secErr, State.note_withFabric, State.capture_withFabric]
  exact State.ite_withFabric rfl rfl

theorem State.serialDone_withFabric : (s.withFabric a w).serialDone 0 0 = (s.serialDone 0 0).withFabric a w := by
  have hcp : (s.withFabric a w).cp = s.cp := rfl
  simp only [State.serialDone, hcp]
  cases s.cp.serial with
  | none => rfl
  | some c => simp only [State.complete_ok _ _ _ _ _ _ (.inl rfl), State.mapCp_withFabric, State.raise_withFabric]

theorem State.fenceCheck_withFabric : (s.withFabric a w).fenceCheck = s.fenceCheck.withFabric a w := by
  have hstr : (s.withFabric a w).str = s.str := rfl
  simp only [State.fenceCheck, hstr, State.mapStr_withFabric, State.serialDone_withFabric]
  cases s.str.fenceTo with
  | none => rfl
  | some n => exact State.ite_withFabric rfl rfl

theorem State.acceptWrite_withFabric (x : HyperWr) : (s.withFabric a w).acceptWrite x = (s.acceptWrite x).withFabric a w := by
  unfold State.acceptWrite State.writeDone
  dsimp only
  rw [State.mapStr_withFabric, State.spanOk_withFabric, writeHyper_withFabric, State.ite_withFabric rfl rfl, State.mapStr_withFabric,
    State.fenceCheck_withFabric]

theorem State.inOrder_withFabric (o n : Nat) : (s.withFabric a w).inOrder o n = (s.inOrder o n).withFabric a w := by
  have hfold (xs : List HyperWr) (t : State) : xs.foldl (fun t x => t.acceptWrite x) (t.withFabric a w) =
      (xs.foldl (fun t x => t.acceptWrite x) t).withFabric a w := by
    induction xs generalizing t with
    | nil => rfl
    | cons x xs ih => rw [List.foldl_cons, List.foldl_cons, State.acceptWrite_withFabric, ih]
  exact hfold _ s

/-- The next word of a spill ring is found whatever the array holds (R170). -/
theorem ringWord_withFabric (base size n p : Nat) :
    ringWord (s.withFabric a w) base size n p = (ringWord s base size n p).map fun x => (x.1, x.2.1, x.2.2.withFabric a w) := by
  induction n generalizing s p with
  | zero => rfl
  | succ n ih =>
    simp only [ringWord, readHyper_withFabric, Rd.withFabric, ih]
    split <;> rfl

end Sys2Proof.Machine
end

section
/-!
PROOFS. What goes on beside the array (06 R194, R195; 08 R241–R254; 11 R330): error reports, memory accesses, the Graft queue and what a job's end
does to switches and commits leave the array, the deadlock detector's status and the entries that wait for ring 1.
-/
namespace Sys2Proof.Machine

/-- `t` differs from `s` outside the array, the run of a job and the deadlock detector's status, and has every entry that waits for ring 1. -/
def State.beside (s t : State) : Prop :=
  t.arr = s.arr ∧ t.job.running = s.job.running ∧ t.reg R.HUB_DLD_STATUS = s.reg R.HUB_DLD_STATUS ∧ s.cp.comps ⊆ t.cp.comps

namespace State.beside

variable {s t u : State}

theorem refl (s : State) : s.beside s := ⟨rfl, rfl, rfl, List.Subset.refl _⟩

theorem trans (h1 : s.beside t) (h2 : t.beside u) : s.beside u := by
  obtain ⟨harr, hrun, hdld, hcomps⟩ := h1
  obtain ⟨harr', hrun', hdld', hcomps'⟩ := h2
  exact ⟨harr'.trans harr, hrun'.trans hrun, hdld'.trans hdld, List.Subset.trans hcomps hcomps'⟩

/-- A change of parts that `beside` does not speak of. -/
theorem rest (h : s.beside t) (harr : u.arr = t.arr) (hrun : u.job.running = t.job.running) (hregs : u.regs = t.regs)
    (hcomps : u.cp.comps = t.cp.comps) : s.beside u :=
  h.trans ⟨harr, hrun, State.reg_congr hregs _, fun _ he => hcomps ▸ he⟩

theorem mapStr (h : s.beside t) (f : StrSt → StrSt) : s.beside (t.mapStr f) := h.rest rfl rfl rfl rfl
theorem mapGrf (h : s.beside t) (f : GrfSt → GrfSt) : s.beside (t.mapGrf f) := h.rest rfl rfl rfl rfl
theorem setPoison (h : s.beside t) (a : Nat) (b : Bool) : s.beside (t.setPoison a b) := h.rest rfl rfl rfl rfl
theorem setUpset (h : s.beside t) (a x : Nat) : s.beside (t.setUpset a x) := h.rest rfl rfl rfl rfl
theorem setWord (h : s.beside t) (sp : Space) (u i : Nat) (v : Word) : s.beside (t.setWord sp u i v) := h.rest rfl rfl rfl rfl
theorem freshBelow (h : s.beside t) (n : Nat) : s.beside (t.freshBelow n).2 := h.rest rfl rfl rfl rfl

theorem ite {c : Prop} [Decidable c] (hx : s.beside t) (hy : s.beside u) : s.beside (if c then t else u) := by
  split <;> assumption

theorem rd_ite {c : Prop} [Decidable c] {x y : Rd} (hx : s.beside x.2.2) (hy : s.beside y.2.2) : s.beside (if c then x else y).2.2 := by
  split <;> assumption

theorem foldl {α : Type} (f : State → α → State) (h : ∀ (s : State) a, s.beside (f s a)) (l : List α) (s : State) :
    s.beside (l.foldl f s) := by
  induction l generalizing s with
  | nil => exact refl s
  | cons a l ih => exact (h s a).trans (ih (f s a))

theorem fset (h : s.beside t) (f : Fld) (v : Nat) (hf : f.off ≠ R.HUB_DLD_STATUS) : s.beside (t.fset f v) :=
  h.trans ⟨rfl, rfl, t.reg_setReg_other _ hf.symm, List.Subset.refl _⟩

theorem fcount (h : s.beside t) (f : Fld) (n : Nat) (hf : f.off ≠ R.HUB_DLD_STATUS) : s.beside (t.fcount f n) := h.fset f _ hf

/-! ## Error reports -/

theorem note (h : s.beside t) (code : Nat) : s.beside (t.note code) := h.trans (.ite ⟨rfl, rfl, rfl, List.Subset.refl _⟩ (refl t))

theorem irq (h : s.beside t) (k : Nat) : s.beside (t.irq k) := by
  obtain ⟨-, hregs⟩ := (State.logsIn.refl t [R.HUB_IRQ_STATUS]).irq k (by simp)
  obtain ⟨harr, -, hcp, -, -, -, -, hrun⟩ := (t.onlyLogs_irq k).units
  exact h.trans ⟨harr, hrun, hregs _ (by decide), fun _ he => hcp ▸ he⟩

theorem capture (h : s.beside t) (k : Nat) (fCode fValid : Fld) (code : Nat) (hc : fCode.off ≠ R.HUB_DLD_STATUS)
    (hv : fValid.off ≠ R.HUB_DLD_STATUS) : s.beside (t.capture k fCode fValid code) :=
  .ite h (((h.fset _ _ hc).fset _ _ hv).irq k)

theorem raise (h : s.beside t) (code : Nat) : s.beside (t.raise code) :=
  .ite ((h.note code).capture 0 _ _ code (by decide) (by decide)) (h.note code)

theorem complete (h : s.beside t) (tag op code result : Nat) (irq : Bool) : s.beside (t.complete tag op code result irq) := by
  have hres : t.beside (if code ≠ 0 ∧ result = 0 then t.freshBelow (2 ^ 64) else (result, t)).2 := by
    split
    · exact (refl t).freshBelow _
    · exact refl t
  refine (h.trans (hres.raise code)).trans ⟨rfl, rfl, rfl, ?_⟩
  exact List.subset_append_left _ _

theorem hrmErr (h : s.beside t) (code ch src off : Nat) : s.beside (t.hrmErr code ch src off) :=
  .ite (h.note code) ((((((((h.note code).fset F.HRM_ERR_ADDR_offset _ (by decide)).fset F.HRM_ERR_INFO_code _ (by decide)).fset
    F.HRM_ERR_INFO_channel _ (by decide)).fset F.HRM_ERR_INFO_source _ (by decide)).fset F.HRM_ERR_INFO_valid _ (by decide))).irq 0)

/-- A register of a Terrace lies above every register of the Hub (R41). -/
theorem TER_ROW_ECC_ne (n i : Nat) : R.TER_ROW_ECC n i ≠ R.HUB_DLD_STATUS := by
  simp only [R.TER_ROW_ECC, R.HUB_DLD_STATUS]
  omega

theorem countCorrRow (h : s.beside t) (x : Option (Nat × Nat)) : s.beside (t.countCorrRow x) := by
  cases x with
  | none => exact h.fcount _ _ (by decide)
  | some x =>
    exact (h.trans ⟨rfl, rfl, rfl, List.Subset.refl _⟩).fcount _ _ (TER_ROW_ECC_ne x.1 x.2) |>.fcount _ _ (TER_ROW_ECC_ne x.1 x.2)

theorem eccAlert (h : s.beside t) (n row cause : Nat) : s.beside (t.eccAlert n row cause) :=
  .ite h (((((h.fset F.HUB_ECC_ALERT_terrace _ (by decide)).fset F.HUB_ECC_ALERT_row _ (by decide)).fset F.HUB_ECC_ALERT_cause _
    (by decide)).fset F.HUB_ECC_ALERT_valid _ (by decide)).irq 0)

theorem countUncRow (h : s.beside t) (x : Option (Nat × Nat)) : s.beside (t.countUncRow x) := by
  cases x with
  | none => exact h.fcount _ _ (by decide)
  | some x =>
    have hcount := h.fcount (F.TER_ROW_ECC_uncorr x.1 x.2) 1 (TER_ROW_ECC_ne x.1 x.2)
    exact .ite (hcount.eccAlert _ _ _) (.ite hcount (hcount.trans ⟨rfl, rfl, rfl, List.Subset.refl _⟩))

theorem raiseEcc (h : s.beside t) (a code : Nat) (scrub : Bool) : s.beside (t.raiseEcc a code scrub) := by
  have hcount := (h.note code).countUncRow (if inTerrace a then some (terOf a, rowOf a) else none)
  exact .ite hcount ((((((hcount.fset F.HUB_ECC_ERR_ADDR_addr _ (by decide)).fset F.HUB_ECC_ERR_INFO_addr_hi _ (by decide)).fset
    F.HUB_ECC_ERR_INFO_code _ (by decide)).fset F.HUB_ECC_ERR_INFO_source _ (by decide)).fset F.HUB_ECC_ERR_INFO_valid _ (by decide)).irq 0)

end State.beside

variable (s : State)

/-! ## Memory -/

theorem State.beside_putBytes (a : Nat) (bs : List Byte) : s.beside (s.putBytes a bs) := by
  rw [State.putBytes_eq]
  exact (State.beside.refl s).rest rfl rfl rfl rfl

theorem readCw_beside (a : Nat) : s.beside (readCw s a).2.2 := by
  refine .rd_ite (State.beside.refl s) ?_
  cases rsDecode 11 (s.upsetAt a) with
  | good r => exact .refl s
  | corrected r => exact (State.beside.refl s).countCorrRow _
  | bad => exact (State.beside.refl s).raiseEcc _ _ _

theorem readCws_beside (a n : Nat) : s.beside (readCws s a n).2.2 := by
  induction n generalizing s a with
  | zero => exact .refl s
  | succ n ih => exact (readCw_beside s a).trans (ih (readCw s a).2.2 (a + 8))

theorem readChip_beside (a n : Nat) : s.beside (readChip s a n).2.2 := .rd_ite (State.beside.refl s) (readCws_beside s _ _)

theorem writeCw_beside (a o : Nat) (bs : List Byte) (p : Bool) : s.beside (writeCw s a o bs p) := by
  have hput (t : State) (bs : List Byte) (p : Bool) : t.beside (((t.putBytes a bs).setPoison a p).setUpset a 0) :=
    ((t.beside_putBytes a bs).setPoison a p).setUpset a 0
  exact .ite (hput s bs p) ((readCw_beside s a).trans (hput _ _ _))

theorem writeCws_beside (n a : Nat) (bs : List Byte) (p : Bool) : s.beside (writeCws s n a bs p) := by
  induction n generalizing s a bs with
  | zero => exact .refl s
  | succ n ih => exact .ite (State.beside.refl s) ((writeCw_beside s _ _ _ p).trans (ih _ _ _))

theorem checkBlock_beside (a src r : Nat) : s.beside (checkBlock s a src r).2.2 :=
  .rd_ite (State.beside.refl s) ((State.beside.refl s).hrmErr _ _ _ _)

theorem HRM_CH_ERR_ne (n : Nat) : R.HRM_CH_ERR n ≠ R.HUB_DLD_STATUS := by
  simp only [R.HRM_CH_ERR, R.HUB_DLD_STATUS]
  omega

theorem readBlock_beside (a src : Nat) : s.beside (readBlock s a src).2.2 := by
  unfold readBlock
  dsimp only
  refine .rd_ite (State.beside.refl s) ?_
  generalize (s.chanOf (a - hyperBase)).getD 0 = ch
  cases rsDecode 36 (s.upsetAt a) with
  | good r => exact checkBlock_beside s a src r
  | corrected r => exact ((State.beside.refl s).fcount (F.HRM_CH_ERR_corr ch) 1 (HRM_CH_ERR_ne ch)).trans (checkBlock_beside _ a src r)
  | bad => exact ((State.beside.refl s).fcount (F.HRM_CH_ERR_uncorr ch) 1 (HRM_CH_ERR_ne ch)).hrmErr _ _ _ _

theorem readBlocks_beside (src a n : Nat) : s.beside (readBlocks s src a n).2.2 := by
  induction n generalizing s a with
  | zero => exact .refl s
  | succ n ih => exact (readBlock_beside s a src).trans (ih (readBlock s a src).2.2 (a + 32))

theorem readHyper_beside (a n src : Nat) : s.beside (readHyper s a n src).2.2 := .rd_ite (State.beside.refl s) (readBlocks_beside s _ _ _)

theorem writeBlock_beside (a o : Nat) (bs : List Byte) (p : Bool) (src : Nat) : s.beside (writeBlock s a o bs p src) := by
  have hput (t : State) (bs : List Byte) (p : Bool) : t.beside (((t.putBytes a bs).setPoison a p).setUpset a 0) :=
    ((t.beside_putBytes a bs).setPoison a p).setUpset a 0
  exact .ite (hput s bs p) ((readBlock_beside s a src).trans (hput _ _ _))

theorem writeHyper_beside (a : Nat) (bs : List Byte) (p : Bool) (src : Nat) : s.beside (writeHyper s a bs p src) := by
  have hblocks (n a : Nat) (bs : List Byte) (t : State) : t.beside (writeBlocks t p src n a bs) := by
    induction n generalizing t a bs with
    | zero => exact .refl t
    | succ n ih => exact .ite (State.beside.refl t) (.trans (.ite (State.beside.refl t) (writeBlock_beside t _ _ _ p src)) (ih _ _ _))
  exact hblocks _ a bs s

/-! ## Writes under way (R344) -/

theorem State.beside.serialDone {s t : State} (h : s.beside t) (code result : Nat) : s.beside (t.serialDone code result) := by
  unfold State.serialDone
  cases t.cp.serial with
  | none => exact h
  | some c =>
    have hcp : s.beside (t.mapCp fun x => { x with serial := none }) := h.rest rfl rfl rfl rfl
    exact hcp.complete _ _ _ _ _

theorem State.beside.fenceCheck {s t : State} (h : s.beside t) : s.beside t.fenceCheck := by
  unfold State.fenceCheck
  split
  · exact .ite h ((h.mapStr _).serialDone 0 0)
  · exact h

theorem State.acceptWrite_beside (x : HyperWr) : s.beside (s.acceptWrite x) := by
  have hwrite (t : State) : t.beside (if t.spanOk x.addr x.bytes.length then writeHyper t x.addr x.bytes x.poison (wrSource x.chan) else t) :=
    .ite (writeHyper_beside t _ _ _ _) (.refl t)
  unfold State.acceptWrite State.writeDone
  exact ((((State.beside.refl s).mapStr _).trans (hwrite _)).mapStr _).fenceCheck

theorem State.inOrder_beside (a n : Nat) : s.beside (s.inOrder a n) := .foldl _ (fun t x => t.acceptWrite_beside x) _ s

/-! ## The Graft queue (R239–R254) -/

theorem STR_CH_ERR_ne (n : Nat) : R.STR_CH_ERR n ≠ R.HUB_DLD_STATUS := by
  simp only [R.STR_CH_ERR, R.HUB_DLD_STATUS]
  omega

theorem State.readEntry_beside (a : Nat) : s.beside (s.readEntry a).2.2 := by
  have hcheck (n lo hi : Nat) : s.beside (s.readCheck 4 n lo hi) :=
    .ite (((State.beside.refl s).note _).capture 0 _ _ _ (STR_CH_ERR_ne 4) (STR_CH_ERR_ne 4)) (.refl s)
  exact ((hcheck _ _ _).trans (State.inOrder_beside _ _ _)).trans (readHyper_beside _ _ _ _)

theorem State.featOf_beside (seq : Nat) : s.beside (s.featOf seq).2 := by
  unfold State.featOf
  dsimp only
  split
  · exact .refl s
  · exact s.readEntry_beside _

theorem State.samples_beside (K n : Nat) (bs : List Byte) : s.beside (s.samples K n bs).2.2 := by
  induction n generalizing s bs with
  | zero => exact .refl s
  | succ n ih =>
    have hfeat := s.featOf_beside (leAt bs 0 4)
    unfold State.samples
    generalize s.featOf (leAt bs 0 4) = x at hfeat
    obtain ⟨o, u⟩ := x
    split
    · exact .refl s
    · split
      · exact .refl s
      · cases o with
        | none => exact hfeat
        | some e =>
          dsimp only
          split
          · exact hfeat
          · exact hfeat.trans (ih u _)

theorem State.appendPool_beside (e : List Byte) (p : Bool) : s.beside (s.appendPool e p) := by
  have hput (t : State) (a : Nat) : t.beside ((writeHyper (t.inOrder a e.length) a e p 3).mapGrf fun g => { g with poolLen := g.poolLen + 1 }) :=
    ((t.inOrder_beside _ _).trans (writeHyper_beside _ _ _ _ _)).mapGrf _
  exact (State.beside.ite ((State.beside.refl s).mapGrf _) (.refl s)).trans (hput _ _)

theorem State.beside.grfDone {s t : State} (h : s.beside t) (q : GraftCmd) (code result : Nat) : s.beside (t.grfDone q code result) :=
  (h.mapGrf _).complete _ _ _ _ _

theorem State.graftInit_beside : s.beside s.graftInit.2 := by
  have hput (t : State) : t.beside t.graftPut :=
    ((State.beside.refl t).freshBelow (256 ^ t.graftLen)).trans (writeCws_beside _ _ _ _ _)
  unfold State.graftInit
  dsimp only
  split
  · exact ((State.beside.refl s).mapGrf _).trans (hput _)
  · exact .refl s

theorem State.submitStart_beside (q : GraftCmd) : s.beside (s.submitStart q) := by
  have hinit : s.beside (if q.reset then s.graftInit else (s.grf.mode == .ready, s)).2 := by
    split
    · exact s.graftInit_beside
    · exact .refl s
  unfold State.submitStart
  generalize (if q.reset then s.graftInit else (s.grf.mode == .ready, s)) = x at hinit
  obtain ⟨ok, u⟩ := x
  refine .ite ((State.beside.refl s).grfDone _ _ _) (.ite ((State.beside.refl s).grfDone _ _ _) (.ite (hinit.grfDone _ _ _) ?_))
  have hsamples : s.beside (if u.graftReach then u.samples (gHdr u.grf.sect).K 257 q.list else (0x0D0B, [], u)).2.2 := by
    split
    · exact hinit.trans (u.samples_beside _ _ _)
    · exact hinit
  dsimp only
  generalize (if u.graftReach then u.samples (gHdr u.grf.sect).K 257 q.list else (0x0D0B, [], u)) = y at hsamples
  obtain ⟨code, es, v⟩ := y
  have hpool := hsamples.trans (.foldl _ (fun t e => t.appendPool_beside e false) es v)
  exact .ite (hsamples.grfDone _ _ _) (.ite (hpool.grfDone _ _ _) (hpool.mapGrf _))

theorem State.beside.graftDamaged {s t : State} (h : s.beside t) : s.beside t.graftDamaged := by
  have herr : s.beside (t.grfErr 0x0D06) :=
    .ite (h.note _) (((h.note _).capture 0 F.HUB_GRF_ERR_code F.HUB_GRF_ERR_valid _ (by decide) (by decide)).irq 2)
  exact ((herr.mapGrf _).mapGrf _).trans (.foldl _ (fun u q => (State.beside.refl u).complete _ _ _ _ _) _ _)

theorem State.commitStart_beside (q : GraftCmd) : s.beside (s.commitStart q) := by
  have hself := State.beside.refl s
  have hread : s.beside s.graftRead.2 := readChip_beside s _ _
  unfold State.commitStart
  generalize s.graftRead = x at hread
  obtain ⟨bad, u⟩ := x
  exact .ite (hself.grfDone _ _ _) (.ite (hself.grfDone _ _ _) (.ite (hself.grfDone _ _ _) (.ite (hself.grfDone _ _ _)
    (.ite hread.graftDamaged (((hread.fcount F.HUB_GRF_SAT_sat _ (by decide)).mapGrf _).mapGrf _)))))

theorem State.pumpGraft_beside (n : Nat) : s.beside (s.pumpGraft n) := by
  induction n generalizing s with
  | zero => exact .refl s
  | succ n ih =>
    have hself := State.beside.refl s
    unfold State.pumpGraft
    cases s.grfCur with
    | none => exact hself
    | some q =>
      have hcommit := (s.commitStart_beside q).trans (ih _)
      have hsubmit := (s.submitStart_beside q).trans (ih _)
      have hdone (code result : Nat) := (hself.grfDone q code result).trans (ih _)
      have hlost := ((hself.mapGrf fun g => { g with stepping := false }).grfDone q 0x0D0B 0).trans (ih _)
      exact .ite (.ite (.ite hself hcommit) (.ite (hdone _ _) hself)) (.ite (.ite hself hsubmit)
        (.ite (hdone _ _) (.ite (hdone _ _) (.ite hlost hself))))

theorem State.commitNow_beside (q : GraftCmd) (band : Nat) : s.beside (s.commitNow q band) := by
  have hflip (t : State) (v : Nat) (h : HeadRec) : t.beside (t.flipHead v h) :=
    .ite ((State.beside.refl t).setWord _ _ _ _) (((State.beside.refl t).setWord _ _ _ _).setWord _ _ _ _)
  have hdone (t : State) : t.beside (t.commitDone q band) := by
    have hgen := (((State.beside.refl t).mapGrf fun g => { g with queue := g.queue.drop 1, changed := [] }).fset F.HUB_GRF_GEN_gen
      ((t.fget F.HUB_GRF_GEN_gen + 1) % 65536) (by decide)).fset F.HUB_GRF_GEN_band (band % 65536) (by decide)
    have hvrd (u : State) (f : VrdSt → VrdSt) : u.beside (u.mapVrd f) := (State.beside.refl u).rest rfl rfl rfl rfl
    exact (hgen.trans (hvrd _ _)).complete _ _ _ _ _
  exact ((State.beside.foldl _ (fun t h => hflip t q.target h) _ s).trans (hdone _)).trans (State.pumpGraft_beside _ _)

/-! ## The switches in hand at a job's end (R186, R191) -/

theorem State.beside.settleRows {s t : State} (h : s.beside t) (u : State) : s.beside (u.settleRows t) :=
  .ite h (h.rest rfl rfl rfl rfl)

theorem State.beside.switchDone {s t : State} (h : s.beside t) (tag code result : Nat) (irq : Bool) :
    s.beside (t.switchDone tag code result irq) := by
  have hpwr : s.beside (t.mapPwr fun p => { p with fallback := false }) := h.rest rfl rfl rfl rfl
  exact .ite (.ite h ((hpwr.note _).capture 0 F.PWR_ERR_code F.PWR_ERR_valid _ (by decide) (by decide))) (h.complete _ _ _ _ _)

theorem State.beside.switchOutside {s t : State} (h : s.beside t) (tag : Nat) (irq : Bool) (target : Nat) :
    s.beside (t.switchOutside tag irq target) := by
  have hactive : s.beside (t.activate target) := by
    refine ((h.fset F.HUB_VNT_STATUS_active target (by decide)).settleRows t).trans (.foldl _ (fun u i => ?_) _ _)
    exact .ite (.refl u) ((State.beside.refl u).rest rfl rfl rfl rfl)
  exact .ite (h.switchDone _ _ _ _) (.ite (h.switchDone _ _ _ _) (.ite (h.switchDone _ _ _ _) (hactive.switchDone _ _ _ _)))

/-- The state once the job's end has dealt with the switch in hand, and no switch waits. -/
def State.handSwitch (s : State) (be code : Nat) : State :=
  match s.sw with
  | some w =>
    if code ≠ 0 then State.switchDone { s with swWait := none, sw := none } w.tag code 0 w.irq
    else if w.armed && decide (w.band < be) then
      (State.settleRows { s with swWait := none, sw := none } (State.fset { s with swWait := none, sw := none } F.HUB_VNT_STATUS_active
        w.target)).switchDone w.tag 0 w.band w.irq
    else State.switchOutside { s with swWait := none, sw := none } w.tag w.irq w.target
  | none => { s with swWait := none }

theorem State.beside.endSwitches {s t : State} (h : s.beside t) (be code : Nat) : s.beside (t.endSwitches be code) := by
  have hwait : s.beside { t with swWait := none } := h.rest rfl rfl rfl rfl
  have hsw : s.beside { t with swWait := none, sw := none } := h.rest rfl rfl rfl rfl
  have hhand : s.beside (t.handSwitch be code) := by
    unfold State.handSwitch
    cases t.sw with
    | none => exact hwait
    | some w =>
      exact .ite (hsw.switchDone _ _ _ _) (.ite (((hsw.fset F.HUB_VNT_STATUS_active w.target (by decide)).settleRows _).switchDone _ _ _ _)
        (hsw.switchOutside _ _ _))
  unfold State.endSwitches
  dsimp only
  obtain hnone | ⟨x, hsome⟩ := Option.eq_none_or_eq_some t.swWait
  · rw [hnone]
    exact hhand
  · rw [hsome]
    exact .ite (hhand.switchDone _ _ _ _) (hhand.switchOutside _ _ _)

theorem State.beside.loamNow {s t : State} (h : s.beside t) : s.beside t.loamNow := by
  have hset (u : State) (w : Word) : u.beside (u.loamSet w) := by
    have hreg : u.beside (u.setReg R.PWR_LOAM (w &&& 0x7F)) := ⟨rfl, rfl, u.reg_setReg_other _ (by decide), List.Subset.refl _⟩
    exact .ite hreg (hreg.rest rfl rfl rfl rfl)
  unfold State.loamNow
  split
  · exact (h.rest rfl rfl rfl rfl).trans (hset _ _)
  · exact h

end Sys2Proof.Machine
end

section
/-!
PROOFS. A job that ends at once with a code (06 R194, R195; 11 R330): what it leaves, and its job-end entry.
-/
namespace Sys2Proof.Machine

variable (s : State)

/-! ## The end of a job (R194, R195, R330) -/

/-- The state in which a job that ends with a code has stopped and its job-end entry waits, before the switches and commits in hand. -/
def State.jobClosed (s : State) (reason code : Nat) : State :=
  let u := (s.raise code).stopRun
  let x := match u.job.stopped with | some (b, _) => (b, u) | none => u.freshBelow (2 ^ 24)
  (x.2.mapCp fun c => { c with comps := c.comps ++
    [{ kind := 2, tag := u.job.tag, op := 3, code := u.job.firstErr,
       result := u.job.lastRow % 2 ^ 32 + 2 ^ 32 * x.1 % 2 ^ 56 + 2 ^ 56 * reason, irq := true }] }).mapJob fun j =>
    { j with running := false, filling := false, endReq := none, stopped := none, stopFault := false }

theorem State.endJob_beside (reason : Nat) {code : Nat} (hcode : code ≠ 0) : (s.jobClosed reason code).beside (s.endJob reason code 0) := by
  have hlast (t : State) (o : Option (Nat × Bool × Nat)) (n be : Nat) :
      let u := (t.loamNow.fset F.PWR_STATE_state 1).endSwitches be 0
      let v := match u.grf.queue with
        | q :: _ => if q.commit && q.staged then u.commitNow q n else u
        | [] => u
      t.beside (match o with | some (tag, irq, _) => v.complete tag 4 0 0 irq | none => v) := by
    intro u v
    have hu : t.beside u := (((State.beside.refl t).loamNow.fset F.PWR_STATE_state 1 (by decide))).endSwitches be 0
    have hv : t.beside v := by
      simp only [v]
      split
      · exact .ite (hu.trans (u.commitNow_beside _ _)) hu
      · exact hu
    cases o with
    | none => exact hv
    | some x => exact hv.complete _ _ _ _ _
  unfold State.endJob State.jobClosed
  rw [if_neg hcode]
  dsimp only
  generalize (s.raise code).stopRun = u
  cases u.job.stopped with
  | none => exact hlast _ _ _ _
  | some x => exact hlast _ _ _ _

/-- What ends with a job's run leaves the casks, the elasticity count, the job's record and the entries that wait for ring 1 (R194). -/
theorem State.stopRun_spec : s.stopRun.arr.casks = s.arr.casks ∧ s.stopRun.arr.elast = s.arr.elast ∧ s.stopRun.job = s.job ∧
    s.stopRun.reg R.HUB_DLD_STATUS = s.reg R.HUB_DLD_STATUS := by
  unfold State.stopRun State.dropHeld
  dsimp only
  split
  · exact ⟨rfl, rfl, rfl, State.reg_setReg_other _ _ (by decide)⟩
  · exact ⟨rfl, rfl, rfl, (State.reg_setReg_other _ _ (by decide)).trans (State.reg_setReg_other _ _ (by decide))⟩

theorem State.jobClosed_spec (reason code : Nat) :
    let t := s.jobClosed reason code
    t.arr = (s.raise code).stopRun.arr ∧ t.job.running = false ∧ t.regs = (s.raise code).stopRun.regs ∧
      ∃ e ∈ t.cp.comps, e.kind = 2 ∧ e.op = 3 ∧ e.tag = (s.raise code).stopRun.job.tag ∧ e.code = (s.raise code).stopRun.job.firstErr := by
  unfold State.jobClosed
  dsimp only
  generalize (s.raise code).stopRun = u
  cases u.job.stopped with
  | none => exact ⟨rfl, rfl, rfl, _, List.mem_append_right _ List.mem_cons_self, rfl, rfl, rfl, rfl⟩
  | some x => exact ⟨rfl, rfl, rfl, _, List.mem_append_right _ List.mem_cons_self, rfl, rfl, rfl, rfl⟩

/-- A job that ends at once with a code outside Table 15.8 leaves casks, elasticity and the detector's status; no job runs, and the job-end entry
of one that ran waits with its first error (R195, R330). -/
theorem State.endJobNow_spec {code : Nat} (hcode : code ≠ 0) (hplain : code / 256 ≠ 0x0C) :
    let t := s.endJobNow code
    t.arr.casks = s.arr.casks ∧ t.arr.elast = s.arr.elast ∧ t.reg R.HUB_DLD_STATUS = s.reg R.HUB_DLD_STATUS ∧ t.job.running = false ∧
      (s.job.running = true → s.job.firstErr = 0 →
        ∃ e ∈ t.cp.comps, e.kind = 2 ∧ e.op = 3 ∧ e.tag = s.job.tag ∧ e.code = code) := by
  unfold State.endJobNow
  split
  case isTrue hjob =>
    have hraise : s.raise code = s.note code := if_neg hplain
    obtain ⟨harr, hrun, hdld, hcomps⟩ := s.endJob_beside 2 hcode
    obtain ⟨harr', hrun', hregs', e, he, hkind, hop, htag, hfirst⟩ := s.jobClosed_spec 2 code
    obtain ⟨hcasks, helast, hjob', hdld'⟩ := (s.raise code).stopRun_spec
    obtain ⟨hnarr, -, hndld, -⟩ := (State.beside.refl s).note code
    rw [hraise] at harr' hregs' htag hfirst hcasks helast hjob' hdld'
    dsimp only
    rw [harr, harr', hcasks, helast, hnarr, hdld, State.reg_congr hregs', hdld', hndld]
    refine ⟨rfl, rfl, rfl, hrun.trans hrun', fun hr h0 => ⟨e, hcomps he, hkind, hop, ?_, ?_⟩⟩
    · rw [htag, hjob', State.note, if_pos (by simp [hr, h0])]
      rfl
    · rw [hfirst, hjob', State.note, if_pos (by simp [hr, h0])]
      rfl
  case isFalse hjob =>
    obtain ⟨hrun, -⟩ : s.job.running = false ∧ s.job.filling = false := by simpa using hjob
    exact ⟨rfl, rfl, rfl, hrun, fun hr => absurd (hr.symm.trans hrun) (by decide)⟩

end Sys2Proof.Machine
end

section
/-!
PROOFS. Casks and the scale stream (03 R100–R103; 05 R151–R158, R165–R170): what one word does as it is written, read, decanted or refilled,
what a difference of the pointer copies leaves, how a decant starts or fails, and the two entries a tile sends.

Where a proof gives a callee a name of its own by `∃ f, callee = f`, the kernel compares calls of it as they stand and never evaluates one.
-/
namespace Sys2Proof.Machine

variable (s : State)

/-! ## Casks after an update -/

theorem State.cask_congr {s t : State} (h : t.arr.casks = s.arr.casks) (c : CaskRef) : t.cask c = s.cask c := by
  unfold State.cask
  rw [h]

@[simp] theorem State.cask_setCask_same (c : CaskRef) (x : CaskSt) : (s.setCask c x).cask c = x := by
  simp [State.cask_setCask]

/-- Marking movement changes the waiting cycles alone (R166). -/
theorem State.moved_eq (c : CaskRef) : ∃ m, s.moved c = { s with arr := { s.arr with cycles := m } } := by
  unfold State.moved
  dsimp only
  split
  case isTrue h =>
    clear h
    generalize List.range 32 = l
    generalize s.activeV = v
    induction l generalizing s with
    | nil => exact ⟨s.arr.cycles, rfl⟩
    | cons i l ih =>
      rw [List.foldl_cons]
      split
      · obtain ⟨m, hm⟩ := ih (s.mapArr fun a => { a with cycles := sset (fun _ => ⟨0, false⟩) a.cycles i ⟨0, true⟩ })
        exact ⟨m, hm⟩
      · exact ih s
  case isFalse => exact ⟨s.arr.cycles, rfl⟩

/-- With no Elastic Vintage active there is no waiting cycle to mark. -/
theorem State.moved_locked {s : State} (h : s.isElastic s.activeV = false) (c : CaskRef) : s.moved c = s := by
  simp [State.moved, h]

@[simp] theorem State.cask_moved (c d : CaskRef) : (s.moved c).cask d = s.cask d := by
  obtain ⟨m, hm⟩ := s.moved_eq c
  rw [hm]
  rfl

/-! ## A word written (R151, R155, R156) -/

/-- The side record of a flit written in ac `a`, with the parity of Table 5.8. -/
def sideOf (y : Flight) (a : Nat) : SideRec :=
  { poison := y.flit.poison, tag := y.flit.tag, last := y.flit.last, evLine := y.flit.evLine, evBand := y.flit.evBand, smk := y.flit.smk,
    parity := parityOf y.flit.data y.flit.poison y.flit.last y.flit.evLine y.flit.evBand y.flit.smk y.flit.tag, wr := a, circ := y.circ }

/-- A cask that has taken one more word, in period `p`. -/
def CaskSt.written (k : CaskSt) (bound p : Nat) (x : SideRec) : CaskSt :=
  { k with wp := nextPtr bound k.wp, cnt := k.cnt + 1, wp2 := nextPtr bound k.wp2, cnt2 := k.cnt2 + 1, side := k.side ++ [x],
           hwm := Nat.max k.hwm (k.cnt + 1), peak := Nat.max k.peak (k.cnt + 1), wrPeriod := k.wrPeriod ++ [p] }

/-- A read of the same ac frees an entry of a full cask: the write waits for it. -/
def State.writeWaits (s : State) (c : CaskRef) (y : Flight) : Bool :=
  s.caskEn c && decide (s.caskBound c ≤ (s.cask c).cnt) && s.arrAc y.due y.skip == s.arr.runAc && s.caskReadable c

/-- The state once no flit is left on the wires. -/
def State.noFlights (s : State) : State := s.mapArr fun a => { a with flights := [] }

/-- The one flit on the wires, due at a cask: it waits, or it leaves the wires and is written where the cask is enabled with room. -/
theorem caskWordWriteEff_due {s u : State} {c : CaskRef} {y : Flight} (hruns : s.arrayRuns = true) (hfly : s.arr.flights = [y])
    (hstop : y.stop = .sink (.cask c)) (hdue : y.due ≤ s.arr.runAc + y.skip)
    (hu : writeChip s.noFlights (s.caskAddr c (s.cask c).wp) (dataBytes y.flit.data) y.flit.poison = u) :
    caskWordWriteEff s c = if s.writeWaits c y then s
      else if !s.caskEn c || decide ((s.cask c).cnt ≥ s.caskBound c) then s.noFlights
      else (u.setCask c ((s.cask c).written (s.caskBound c) u.arr.period (sideOf y (s.arrAc y.due y.skip)))).moved c := by
  have hhit : (y.stop == .sink (.cask c) && s.moves y.circ && s.dueBy y.due y.skip) = true := by
    simp [hstop, State.moves, State.dueBy, hruns, hdue]
  subst hu
  simp only [caskWordWriteEff, hfly, List.find?_cons, hhit, eraseFirst, State.mapArr, if_true]
  rfl

@[simp] theorem bytesOf_length (n x : Nat) : (bytesOf n x).length = n := by
  induction n generalizing x with
  | zero => rfl
  | succ n ih => simp [bytesOf, ih]

/-- A cask's words start at multiples of a codeword (R149). -/
theorem State.caskAddr_aligned (c : CaskRef) (i : Nat) : s.caskAddr c i % 8 = 0 := by
  simp only [State.caskAddr, mmBase]
  omega

theorem exec_caskWordWrite (c : CaskRef) : exec (.caskWordWrite c) s = .next (caskWordWriteEff s c) := rfl

/-- Setting a cask and marking its movement change no flight, register or byte. -/
theorem State.moved_setCask (c : CaskRef) (k : CaskSt) : ((s.setCask c k).moved c).arr.flights = s.arr.flights ∧
    s.regsBut ((s.setCask c k).moved c) [] ∧ ((s.setCask c k).moved c).cask c = k ∧ ∀ b, ((s.setCask c k).moved c).byte b = s.byte b := by
  rw [State.cask_moved, State.cask_setCask_same]
  obtain ⟨m, hm⟩ := (s.setCask c k).moved_eq c
  rw [hm]
  exact ⟨rfl, State.regsBut_of_regs rfl [], rfl, fun _ => rfl⟩

/-- A due flit is written at the write pointer of an enabled cask with room, with its side record (R151, R156). -/
theorem exec_caskWordWrite_room {s : State} {c : CaskRef} {y : Flight} {a : Nat} (hruns : s.arrayRuns = true) (hfly : s.arr.flights = [y])
    (hstop : y.stop = .sink (.cask c)) (hdue : y.due ≤ s.arr.runAc + y.skip) (hen : s.caskEn c = true)
    (hroom : (s.cask c).cnt < s.caskBound c) (ha : s.caskAddr c (s.cask c).wp = a) :
    ∃ t p, exec (.caskWordWrite c) s = .next t ∧ t.arr.flights = [] ∧ s.regsBut t [] ∧
      t.cask c = (s.cask c).written (s.caskBound c) p (sideOf y (s.arrAc y.due y.skip)) ∧
      t.bytesAt a 32 = dataBytes y.flit.data ∧ ∀ b, (b < a ∨ a + 32 ≤ b) → t.byte b = s.byte b := by
  have hwait : s.writeWaits c y = false := by simp [State.writeWaits, Nat.not_le.mpr hroom]
  have hgo : (!s.caskEn c || decide ((s.cask c).cnt ≥ s.caskBound c)) = false := by simp [hen, hroom]
  have hlen : (dataBytes y.flit.data).length = 32 := bytesOf_length 32 _
  have halign : a % 8 = 0 := ha ▸ s.caskAddr_aligned c _
  obtain ⟨harr, hregs, hbytes, houtside⟩ := writeChip_spec s.noFlights (bs := dataBytes y.flit.data) y.flit.poison halign (by rw [hlen])
  rw [hlen] at hbytes houtside
  have hrun := caskWordWriteEff_due hruns hfly hstop hdue (congrArg (fun a => writeChip s.noFlights a _ _) ha)
  generalize writeChip s.noFlights a (dataBytes y.flit.data) y.flit.poison = u at hrun harr hregs hbytes houtside
  rw [hwait, hgo, if_neg Bool.false_ne_true, if_neg Bool.false_ne_true] at hrun
  obtain ⟨hfl, hrb, hcask, hbyte⟩ := u.moved_setCask c ((s.cask c).written (s.caskBound c) u.arr.period (sideOf y (s.arrAc y.due y.skip)))
  refine ⟨_, _, (exec_caskWordWrite s c).trans (congrArg _ hrun), ?_, ?_, hcask, ?_, fun b hb => ?_⟩
  · rw [hfl, harr]
    rfl
  · exact State.regsBut_trans (State.regsBut_of_regs hregs []) hrb
  · exact (State.bytesAt_congr fun p _ _ => hbyte p).trans hbytes
  · exact (hbyte b).trans (houtside b hb)

/-- A flit due at a cask that is not enabled or has no free entry is lost, unless it waits for a read (R151, R155). -/
theorem exec_caskWordWrite_lost {s : State} {c : CaskRef} {y : Flight} (hruns : s.arrayRuns = true) (hfly : s.arr.flights = [y])
    (hstop : y.stop = .sink (.cask c)) (hdue : y.due ≤ s.arr.runAc + y.skip) (hwait : s.writeWaits c y = false)
    (hlost : s.caskEn c = false ∨ s.caskBound c ≤ (s.cask c).cnt) :
    exec (.caskWordWrite c) s = .next s.noFlights := by
  have hgo : (!s.caskEn c || decide ((s.cask c).cnt ≥ s.caskBound c)) = true := by
    simpa using hlost
  have hrun := caskWordWriteEff_due hruns hfly hstop hdue rfl
  rw [hwait, hgo, if_neg Bool.false_ne_true, if_pos rfl] at hrun
  exact congrArg _ hrun

/-- The write of a flit due at a full cask waits while a word of it can still be read in the ac of its arrival (R155). -/
theorem exec_caskWordWrite_waits {s : State} {c : CaskRef} {y : Flight} (hruns : s.arrayRuns = true) (hfly : s.arr.flights = [y])
    (hstop : y.stop = .sink (.cask c)) (hdue : y.due ≤ s.arr.runAc + y.skip) (hwait : s.writeWaits c y = true) :
    exec (.caskWordWrite c) s = .next s := by
  have hrun := caskWordWriteEff_due hruns hfly hstop hdue rfl
  rw [hwait, if_pos rfl] at hrun
  exact congrArg _ hrun

/-! ## A word read (R151, R156) -/

theorem readWord_clean {s : State} {a : Nat} (h : s.cleanWord a) : ∃ p, readWord s a = (dataOf (s.bytesAt a 32), p, s) := by
  obtain ⟨p, hp⟩ := readChip_clean h
  exact ⟨p, by rw [readWord, hp]⟩

/-- The flit that a cask's word `x` leaves as, its data read with mark `p`. -/
def SideRec.flit (x : SideRec) (d : Data) (p : Bool) : Flit :=
  { data := d, poison := x.poison || p, tag := x.tag, last := x.last, evLine := x.evLine, evBand := x.evBand, smk := x.smk }

/-- A cask whose read side has sent its oldest word; `xs` are the words left and `n` its place in the packet. -/
def CaskSt.sent (k : CaskSt) (bound : Nat) (xs : List SideRec) (n : Nat) : CaskSt :=
  { k with rp := nextPtr bound k.rp, cnt := k.cnt - 1, rp2 := nextPtr bound k.rp2, cnt2 := k.cnt2 - 1, side := xs,
           wrPeriod := k.wrPeriod.drop 1, rWait := false, pktRead := n, decant := k.decant - 1,
           moving := k.moving && decide (1 < k.decant) }

/-- While no switch is in hand every word is the active Vintage's. -/
theorem State.carryV_active {s : State} (hsw : s.sw = none) (tag : Nat) : s.carryV tag = s.activeV := by simp only [State.carryV, hsw]

theorem State.caskCircuit_active {s : State} {c : CaskRef} (hsw : s.sw = none) (hem : s.arr.emitted.contains (.cask c) = false) :
    s.caskCircuit c = circuitAt s s.activeV (.cask c) s.arr.runAc := by
  unfold State.caskCircuit
  rw [hem, if_neg Bool.false_ne_true]
  cases (s.cask c).headTag <;> simp only [State.carryV_active hsw]

/-- A word offered with credit and good parity is sent, and its entry frees. -/
theorem caskWordReadEff_offered {s u : State} {c : CaskRef} {ci : Circuit} {x : SideRec} {xs : List SideRec} {d : Data} {p : Bool}
    (hruns : s.arrayRuns = true) (hcirc : s.caskCircuit c = some ci) (hcredit : ∀ q ∈ ci.sinks, s.credit ci q.1 ≠ 0)
    (hspill : (s.cask c).spilled = false) (hclass : s.caskClass c ≠ 2) (hoffers : caskOffers s c (s.cask c) s.arr.runAc = true)
    (hside : (s.cask c).side = x :: xs) (hread : readWord s (s.caskAddr c (s.cask c).rp) = (d, p, s))
    (hparity : parityOf d x.poison x.last x.evLine x.evBand x.smk x.tag = x.parity)
    (hsent : emitVia s (.cask c) (x.flit d p) none = .sent u ci) :
    caskWordReadEff s c false [] = ((u.setCask c ((s.cask c).sent (s.caskBound c) xs (pktStep s c (s.cask c) x.last))).freeEntry (.cask c) x.circ
      s.arr.runAc).moved c := by
  have hany : (ci.sinks.any fun q => s.credit ci q.1 == 0) = false := by simpa using hcredit
  have hremote : (s.caskClass c == 2) = false := beq_eq_false_iff_ne.mpr hclass
  have hgood : (x.parity != x.parity) = false := bne_self_eq_false x.parity
  have hbad : (false != false) = false := rfl
  have hstrike : s.strike [] = s := rfl
  rw [SideRec.flit] at hsent
  unfold caskWordReadEff
  rw [hstrike]
  obtain ⟨read, hreadIs⟩ : ∃ f, readWord = f := ⟨_, rfl⟩
  obtain ⟨emit, hemitIs⟩ : ∃ f, emitVia = f := ⟨_, rfl⟩
  rw [hreadIs] at hread ⊢
  simp only [hemitIs] at hsent ⊢
  simp only [hruns, hcirc, hany, hspill, hremote, hoffers, hside, hread, hparity, hgood, hbad, hsent, Bool.not_true,
    Bool.false_and, Bool.false_eq_true, if_false, Bool.or_false, CaskSt.sent]

/-- The read side's oldest word leaves the cask as one flight and frees one entry (R151). -/
theorem exec_caskWordRead_offered {s : State} {c : CaskRef} {ci : Circuit} {x : SideRec} {xs : List SideRec} {a : Nat} {d : Data}
    (hruns : s.arrayRuns = true) (hsw : s.sw = none) (hlocked : s.isElastic s.activeV = false)
    (hcirc : circuitAt s s.activeV (.cask c) s.arr.runAc = some ci) (hcredit : ∀ q ∈ ci.sinks, s.credit ci q.1 ≠ 0)
    (hem : s.arr.emitted.contains (.cask c) = false) (hspill : (s.cask c).spilled = false) (hclass : s.caskClass c ≠ 2)
    (hoffers : caskOffers s c (s.cask c) s.arr.runAc = true) (hside : (s.cask c).side = x :: xs) (hclean : s.cleanWord a)
    (ha : s.caskAddr c (s.cask c).rp = a) (hd : dataOf (s.bytesAt a 32) = d)
    (hparity : parityOf d x.poison x.last x.evLine x.evBand x.smk x.tag = x.parity) :
    ∃ t y n p, exec (.caskWordRead c false []) s = .next t ∧ t.cask c = (s.cask c).sent (s.caskBound c) xs n ∧
      t.arr.flights = s.arr.flights ++ [y] ∧ y.flit = x.flit d p ∧ y.circ = ci ∧ s.regsBut t [] ∧ s.sameMem t := by
  obtain ⟨p, hread⟩ := readWord_clean hclean
  rw [hd, ← ha] at hread
  have hmay : s.mayEmit (.cask c) (x.flit d p) ci := ⟨by rw [State.carryV_active hsw]; exact hcirc, hem, hcredit⟩
  obtain ⟨y, ems, hsent, hflit, hcirc'⟩ := emitVia_sent hruns (.inl rfl) hmay
  have hrun := caskWordReadEff_offered hruns ((State.caskCircuit_active hsw hem).trans hcirc) hcredit hspill hclass hoffers hside hread hparity hsent
  rw [State.moved_locked (by exact hlocked)] at hrun
  exact ⟨_, y, _, p, (show exec (.caskWordRead c false []) s = .next (caskWordReadEff s c false []) from rfl).trans (congrArg _ hrun),
    State.cask_setCask_same _ c _, rfl, hflit, hcirc', State.regsBut_of_regs rfl [], State.sameMem_of_eq rfl rfl rfl⟩

/-! ## Pointer copies that differ (R157, R158) -/

/-- `t` differs from `s` in the array alone. -/
def State.onlyArray (s t : State) : Prop := ∃ a, t = { s with arr := a }

namespace State.onlyArray

variable {s t u : State}

theorem refl (s : State) : s.onlyArray s := ⟨s.arr, rfl⟩

theorem mapArr (s : State) (f : ArraySt → ArraySt) : s.onlyArray (s.mapArr f) := ⟨f s.arr, rfl⟩

theorem setCredit (s : State) (c : Circuit) (k : SnkRef) (n : Nat) : s.onlyArray (s.setCredit c k n) := ⟨_, rfl⟩

theorem setCask (s : State) (c : CaskRef) (k : CaskSt) : s.onlyArray (s.setCask c k) := ⟨_, rfl⟩

theorem trans (h1 : s.onlyArray t) (h2 : t.onlyArray u) : s.onlyArray u := by
  obtain ⟨a, rfl⟩ := h1
  obtain ⟨b, rfl⟩ := h2
  exact ⟨b, rfl⟩

theorem foldl {β : Type} (f : State → β → State) (hf : ∀ (t : State) (y : β), t.onlyArray (f t y)) (ys : List β) (s : State) :
    s.onlyArray (ys.foldl f s) := by
  induction ys generalizing s with
  | nil => exact .refl s
  | cons y ys ih => exact (hf s y).trans (ih _)

theorem regs (h : s.onlyArray t) : t.regs = s.regs := by
  obtain ⟨a, rfl⟩ := h
  rfl

theorem sameMem (h : s.onlyArray t) : s.sameMem t := by
  obtain ⟨a, rfl⟩ := h
  exact State.sameMem_of_eq rfl rfl rfl

end State.onlyArray

theorem State.freeAll_onlyArray (c : CaskRef) (xs : List SideRec) : s.onlyArray (s.freeAll c xs) := by
  induction xs generalizing s with
  | nil => exact .refl s
  | cons x xs ih => exact (State.onlyArray.mapArr s _).trans (ih _)

theorem State.unread_onlyArray (c : CaskRef) : s.onlyArray (s.unread c) := by
  unfold State.unread
  dsimp only
  split
  · exact (State.onlyArray.mapArr s _).trans (.foldl _ (fun t q => .setCredit t _ _ _) _ _)
  · exact .refl s

/-- The registers a cask's fault is captured in, beside those of its Terrace. -/
theorem MM_CASK_FAULT_not_mem_terFaultRegs (c : CaskRef) : R.MM_CASK_FAULT (tb (caskTile c)) ∉ terFaultRegs c.t := by
  have hbase : 0x82000 + c.t * 0x20000 ≤ tb (caskTile c) := rowBase_le_tb (caskTile c)
  simp only [terFaultRegs, R.MM_CASK_FAULT, R.TER_FAULT_COUNT, R.TER_FAULT_LOC, R.TER_FAULT_BAND, R.TER_FAULT_AUX, R.HUB_IRQ_STATUS,
    List.mem_cons, List.not_mem_nil, or_false]
  omega

/-- Where a fault of a cask is reported (R156). -/
def State.caskFaultLoc (s : State) (c : CaskRef) : FaultLoc :=
  ⟨c.t, c.row, 6, c.c, 0, s.job.bandsClosed, c.m, 0, 0, c.t⟩

theorem State.caskFault_eq (c : CaskRef) (code : Nat) :
    s.caskFault c code = if (s.terFault (s.caskFaultLoc c) code).fbit (F.MM_CASK_FAULT_valid (tb (caskTile c)))
      then s.terFault (s.caskFaultLoc c) code
      else (((s.terFault (s.caskFaultLoc c) code).fset (F.MM_CASK_FAULT_code (tb (caskTile c))) code).fset
        (F.MM_CASK_FAULT_cask (tb (caskTile c))) c.c).fset (F.MM_CASK_FAULT_valid (tb (caskTile c))) 1 := rfl

/-- A cask's fault changes no more than error reporting can. -/
theorem State.onlyLogs_caskFault (c : CaskRef) (code : Nat) : s.onlyLogs (s.caskFault c code) := by
  have hter := (s.terFault_logsIn (s.caskFaultLoc c) code).1
  rw [State.caskFault_eq]
  split
  · exact hter
  · exact ((hter.trans (State.onlyLogs_fset _ _ _)).trans (State.onlyLogs_fset _ _ _)).trans (State.onlyLogs_fset _ _ _)

/-- A cask whose MM.CASK_FAULT is free captures the code of a fault in it. -/
theorem State.caskFault_code {s : State} {c : CaskRef} (code : Nat) (h : s.fbit (F.MM_CASK_FAULT_valid (tb (caskTile c))) = false) :
    (s.caskFault c code).fget (F.MM_CASK_FAULT_code (tb (caskTile c))) = code % 2 ^ 16 := by
  have beside (t : State) (f : Fld) (v : Nat) (ho : R.MM_CASK_FAULT (tb (caskTile c)) = f.off) (hlo : 16 ≤ f.lo) :
      (t.fset f v).fget (F.MM_CASK_FAULT_code (tb (caskTile c))) = t.fget (F.MM_CASK_FAULT_code (tb (caskTile c))) :=
    t.fget_fset_beside f _ v ho (show 0 + 16 ≤ 32 by decide) (.inl hlo)
  have hter := (s.terFault_logsIn (s.caskFaultLoc c) code).2
  rw [State.caskFault_eq]
  generalize s.terFault (s.caskFaultLoc c) code = u at hter
  have hfree : u.fbit (F.MM_CASK_FAULT_valid (tb (caskTile c))) = false := by
    rw [State.fbit, State.fget_of_regsBut hter (MM_CASK_FAULT_not_mem_terFaultRegs c)]
    exact h
  rw [hfree, if_neg Bool.false_ne_true, beside _ (F.MM_CASK_FAULT_valid (tb (caskTile c))) 1 rfl (show 16 ≤ 31 by decide),
    beside _ (F.MM_CASK_FAULT_cask (tb (caskTile c))) _ rfl (show 16 ≤ 16 by decide)]
  exact u.fget_fset_same _ code (show 0 + 16 ≤ 32 by decide)

theorem State.onlyLogs.cask {s t : State} (h : s.onlyLogs t) (c : CaskRef) : t.cask c = s.cask c := by
  obtain ⟨r, i, u, w, e, n, rfl⟩ := h
  rfl

/-- Copies that differ empty an enabled cask under the copied pointers but for its marks, and report E-0603 (R158). -/
theorem caskPointerMismatchEff_differ {s : State} {c : CaskRef} {rp wp cnt : Nat} (hpriv : s.caskPriv c = true) (hen : s.caskEn c = true)
    (h : ¬ (rp = (s.cask c).rp ∧ wp = (s.cask c).wp ∧ cnt = (s.cask c).cnt)) :
    let t := caskPointerMismatchEff s c rp wp cnt
    s.sameMem t ∧ t.grf = s.grf ∧ t.cask c = { CaskSt.init with hwm := (s.cask c).hwm, peak := (s.cask c).peak } ∧
      (s.fbit (F.MM_CASK_FAULT_valid (tb (caskTile c))) = false → t.fget (F.MM_CASK_FAULT_code (tb (caskTile c))) = 0x0603) := by
  have hdiffer : (s.caskPriv c && s.caskEn c && !(rp == (s.cask c).rp && wp == (s.cask c).wp && cnt == (s.cask c).cnt)) = true := by
    simpa [hpriv, hen, Bool.and_eq_false_iff, or_iff_not_imp_left, not_and] using h
  have harr := (s.freeAll_onlyArray c (s.cask c).side).trans (State.unread_onlyArray _ c)
  unfold caskPointerMismatchEff
  dsimp only
  rw [if_pos hdiffer]
  generalize (s.freeAll c (s.cask c).side).unread c = u at harr
  have hset : s.onlyArray (u.setCask c { CaskSt.init with hwm := (s.cask c).hwm, peak := (s.cask c).peak }) :=
    harr.trans (.setCask u c _)
  have hcask := u.cask_setCask_same c { CaskSt.init with hwm := (s.cask c).hwm, peak := (s.cask c).peak }
  generalize u.setCask c { CaskSt.init with hwm := (s.cask c).hwm, peak := (s.cask c).peak } = v at hset hcask
  have hlogs := v.onlyLogs_caskFault c 0x0603
  refine ⟨State.sameMem_trans hset.sameMem hlogs.sameMem, ?_, (hlogs.cask c).trans hcask, fun hvalid => ?_⟩
  · obtain ⟨a, rfl⟩ := hset
    obtain ⟨r, i, u, w, e, n, hfault⟩ := hlogs
    rw [hfault]
  · refine State.caskFault_code _ ?_
    rw [State.fbit, State.fget, State.reg_congr hset.regs]
    exact hvalid

/-- While no Graft command stands in the queue the mismatch comes to its effect on the cask (R252). -/
theorem exec_caskPointerMismatch {s : State} {c : CaskRef} {rp wp cnt : Nat} (h : (caskPointerMismatchEff s c rp wp cnt).grf.queue = []) :
    exec (.caskPointerMismatch c rp wp cnt) s = .next (caskPointerMismatchEff s c rp wp cnt) := by
  refine (show exec (.caskPointerMismatch c rp wp cnt) s = .next (caskMismatchGraftEff s c rp wp cnt) from rfl).trans (congrArg _ ?_)
  simp only [caskMismatchGraftEff, h]

/-- Copies that agree leave everything as it is. -/
theorem caskPointerMismatchEff_equal {s : State} {c : CaskRef} {rp wp cnt : Nat}
    (h : rp = (s.cask c).rp ∧ wp = (s.cask c).wp ∧ cnt = (s.cask c).cnt) : caskPointerMismatchEff s c rp wp cnt = s := by
  obtain ⟨rfl, rfl, rfl⟩ := h
  simp [caskPointerMismatchEff]

/-! ## The entries of a store -/

theorem mem_serase {β : Type} {m : SMap β} {k : Nat} {x : Nat × β} (h : x ∈ serase m k) : x ∈ m := by
  induction m with
  | nil => exact h
  | cons y m ih =>
    simp only [serase] at h
    split at h
    · exact List.mem_cons_of_mem _ (ih h)
    · exact (List.mem_cons.mp h).elim (fun hx => hx ▸ List.mem_cons_self) fun hx => List.mem_cons_of_mem _ (ih hx)

theorem mem_sinsert {β : Type} {m : SMap β} {k : Nat} {v : β} {x : Nat × β} (h : x ∈ sinsert m k v) : x = (k, v) ∨ x ∈ m := by
  induction m with
  | nil => simpa [sinsert] using h
  | cons y m ih =>
    simp only [sinsert] at h
    split at h
    · exact List.mem_cons.mp h
    · split at h
      · exact (List.mem_cons.mp h).imp_right (List.mem_cons_of_mem _)
      · rcases List.mem_cons.mp h with rfl | hx
        · exact .inr List.mem_cons_self
        · exact (ih hx).imp_right (List.mem_cons_of_mem _)

/-- An entry of a store after a write is the one written or stood there before. -/
theorem mem_sset {β : Type} [DecidableEq β] {d : Nat → β} {m : SMap β} {k : Nat} {v : β} {x : Nat × β} (h : x ∈ sset d m k v) :
    x = (k, v) ∨ x ∈ m := by
  unfold sset at h
  split at h
  · exact .inr (mem_serase h)
  · exact mem_sinsert h

/-- What a store holds under a key is the default or stands in an entry. -/
theorem sget_eq_or_mem {β : Type} (d : Nat → β) (m : SMap β) (k : Nat) : sget d m k = d k ∨ (k, sget d m k) ∈ m := by
  induction m with
  | nil => exact .inl rfl
  | cons x m ih =>
    obtain ⟨k', v⟩ := x
    by_cases hk : k' = k
    · subst hk
      simp [sget]
    · simpa [sget, hk, Ne.symm hk] using ih

/-! ## A decant starts (R166–R169) -/

theorem caskKey_terrace (c : CaskRef) : caskKey c / 1152 = c.t := by
  have := c.row.isLt
  have := c.m.isLt
  have := c.c.isLt
  simp only [caskKey]
  omega

/-- Where the maintenance path of its Terrace is free, a cask's own use of it is over. -/
theorem State.pathFree_cask {s : State} {c : CaskRef} (h : s.pathFree c.t = true) : (s.cask c).pathBusy ≤ s.arr.runAc := by
  rcases sget_eq_or_mem (fun _ => CaskSt.init) s.arr.casks (caskKey c) with hinit | hmem
  · rw [State.cask, hinit]
    exact Nat.zero_le _
  · simpa [caskKey_terrace, State.cask] using List.all_eq_true.mp h _ hmem

/-- A change of a cask that keeps its use of the maintenance path keeps the path free. -/
theorem State.pathFree_setCask {s : State} {c : CaskRef} {k : CaskSt} (h : s.pathFree c.t = true) (hk : k.pathBusy = (s.cask c).pathBusy) :
    (s.setCask c k).pathFree c.t = true := by
  refine List.all_eq_true.mpr fun x hx => ?_
  rcases mem_sset (show x ∈ sset (fun _ => CaskSt.init) s.arr.casks (caskKey c) k from hx) with rfl | hold
  · exact Bool.or_eq_true_iff.mpr (.inr (decide_eq_true (hk ▸ State.pathFree_cask h)))
  · exact List.all_eq_true.mp h x hold

/-- The next word of a decant takes the path where it is free, and nothing else of the cask changes (R168). -/
theorem State.decantStart_spec (c : CaskRef) :
    s.onlyArray (s.decantStart c) ∧ (s.decantStart c).arr.elast = s.arr.elast ∧
      ∃ m b, (s.decantStart c).cask c = { s.cask c with moving := m, pathBusy := b } ∧
        (0 < (s.cask c).decant → (s.cask c).moving = false → s.pathFree c.t = true → m = true ∧ b = s.arr.runAc + 4) := by
  unfold State.decantStart
  dsimp only
  split
  case isTrue h =>
    exact ⟨.setCask s c _, rfl, true, s.arr.runAc + 4, s.cask_setCask_same c _, fun _ _ _ => ⟨rfl, rfl⟩⟩
  case isFalse h =>
    exact ⟨.refl s, rfl, (s.cask c).moving, (s.cask c).pathBusy, rfl, fun hd hm hp => absurd (by simp [hd, hm, hp]) h⟩

/-- A cask whose words are to move to a ring of `size` groups from `base`, in groups of their own (R169, R170). -/
def CaskSt.designated (k : CaskSt) (base size : Nat) : CaskSt :=
  { k with decant := k.cnt, moving := false, ringBase := base, ringSize := size, ringTail := cdiv k.ringTail 8 * 8 % (8 * size),
           ringHead := if k.spilled then k.ringHead else cdiv k.ringTail 8 * 8 % (8 * size) }

/-- A cycle that has waited long enough is to decant (R166). -/
def State.decantDue (s : State) (cyc : Nat) : Bool :=
  s.elastic && s.arrayRuns && decide (4096 ≤ (sget (fun _ => ⟨0, false⟩) s.arr.cycles cyc).wait) && bitsW (s.cycWord cyc 0) 16 4 != 0 &&
    (s.cask (s.cycCask cyc)).decant == 0

/-- The status and count of a decant that has started for a cycle, whose wait begins again (R166). -/
def State.decantLogged (s : State) (cyc : Nat) : State :=
  (((s.fset F.HUB_DLD_STATUS_last_cycle cyc).fset F.HUB_DLD_STATUS_valid 1).fcount F.HUB_DLD_COUNT_decants 1).mapArr fun a =>
    { a with cycles := sset (fun _ => ⟨0, false⟩) a.cycles cyc ⟨0, false⟩ }

theorem decantEff_eq {s : State} {cyc : Nat} (h : s.decantDue cyc = true) :
    decantEff s cyc = if s.decantRoom cyc then
        (((s.addElast 1).setCask (s.cycCask cyc) ((s.cask (s.cycCask cyc)).designated (s.decantRing cyc).1 (s.decantRing cyc).2)).decantStart
          (s.cycCask cyc)).decantLogged cyc
      else (s.addElast 1).decantFail := by
  rw [State.decantDue] at h
  unfold decantEff
  rw [h]
  cases s.decantRoom cyc <;> rfl

/-- The log of a decant names its cycle, changes no cask and no byte, and keeps the count of elasticity (R166). -/
theorem State.decantLogged_spec {cyc : Nat} (hcyc : cyc < 32) :
    let t := s.decantLogged cyc
    t.arr.casks = s.arr.casks ∧ t.arr.elast = s.arr.elast ∧ t.fbit F.HUB_DLD_STATUS_valid = true ∧ t.fget F.HUB_DLD_STATUS_last_cycle = cyc ∧
      s.sameMem t := by
  have hcount (f : Fld) (hf : f.off = R.HUB_DLD_STATUS) : (s.decantLogged cyc).fget f =
      ((s.fset F.HUB_DLD_STATUS_last_cycle cyc).fset F.HUB_DLD_STATUS_valid 1).fget f :=
    State.fget_fset_elsewhere _ F.HUB_DLD_COUNT_decants f _ (by rw [hf]; decide)
  refine ⟨rfl, rfl, ?_, ?_, State.sameMem_of_eq rfl rfl rfl⟩
  · rw [State.fbit, hcount _ rfl, State.fget_fset_same _ _ _ (by decide)]
    rfl
  · rw [hcount _ rfl, State.fget_fset_beside _ F.HUB_DLD_STATUS_valid F.HUB_DLD_STATUS_last_cycle 1 rfl (by decide) (.inl (by decide)),
      State.fget_fset_same _ _ _ (by decide)]
    exact Nat.mod_eq_of_lt hcyc

/-- A decant with room designates its cask and starts its first word where the path is free (R167–R169). -/
theorem decantEff_room {s : State} {cyc : Nat} (hcyc : cyc < 32) (hdue : s.decantDue cyc = true) (hroom : s.decantRoom cyc = true) :
    let c := s.cycCask cyc
    let t := decantEff s cyc
    t.arr.elast = (s.arr.elast + 1) % 2 ^ 64 ∧ t.fbit F.HUB_DLD_STATUS_valid = true ∧ t.fget F.HUB_DLD_STATUS_last_cycle = cyc ∧ s.sameMem t ∧
      ∃ m b, t.cask c = { (s.cask c).designated (s.decantRing cyc).1 (s.decantRing cyc).2 with moving := m, pathBusy := b } ∧
        (0 < (s.cask c).cnt → s.pathFree c.t = true → m = true ∧ b = s.arr.runAc + 4) := by
  intro c t
  have ht : t = ((((s.addElast 1).setCask c ((s.cask c).designated (s.decantRing cyc).1 (s.decantRing cyc).2)).decantStart c).decantLogged cyc) :=
    (decantEff_eq hdue).trans (if_pos hroom)
  have hnew := (s.addElast 1).cask_setCask_same c ((s.cask c).designated (s.decantRing cyc).1 (s.decantRing cyc).2)
  have hfree (h : s.pathFree c.t = true) : ((s.addElast 1).setCask c ((s.cask c).designated (s.decantRing cyc).1
      (s.decantRing cyc).2)).pathFree c.t = true := State.pathFree_setCask (s := s.addElast 1) h rfl
  obtain ⟨harr, helast, m, b, hcask, hmove⟩ := ((s.addElast 1).setCask c ((s.cask c).designated (s.decantRing cyc).1
    (s.decantRing cyc).2)).decantStart_spec c
  rw [hnew] at hcask hmove
  obtain ⟨hcasks, helast', hvalid, hlast, hmem⟩ := (((s.addElast 1).setCask c ((s.cask c).designated (s.decantRing cyc).1
    (s.decantRing cyc).2)).decantStart c).decantLogged_spec hcyc
  rw [← ht] at hcasks helast' hvalid hlast hmem
  refine ⟨helast'.trans helast, hvalid, hlast, State.sameMem_trans ((State.onlyArray.mapArr s _).trans
    ((State.onlyArray.setCask _ c _).trans harr)).sameMem hmem, m, b, (State.cask_congr hcasks c).trans hcask, fun hcnt hpath => ?_⟩
  exact hmove hcnt rfl (hfree hpath)

/-- A decant whose ring lacks room or lies on a failed channel ends the job with E-0622 (R169). -/
theorem State.decantFail_spec :
    let t := s.decantFail
    t.arr.casks = s.arr.casks ∧ t.arr.elast = s.arr.elast ∧ t.fbit F.HUB_DLD_STATUS_fail = true ∧ t.job.running = false ∧
      (s.job.running = true → s.job.firstErr = 0 →
        ∃ e ∈ t.cp.comps, e.kind = 2 ∧ e.op = 3 ∧ e.tag = s.job.tag ∧ e.code = 0x0622) := by
  obtain ⟨hcasks, helast, hreg, hrun, hend⟩ := (s.fset F.HUB_DLD_STATUS_fail 1).endJobNow_spec (code := 0x0622) (by decide) (by decide)
  refine ⟨hcasks, helast, ?_, hrun, hend⟩
  have hkeep : (s.decantFail).fget F.HUB_DLD_STATUS_fail = (s.fset F.HUB_DLD_STATUS_fail 1).fget F.HUB_DLD_STATUS_fail :=
    congrArg F.HUB_DLD_STATUS_fail.of hreg
  rw [State.fbit, hkeep, State.fget_fset_same _ _ _ (by decide)]
  rfl

/-! ## A word decanted (R156, R167, R170) -/

theorem ringPut_withFabric (a : ArraySt) (w : SMap Word) (base p rec1 : Nat) (bs : List Byte) (b : Bool) :
    ringPut (s.withFabric a w) base p rec1 bs b = (ringPut s base p rec1 bs b).withFabric a w := by
  unfold ringPut
  dsimp only
  rw [State.inOrder_withFabric, State.ite_withFabric (writeHyper_withFabric _ _ _ _ _ _ _) (writeHyper_withFabric _ _ _ _ _ _ _),
    writeHyper_withFabric]

/-- A word written to a ring leaves the array and the configuration words. -/
theorem ringPut_keeps (base p rec1 : Nat) (bs : List Byte) (b : Bool) :
    (ringPut s base p rec1 bs b).arr = s.arr ∧ (ringPut s base p rec1 bs b).words = s.words := by
  have h : ringPut s base p rec1 bs b = (ringPut s base p rec1 bs b).withFabric s.arr s.words :=
    ringPut_withFabric s s.arr s.words base p rec1 bs b
  exact ⟨by rw [h]; rfl, by rw [h]; rfl⟩

theorem readWord_onlyLogs (a : Nat) : s.onlyLogs (readWord s a).2.2 := by
  have hread := readChip_onlyLogs s a 32
  unfold readWord
  obtain ⟨read, hreadIs⟩ : ∃ f, readChip = f := ⟨_, rfl⟩
  rw [hreadIs] at hread ⊢
  exact hread

/-- The read of a cask's head word changes no more than error reporting can (R156). -/
theorem caskHead_onlyLogs (c : CaskRef) (x : SideRec) : s.onlyLogs (caskHead s c x).2.2.2 := by
  have hread : s.onlyLogs (readWord s (s.caskAddr c (s.cask c).rp)).2.2 := readWord_onlyLogs s _
  obtain ⟨head, hhead⟩ : ∃ f, caskHead = f := ⟨_, rfl⟩
  obtain ⟨read, hreadIs⟩ : ∃ f, readWord = f := ⟨_, rfl⟩
  rw [hhead]
  delta caskHead at hhead
  rw [hreadIs] at hread hhead
  rw [← hhead]
  dsimp only
  split
  · exact (hread.trans (State.onlyLogs_fcount _ _ _)).trans (State.onlyLogs_caskFault _ c _)
  · exact hread

/-- A cask whose oldest word has gone to its ring; `xs` are the words left (R167). -/
def CaskSt.decanted (k : CaskSt) (bound : Nat) (xs : List SideRec) : CaskSt :=
  { k with rp := nextPtr bound k.rp, cnt := k.cnt - 1, rp2 := nextPtr bound k.rp2, cnt2 := k.cnt2 - 1, side := xs,
           wrPeriod := k.wrPeriod.drop 1, ringTail := (k.ringTail + 1) % (8 * k.ringSize),
           ringWords := k.ringWords + 1, decant := k.decant - 1, moving := false }

/-- A cask that no longer decants. -/
def CaskSt.halted (k : CaskSt) : CaskSt := { k with decant := 0, moving := false }

/-- A decanted word whose ring is reachable leaves the cask (R167). -/
theorem State.decantWord_good {s : State} {c : CaskRef} {x : SideRec} {xs : List SideRec} (hside : (s.cask c).side = x :: xs)
    (hgood : s.rangeGood (s.cask c).ringBase (288 * (s.cask c).ringSize) = true) :
    (s.decantWord c).cask c = (s.cask c).decanted (s.caskBound c) xs := by
  have hlogs := caskHead_onlyLogs s c x
  have hput := ringPut_keeps
  unfold State.decantWord
  rw [hside]
  obtain ⟨head, hhead⟩ : ∃ f, caskHead = f := ⟨_, rfl⟩
  obtain ⟨put, hputIs⟩ : ∃ f, ringPut = f := ⟨_, rfl⟩
  rw [hhead] at hlogs ⊢
  rw [hputIs] at hput ⊢
  dsimp only
  rw [hgood, Bool.not_true, if_neg Bool.false_ne_true, State.cask_moved]
  have hk : (head s c x).2.2.2.cask c = s.cask c := hlogs.cask c
  generalize (head s c x).2.2.2 = u at hlogs hk ⊢
  rw [hk]
  obtain ⟨harr, hwords⟩ := hput u (s.cask c).ringBase (s.cask c).ringTail (head s c x).1 (head s c x).2.1 (head s c x).2.2.1
  generalize put u (s.cask c).ringBase (s.cask c).ringTail (head s c x).1 (head s c x).2.1 (head s c x).2.2.1 = v at harr hwords ⊢
  have hbound : v.caskBound c = s.caskBound c := by
    have hword : v.words = s.words := hwords.trans hlogs.mem.2.2.2
    simp only [State.caskBound, State.desc0, State.word, hword]
  rw [hbound]
  exact v.cask_setCask_same c _

/-- A decant whose ring lies on a failed channel stops there (log 209). -/
theorem State.decantWord_bad {s : State} {c : CaskRef} {x : SideRec} {xs : List SideRec} (hside : (s.cask c).side = x :: xs)
    (hbad : s.rangeGood (s.cask c).ringBase (288 * (s.cask c).ringSize) = false) :
    s.decantWord c = (s.setCask c (s.cask c).halted).decantFail := by
  unfold State.decantWord
  rw [hside]
  obtain ⟨head, hhead⟩ : ∃ f, caskHead = f := ⟨_, rfl⟩
  rw [hhead]
  dsimp only
  rw [hbad, Bool.not_false, if_pos rfl]
  rfl

/-! ## Refill (R168, R170) -/

/-- A refill that can go takes the maintenance path for 4 ac (R168). -/
theorem exec_refill {s : State} {c : CaskRef} (h : s.canRefill c = true) :
    exec (.refill c) s = .next (s.setCask c { s.cask c with filling := true, pathBusy := s.arr.runAc + 4 }) :=
  (show exec (.refill c) s = .next (refillEff s c) from rfl).trans (congrArg _ (if_pos h))

/-- A cask whose refill buffer has taken `f` from position `p` of its ring (R168). -/
def CaskSt.refilled (k : CaskSt) (p : Nat) (f : Flit) : CaskSt :=
  { k with filling := false, refill := k.refill ++ [f], ringWords := k.ringWords - 1, ringHead := (p + 1) % (8 * k.ringSize) }

/-- A word that has come over the maintenance path joins the refill buffer and leaves the ring (R168). -/
theorem State.refillWord_cask {s s1 z : State} {c : CaskRef} {k : CaskSt} {p : Nat} {f : Flit} (hk : s.cask c = k)
    (hz : s.inOrder (hyperBase + k.ringBase) (288 * k.ringSize) = z) (hgood : z.rangeGood k.ringBase (288 * k.ringSize) = true)
    (hword : ringWord z k.ringBase k.ringSize (k.ringSize + 1) k.ringHead = some (p, f, s1)) :
    (s.refillWord c).cask c = k.refilled p f := by
  have hcask : (s.setCask c { k with filling := false }).cask c = { k with filling := false } := s.cask_setCask_same c _
  have horder := s.inOrder_withFabric (s.setCask c { k with filling := false }).arr s.words (hyperBase + k.ringBase) (288 * k.ringSize)
  have hring := ringWord_withFabric z (s.setCask c { k with filling := false }).arr s.words k.ringBase k.ringSize (k.ringSize + 1) k.ringHead
  have hsame : (z.withFabric (s.setCask c { k with filling := false }).arr s.words).rangeGood k.ringBase (288 * k.ringSize) = true := hgood
  rw [show s.withFabric (s.setCask c { k with filling := false }).arr s.words = s.setCask c { k with filling := false } from rfl, hz] at horder
  rw [hword, Option.map_some] at hring
  unfold State.refillWord
  dsimp only
  rw [hk]
  obtain ⟨order, horderIs⟩ : ∃ f, State.inOrder = f := ⟨_, rfl⟩
  obtain ⟨ring, hringIs⟩ : ∃ f, ringWord = f := ⟨_, rfl⟩
  rw [horderIs] at horder ⊢
  rw [hringIs] at hring ⊢
  rw [hcask]
  dsimp only
  rw [horder, hsame, hring, Bool.not_true, if_neg Bool.false_ne_true]
  dsimp only
  rw [State.cask_moved, State.cask_setCask_same]
  rfl

/-! ## Entries on the scale stream (R100, R101, R103) -/

/-- A tile that offers one flit at an output has it last in that queue; registers and memory stay (R147). -/
theorem State.setTile_offer {s : State} (hshape : s.shaped) {r : TileRef} {x : TileSt} (hq : x.outq = (s.tile r).outq) {p : Nat} (hp : p < 4)
    (due : Nat) (f : Flit) :
    let t := s.setTile r (x.offer p due [f])
    (∃ q, t.tile r = { x with outq := q }) ∧ (∃ y : OutEntry, (t.tile r).out p = (s.tile r).out p ++ [y] ∧ y.flit = f) ∧
      s.regsBut t [] ∧ s.sameMem t := by
  obtain ⟨htile, -, hregs, hmem⟩ := s.onlyTile_setTile r (x.offer p due [f])
  obtain ⟨d, hout⟩ := x.out_offer_one due f (p := p) (by rw [hq, (State.shaped_tile hshape r).2]; exact hp)
  dsimp only
  rw [htile, ← TileSt.out_congr hq p]
  exact ⟨x.offer_eq p due [f], ⟨_, hout, rfl⟩, hregs, hmem⟩

/-- The partial entry of a member that closed its band with maximum `m` (R100). -/
def State.partialOf (s : State) (r : TileRef) (x : TileSt) : ScaleEntry :=
  { value := x.mOwn, tag := (x.band + 15) % 16, kind := 0, layer := s.layerOf r x.vint, rcp := 0, poison := false, src := none }

/-- A first collecting member, 4 ac after it holds its band event, sends its own maximum (R100). -/
theorem exec_partialEntrySend_first {s : State} {r : TileRef} {x : TileSt} {h : Nat} (hx : s.tile r = x) (hruns : s.arrayRuns = true)
    (hchain : x.chain = some h) (hdue : h + 4 ≤ s.arr.runAc) (hclean : s.readsClean (some (r.t, r.row)) ((adaptCws r x.vint).take 1))
    (hfirst : s.isFirst r x.vint = true) (hcollects : s.collects r x.vint = true) (hlead : s.isLead r x.vint = false) :
    exec (.partialEntrySend r) s = .next (s.setTile r
      ({ x with chain := none, partIn := none }.offer 1 s.arr.runAc [flitOfEntry (s.partialOf r x)])) := by
  refine (show exec (.partialEntrySend r) s = .next (partialEntrySendEff s r) from rfl).trans (congrArg _ ?_)
  unfold partialEntrySendEff
  dsimp only
  rw [hx, hfirst, Bool.true_or, if_pos rfl, hx, hchain]
  dsimp only
  rw [hruns, hlead, hcollects, Bool.not_true, Bool.or_false, Bool.or_false, if_neg Bool.false_ne_true, hfirst, if_pos rfl, if_pos hdue]
  rw [State.withCtl_clean _ hclean]
  rfl

/-- The gain entry of a lead that begins a job or Vintage with gain `g` (R101, R103). -/
def State.firstGain (s : State) (r : TileRef) (x : TileSt) (g : Nat) : ScaleEntry :=
  { value := g, tag := x.band % 16, kind := 1, layer := s.layerOf r x.vint, rcp := rcpOf g, poison := false, src := none }

/-- The lead of a first band takes g_init and sends it (R103). -/
theorem exec_gainEntrySend_init {s : State} {r : TileRef} {x : TileSt} {h : Nat} (hx : s.tile r = x) (hruns : s.arrayRuns = true)
    (hchain : x.chain = some h) (hinit : x.adInit = true) (hclean : s.readsClean (some (r.t, r.row)) (adaptCws r x.vint))
    (hlead : s.isLead r x.vint = true) :
    exec (.gainEntrySend r) s = .next (sendGain s r (bitsW (s.adapt r x.vint 2) 0 16)) := by
  refine (show exec (.gainEntrySend r) s = .next (gainEntrySendEff s r) from rfl).trans (congrArg _ ?_)
  unfold gainEntrySendEff
  dsimp only
  rw [hx, hinit, Bool.or_true, Bool.true_or, if_pos rfl, hx, hchain]
  dsimp only
  rw [hruns, hlead, Bool.not_true, Bool.or_false, if_neg Bool.false_ne_true, hinit, if_pos rfl, State.withCtl_clean _ hclean]

/-- A lead that sends gain `g` applies it and offers its entry (R101). -/
theorem sendGain_spec {s : State} (hshape : s.shaped) {r : TileRef} {x : TileSt} (hx : s.tile r = x) (g : Nat) :
    let t := sendGain s r g
    (t.tile r).gain = g ∧ (t.tile r).adInit = false ∧ (t.tile r).chain = none ∧
      (∃ y : OutEntry, (t.tile r).out 1 = x.out 1 ++ [y] ∧ y.flit = flitOfEntry (s.firstGain r x g)) ∧ s.regsBut t [] ∧ s.sameMem t := by
  subst hx
  obtain ⟨⟨q, htile⟩, hout, hregs, hmem⟩ := State.setTile_offer hshape (r := r)
    (x := { s.tile r with chain := none, partIn := none, adInit := false, adLead := g, gain := g, rcp := rcpOf g,
                          gainTag := (s.tile r).band % 16, gainNeed := false }) rfl (p := 1) (by decide) s.arr.runAc
    (flitOfEntry (s.firstGain r (s.tile r) g))
  exact ⟨congrArg TileSt.gain htile, congrArg TileSt.adInit htile, congrArg TileSt.chain htile, hout, hregs, hmem⟩

end Sys2Proof.Machine

open Sys2Proof Sys2Proof.Machine

/-- Settles O59: a cask's word is written, read, decanted and refilled by the rule of that event, a pointer difference and a decant's start or
failure come to their effects on the cask and the job, and the two entries of the scale stream are offered at port 1. -/
theorem casksAndScale : Obligations.CasksAndScale := by
  unfold Obligations.CasksAndScale
  refine ⟨?write, ?read, ?pointers, ?decant, ?word, fun _ _ h => exec_refill h, ?refilled, ?partialEntry, ?gainEntry⟩
  case write =>
    intro c y s hruns hfly hstop hdue _ k a frees
    have hwait : s.writeWaits c y = (frees && decide (s.caskBound c ≤ k.cnt)) := by
      simp only [State.writeWaits, frees, k]
      cases s.caskEn c <;> cases s.caskReadable c <;> simp [Bool.and_comm]
    refine ⟨fun hfull hfrees => exec_caskWordWrite_waits hruns hfly hstop hdue (by simp [hwait, hfrees, hfull]), fun hgo => ?_⟩
    by_cases hroom : s.caskEn c = true ∧ k.cnt < s.caskBound c
    · obtain ⟨hen, hcnt⟩ := hroom
      obtain ⟨t, p, hexec, hflights, hregs, hcask, hbytes, houtside⟩ := exec_caskWordWrite_room hruns hfly hstop hdue hen hcnt (a := a) rfl
      refine ⟨t, hexec, hflights, hregs, fun _ _ => ?_, fun hlost => ?_⟩
      · rw [hcask]
        exact ⟨rfl, rfl, rfl, hbytes, houtside, _, rfl, rfl, rfl, rfl⟩
      · rcases hlost with hoff | hfull
        · exact absurd (hen.symm.trans hoff) (by decide)
        · omega
    · have hlost : s.caskEn c = false ∨ s.caskBound c ≤ k.cnt := by
        simpa [or_iff_not_imp_left] using hroom
      have hnot : s.writeWaits c y = false := by
        rcases hgo with hcnt | hfrees
        · simp [hwait, Nat.not_le.mpr hcnt]
        · simp [hwait, hfrees]
      exact ⟨_, exec_caskWordWrite_lost hruns hfly hstop hdue hnot hlost, rfl, State.regsBut_of_regs rfl [],
        fun hen hcnt => absurd ⟨hen, hcnt⟩ hroom, fun _ => ⟨rfl, State.sameMem_of_eq rfl rfl rfl⟩⟩
  case read =>
    intro c ci x xs s hruns hsw hlocked hcirc hcredit hem hspill hclass hoffers hside hclean d hparity
    obtain ⟨t, y, n, p, hexec, hcask, hflights, hflit, hci, hregs, hmem⟩ := exec_caskWordRead_offered hruns hsw hlocked hcirc hcredit hem
      hspill hclass hoffers hside hclean rfl rfl hparity
    refine ⟨t, y, hexec, ?_⟩
    rw [hcask, hflit]
    exact ⟨rfl, rfl, rfl, rfl, hflights, rfl, rfl, rfl, hci, hregs, hmem⟩
  case pointers =>
    intro c rp wp cnt s hpriv hen hqueue k
    by_cases hsame : rp = k.rp ∧ wp = k.wp ∧ cnt = k.cnt
    · have heq := caskPointerMismatchEff_equal hsame
      have hexec := exec_caskPointerMismatch (c := c) (rp := rp) (wp := wp) (cnt := cnt) (s := s) (by rw [heq]; exact hqueue)
      rw [heq] at hexec
      exact ⟨s, hexec, s.sameMem_refl, fun _ => rfl, fun h => absurd hsame h⟩
    · obtain ⟨hmem, hgrf, hcask, hcode⟩ := caskPointerMismatchEff_differ hpriv hen hsame
      exact ⟨_, exec_caskPointerMismatch (by rw [hgrf]; exact hqueue), hmem, fun h => absurd h hsame, fun _ => ⟨hcask, hcode⟩⟩
  case decant =>
    intro cyc s helastic hruns hwait hlen hidle c k
    have hdue : s.decantDue cyc = true := by
      simp only [State.decantDue, helastic, hruns, hwait, hidle, decide_true, Bool.and_true, Bool.true_and, beq_self_eq_true]
      exact bne_iff_ne.mpr hlen
    refine ⟨decantEff s cyc, rfl, ?_⟩
    cases hroom : s.decantRoom cyc with
    | true =>
      obtain ⟨helast, hvalid, hlast, hmem, m, b, hcask, hmove⟩ := decantEff_room cyc.isLt hdue hroom
      refine ⟨helast, fun _ => ?_, fun h => absurd h (by decide)⟩
      rw [hcask]
      exact ⟨rfl, rfl, rfl, rfl, hvalid, hlast, hmem, hmove⟩
    | false =>
      obtain ⟨-, helast, hfail, hrun, hend⟩ := (s.addElast 1).decantFail_spec
      rw [decantEff_eq hdue, hroom, if_neg Bool.false_ne_true]
      exact ⟨helast, fun h => absurd h (by decide), fun _ => ⟨hfail, hrun, hend⟩⟩
  case word =>
    intro c x xs s hside k t
    refine ⟨fun hgood => ?_, fun hbad => ?_⟩
    · have hcask : t.cask c = k.decanted (s.caskBound c) xs := State.decantWord_good hside hgood
      rw [hcask]
      exact ⟨rfl, rfl, rfl, rfl, rfl, rfl, rfl⟩
    · obtain ⟨hcasks, -, hfail, hrun, -⟩ := (s.setCask c k.halted).decantFail_spec
      rw [show t = (s.setCask c k.halted).decantFail from State.decantWord_bad hside hbad]
      exact ⟨(State.cask_congr hcasks c).trans (s.cask_setCask_same c _), hfail, hrun⟩
  case refilled =>
    intro c p f s s1 k z hgood hword
    exact State.refillWord_cask rfl rfl hgood hword
  case partialEntry =>
    intro r h s hshape hruns hchain hdue hclean x hfirst hcollects hlead
    obtain ⟨⟨q, htile⟩, ⟨y, hout, hflit⟩, hregs, hmem⟩ := State.setTile_offer hshape (r := r)
      (x := { x with chain := none, partIn := none }) rfl (p := 1) (by decide) s.arr.runAc (flitOfEntry (s.partialOf r x))
    exact ⟨_, y, exec_partialEntrySend_first rfl hruns hchain hdue hclean hfirst hcollects hlead, congrArg TileSt.chain htile, hout, hflit, hregs,
      hmem⟩
  case gainEntry =>
    intro r h s hshape hruns hchain hinit hclean x g hlead
    obtain ⟨hgain, hnot, hnone, ⟨y, hout, hflit⟩, hregs, hmem⟩ := sendGain_spec hshape (r := r) rfl g
    exact ⟨_, y, exec_gainEntrySend_init rfl hruns hchain hinit hclean hlead, hgain, hnot, hnone, hout, hflit, hregs, hmem⟩
end

section
/-!
PROOFS. SWITCH_VINTAGE outside a job (06 R186; 14 R385): taking the command, and a Row that only the Vintage left behind kept powered.
-/
namespace Sys2Proof.Machine

/-- A processor that takes a well-formed SWITCH_VINTAGE acts on it at once (R186, R325). -/
theorem exec_switchVintage_takes {s : State} {e : CmdEntry} (h : s.takes) (hm : malformed ⟨5, e, [], 0⟩ = false) :
    exec (.switchVintage e) s =
      .next (switchTake s.consumed e.tag.toNat (e.flags.getLsbD 0) (CmdF e 8 1) (bitN (CmdF e 9 1) 0) (CmdF e 12 4)) := by
  have hop : ¬ 0x0F < (⟨5, e, [], 0⟩ : Cmd).op := by change ¬ 15 < 5; decide
  have hrun := runCmd_takes s 5 e [] 0 h (by simp [State.replayFull]) (by simp [State.placeWaits])
  simp only [State.takeCmd, hm, if_neg hop, Bool.false_eq_true, if_false] at hrun
  exact hrun

/-- SWITCH_VINTAGE to Vintage 0, without a band. -/
def toVintage0 : CmdEntry := ⟨0, 0, 0, 0⟩

/-- Vintage 0 is placed; Vintage 1, which alone uses Row 0 of Terrace 0, is active and no longer placed. One byte of that Row is 1, and a command
waits in ring 0. -/
def unplacedActive : State :=
  { ((((State.reset.setReg (R.PCI_RING_CFG 0) 0x106).setReg (R.PCI_RING_PROD 0) 1).setReg (R.MX_SEQ_CTRL (tb ⟨0, 0, 0⟩)) 2).fset
      F.HUB_VNT_STATUS_placed 1).fset F.HUB_VNT_STATUS_active 1 with mem := [(0x40000000, 1)] }

theorem unplacedActive_takes : unplacedActive.takes := by decide +kernel

/-- With Vintage 0 active nothing keeps the Row, and its byte is lost (R385). -/
theorem unplacedActive_switched :
    (switchTake unplacedActive.consumed toVintage0.tag.toNat (toVintage0.flags.getLsbD 0) (CmdF toVintage0 8 1)
      (bitN (CmdF toVintage0 9 1) 0) (CmdF toVintage0 12 4)).byte 0x40000000 = 0 := by decide +kernel

end Sys2Proof.Machine

open Sys2Proof Sys2Proof.Machine

/-- Refutes O13, in its clause that a switch outside a job leaves memory as it was: where the Vintage left behind is active but not placed, only
its being active kept its Rows powered, so they lose what they hold (R385, log 48). Here the byte 1 of such a Row reads 0. -/
theorem not_endJobAndSwitchOutsideJob : ¬ Obligations.EndJobAndSwitchOutsideJob := by
  unfold Obligations.EndJobAndSwitchOutsideJob
  rintro ⟨-, -, hswitch, -⟩
  have hgood : malformed ⟨5, toVintage0, [], 0⟩ = false := by decide +kernel
  obtain ⟨t, ht, -, -, -, ⟨hbytes, -⟩, -⟩ := hswitch toVintage0 unplacedActive unplacedActive_takes hgood rfl (by decide +kernel)
    (by decide +kernel)
  obtain rfl := Host.Outcome.next.inj ((exec_switchVintage_takes unplacedActive_takes hgood).symm.trans ht)
  have hheld : unplacedActive.byte 0x40000000 = 1 := rfl
  exact absurd (unplacedActive_switched.symm.trans ((hbytes _).trans hheld)) (by decide)

end

section
/-!
PROOFS. The end of a Graft step (08 R242, R246, R247): what it leaves, which registers the queue writes after it, and a step that reads
an entry over which a captured SNAPSHOT is still to be written (10 R303; 13 R375).
-/
namespace Sys2Proof.Machine

/-! ## The end of a Graft step (R246, R247) -/

/-- The state once a step has left its bank: saturations counted, the step counted, none running. -/
def State.stepEnded (s : State) (sats step : Nat) (b : GBank) : State :=
  (s.fcount F.HUB_GRF_SAT_sat sats).mapGrf fun g => { g with
    w16 := b.w16, m8 := b.m8, v8 := b.v8, em := b.em, ev := b.ev, step := step, stepping := false }

/-- A step that read no poison leaves its bank; the Graft state is written and the queue goes on. -/
theorem graftStepEndEff_clean {s v u : State} {q : GraftCmd} {es : List (List Byte)} (hstep : s.grf.stepping = true)
    (hcur : s.grfCur = some q) (hstate : s.graftRead = (false, v)) (hsamples : v.stepSamples (s.grf.step + 1) = (es, false, u)) :
    ∃ (n : Nat) (b : GBank), graftStepEndEff s false =
      ((u.stepEnded n (s.grf.step + 1) b).graftPut.setCur { q with done := q.done + 1 }).pumpGraft 32 := by
  unfold graftStepEndEff
  simp only [hstep, hcur, hstate, hsamples, Bool.not_true, Bool.or_self, Bool.false_eq_true, if_false]
  exact ⟨_, _, rfl⟩

/-- With no shared-store region for it the Graft state takes no bytes: its write leaves every register and the Graft state. -/
theorem State.graftPut_empty {s : State} (h : s.graftLen = 0) : s.graftPut.regs = s.regs ∧ s.graftPut.grf = s.grf := by
  have hnone (x a : Nat) (t : State) : writeChip t a (bytesOf s.graftLen x) false = t := by
    rw [h]
    rfl
  have hput : s.graftPut = (s.freshBelow (256 ^ s.graftLen)).2 := hnone _ _ _
  rw [hput]
  exact ⟨rfl, rfl⟩

/-- A submit that stands alone in the queue is replaced there. -/
theorem State.setCur_queue {s : State} {q : GraftCmd} (hqueue : s.grf.queue = [q]) (hsubmit : q.commit = false) (p : GraftCmd) :
    (s.setCur p).grf.queue = [p] := by
  simp [State.setCur, State.grfAt, hqueue, hsubmit, setNth]

/-- The end of a step leaves the size of the Graft state's region. -/
theorem State.graftLen_stepEnded (s : State) (sats step : Nat) (b : GBank) : (s.stepEnded sats step b).graftLen = s.graftLen := by
  have hsize : (s.stepEnded sats step b).fget (F.HUB_SS_R_size 5) = s.fget (F.HUB_SS_R_size 5) :=
    s.fget_fset_elsewhere F.HUB_GRF_SAT_sat _ _ (by decide)
  unfold State.graftLen State.regionSize
  rw [hsize]
  rfl

/-- A completion with a code outside Table 15.8 writes no register and leaves the Graft state. -/
theorem State.complete_plain (s : State) {code : Nat} (hplain : code / 256 ≠ 0x0C) (tag op result : Nat) (irq : Bool) :
    (s.complete tag op code result irq).regs = s.regs ∧ (s.complete tag op code result irq).grf = s.grf := by
  have hraise (t : State) : (t.raise code).regs = t.regs ∧ (t.raise code).grf = t.grf := by
    rw [State.raise, if_neg hplain, State.note]
    split <;> exact ⟨rfl, rfl⟩
  unfold State.complete
  by_cases hopen : code ≠ 0 ∧ result = 0
  · rw [if_pos hopen]
    exact hraise (s.freshBelow (2 ^ 64)).2
  · rw [if_neg hopen]
    exact hraise s

/-- So does a Graft command that completes with such a code, but that it leaves the queue. -/
theorem State.grfDone_plain (s : State) (q : GraftCmd) {code : Nat} (hplain : code / 256 ≠ 0x0C) (result : Nat) :
    (s.grfDone q code result).regs = s.regs ∧ (s.grfDone q code result).grf = { s.grf with queue := dropNth s.grf.queue s.grfAt } :=
  State.complete_plain _ hplain _ _ _ _

/-- An empty Graft queue runs nothing. -/
theorem State.pumpGraft_nil {s : State} (h : s.grf.queue = []) (n : Nat) : s.pumpGraft n = s := by
  cases n with
  | zero => rfl
  | succ n => simp [State.pumpGraft, State.grfCur, h]

/-- After a submit with steps to run that stands alone in the queue no other command runs: it waits, or leaves the queue where its pool cannot be
reached (Table 12.4). -/
theorem State.pumpGraft_regs_submitted {s : State} {q : GraftCmd} (n : Nat) (hqueue : s.grf.queue = [q]) (hsubmit : q.commit = false)
    (happended : q.appended = true) (hsteps : q.done < q.steps) (hready : s.grf.mode = .ready) : (s.pumpGraft n).regs = s.regs := by
  have hat : s.grfAt = 0 := by simp [State.grfAt, hqueue, hsubmit]
  have hcur : s.grfCur = some q := by simp [State.grfCur, hqueue, hat]
  cases n with
  | zero => rfl
  | succ n =>
    unfold State.pumpGraft
    simp only [hcur, hsubmit, happended, hready, Nat.not_le.mpr hsteps, Bool.not_true, bne_self_eq_false, Bool.false_eq_true, if_false]
    split
    case isTrue =>
      obtain ⟨hregs, hgrf⟩ := (s.mapGrf fun g => { g with stepping := false }).grfDone_plain q (code := 0x0D0B) (by decide) 0
      have hempty : dropNth s.grf.queue s.grfAt = [] := by rw [hqueue, hat]; rfl
      rw [State.pumpGraft_nil ((congrArg GrfSt.queue hgrf).trans hempty), hregs]
      rfl
    case isFalse => rfl

/-! ## A snapshot that meets the pool (R242, R303, R375) -/

/-- The header of a head of two classes over 16 features, with one sample to a step, a pool of 64 entries and a store of 256. -/
def smallHead : List Byte :=
  bytesOf 2 16 ++ bytesOf 6 4 ++ bytesOf 2 2 ++ bytesOf 2 1 ++ bytesOf 4 64 ++ bytesOf 4 256 ++ [1, 1] ++ bytesOf 2 1

/-- A GRAFT_SUBMIT of two steps whose samples have been appended. -/
def twoSteps : GraftCmd :=
  { commit := false, tag := 5, irq := true, reset := false, steps := 2, list := [], bad := 0, target := 0, band := none, appended := true,
    done := 0, staging := false, staged := false, armed := none }

/-- A Graft step runs over a pool of one entry, which lies above the store's 256 entries of 64 bytes. No channel is active and no write is under
way; a captured SNAPSHOT is still to be written over that entry. -/
def snapshotOverPool : State :=
  let s : State := { State.reset with
    str := { StrSt.init with nextOrder := 1 },
    cp := { State.reset.cp with snap := some ⟨6, true, 0, true, hyperBase + 64 * 256, none, some [(0, false)]⟩ },
    grf := { GrfSt.init with mode := .ready, stepping := true, sect := smallHead, poolLen := 1, queue := [twoSteps] } }
  ((s.fset (F.HRM_CH_CFG_devices 0) 1).fset (F.HRM_CH_CFG_density 0) 3).setHyper 0 2

theorem snapshotOverPool_slack : snapshotOverPool.graftSlack = 0 := by decide +kernel

theorem snapshotOverPool_storeBase : snapshotOverPool.storeBase = hyperBase := by
  rw [State.storeBase, snapshotOverPool_slack, Nat.mod_one]
  rfl

theorem snapshotOverPool_poolBase : snapshotOverPool.poolBase = hyperBase + 64 * 256 := by
  unfold State.poolBase
  rw [snapshotOverPool_storeBase, snapshotOverPool_slack, Nat.mod_one, Nat.sub_zero, Nat.mod_one]
  decide +kernel

theorem snapshotOverPool_reach : snapshotOverPool.graftReach = true := by
  unfold State.graftReach
  rw [snapshotOverPool_storeBase, snapshotOverPool_poolBase]
  decide +kernel

theorem snapshotOverPool_graftRead : snapshotOverPool.graftRead = (false, snapshotOverPool) := by decide +kernel

/-- With one sample to a step, step `k` reads one entry of the pool (R242). -/
theorem State.stepSamples_one {s : State} {k a : Nat} (hone : (gHdr s.grf.sect).n = 1)
    (hslot : s.poolSlot ((k - 1) % Nat.max s.grf.poolLen 1) = a) :
    s.stepSamples k = ([(s.readEntry a).1], (s.readEntry a).2.1, (s.readEntry a).2.2) := by
  simp [State.stepSamples, hone, hslot]

/-- What the step reads: no poison, and E-0A21 of channel 4 for the range of the snapshot. -/
theorem snapshotOverPool_samples :
    ∃ es u, snapshotOverPool.stepSamples 1 = (es, false, u) ∧ u.reg (R.STR_CH_ERR 4) ≠ 0 ∧ u.graftLen = 0 ∧ u.grf = snapshotOverPool.grf := by
  have hslot : snapshotOverPool.poolSlot ((1 - 1) % Nat.max snapshotOverPool.grf.poolLen 1) = hyperBase + 64 * 256 := by
    rw [State.poolSlot, snapshotOverPool_poolBase]
    decide +kernel
  obtain ⟨hpoison, hrest⟩ : (snapshotOverPool.readEntry (hyperBase + 64 * 256)).2.1 = false ∧
      (snapshotOverPool.readEntry (hyperBase + 64 * 256)).2.2.reg (R.STR_CH_ERR 4) ≠ 0 ∧
      (snapshotOverPool.readEntry (hyperBase + 64 * 256)).2.2.graftLen = 0 ∧
      (snapshotOverPool.readEntry (hyperBase + 64 * 256)).2.2.grf = snapshotOverPool.grf := by decide +kernel
  have hone := State.stepSamples_one (s := snapshotOverPool) (k := 1) (by decide +kernel) hslot
  rw [hpoison] at hone
  exact ⟨_, _, hone, hrest⟩

/-- The end of the step leaves E-0A21 in the register of channel 4. -/
theorem snapshotOverPool_stepEnd : (graftStepEndEff snapshotOverPool false).reg (R.STR_CH_ERR 4) ≠ 0 := by
  obtain ⟨es, u, hsamples, herr, hlen, hgrf⟩ := snapshotOverPool_samples
  obtain ⟨n, b, heff⟩ := graftStepEndEff_clean (q := twoSteps) rfl rfl snapshotOverPool_graftRead hsamples
  obtain ⟨hputRegs, hputGrf⟩ := State.graftPut_empty ((u.graftLen_stepEnded n (snapshotOverPool.grf.step + 1) b).trans hlen)
  have hqueue : (u.stepEnded n (snapshotOverPool.grf.step + 1) b).graftPut.grf.queue = [twoSteps] := by
    rw [hputGrf]
    exact congrArg GrfSt.queue hgrf
  have hmode : (u.stepEnded n (snapshotOverPool.grf.step + 1) b).graftPut.grf.mode = .ready := by
    rw [hputGrf]
    exact congrArg GrfSt.mode hgrf
  have hended : (u.stepEnded n (snapshotOverPool.grf.step + 1) b).reg (R.STR_CH_ERR 4) = u.reg (R.STR_CH_ERR 4) :=
    u.reg_setReg_other _ (by decide)
  generalize (u.stepEnded n (snapshotOverPool.grf.step + 1) b).graftPut = v at heff hqueue hmode hputRegs
  have hpump := State.pumpGraft_regs_submitted 32 (State.setCur_queue hqueue rfl { twoSteps with done := twoSteps.done + 1 }) rfl rfl
    (by decide) hmode
  rw [← heff] at hpump
  rwa [State.reg_congr (hpump.trans hputRegs), hended]

/-- No channel of the Stream engine is active. -/
theorem snapshotOverPool_idle (n : Nat) : (snapshotOverPool.chan n).active = none := by
  have hchan (k : Nat) : (nth ChanSt.init (List.replicate k ChanSt.init) n).active = none := by
    induction k generalizing n with
    | zero => rfl
    | succ k ih => cases n with
      | zero => rfl
      | succ n => exact ih n
  exact hchan 16

end Sys2Proof.Machine

open Sys2Proof Sys2Proof.Machine

/-- Refutes O60, in its clause that the end of a Graft step changes HUB.GRF_SAT and no other register: channel 4 reads the step's sample, and a
captured SNAPSHOT whose block on channel 6 meets that entry raises E-0A21 (R303, R375) in the register of channel 4, although no channel is active
and no write is outstanding. -/
theorem not_jobVerdictGraft : ¬ Obligations.JobVerdictGraft := by
  unfold Obligations.JobVerdictGraft
  rintro ⟨-, -, -, -, -, -, -, -, -, hstepEnd, -⟩
  obtain ⟨es, u, hsamples, -⟩ := snapshotOverPool_samples
  have hgood : (snapshotOverPool.graftRead.2.stepSamples (snapshotOverPool.grf.step + 1)).2.1 = false := by
    rw [snapshotOverPool_graftRead, show snapshotOverPool.grf.step + 1 = 1 from rfl, hsamples]
  obtain ⟨t, ht, -, -, -, -, -, -, hregs, -⟩ := hstepEnd twoSteps snapshotOverPool rfl rfl rfl rfl (by decide) rfl snapshotOverPool_reach
    snapshotOverPool_idle (by rw [snapshotOverPool_graftRead]) hgood (State.upsetAt_of_nil rfl) rfl
  obtain rfl := Host.Outcome.next.inj ht
  exact snapshotOverPool_stepEnd ((hregs (R.STR_CH_ERR 4) (by decide)).trans (by decide +kernel))

end

section
/-!
PROOFS. The probe (06 R203, R204): what a host write of HUB.PRB_CTRL does, and what one sample of a running capture leaves.
-/
namespace Sys2Proof.Machine

variable {s : State}

/-! ## Writes of HUB.PRB_CTRL -/

/-- A host write of HUB.PRB_CTRL that no rule bars comes to its own row (R314). -/
theorem State.hostWrite_probeCtrl (h : s.hostOk R.HUB_PRB_CTRL) (v : Word) : s.hostWrite R.HUB_PRB_CTRL v = probeCtrlEff s .bar0 v := by
  obtain ⟨hreset, hbar⟩ := h
  have hind : s.indOf R.HUB_PRB_CTRL = none := s.indOf_of_lt (by decide) (by decide)
  have hplace : placeOf R.HUB_PRB_CTRL = .hub := placeOf_of_lt (by decide)
  have hjob : jobLocked R.HUB_PRB_CTRL = false := by decide
  have hreg : (regAt R.HUB_PRB_CTRL).isSome = true := by decide +kernel
  rw [State.hostWrite, State.regWrite_of_not_barred v _ hreset hbar (by decide), State.writeReg, hind, hplace]
  simp only [State.blockWrite, hjob, hreg, Bool.and_false, Bool.false_and, Bool.false_eq_true, if_false, if_true]
  rw [if_pos (by decide), hubWrite, if_neg (by decide), if_pos rfl]

theorem exec_probeArm (h : s.hostOk R.HUB_PRB_CTRL) (v : Word) : exec (.probeArm v) s = .next (probeCtrlEff s .bar0 (v ||| 1)) :=
  congrArg Host.Outcome.next (State.hostWrite_probeCtrl h _)

theorem exec_probeForce (h : s.hostOk R.HUB_PRB_CTRL) (v : Word) : exec (.probeForce v) s = .next (probeCtrlEff s .bar0 (v ||| 2)) :=
  congrArg Host.Outcome.next (State.hostWrite_probeCtrl h _)

/-- The registers in which a violation is counted and captured, and HUB.IRQ_STATUS. -/
def violRegs : List Nat := [R.HUB_IRQ_STATUS, R.HUB_VIOL_COUNT, R.HUB_VIOL_ADDR, R.HUB_VIOL_INFO]

theorem State.violate_logsIn (s : State) (src : AccSrc) (a : Nat) (w : Bool) (reason : Nat) : s.logsIn (s.violate src a w reason) violRegs := by
  have hcount : s.logsIn ((s.note (if reason = 6 then 0x0104 else 0x0105)).fcount F.HUB_VIOL_COUNT_count 1) violRegs :=
    ((State.logsIn.refl s _).note _).fset _ _ (by decide)
  unfold State.violate
  generalize (s.note (if reason = 6 then 0x0104 else 0x0105)).fcount F.HUB_VIOL_COUNT_count 1 = u at hcount
  have haddr : R.HUB_VIOL_ADDR ∈ violRegs := by decide
  have hinfo : R.HUB_VIOL_INFO ∈ violRegs := by decide
  dsimp only
  split
  · exact hcount
  · exact ((((((hcount.fset F.HUB_VIOL_ADDR_addr _ haddr).fset F.HUB_VIOL_INFO_addr_hi _ hinfo).fset F.HUB_VIOL_INFO_source _ hinfo).fset
      F.HUB_VIOL_INFO_write _ hinfo).fset F.HUB_VIOL_INFO_reason _ hinfo).fset F.HUB_VIOL_INFO_valid _ hinfo).irq 0 (by decide)

/-- With scope 0 closed the write is dropped and logged (R204). -/
theorem probeCtrlEff_closed (hclosed : s.debugOpen 0 = false) (v : Word) :
    s.logsIn (probeCtrlEff s .bar0 v) violRegs := by
  rw [probeCtrlEff, hclosed]
  exact s.violate_logsIn _ _ _ _

/-- The capture that a write with arm = 1 leaves, before its force bit acts: one that runs goes on, otherwise one starts. -/
def SecSt.armed (x : SecSt) : SecSt :=
  if x.probeRun then x else { x with probeRun := true, probeTrig := false, probeDone := false, probeLeft := 0 }

theorem State.mapSec_armed (s : State) : (if s.sec.probeRun then s
    else s.mapSec fun x => { x with probeRun := true, probeTrig := false, probeDone := false, probeLeft := 0 }) = s.mapSec SecSt.armed := by
  simp only [State.mapSec, SecSt.armed]
  split <;> rfl

/-- What a write with arm = 1 makes of the capture: it arms, and with `force` it triggers a capture that has not triggered (R203). -/
def SecSt.armWrite (x : SecSt) (force : Bool) (post : Nat) : SecSt :=
  if force && !x.armed.probeTrig then x.armed.trigger post else x.armed

/-- With scope 0 open a write with arm = 1 is stored and acts on the capture. -/
theorem probeCtrlEff_arm (hopen : s.debugOpen 0 = true) {v : Word} (harm : bitW v 0 = true) :
    probeCtrlEff s .bar0 v =
      (s.setReg R.HUB_PRB_CTRL (v &&& 0xFFFF07FD)).mapSec fun x => x.armWrite (bitW v 1) (F.HUB_PRB_CTRL_post.of (v &&& 0xFFFF07FD)) := by
  have hpost : (s.setReg R.HUB_PRB_CTRL (v &&& 0xFFFF07FD)).fget F.HUB_PRB_CTRL_post = F.HUB_PRB_CTRL_post.of (v &&& 0xFFFF07FD) :=
    congrArg F.HUB_PRB_CTRL_post.of (s.reg_setReg_same _ _)
  simp only [probeCtrlEff, hopen, harm, Bool.not_true, Bool.false_eq_true, if_false]
  rw [← hpost, State.mapSec_armed]
  generalize s.setReg R.HUB_PRB_CTRL (v &&& 0xFFFF07FD) = u
  by_cases hgo : (bitW v 1 && !u.sec.armed.probeTrig) = true
  · refine (if_pos hgo).trans ?_
    simp only [State.mapSec, SecSt.armWrite, hgo, if_true]
    rfl
  · refine (if_neg hgo).trans ?_
    simp only [State.mapSec, SecSt.armWrite, hgo, if_false, Bool.false_eq_true]

/-- So the register holds the value written, and no other register and no byte of memory changes. -/
theorem probeCtrlEff_arm_frame (hopen : s.debugOpen 0 = true) {v : Word} (harm : bitW v 0 = true) :
    (probeCtrlEff s .bar0 v).reg R.HUB_PRB_CTRL = v &&& 0xFFFF07FD ∧ s.regsBut (probeCtrlEff s .bar0 v) [R.HUB_PRB_CTRL] ∧
      s.sameMem (probeCtrlEff s .bar0 v) := by
  rw [probeCtrlEff_arm hopen harm]
  exact ⟨s.reg_setReg_same R.HUB_PRB_CTRL (v &&& 0xFFFF07FD), s.regsBut_setReg R.HUB_PRB_CTRL (v &&& 0xFFFF07FD),
    s.sameMem_setReg R.HUB_PRB_CTRL (v &&& 0xFFFF07FD)⟩

/-- The field post, bits 31:16, is stored as it is written. -/
theorem probeCtrl_post (v : Word) : F.HUB_PRB_CTRL_post.of ((v ||| 2) &&& 0xFFFF07FD) = bitsW v 16 16 := by
  have hset : ∀ i < 16, Nat.testBit 2 (16 + i) = false ∧ Nat.testBit 0xFFFF07FD (16 + i) = true := by decide
  refine Nat.eq_of_testBit_eq fun i => ?_
  simp only [Fld.of, bitsW, bitsN_testBit, F.HUB_PRB_CTRL_post]
  by_cases hi : i < 16
  · simp [hi, hset i hi]
  · simp [hi]

end Sys2Proof.Machine

end

section
/-!
PROOFS. Logic cells (06 R197 to R201): what the nets' settling and an edge of a tree can change, and what an edge gives a flip-flop.
-/
namespace Sys2Proof.Machine

/-! ## States that differ in the logic cells -/

/-- `t` differs from `s` in the array part, the Rows of logic cells and the count of open values alone. -/
def State.cellsOnly (s t : State) : Prop := ∃ a rows n, t = { s with arr := a, lcRows := rows, free := n }

namespace State.cellsOnly

variable {s t u : State}

theorem refl (s : State) : s.cellsOnly s := ⟨s.arr, s.lcRows, s.free, rfl⟩

theorem trans (h : s.cellsOnly t) (h' : t.cellsOnly u) : s.cellsOnly u := by
  obtain ⟨a, rows, n, rfl⟩ := h
  obtain ⟨a', rows', n', rfl⟩ := h'
  exact ⟨a', rows', n', rfl⟩

theorem mapArr (s : State) (f : ArraySt → ArraySt) : s.cellsOnly (s.mapArr f) := ⟨f s.arr, s.lcRows, s.free, rfl⟩

theorem setLcRow (s : State) (T row : Nat) (x : LcRow) : s.cellsOnly (s.setLcRow T row x) := ⟨s.arr, _, s.free, rfl⟩

theorem regs (h : s.cellsOnly t) : t.regs = s.regs := by
  obtain ⟨a, rows, n, rfl⟩ := h
  rfl

theorem sec (h : s.cellsOnly t) : t.sec = s.sec := by
  obtain ⟨a, rows, n, rfl⟩ := h
  rfl

theorem sameMem (h : s.cellsOnly t) : s.sameMem t := by
  obtain ⟨a, rows, n, rfl⟩ := h
  exact State.sameMem_of_eq rfl rfl rfl

theorem regsBut (h : s.cellsOnly t) (os : List Nat) : s.regsBut t os := State.regsBut_of_regs h.regs os

theorem fget (h : s.cellsOnly t) (f : Fld) : t.fget f = s.fget f := by
  obtain ⟨a, rows, n, rfl⟩ := h
  rfl

theorem fbit (h : s.cellsOnly t) (f : Fld) : t.fbit f = s.fbit f := by
  obtain ⟨a, rows, n, rfl⟩ := h
  rfl

theorem activeV (h : s.cellsOnly t) : t.activeV = s.activeV := h.fget _

theorem word (h : s.cellsOnly t) (sp : Space) (u i : Nat) : t.word sp u i = s.word sp u i := by
  obtain ⟨a, rows, n, rfl⟩ := h
  rfl

theorem residue (h : s.cellsOnly t) (cw : Nat) : t.residue cw = s.residue cw := by
  obtain ⟨a, rows, n, rfl⟩ := h
  rfl

theorem lcWord (h : s.cellsOnly t) (u i : Nat) : t.lcWord u i = s.lcWord u i := by
  rw [State.lcWord, State.ctl, h.activeV, h.word, h.residue, State.lcWord, State.ctl]

theorem netBit (h : s.cellsOnly t) (T : Nat) (nets : List LcNets) (d : Nat) (other : Bool) :
    t.netBit T nets d other = s.netBit T nets d other := by
  rw [State.netBit, State.drives, h.lcWord, State.netBit, State.drives]

theorem xbarLate (h : s.cellsOnly t) (T : Nat) : t.xbarLate T = s.xbarLate T := by
  have hsrc : t.treeSrc T = s.treeSrc T := funext fun g => by rw [State.treeSrc, h.activeV, h.fget, State.treeSrc]
  rw [State.xbarLate, State.leadTree, hsrc, State.xbarLate, State.leadTree]

theorem lcTrack (h : s.cellsOnly t) (u k : Nat) (m : LcIn) (outs : List (Option Bool)) (w : Nat) :
    t.lcTrack u k m outs w = s.lcTrack u k m outs w := by
  simp only [State.lcTrack, State.segBit, State.xbarBit, h.lcWord, h.netBit, h.xbarLate]

theorem lcFf (h : s.cellsOnly t) (u : Nat) (x : LcRow) (c : Nat) : t.lcFf u x c = s.lcFf u x c := by
  simp only [State.lcFf, h.lcWord]

theorem lcLut (h : s.cellsOnly t) (u k : Nat) (x : LcRow) (m : LcIn) (outs : List (Option Bool)) (c : Nat) :
    t.lcLut u k x m outs c = s.lcLut u k x m outs c := by
  have htab : t.lcTab u x c = s.lcTab u x c := by
    funext a
    simp only [State.lcTab, h.lcWord]
  simp only [State.lcLut, h.lcWord, h.lcTrack, htab]

theorem lcOuts (h : s.cellsOnly t) (u k : Nat) (x : LcRow) (m : LcIn) (n : Nat) : t.lcOuts u k x m n = s.lcOuts u k x m n := by
  induction n with
  | zero => rfl
  | succ n ih => simp only [State.lcOuts, ih, h.lcWord, h.lcFf, h.lcLut]

end State.cellsOnly

/-- Every Row stands in `t` as in `s` but for its nets. The Rows are read by their number, 9 · Terrace + Row. -/
def State.netsOnly (s t : State) : Prop :=
  s.cellsOnly t ∧ ∀ k, ∃ d, sget (fun _ => LcRow.init) t.lcRows k = { sget (fun _ => LcRow.init) s.lcRows k with nets := d }

namespace State.netsOnly

variable {s t u : State}

theorem refl (s : State) : s.netsOnly s := ⟨.refl s, fun _ => ⟨_, rfl⟩⟩

theorem trans (h : s.netsOnly t) (h' : t.netsOnly u) : s.netsOnly u := by
  refine ⟨h.1.trans h'.1, fun k => ?_⟩
  obtain ⟨d, hd⟩ := h.2 k
  obtain ⟨d', hd'⟩ := h'.2 k
  exact ⟨d', by rw [hd', hd]⟩

theorem foldl {α : Type} (f : State → α → State) (h : ∀ (s : State) a, s.netsOnly (f s a)) (l : List α) (s : State) :
    s.netsOnly (l.foldl f s) := by
  induction l generalizing s with
  | nil => exact .refl s
  | cons a l ih => exact (h s a).trans (ih _)

theorem lcRow (h : s.netsOnly t) (T row : Nat) : ∃ d, t.lcRow T row = { s.lcRow T row with nets := d } := h.2 _

theorem mapArr (s : State) (f : ArraySt → ArraySt) : s.netsOnly (s.mapArr f) := ⟨.mapArr s f, fun _ => ⟨_, rfl⟩⟩

theorem freshBelow (s : State) (n : Nat) : s.netsOnly (s.freshBelow n).2 := ⟨⟨s.arr, s.lcRows, _, rfl⟩, fun _ => ⟨_, rfl⟩⟩

theorem setLane (s : State) (T r l : Nat) (b : Bool) : s.netsOnly (s.setLane T r l b) := by
  refine ⟨.setLcRow s _ _ _, fun k => ?_⟩
  simp only [State.setLane, State.setLcRow, sget_sset]
  split
  · subst k
    exact ⟨_, rfl⟩
  · exact ⟨_, rfl⟩

end State.netsOnly

variable {s t : State}

/-- The nets of a Terrace settle: no Row changes but in its nets. -/
theorem State.lcRounds_netsOnly (s : State) (T : Nat) (mesh : LogicNets) (n : Nat) : s.netsOnly (s.lcRounds T mesh n) := by
  induction n generalizing s with
  | zero => exact .refl s
  | succ n ih =>
    simp only [State.lcRounds]
    split
    · exact .refl s
    · refine (State.netsOnly.foldl _ (fun t a => ?_) _ s).trans (ih _)
      split
      · exact .setLane t _ _ _ _
      · exact .refl t

theorem State.lcSettle_netsOnly (s : State) (T : Nat) (mesh : LogicNets) : s.netsOnly (s.lcSettle T mesh) := by
  unfold State.lcSettle
  refine (s.lcRounds_netsOnly T mesh 577).trans (.foldl _ (fun t a => ?_) _ _)
  dsimp only
  split
  · exact .refl t
  · exact (State.netsOnly.freshBelow t 2).trans (.setLane _ _ _ _ _)

theorem State.lcWave_netsOnly (s : State) (T g row : Nat) (mesh : LogicNets) : s.netsOnly (s.lcWave T g row mesh).2 := by
  unfold State.lcWave
  dsimp only
  split
  · dsimp only
    exact (s.lcSettle_netsOnly T mesh).trans (.mapArr _ _)
  · exact .refl s

/-! ## Blocks -/

theorem settleOuts_cellsOnly (outs : List (Option Bool)) (s : State) : s.cellsOnly (settleOuts s outs).2 := by
  induction outs generalizing s with
  | nil => exact .refl s
  | cons o os ih =>
    cases o with
    | none => exact (State.netsOnly.freshBelow s 2).1.trans (ih _)
    | some b => exact ih s

/-- Outputs that are all determined take no open value. -/
theorem settleOuts_of_all {outs : List (Option Bool)} (h : outs.all Option.isSome = true) (s : State) : settleOuts s outs = (outs, s) := by
  induction outs with
  | nil => rfl
  | cons o os ih =>
    obtain ⟨ho, hos⟩ := Bool.and_eq_true_iff.mp h
    obtain ⟨b, rfl⟩ := Option.isSome_iff_exists.mp ho
    simp only [settleOuts, ih hos]

theorem State.lcBlock_cellsOnly (s : State) (u k : Nat) (x : LcRow) (m : LcIn) : s.cellsOnly (s.lcBlock u k x m).2 :=
  settleOuts_cellsOnly _ s

theorem State.lcOuts_nets (s : State) (u k : Nat) (x : LcRow) (d : LcNets) (m : LcIn) (n : Nat) :
    s.lcOuts u k { x with nets := d } m n = s.lcOuts u k x m n := by
  induction n with
  | zero => rfl
  | succ n ih =>
    simp only [State.lcOuts, ih]
    rfl

/-! ## An edge of a tree -/

/-- The value an edge gives the flip-flop of cell `c`, as a difference to its initial value (R197, R201). -/
def cellNext (s : State) (u k : Nat) (x : LcRow) (m : LcIn) (outs : List (Option Bool)) (rst : Bool) (c : Nat) : Bool :=
  let w := s.lcWord u (4 * c + 3)
  if rst then false
  else if decide (2 ≤ x.stage) && (!bitN w 14 || (s.lcTrack u k m outs (bitsN w 15 5)).getD false)
    then ((s.lcLut u k x m outs c).getD false) != bitN w 20
  else sget zeroF x.ff c

/-- From stage 2 on and out of reset, a cell whose clock enable is unused or 1 takes the value of its table. -/
theorem cellNext_of_live (s : State) (u k : Nat) (x : LcRow) (m : LcIn) (outs : List (Option Bool)) (hstage : 2 ≤ x.stage) (c : Nat) :
    cellNext s u k x m outs false c =
      if bitN (s.lcWord u (4 * c + 3)) 14 = false ∨ (s.lcTrack u k m outs (bitsN (s.lcWord u (4 * c + 3)) 15 5)).getD false = true
      then ((s.lcLut u k x m outs c).getD false) != bitN (s.lcWord u (4 * c + 3)) 20 else sget zeroF x.ff c := by
  simp only [cellNext, hstage, decide_true, Bool.true_and, Bool.or_eq_true, Bool.not_eq_true', Bool.false_eq_true, if_false]

/-- `y` is `x` but for the flip-flops and the written bits of the tables. -/
def LcRow.flopsOnly (x y : LcRow) : Prop := ∃ f r, y = { x with ff := f, ram := r }

theorem LcRow.flopsOnly.trans {x y z : LcRow} (h : x.flopsOnly y) (h' : y.flopsOnly z) : x.flopsOnly z := by
  obtain ⟨f, r, rfl⟩ := h
  obtain ⟨f', r', rfl⟩ := h'
  exact ⟨f', r', rfl⟩

section
variable (s : State) (u k : Nat) (x : LcRow) (m : LcIn) (outs : List (Option Bool)) (rst : Bool)

theorem lcCell_flopsOnly (c : Nat) (y : LcRow) : y.flopsOnly (lcCell s u k x m outs rst c y) := by
  unfold lcCell
  dsimp only
  split
  · exact ⟨_, _, rfl⟩
  · exact ⟨_, _, rfl⟩

theorem lcCell_ff (c j : Nat) (y : LcRow) : sget zeroF (lcCell s u k x m outs rst c y).ff j =
    if j = c then cellNext s u k x m outs rst c else sget zeroF y.ff j := by
  rw [← sget_sset]
  unfold lcCell
  dsimp only
  split
  · rfl
  · rfl

/-- An edge of tree `g` at cell `i` of block `k`, which belongs to it or not. -/
def lcBlockCell (g : Nat) (y : LcRow) (i : Nat) : LcRow :=
  if bitsN (s.lcWord u (4 * (32 * k + i) + 3)) 1 2 = g then lcCell s u k x m outs rst (32 * k + i) y else y

theorem foldl_lcBlockCell_flopsOnly (g : Nat) (is : List Nat) (y : LcRow) : y.flopsOnly (is.foldl (lcBlockCell s u k x m outs rst g) y) := by
  induction is generalizing y with
  | nil => exact ⟨_, _, rfl⟩
  | cons i is ih =>
    refine LcRow.flopsOnly.trans ?_ (ih _)
    unfold lcBlockCell
    split
    · exact lcCell_flopsOnly ..
    · exact ⟨_, _, rfl⟩

/-- Cells elsewhere keep their flip-flops. -/
theorem foldl_lcBlockCell_ff_other {g c : Nat} {is : List Nat} (h : ∀ i ∈ is, 32 * k + i ≠ c) (y : LcRow) :
    sget zeroF (is.foldl (lcBlockCell s u k x m outs rst g) y).ff c = sget zeroF y.ff c := by
  induction is generalizing y with
  | nil => rfl
  | cons i is ih =>
    refine (ih (fun j hj => h j (.tail _ hj)) _).trans ?_
    unfold lcBlockCell
    split
    · rw [lcCell_ff, if_neg (h i (.head _)).symm]
    · rfl

/-- A cell of the tree that the edge reaches, or that holds it already, holds its next value. -/
theorem foldl_lcBlockCell_ff {g c : Nat} (htree : bitsN (s.lcWord u (4 * c + 3)) 1 2 = g) (is : List Nat) (y : LcRow)
    (h : (∃ i ∈ is, 32 * k + i = c) ∨ sget zeroF y.ff c = cellNext s u k x m outs rst c) :
    sget zeroF (is.foldl (lcBlockCell s u k x m outs rst g) y).ff c = cellNext s u k x m outs rst c := by
  induction is generalizing y with
  | nil => exact h.resolve_left fun ⟨_, hi, _⟩ => List.not_mem_nil hi
  | cons i is ih =>
    refine ih _ ?_
    by_cases hc : 32 * k + i = c
    · right
      rw [lcBlockCell, hc, if_pos htree, lcCell_ff, if_pos rfl]
    · obtain ⟨j, hj, hjc⟩ | hy := h
      · obtain rfl | hj := List.mem_cons.mp hj
        · exact absurd hjc hc
        · exact .inl ⟨j, hj, hjc⟩
      · right
        unfold lcBlockCell
        split
        · rw [lcCell_ff, if_neg (Ne.symm hc), hy]
        · exact hy

end

section
variable (s : State) (u g : Nat) (x : LcRow) (m : LcIn) (rst : Bool)

/-- One block more: its outputs settle, then its cells take the edge. -/
theorem lcEdge_succ (k : Nat) : lcEdge s u g x m rst (k + 1) =
    let e := lcEdge s u g x m rst k
    let b := e.2.lcBlock u k x m
    ((List.range 32).foldl (lcBlockCell b.2 u k x m b.1 rst g) e.1, b.2) := rfl

theorem lcEdge_cellsOnly (n : Nat) : s.cellsOnly (lcEdge s u g x m rst n).2 := by
  induction n with
  | zero => exact .refl s
  | succ k ih => exact ih.trans (State.lcBlock_cellsOnly _ _ _ _ _)

theorem lcEdge_flopsOnly (n : Nat) : x.flopsOnly (lcEdge s u g x m rst n).1 := by
  induction n with
  | zero => exact ⟨_, _, rfl⟩
  | succ k ih => exact ih.trans (foldl_lcBlockCell_flopsOnly _ _ _ _ _ _ _ _ _ _)

/-- What an edge gives the flip-flop of a cell of the tree, where its next value is the same in every state the blocks before it may leave. -/
theorem lcEdge_ff {c : Nat} {v : Bool} (htree : bitsN (s.lcWord u (4 * c + 3)) 1 2 = g)
    (hv : ∀ t, s.cellsOnly t → cellNext (t.lcBlock u (c / 32) x m).2 u (c / 32) x m (t.lcBlock u (c / 32) x m).1 rst c = v)
    {n : Nat} (hc : c / 32 < n) : sget zeroF (lcEdge s u g x m rst n).1.ff c = v := by
  induction n with
  | zero => exact absurd hc (Nat.not_lt_zero _)
  | succ k ih =>
    rw [lcEdge_succ]
    have hcells := lcEdge_cellsOnly s u g x m rst k
    obtain hlt | heq := Nat.lt_succ_iff_lt_or_eq.mp hc
    · refine (foldl_lcBlockCell_ff_other _ _ _ _ _ _ _ (fun i hi => ?_) _).trans (ih hlt)
      have := List.mem_range.mp hi
      omega
    · subst heq
      rw [← hv _ hcells]
      refine foldl_lcBlockCell_ff _ _ _ _ _ _ _ ?_ _ _ (.inl ⟨c % 32, List.mem_range.mpr (Nat.mod_lt _ (by decide)), Nat.div_add_mod c 32⟩)
      rw [(State.lcBlock_cellsOnly _ _ _ _ _).lcWord, hcells.lcWord, htree]

end

end Sys2Proof.Machine
end

section
/-!
PROOFS. LOGIC_CELL_CYCLE (06 R198 to R201): an edge of a tree at a Row whose configuration reads without error.
-/
namespace Sys2Proof.Machine

variable {s : State} {T : Fin 4} {row : Fin 9} {g : Fin 4} {mesh : LogicNets} {io : LogicIo}

/-- Do the cells of a Row see reset at an edge of tree `g`: before stage 3, or as the tree's rst says (R201)? -/
def State.lcRst (s : State) (T : Fin 4) (row : Fin 9) (g : Fin 4) : Bool :=
  decide ((s.lcRow T row).stage < 3) || s.fbit (F.TER_LC_TREE_V_rst T s.activeV g)

/-- A Row whose cells have taken an edge of tree `g` and stand as `y`: the edge is counted, and the fastest tree's loads the registers
of the segments and the crossbar. -/
def State.edgeCounted (s : State) (T : Fin 4) (row : Fin 9) (g : Fin 4) (m : LcIn) (y : LcRow) : LcRow :=
  { y with
    cyc := setNth y.cyc g (Nat.min (nth 0 y.cyc g + 1) 64)
    edges := setNth y.edges g (nth (0, []) s.arr.lcWaves (4 * T + g)).1
    nets := if s.leadTree T = g then s.lcClock T row m y.nets else y.nets }

/-- What a Row does at its ports and marker lanes once the nets have settled after an edge. -/
def State.ported (s : State) (T : Fin 4) (row : Fin 9) (io : LogicIo) : State :=
  let y := s.lcRow T row
  s.setLcRow T row { y with
    outq := io.put.foldl (fun q f => lcPut s.arr.runAc q f.port (s.portFlit T row f)) y.outq
    lanes := s.markLanes T row io.marks }

theorem logicCellCycleEff_of_runs (hpark : s.pwr.park = false) (hgood : s.rowGood T row = true) (hruns : s.treeRuns T g = true)
    (hsee : s.lcSee T row = (false, s)) {m : LcIn} {w v : State} {y : LcRow} (hw : s.lcWave T g row mesh = (m, w))
    (hy : lcEdge w (T * 9 + row) g (w.lcRow T row) m (w.lcRst T row g) 64 = (y, v)) :
    logicCellCycleEff s T row g mesh io =
      if y.stage = 0 then (v.setLcRow T row (v.edgeCounted T row g m y)).lcSettle T mesh
      else io.took.foldl (fun s j => lcTake s T row j) (((v.setLcRow T row (v.edgeCounted T row g m y)).lcSettle T mesh).ported T row io) := by
  have hgo : ¬ (s.pwr.park || !s.rowGood T row || !s.treeRuns T g) = true := by simp [hpark, hgood, hruns]
  unfold logicCellCycleEff
  rw [hsee]
  refine (if_neg hgo).trans ((if_neg Bool.false_ne_true).trans ?_)
  conv_lhs => zeta
  rw [hw]
  dsimp only
  rw [State.lcRst] at hy
  rw [hy]
  rfl

end Sys2Proof.Machine
end

section
/-!
PROOFS. What LOGIC_CELL_CYCLE leaves of the Row: its count of edges, its flip-flops and its marker lanes.
-/
namespace Sys2Proof.Machine

variable {s t w : State} {T : Fin 4} {row : Fin 9} {g : Fin 4} {mesh : LogicNets} {io : LogicIo}

theorem State.lcRow_setLcRow_same (s : State) (T row : Nat) (x : LcRow) : (s.setLcRow T row x).lcRow T row = x := sget_sset_same _ _ _ _

theorem State.netsOnly.lcRst (h : s.netsOnly w) (T : Fin 4) (row : Fin 9) (g : Fin 4) : w.lcRst T row g = s.lcRst T row g := by
  obtain ⟨d, hd⟩ := h.lcRow T row
  rw [State.lcRst, hd, h.1.fbit, h.1.activeV, State.lcRst]

/-- What the cells of a Row see and make of an edge of tree `g`. -/
def State.edge (s : State) (T : Fin 4) (row : Fin 9) (g : Fin 4) (mesh : LogicNets) : LcRow × State :=
  lcEdge (s.lcWave T g row mesh).2 (T * 9 + row) g ((s.lcWave T g row mesh).2.lcRow T row) (s.lcWave T g row mesh).1 (s.lcRst T row g) 64

theorem State.edge_cellsOnly : s.cellsOnly (s.edge T row g mesh).2 :=
  (s.lcWave_netsOnly T g row mesh).1.trans (lcEdge_cellsOnly ..)

theorem State.edge_row : ∃ f r d, (s.edge T row g mesh).1 = { s.lcRow T row with ff := f, ram := r, nets := d } := by
  obtain ⟨d, hd⟩ := (s.lcWave_netsOnly T g row mesh).lcRow T row
  obtain ⟨f, r, hy⟩ := lcEdge_flopsOnly (s.lcWave T g row mesh).2 (T * 9 + row) g ((s.lcWave T g row mesh).2.lcRow T row)
    (s.lcWave T g row mesh).1 (s.lcRst T row g) 64
  exact ⟨f, r, d, by rw [State.edge, hy, hd]⟩

/-- What an edge gives a cell of the tree, where that is the same in every state that differs in the logic cells alone. -/
theorem State.edge_ff {c : Nat} {b : Bool} (hc : c < 2048) (htree : bitsN (s.lcWord (T * 9 + row) (4 * c + 3)) 1 2 = g)
    (hb : ∀ t d, s.cellsOnly t →
      let m := (s.lcWave T g row mesh).1
      let x : LcRow := { s.lcRow T row with nets := d }
      let out := t.lcBlock (T * 9 + row) (c / 32) x m
      cellNext out.2 (T * 9 + row) (c / 32) x m out.1 (s.lcRst T row g) c = b) :
    sget zeroF (s.edge T row g mesh).1.ff c = b := by
  have hwave := s.lcWave_netsOnly T g row mesh
  obtain ⟨d, hd⟩ := hwave.lcRow T row
  rw [State.edge, hd]
  exact lcEdge_ff _ _ _ _ _ _ ((congrArg (bitsN · 1 2) (hwave.1.lcWord _ _)).trans htree) (fun t ht => hb t d (hwave.1.trans ht)) (by omega)

/-- In reset every cell of the tree takes its initial value. -/
theorem State.edge_ff_of_rst (hrst : s.lcRst T row g = true) {c : Nat} (hc : c < 2048)
    (htree : bitsN (s.lcWord (T * 9 + row) (4 * c + 3)) 1 2 = g) : sget zeroF (s.edge T row g mesh).1.ff c = false :=
  State.edge_ff hc htree fun _ _ _ => if_pos hrst

/-- Where the block's outputs are all determined, a cell of the tree takes the value these give it. -/
theorem State.edge_ff_of_all {c : Nat} (hc : c < 2048) (htree : bitsN (s.lcWord (T * 9 + row) (4 * c + 3)) 1 2 = g)
    (hall : (s.lcOuts (T * 9 + row) (c / 32) (s.lcRow T row) (s.lcWave T g row mesh).1 33).all Option.isSome = true) :
    sget zeroF (s.edge T row g mesh).1.ff c = cellNext s (T * 9 + row) (c / 32) (s.lcRow T row) (s.lcWave T g row mesh).1
      (s.lcOuts (T * 9 + row) (c / 32) (s.lcRow T row) (s.lcWave T g row mesh).1 33) (s.lcRst T row g) c := by
  refine State.edge_ff hc htree fun t d ht => ?_
  dsimp only
  rw [State.lcBlock, ht.lcOuts, State.lcOuts_nets, settleOuts_of_all hall]
  simp only [cellNext, ht.lcWord, ht.lcTrack, ht.lcLut]
  rfl

section
variable (hpark : s.pwr.park = false) (hgood : s.rowGood T row = true) (hruns : s.treeRuns T g = true)
variable (hsee : s.lcSee T row = (false, s))
include hpark hgood hruns hsee

/-- An edge of a running tree at a good Row whose configuration reads without error: with the edge counted and the nets settled, a Row at stage 0
is done, and any other goes on to its ports. -/
theorem logicCellCycleEff_edge (mesh : LogicNets) (io : LogicIo) : ∃ t, s.cellsOnly t ∧
    (t.lcRow T row).stage = (s.lcRow T row).stage ∧ (t.lcRow T row).outq = (s.lcRow T row).outq ∧
    (t.lcRow T row).cyc = setNth (s.lcRow T row).cyc g (Nat.min (nth 0 (s.lcRow T row).cyc g + 1) 64) ∧
    (t.lcRow T row).ff = (s.edge T row g mesh).1.ff ∧
    logicCellCycleEff s T row g mesh io =
      if (s.lcRow T row).stage = 0 then t else io.took.foldl (fun s j => lcTake s T row j) (t.ported T row io) := by
  obtain ⟨f, r, d, hy⟩ := s.edge_row (T := T) (row := row) (g := g) (mesh := mesh)
  have hwave := s.lcWave_netsOnly T g row mesh
  have hedge : lcEdge (s.lcWave T g row mesh).2 (T * 9 + row) g ((s.lcWave T g row mesh).2.lcRow T row) (s.lcWave T g row mesh).1
      ((s.lcWave T g row mesh).2.lcRst T row g) 64 = s.edge T row g mesh := by rw [hwave.lcRst, State.edge]
  have hrun := logicCellCycleEff_of_runs (io := io) hpark hgood hruns hsee Prod.mk.eta.symm (hedge.trans Prod.mk.eta.symm)
  have hcells := s.edge_cellsOnly (T := T) (row := row) (g := g) (mesh := mesh)
  generalize (s.edge T row g mesh).2 = v at hrun hcells
  have hset := State.lcSettle_netsOnly (v.setLcRow T row (v.edgeCounted T row g (s.lcWave T g row mesh).1 (s.edge T row g mesh).1)) T mesh
  obtain ⟨d', hd'⟩ := hset.lcRow T row
  rw [State.lcRow_setLcRow_same] at hd'
  have hstage : (s.edge T row g mesh).1.stage = (s.lcRow T row).stage := by rw [hy]
  have houtq : (s.edge T row g mesh).1.outq = (s.lcRow T row).outq := by rw [hy]
  have hcyc : (s.edge T row g mesh).1.cyc = (s.lcRow T row).cyc := by rw [hy]
  rw [hstage] at hrun
  refine ⟨_, (hcells.trans (.setLcRow v _ _ _)).trans hset.1, ?_, ?_, ?_, ?_, hrun⟩
  all_goals rw [hd', State.edgeCounted]
  · exact hstage
  · exact houtq
  · rw [hcyc]

end

theorem State.lcRow_ported (s : State) (T : Fin 4) (row : Fin 9) (io : LogicIo) : (s.ported T row io).lcRow T row =
    { s.lcRow T row with
      outq := io.put.foldl (fun q f => lcPut s.arr.runAc q f.port (s.portFlit T row f)) (s.lcRow T row).outq
      lanes := s.markLanes T row io.marks } :=
  State.lcRow_setLcRow_same s T row _

theorem State.lcNets_ported (s : State) (T : Fin 4) (row : Fin 9) (io : LogicIo) : (s.ported T row io).lcNets T = s.lcNets T := by
  refine List.map_congr_left fun r _ => ?_
  simp only [State.ported, State.lcRow, State.setLcRow, sget_sset]
  split
  · rename_i hr
    rw [hr]
  · rfl

theorem State.markLanes_ported (s : State) (T : Fin 4) (row : Fin 9) (io : LogicIo) (marks : BitVec 16) :
    (s.ported T row io).markLanes T row marks = s.markLanes T row marks := by
  have hcells : s.cellsOnly (s.ported T row io) := .setLcRow s _ _ _
  have hlane : (s.ported T row io).laneBit T row = s.laneBit T row := by
    funext d other
    rw [State.laneBit, State.lcNets_ported, hcells.netBit, State.laneBit]
  rw [State.markLanes, hlane, State.markLanes]

theorem exec_logicCellCycle (T : Fin 4) (row : Fin 9) (g : Fin 4) (mesh : LogicNets) (io : LogicIo) (s : State) :
    exec (.logicCellCycle T row g mesh io) s = .next (logicCellCycleEff s T row g mesh io) := rfl

end Sys2Proof.Machine
end

section
/-!
PROOFS. A sample of the probe (06 R203): the bus is stored at the next index of the circle, and a running capture looks for its trigger or counts.
-/
namespace Sys2Proof.Machine

variable {s t : State}

theorem State.probeLane_cellsOnly (s : State) (u : Nat) (x : LcRow) (m : LcIn) (i : Nat) : s.cellsOnly (s.probeLane u x m i).2 := by
  unfold State.probeLane
  dsimp only
  split
  · exact .refl s
  · exact s.lcBlock_cellsOnly u _ x m

theorem State.probeBus_cellsOnly (s : State) (u : Nat) (x : LcRow) (m : LcIn) (n : Nat) : s.cellsOnly (s.probeBus u x m n).2 := by
  induction n with
  | zero => exact .refl s
  | succ n ih => exact ih.trans (State.probeLane_cellsOnly _ u x m n)

theorem State.mapSec_mapSec (s : State) (f f' : SecSt → SecSt) : (s.mapSec f).mapSec f' = s.mapSec fun x => f' (f x) := rfl

theorem State.mapSec_congr {f f' : SecSt → SecSt} (h : f s.sec = f' s.sec) : s.mapSec f = s.mapSec f' := by
  rw [State.mapSec, h, State.mapSec]

theorem State.fget_mapSec (s : State) (f : SecSt → SecSt) (fld : Fld) : (s.mapSec f).fget fld = s.fget fld := rfl

/-- The index of the circle after the last one stored (log 77). -/
def SecSt.probeNext (x : SecSt) : Nat := if 65535 ≤ x.probeLast then 0 else x.probeLast + 1

/-- The balls register the bus and a running capture stores it. -/
def SecSt.stored (x : SecSt) (ball bus : Nat) : SecSt :=
  { x with probeBall := ball, probe := sset zeroN x.probe x.probeNext bus, probeLast := x.probeNext }

/-- A triggered capture counts its post samples; one that is not looks for its trigger. -/
def SecSt.looked (x : SecSt) (hit : Bool) (post : Nat) : SecSt :=
  if x.probeTrig then { x with probeLeft := x.probeLeft - 1, probeRun := x.probeLeft != 1, probeDone := x.probeLeft == 1 }
  else if hit then x.trigger post else x

/-- Do the masked bits of the bus match? -/
def State.probeHit (s : State) (bus : Nat) : Bool :=
  let mask := s.fget F.HUB_PRB_MASK_LO_value + 2 ^ 32 * s.fget F.HUB_PRB_MASK_HI_value
  let want := s.fget F.HUB_PRB_MATCH_LO_value + 2 ^ 32 * s.fget F.HUB_PRB_MATCH_HI_value
  mask != 0 && Nat.land bus mask == Nat.land want mask

theorem State.probeHit_iff (s : State) (bus : Nat) : s.probeHit bus = true ↔
    s.fget F.HUB_PRB_MASK_LO_value + 2 ^ 32 * s.fget F.HUB_PRB_MASK_HI_value ≠ 0 ∧
      Nat.land bus (s.fget F.HUB_PRB_MASK_LO_value + 2 ^ 32 * s.fget F.HUB_PRB_MASK_HI_value) =
        Nat.land (s.fget F.HUB_PRB_MATCH_LO_value + 2 ^ 32 * s.fget F.HUB_PRB_MATCH_HI_value)
          (s.fget F.HUB_PRB_MASK_LO_value + 2 ^ 32 * s.fget F.HUB_PRB_MASK_HI_value) := by
  simp only [State.probeHit, Bool.and_eq_true, bne_iff_ne, beq_iff_eq]

theorem SecSt.looked_of_trig {x : SecSt} (h : x.probeTrig = true) (hit : Bool) (post : Nat) :
    x.looked hit post = { x with probeLeft := x.probeLeft - 1, probeRun := x.probeLeft != 1, probeDone := x.probeLeft == 1 } := if_pos h

theorem SecSt.looked_of_untrig {x : SecSt} (h : x.probeTrig = false) (hit : Bool) (post : Nat) :
    x.looked hit post = if hit then x.trigger post else x := if_neg (Bool.eq_false_iff.mp h)

/-- What looking for the trigger leaves of the circle. -/
theorem SecSt.looked_circle (x : SecSt) (hit : Bool) (post : Nat) :
    (x.looked hit post).probe = x.probe ∧ (x.looked hit post).probeLast = x.probeLast := by
  cases htrig : x.probeTrig with
  | true => rw [SecSt.looked_of_trig htrig]; exact ⟨rfl, rfl⟩
  | false => rw [SecSt.looked_of_untrig htrig]; cases hit <;> exact ⟨rfl, rfl⟩

/-- The capture is triggered exactly when the masked bits match. -/
theorem SecSt.looked_probeTrig {x : SecSt} (h : x.probeTrig = false) (hit : Bool) (post : Nat) : (x.looked hit post).probeTrig = hit := by
  rw [SecSt.looked_of_untrig h]
  cases hit with
  | true => rfl
  | false => exact h

/-- The last post sample ends the capture. -/
theorem SecSt.looked_last {x : SecSt} (htrig : x.probeTrig = true) (hlast : x.probeLeft = 1) (hit : Bool) (post : Nat) :
    (x.looked hit post).probeRun = false ∧ (x.looked hit post).probeDone = true := by
  rw [SecSt.looked_of_trig htrig, hlast]
  exact ⟨rfl, rfl⟩

/-- The probe bus as a sample finds it: the nets settle, then the lanes of the selected Row are read. -/
def State.sampledBus (s : State) (mesh : LogicNets) : Nat × State :=
  let T := s.fget F.HUB_PRB_CTRL_terrace
  let z := s.lcSettle T mesh
  z.probeBus (T * 9 + s.fget F.HUB_PRB_CTRL_row) (z.lcRow T (s.fget F.HUB_PRB_CTRL_row)) ⟨z.lcNets T, mesh⟩ 64

theorem State.sampledBus_cellsOnly (s : State) (mesh : LogicNets) : s.cellsOnly (s.sampledBus mesh).2 :=
  (s.lcSettle_netsOnly _ mesh).1.trans (State.probeBus_cellsOnly ..)

/-- A sample of a running capture. -/
theorem probeSample_of_runs {mesh : LogicNets} (hclocked : s.probeClocked = true) (hrow : s.fget F.HUB_PRB_CTRL_row < 9)
    (hruns : s.sec.probeRun = true) : ∃ ball, probeSample s mesh = (s.sampledBus mesh).2.mapSec fun x =>
      (x.stored ball (s.sampledBus mesh).1).looked (s.probeHit (s.sampledBus mesh).1) (s.fget F.HUB_PRB_CTRL_post) := by
  have hgo : ¬ (!s.probeClocked || decide (9 ≤ s.fget F.HUB_PRB_CTRL_row)) = true := by simp [hclocked, hrow]
  have hcells := s.sampledBus_cellsOnly mesh
  rcases hbus : s.sampledBus mesh with ⟨bus, z⟩
  rw [hbus] at hcells
  rw [State.sampledBus] at hbus
  dsimp only at hcells ⊢
  have hrun : ¬ (!z.sec.probeRun) = true := by simp [hcells.sec, hruns]
  have hhit : s.probeHit bus = z.probeHit bus := by simp only [State.probeHit, hcells.fget]
  unfold probeSample
  refine ⟨if z.probeSlow then bus % 256 else 0, (if_neg hgo).trans ?_⟩
  conv_lhs => zeta
  rw [hbus]
  refine (if_neg hrun).trans ?_
  rw [hhit, ← hcells.fget]
  cases htrig : z.sec.probeTrig with
  | true =>
    have hlook := SecSt.looked_of_trig (x := z.sec.stored (if z.probeSlow then bus % 256 else 0) bus) htrig (z.probeHit bus)
      (z.fget F.HUB_PRB_CTRL_post)
    refine (if_pos htrig).trans ?_
    rw [State.mapSec_mapSec, State.mapSec_mapSec]
    exact State.mapSec_congr hlook.symm
  | false =>
    have hlook := SecSt.looked_of_untrig (x := z.sec.stored (if z.probeSlow then bus % 256 else 0) bus) htrig (z.probeHit bus)
      (z.fget F.HUB_PRB_CTRL_post)
    refine (if_neg (Bool.eq_false_iff.mp htrig)).trans ?_
    by_cases hmatch : z.probeHit bus = true
    · refine (if_pos ?_).trans ?_
      · simp only [State.fget_mapSec]
        exact (z.probeHit_iff bus).mp hmatch
      · rw [State.mapSec_mapSec, State.mapSec_mapSec]
        exact State.mapSec_congr (hlook.trans (if_pos hmatch)).symm
    · refine (if_neg ?_).trans ?_
      · simp only [State.fget_mapSec]
        exact mt (z.probeHit_iff bus).mpr hmatch
      · rw [State.mapSec_mapSec]
        exact State.mapSec_congr (hlook.trans (if_neg hmatch)).symm

/-- A sample of a running capture stores the bus at the next index of the circle and leaves the rest of the circle, registers and memory. -/
theorem probeSample_stores {mesh : LogicNets} (hclocked : s.probeClocked = true) (hrow : s.fget F.HUB_PRB_CTRL_row < 9)
    (hruns : s.sec.probeRun = true) : s.regsBut (probeSample s mesh) [] ∧ s.sameMem (probeSample s mesh) ∧
      ∃ ball, (probeSample s mesh).sec =
        (s.sec.stored ball (s.sampledBus mesh).1).looked (s.probeHit (s.sampledBus mesh).1) (s.fget F.HUB_PRB_CTRL_post) := by
  obtain ⟨ball, hsample⟩ := probeSample_of_runs (mesh := mesh) hclocked hrow hruns
  have hcells := s.sampledBus_cellsOnly mesh
  generalize s.sampledBus mesh = b at hsample hcells ⊢
  have hsec := hcells.sec
  rw [hsample]
  refine ⟨hcells.regsBut [], hcells.sameMem, ball, ?_⟩
  rw [← hsec]
  rfl

theorem exec_probeTrigger_one (mesh : LogicNets) (s : State) : exec (.probeTrigger [mesh]) s = .next (probeSample s mesh) := rfl

theorem exec_probeCaptureDone_one (mesh : LogicNets) (s : State) : exec (.probeCaptureDone [mesh]) s = .next (probeSample s mesh) := rfl

end Sys2Proof.Machine
end

section
/-!
PROOFS. O52: writes of HUB.PRB_CTRL, samples of the probe, and edges of a tree at a Row of logic cells.
-/

open Sys2Proof Sys2Proof.Machine

/-- Settles O52, clause by clause: a write of HUB.PRB_CTRL is one update of the capture; a sample changes the capture alone beside the logic
cells' nets; and an edge goes through the blocks of a Row, where a cell's next value depends on the words and on the outputs before the edge. -/
theorem probeAndLogicCells : Obligations.ProbeAndLogicCells := by
  unfold Obligations.ProbeAndLogicCells
  refine ⟨?arm, ?force, ?closed, ?sample, ?held, ?released⟩
  case arm =>
    intro v s hhost hopen hidle hforce
    have harm : bitW (v ||| 1) 0 = true := by simp [bitW]
    have hnot : bitW (v ||| 1) 1 = false := by simpa [bitW] using hforce
    have hsec : (probeCtrlEff s .bar0 (v ||| 1)).sec =
        { s.sec with probeRun := true, probeTrig := false, probeDone := false, probeLeft := 0 } := by
      rw [probeCtrlEff_arm hopen harm, hnot]
      simp [SecSt.armWrite, SecSt.armed, hidle]
    obtain ⟨hreg, hregs, hmem⟩ := probeCtrlEff_arm_frame hopen harm
    refine ⟨_, exec_probeArm hhost v, ?_⟩
    rw [hsec]
    exact ⟨rfl, rfl, rfl, rfl, hreg, hregs, hmem⟩
  case force =>
    intro v s hhost hopen harm hpost htrig
    have harm' : bitW (v ||| 2) 0 = true := by simpa [bitW] using harm
    have hforce : bitW (v ||| 2) 1 = true := by simp [bitW]
    have hnot : s.sec.armed.probeTrig = false := by
      unfold SecSt.armed
      split
      · exact htrig ‹_›
      · rfl
    have hsec : (probeCtrlEff s .bar0 (v ||| 2)).sec = s.sec.armed.trigger (bitsW v 16 16) := by
      rw [probeCtrlEff_arm hopen harm', hforce, probeCtrl_post]
      simp [SecSt.armWrite, hnot]
    have hprobe : s.sec.armed.probe = s.sec.probe := by
      unfold SecSt.armed
      split <;> rfl
    obtain ⟨-, hregs, hmem⟩ := probeCtrlEff_arm_frame hopen harm'
    refine ⟨_, exec_probeForce hhost v, ?_⟩
    rw [hsec]
    exact ⟨rfl, bne_iff_ne.mpr hpost, rfl, hprobe, hregs, hmem⟩
  case closed =>
    intro v s hhost hclosed
    obtain ⟨hlogs, hregs⟩ := probeCtrlEff_closed hclosed (v ||| 1)
    obtain ⟨-, -, -, -, -, hsec, -⟩ := hlogs.units
    exact ⟨_, exec_probeArm hhost v, hsec, hregs _ (by decide), hlogs.sameMem⟩
  case sample =>
    intro mesh s hclocked hrow hruns u z bus i mask want
    obtain ⟨hregs, hmem, ball, hsec⟩ := probeSample_stores (mesh := mesh) hclocked hrow hruns
    have hbus : bus = (s.sampledBus mesh).1 := by rw [State.sampledBus]
    obtain ⟨hprobe, hlast⟩ := (s.sec.stored ball (s.sampledBus mesh).1).looked_circle (s.probeHit (s.sampledBus mesh).1)
      (s.fget F.HUB_PRB_CTRL_post)
    rw [← hbus] at hsec hprobe hlast
    clear_value bus
    have hat : sget zeroN (probeSample s mesh).sec.probe i = bus := by
      rw [hsec, hprobe]
      exact sget_sset_same _ _ _ _
    have hnext : (probeSample s mesh).sec.probeLast = i := by
      rw [hsec, hlast]
      rfl
    refine ⟨⟨_, exec_probeTrigger_one mesh s, hat, hnext, fun j hj => ?_, hregs, hmem, fun htrig => ?_⟩, fun htrig hleft => ?_⟩
    · rw [hsec, hprobe]
      exact sget_sset_other _ _ _ hj
    · rw [hsec]
      exact SecSt.looked_probeTrig (x := s.sec.stored ball bus) htrig _ _
    · obtain ⟨hrun, hdone⟩ := SecSt.looked_last (x := s.sec.stored ball bus) htrig hleft (s.probeHit bus) (s.fget F.HUB_PRB_CTRL_post)
      rw [← hsec] at hrun hdone
      exact ⟨_, exec_probeCaptureDone_one mesh s, hrun, hdone, hat, hnext, hregs, hmem⟩
  case held =>
    intro T row g mesh io s hpark hgood hruns hsee hstage hshaped
    obtain ⟨-, -, -, -, hlen⟩ := hshaped
    obtain ⟨t, hcells, hst, houtq, hcyc, hff, hrun⟩ := logicCellCycleEff_edge hpark hgood hruns hsee mesh io
    rw [if_pos hstage] at hrun
    refine ⟨t, (exec_logicCellCycle ..).trans (congrArg Host.Outcome.next hrun), ?_, hst.trans hstage, houtq, hcells.regsBut [], hcells.sameMem,
      fun c hc htree => ?_⟩
    · rw [hcyc]
      exact nth_setNth_same _ _ _ _ (by rw [hlen]; exact g.isLt)
    · rw [hff]
      exact State.edge_ff_of_rst (by simp [State.lcRst, hstage]) hc htree
  case released =>
    intro T row g mesh io c s hpark hgood hruns hsee hstage hrst _ htook hc u x w m outs htree hall
    obtain ⟨t, hcells, hst, -, -, hff, hrun⟩ := logicCellCycleEff_edge hpark hgood hruns hsee mesh io
    rw [if_neg (by rw [hstage]; decide), htook] at hrun
    have hported : s.cellsOnly (t.ported T row io) := hcells.trans (.setLcRow t _ _ _)
    have hlive : s.lcRst T row g = false := by simp [State.lcRst, hstage, hrst]
    refine ⟨t.ported T row io, (exec_logicCellCycle ..).trans (congrArg Host.Outcome.next hrun), ?_, ?_, hported.regsBut [], hported.sameMem, ?_⟩
    · rw [State.lcRow_ported, hst, hstage]
    · rw [State.markLanes_ported, State.lcRow_ported]
    · rw [State.lcRow_ported, hff, State.edge_ff_of_all hc htree hall, hlive]
      exact cellNext_of_live _ _ _ _ _ _ (by rw [hstage]; decide) c

end

section
/-!
PROOFS. What a PLACE rests on (06 R385; 07 R472; 12 R340): marking a Vintage unplaced that is not placed, and reading HyperRAM blocks without error.
-/
namespace Sys2Proof.Machine

/-! ## Unplacing what is not placed (R385, R472) -/

/-- Where every Row that kept its contents still does, none loses them (R385). -/
theorem State.settleRows_of_kept {s t : State} (h : ∀ n, s.rowKept n = true → t.rowKept n = true) : s.settleRows t = t := by
  have hoff : ((List.range 36).filter fun n => s.rowKept n && !t.rowKept n) = [] :=
    List.filter_eq_nil_iff.mpr fun n _ => by
      cases hs : s.rowKept n with
      | false => simp
      | true => simp [h n hs]
  simp [State.settleRows, hoff]

/-- Whether a Row keeps its contents rests on the active Vintage, the placed ones, the tiles they use, a PLACE and a switch in hand (R385, R386). -/
theorem State.rowKept_congr {s t : State} (hhrm : t.hrm = s.hrm) (hsw : t.sw = s.sw) (hpwr : t.pwr = s.pwr) (hactive : t.activeV = s.activeV)
    (hplaced : ∀ v, t.isPlaced v = s.isPlaced v) (huses : ∀ r v, t.usesTile r v = s.usesTile r v) (n : Nat) :
    t.rowKept n = s.rowKept n := by
  simp only [State.rowKept, State.rowDriven, State.vUsesRow, hhrm, hsw, hpwr, hactive, hplaced, huses]

/-- A write in HUB.VNT_STATUS that leaves the active Vintage and the placed ones leaves the Rows as they are kept. -/
theorem State.rowKept_fset {s : State} {f : Fld} {x : Nat} (hf : f.off = R.HUB_VNT_STATUS)
    (hactive : (s.fset f x).fget F.HUB_VNT_STATUS_active = s.fget F.HUB_VNT_STATUS_active)
    (hplaced : (s.fset f x).fget F.HUB_VNT_STATUS_placed = s.fget F.HUB_VNT_STATUS_placed) (n : Nat) :
    (s.fset f x).rowKept n = s.rowKept n := by
  have huse (r : TileRef) : (F.MX_SEQ_CTRL_use_v (tb r)).off ≠ f.off := by
    have := rowBase_le_tb r
    rw [hf]
    simp only [F.MX_SEQ_CTRL_use_v, R.MX_SEQ_CTRL, R.HUB_VNT_STATUS]
    omega
  exact State.rowKept_congr (s := s) (t := s.fset f x) rfl rfl rfl hactive (fun w => congrArg (bitN · w) hplaced)
    (fun r w => congrArg (bitN · w) (s.fget_fset_elsewhere f (F.MX_SEQ_CTRL_use_v (tb r)) x (huse r))) n

/-- To mark a Vintage unplaced that is not placed clears its compatibility level and writes its placed bit as it is; no Row loses its contents. -/
theorem State.unplace_of_unplaced {s : State} {v : Nat} (h : s.isPlaced v = false) :
    s.unplace v = (s.fset F.HUB_VNT_STATUS_placed (s.fget F.HUB_VNT_STATUS_placed)).fset (F.HUB_VNT_STATUS_compat v) 0 := by
  have hbit : s.fsetBit F.HUB_VNT_STATUS_placed v false = s.fset F.HUB_VNT_STATUS_placed (s.fget F.HUB_VNT_STATUS_placed) := by
    simp [State.fsetBit, show bitN (s.fget F.HUB_VNT_STATUS_placed) v = false from h]
  have hplaced (n : Nat) := State.rowKept_fset (s := s) (f := F.HUB_VNT_STATUS_placed) (x := s.fget F.HUB_VNT_STATUS_placed) rfl
    (s.fget_fset_beside _ _ _ rfl (by decide) (.inr (by decide)))
    ((s.fget_fset_same _ _ (by decide)).trans (Nat.mod_eq_of_lt (s.fget_lt _))) n
  have hlow (n : Nat) (hn : n ≤ 16) : n ≤ (F.HUB_VNT_STATUS_compat v).lo := hn.trans (Nat.le_add_right 16 (2 * v))
  have hcompat (t : State) (n : Nat) : (t.fset (F.HUB_VNT_STATUS_compat v) 0).rowKept n = t.rowKept n :=
    State.rowKept_fset (f := F.HUB_VNT_STATUS_compat v) rfl
      (t.fget_fset_beside (F.HUB_VNT_STATUS_compat v) F.HUB_VNT_STATUS_active 0 rfl (by decide) (.inl (hlow 6 (by decide))))
      (t.fget_fset_beside (F.HUB_VNT_STATUS_compat v) F.HUB_VNT_STATUS_placed 0 rfl (by decide) (.inl (hlow 4 (by decide)))) n
  rw [State.unplace, hbit]
  exact State.settleRows_of_kept fun n hkept => (hcompat _ n).trans ((hplaced n).trans hkept)

/-! ## Reading HyperRAM without errors (R340) -/

theorem State.poisoned_of_nil {s : State} (hpoison : s.poison = []) (hupset : s.upset = []) (a : Nat) : s.poisoned a = false := by
  simp [State.poisoned, State.copiesAt, hpoison, hupset, sget, zeroF, zeroN]

/-- Blocks without error and without poison read as the bytes they hold and leave the state as it is. -/
theorem readBlocks_clean {s : State} (hclean : ∀ a, s.upsetAt a = 0) (hgood : ∀ a, s.poisoned a = false) (src a n : Nat) :
    readBlocks s src a n = (s.bytesAt a (32 * n), false, s) := by
  induction n generalizing a with
  | zero => rfl
  | succ n ih =>
    have hfirst : readBlock s a src = (s.bytesAt a 32, false, s) := by simp only [readBlock, hclean, hgood, if_true]
    simp only [readBlocks, hfirst, ih, Nat.mul_add_one, Nat.add_comm (32 * n) 32, State.bytesAt_add, Bool.or_self]

/-- So do the bytes from a block's first. -/
theorem readHyper_clean {s : State} (hclean : ∀ a, s.upsetAt a = 0) (hgood : ∀ a, s.poisoned a = false) {a n : Nat} (halign : a % 32 = 0)
    (hn : 0 < n) (src : Nat) : readHyper s a n src = (s.bytesAt a n, false, s) := by
  obtain ⟨m, hm⟩ : ∃ m, 32 * ((a + n - 1) / 32 - a / 32 + 1) = n + m := ⟨32 * ((a + n - 1) / 32 - a / 32 + 1) - n, by omega⟩
  have hlo : a / 32 * 32 = a := by omega
  simp only [readHyper, if_neg hn.ne', readBlocks_clean hclean hgood, hlo, hm, Nat.sub_self, List.drop_zero, State.bytesAt_add,
    List.take_left' (State.bytesAt_length s a n)]

end Sys2Proof.Machine
end

section
/-!
PROOFS. Step 9 of PLACE (07 R227; 08 R236): what its writes leave alone, and the Graft commands that complete when another head is bound.
-/
namespace Sys2Proof.Machine

/-! ## The per-Vintage registers -/

/-- `t` differs from `s` at most in registers and in indirect words with their marks and error patterns. -/
def State.configOnly (s t : State) : Prop := ∃ r w p u, t = { s with regs := r, words := w, poison := p, upset := u }

namespace State.configOnly

variable {s t u : State}

theorem refl (s : State) : s.configOnly s := ⟨_, _, _, _, rfl⟩

theorem trans (h : s.configOnly t) (h' : t.configOnly u) : s.configOnly u := by
  obtain ⟨_, _, _, _, rfl⟩ := h
  obtain ⟨_, _, _, _, rfl⟩ := h'
  exact ⟨_, _, _, _, rfl⟩

theorem ite {c : Prop} [Decidable c] (ht : s.configOnly t) (hu : s.configOnly u) : s.configOnly (if c then t else u) := by
  split <;> assumption

theorem foldl {α : Type} {f : State → α → State} (h : ∀ (s : State) a, s.configOnly (f s a)) (l : List α) (s : State) :
    s.configOnly (l.foldl f s) := by
  induction l generalizing s with
  | nil => exact refl s
  | cons a l ih => exact (h s a).trans (ih (f s a))

theorem setReg (s : State) (o : Nat) (v : Word) : s.configOnly (s.setReg o v) := ⟨_, _, _, _, rfl⟩

theorem putWords (s : State) (sp : Space) (u lo n : Nat) (vals : List Nat) : s.configOnly (s.putWords sp u lo n vals) :=
  trans ⟨_, _, _, _, rfl⟩ (foldl (fun _ _ => ⟨_, _, _, _, rfl⟩) _ _)

theorem grf (h : s.configOnly t) : t.grf = s.grf := by
  obtain ⟨_, _, _, _, rfl⟩ := h
  rfl

end State.configOnly

theorem State.remapRows_configOnly (s : State) (v mask : Nat) : s.configOnly (s.remapRows v mask) := .foldl (fun t _ => .setReg t _ _) _ s

theorem State.writeTile_configOnly (s : State) (v : Nat) (r : TileRef) (x : PSec) : s.configOnly (s.writeTile v r x) := by
  have hput := State.configOnly.putWords
  have hshared := ((((hput s .param (tileKey r) (v * 0x40) 64 (x.words 0 64)).trans
    (hput _ .param (tileKey r) (0x100 + v * 4) 4 (x.words 64 4))).trans
    (hput _ .param (tileKey r) (0x110 + v * 0x10) 16 (x.words 68 16))).trans
    (hput _ .param (tileKey r) (0x150 + v * 0x10) 16 (x.words 84 16))).trans
    (hput _ .param (tileKey r) (0x190 + v * 4) 4 (x.words 100 4))
  unfold State.writeTile
  cases kindOf r.k with
  | rk => exact hshared
  | sf => exact ((hshared.trans (hput _ _ _ _ _ _)).trans (hput _ _ _ _ _ _)).trans (hput _ _ _ _ _ _)
  | mx => exact hshared.trans (hput _ _ _ _ _ _)
  | mm => exact hshared.trans (hput _ _ _ _ _ _)

theorem State.writeTiles_configOnly (s : State) (v : Nat) (secs : List PSec) : s.configOnly (s.writeTiles v secs) := by
  refine .foldl (fun t r => ?_) _ s
  have huse (b : Bool) : t.configOnly (t.fsetBit (F.MX_SEQ_CTRL_use_v (tb r)) v b) := .setReg t _ _
  have htile : t.configOnly (match secFor t v 0x10 secs r with
      | some x => (t.fsetBit (F.MX_SEQ_CTRL_use_v (tb r)) v (secFor t v 0x10 secs r).isSome).writeTile v r x
      | none => t.fsetBit (F.MX_SEQ_CTRL_use_v (tb r)) v (secFor t v 0x10 secs r).isSome) := by
    split
    · exact (huse _).trans (State.writeTile_configOnly _ _ _ _)
    · exact huse _
  have hunit := fun vals => htile.trans (.putWords _ .unit r.t (8 * ((v * 9 + r.row) * 30 + r.k)) 8 vals)
  exact .ite ((hunit _).trans (.putWords _ _ _ _ _ _)) (hunit _)

theorem State.writePads_configOnly (s : State) (v level : Nat) : s.configOnly (s.writePads v level) :=
  .trans (.foldl (fun t _ => .setReg t _ _) _ s) (.foldl (fun t _ => .setReg t _ _) _ _)

theorem State.writeSlots_configOnly (s : State) (v fr : Nat) (secs : List PSec) : s.configOnly (s.writeSlots v fr secs) := by
  have hclear : s.configOnly (allPoints.foldl (fun s p =>
      (s.fset (F.SP_FRAME_f_m1 (pointBase p) v) (fr - 1)).putWords .slot (pointKey p) (v * 1024) 1024 []) s) :=
    .foldl (fun t _ => .trans (.setReg t _ _) (.putWords _ _ _ _ _ _)) _ s
  refine hclear.trans (.foldl (fun t x => .ite (.foldl (fun u i => ?_) _ t) (.refl t)) _ _)
  exact .ite (.refl u) (.putWords u _ _ _ _ _)

theorem State.writeRest_configOnly (s : State) (v : Nat) (secs : List PSec) : s.configOnly (s.writeRest v secs) := by
  have hcells (f : Nat → List Nat) : s.configOnly ((List.range 36).foldl (fun s i => s.putWords .lcCfg i (v * 0x3000) 0x3000 (f i)) s) :=
    .foldl (fun t _ => .putWords t _ _ _ _ _) _ s
  have htrees (t : State) (f : Nat → Word) : t.configOnly ((List.range 4).foldl (fun s i => s.setReg (R.TER_LC_TREE_V i v) (f i)) t) :=
    .foldl (fun t _ => .setReg t _ _) _ t
  refine (((hcells _).trans (htrees _ _)).trans (.putWords _ .cycle v 0 256 _)).trans (.foldl (fun t x => .ite ?_ ?_) _ _)
  · exact .foldl (fun u i => .ite (.setReg u _ _) (.refl u)) _ t
  · exact .ite (.putWords t _ _ _ _ _) (.refl t)

/-- Step 9 but for the Graft partition writes registers and indirect words only. -/
theorem State.writePlacement_configOnly (s : State) (v fr level : Nat) (secs : List PSec) :
    s.configOnly (s.writePlacement v fr level secs) :=
  (((s.writeTiles_configOnly v secs).trans (State.writePads_configOnly _ v level)).trans (State.writeSlots_configOnly _ v fr secs)).trans
    (State.writeRest_configOnly _ v secs)

/-! ## Binding another head (R236) -/

/-- A command that completes has its entry among those that wait for ring 1. -/
theorem State.complete_mem (s : State) (tag op code result : Nat) (irq : Bool) :
    ∃ c ∈ (s.complete tag op code result irq).cp.comps, c.tag = tag ∧ c.op = op ∧ c.code = code := by
  obtain ⟨res, n, u, -, -, heq⟩ := s.complete_spec tag op code result irq
  rw [heq]
  exact ⟨_, List.mem_append_right _ List.mem_cons_self, rfl, rfl, rfl⟩

/-- A Graft command completes without a result. -/
def State.graftFail (code : Nat) (s : State) (q : GraftCmd) : State := s.complete q.tag (if q.commit then 0x0A else 9) code 0 q.irq

theorem State.graftFail_beside (code : Nat) (s : State) (q : GraftCmd) : s.beside (s.graftFail code q) :=
  (State.beside.refl s).complete _ _ _ _ _

/-- Each of the Graft commands that complete with a code has its entry. -/
theorem State.graftFails_mem (code : Nat) (qs : List GraftCmd) (s : State) {q : GraftCmd} (hq : q ∈ qs) :
    ∃ c ∈ (qs.foldl (State.graftFail code) s).cp.comps, c.tag = q.tag ∧ c.code = code := by
  induction qs generalizing s with
  | nil => cases hq
  | cons p qs ih =>
    cases hq with
    | head =>
      obtain ⟨c, hc, htag, -, hcode⟩ := s.complete_mem q.tag (if q.commit then 0x0A else 9) code 0 q.irq
      obtain ⟨-, -, -, hcomps⟩ := State.beside.foldl (State.graftFail code) (State.graftFail_beside code) qs (s.graftFail code q)
      exact ⟨c, hcomps hc, htag, hcode⟩
    | tail _ htail => exact ih _ htail

/-- With an empty pool a head of another digest is bound at once, and every queued Graft command completes with E-0D01. -/
theorem State.bindHead_completes {s : State} {dg : List Byte} (hother : (s.grf.bound == some dg) = false) (hpool : s.grf.poolLen = 0)
    {q : GraftCmd} (hq : q ∈ s.grf.queue) (slot base len : Nat) (meas b : List Byte) :
    ∃ c ∈ (s.bindHead slot base len meas b dg).cp.comps, c.tag = q.tag ∧ c.code = 0x0D01 := by
  have hempty : s.poolEntries = ([], s) := by simp [State.poolEntries, hpool]
  unfold State.bindHead
  simp only [hother, hempty, Bool.false_eq_true, if_false, List.foldl_nil]
  exact State.graftFails_mem _ _ _ hq

end Sys2Proof.Machine
end

section
/-!
PROOFS. Taking PLACE (07 R227 steps 1 to 9; 11 R325): what the command processor does with it, and where a PLACE that passes every check ends.
-/
namespace Sys2Proof.Machine

/-- A processor that takes a well-formed PLACE while the Cellarmaster runs acts on it at once (R227, R325). -/
theorem exec_place_takes {s : State} {e : CmdEntry} (htakes : s.takes) (hform : malformed ⟨2, e, [], 0⟩ = false) (hcm : s.cmRuns = true)
    (hwait : s.placeWaits ⟨2, e, [], 0⟩ = false) :
    exec (.place e) s = .next (placeTake (s.consumed.mapCp fun x => { x with serial := some ⟨2, e, [], 0⟩ }) ⟨2, e, [], 0⟩) := by
  have hop : ¬ 0x0F < (⟨2, e, [], 0⟩ : Cmd).op := by change ¬ 15 < 2; decide
  have hrun := runCmd_takes s 2 e [] 0 htakes (by simp [State.replayFull]) hwait
  simp only [State.takeCmd, hform, if_neg hop, Bool.false_eq_true, if_false] at hrun
  exact hrun.trans (congrArg Host.Outcome.next (if_pos hcm))

theorem State.beside.setReg {s t : State} (h : s.beside t) (o : Nat) (v : Word) (ho : o ≠ R.HUB_DLD_STATUS) : s.beside (t.setReg o v) :=
  h.trans ⟨rfl, rfl, t.reg_setReg_other v ho.symm, List.Subset.refl _⟩

theorem State.beside.mapHrm {s t : State} (h : s.beside t) (f : HrmSt → HrmSt) : s.beside (t.mapHrm f) := h.rest rfl rfl rfl rfl

/-- The state with the map of the selected variant, as step 4 leaves it (R214). -/
def State.mapped (s : State) (o : PlaceOps) (mask : Nat) : State := if o.remap then s.remapRows o.v mask else s

theorem State.mapped_configOnly (s : State) (o : PlaceOps) (mask : Nat) : s.configOnly (s.mapped o mask) :=
  .ite (s.remapRows_configOnly o.v mask) (.refl s)

/-- The state after step 9: the per-Vintage registers, and the head of an image that has one. -/
def State.step9 (s : State) (o : PlaceOps) (im : List Byte) (k : Nat) (meas : List Byte) (c : PCtx) : State :=
  let t := s.writePlacement o.v c.F (leAt im 0x12 1) c.secs
  let p := c.record o im k
  if p.graft.isEmpty then t else t.bindHead o.slot p.base p.len meas p.graft p.digest

/-- With an empty pool step 9 of an image with a Graft head other than the bound one completes every queued Graft command with E-0D01 (R236). -/
theorem State.step9_completes {s : State} {o : PlaceOps} {im : List Byte} {k : Nat} {c : PCtx} (meas : List Byte)
    (hgraft : (c.record o im k).graft.isEmpty = false) (hother : (s.grf.bound == some (c.record o im k).digest) = false)
    (hpool : s.grf.poolLen = 0) {q : GraftCmd} (hq : q ∈ s.grf.queue) :
    ∃ x ∈ (s.step9 o im k meas c).cp.comps, x.tag = q.tag ∧ x.code = 0x0D01 := by
  rw [← (s.writePlacement_configOnly o.v c.F (leAt im 0x12 1) c.secs).grf] at hother hpool hq
  rw [State.step9, if_neg (ne_true_of_eq_false hgraft)]
  exact State.bindHead_completes hother hpool hq _ _ _ _ _

/-- A PLACE outside a job of an image that passes steps 3 to 8 goes through step 9: after it the placement is under way, with every entry that
step 9 left for ring 1. The branches of placeTake are taken one by one: with its lets substituted the checker would compare whole states. -/
theorem placeTake_step9 {s s1 u : State} {cmd : Cmd} {o : PlaceOps} {im : List Byte} {k : Nat} {c : PCtx} {ws : List (Nat × List Byte)}
    {sl : SlotSt} {at0 room : Nat} (ho : placeOps cmd.e = o) (hjob : s.job.running = false)
    (hgone : ((s.ldrStart 2 o.slot).fset F.HUB_LDR_STATUS_vintage o.v).unplace o.v = u) (hsl : nth SlotSt.init u.hrm.slots o.slot = sl)
    (hvalid : sl.valid = true) (hplace : u.slotPlace o.slot = (at0, room)) (hrange : u.rangeGood at0 room = true)
    (hread : readHyper (u.inOrder (hyperBase + at0) sl.len) (hyperBase + at0) sl.len 5 = (im, false, s1))
    (hlat : s1.latShort (leAt im 0x12 1) = false) (hpick : s1.pickVariant o (masksOf im) = .ok k)
    (hstage : (s1.mapped o (nth 0 (masksOf im) k)).stagePlace o im k = .ok (c, ws)) :
    ((s1.mapped o (nth 0 (masksOf im) k)).step9 o im k sl.meas c).beside (placeTake s cmd) := by
  subst ho hgone hsl
  unfold placeTake
  lift_lets
  intro o named s0 old u sl
  have hfree : s0.vLocked o.v = false := by rw [State.vLocked, show s0.job.running = false from hjob, Bool.false_and]
  rw [if_neg (ne_true_of_eq_false hfree)]
  split
  case _ a b hab =>
  obtain ⟨rfl, rfl⟩ := Prod.mk.inj (hab.symm.trans hplace)
  have hroom : (decide (0 < b) && !u.rangeGood a b) = false := by rw [show u.rangeGood a b = true from hrange, Bool.not_true, Bool.and_false]
  have hfull : (!sl.valid) = false := congrArg (!·) hvalid
  rw [if_neg (ne_true_of_eq_false hroom), if_neg (ne_true_of_eq_false hfull),
    show readHyper (u.inOrder (hyperBase + a) sl.len) (hyperBase + a) sl.len 5 = (im, false, s1) from hread]
  dsimp -zeta only
  lift_lets
  intro lv
  beta_reduce
  rw [if_neg Bool.false_ne_true, if_neg (ne_true_of_eq_false hlat), hpick]
  dsimp -zeta only
  lift_lets
  intro mask s2
  rw [show s2.stagePlace o im k = .ok (c, ws) from hstage]
  dsimp -zeta only
  lift_lets
  intro rec1 s3 s4 s5 casks drop bins rows
  have hbound : ((s1.mapped o (nth 0 (masksOf im) k)).step9 o im k sl.meas c).beside s4 := State.beside.refl s4
  have hshown : ((s1.mapped o (nth 0 (masksOf im) k)).step9 o im k sl.meas c).beside s5 :=
    (hbound.setReg R.HUB_LDR_PROG _ (by decide)).fset F.HUB_LDR_STATUS_variant k (by decide)
  exact (hshown.mapHrm _).settleRows old

end Sys2Proof.Machine
end

section
/-!
PROOFS. Steps 5 to 8 of PLACE (07 R227) for an image without patches, WEIGHT sections, Slot Tables, relocations and casks, and the checks that pass
where no Slot Table has a connection (05 R141, R153).
-/
namespace Sys2Proof.Machine

/-! ## Words of a space without entries -/

/-- A space above every entry of the store holds zeros. -/
theorem State.word_of_below {s : State} {sp : Space} (h : ∀ x ∈ s.words, x.1 < wordKey sp 0 0) (u i : Nat) : s.word sp u i = 0 := by
  have hle : wordKey sp 0 0 ≤ wordKey sp u i := by
    unfold wordKey
    gcongr <;> exact Nat.zero_le _
  exact (sget_eq_or_mem zeroW s.words (wordKey sp u i)).resolve_right fun hmem => absurd (h _ hmem) hle.not_gt

/-- Without error patterns a codeword's data are without error. -/
theorem State.residue_of_clean {s : State} (hupset : s.upset = []) (cw : Nat) : s.residue cw = 0 := by
  have hclean : s.cwRs cw = .good 0 := if_pos (State.upsetAt_of_nil hupset cw)
  rw [State.residue, hclean]

/-- Without error patterns an indirect word reads as it stands. -/
theorem State.ctl_of_clean {s : State} (hupset : s.upset = []) (sp : Space) (u i : Nat) : s.ctl sp u i = s.word sp u i := by
  have hhalf : halfOf 0 i = 0#32 := by rw [halfOf, Nat.zero_div]
  rw [State.ctl, State.residue_of_clean hupset, hhalf, BitVec.xor_zero]

/-- With no descriptor stored no cask is used for a Vintage. -/
theorem State.caskUse_of_below {s : State} (h : ∀ x ∈ s.words, x.1 < wordKey .desc 0 0) (k : CaskRef) (v : Nat) : s.caskUse k v = false := by
  simp [State.caskUse, State.desc1, State.word_of_below h, bitW]

/-! ## Checks without Slot Tables (R141, R153) -/

/-- With no Slot Table entry stored no connection is in force. -/
theorem PCtx.conns_of_below {c : PCtx} (h : ∀ x ∈ c.st.words, x.1 < wordKey .slot 0 0) (hupset : c.st.upset = []) (p : PointRef) (sl : Nat) :
    c.conns p sl = [] := by
  simp [PCtx.conns, State.conn, State.ctl_of_clean hupset, State.word_of_below h, connEn, bitW]

theorem PCtx.caskRecs_of_noCasks (c : PCtx) (hsecs : ∀ x ∈ c.secs, x.kind ≠ 0x13) : c.caskRecs = [] := by
  have hnone : c.secs.filter (fun x => x.kind == 0x13) = [] := List.filter_eq_nil_iff.mpr fun x hx => by simp [hsecs x hx]
  simp [PCtx.caskRecs, hnone]

section
variable {c : PCtx} (hconns : ∀ p sl, c.conns p sl = [])
include hconns

theorem PCtx.circuits_of_noConns : c.circuits = [] := by simp [PCtx.circuits, PCtx.traces, hconns]

theorem PCtx.connCask_of_noConns : c.connCask = none := by
  refine List.findSome?_eq_none_iff.mpr fun x _ => ?_
  obtain ⟨p, t, k, kind, j⟩ := x
  cases p with
  | bridge t j => rfl
  | row t r j => simp [hconns]

/-- R141 holds of a Vintage without SLOTS sections and connections. -/
theorem PCtx.r141_of_noConns (hsecs : ∀ x ∈ c.secs, x.kind ≠ 0x12) : c.r141 = none := by
  have hlen : (c.secs.find? fun x => x.kind == 0x12 && bitsN (x.word 0) 0 8 + 1 != c.F) = none :=
    List.find?_eq_none.mpr fun x hx => by simp [hsecs x hx]
  have hrec (f : PSec → Option Nat) : (c.secs.findSome? fun x => if x.kind = 0x12 then (f x).map fun i => (x, i) else none) = none :=
    List.findSome?_eq_none_iff.mpr fun x hx => if_neg (hsecs x hx)
  have hentries : (c.points.findSome? fun (p, t, k, kind, j) => (List.range 256).findSome? fun sl =>
      (entryBad c.st c.v p (c.conns p sl)).map fun port => c.pointErr 0x0441 t k kind j sl port) = none :=
    List.findSome?_eq_none_iff.mpr fun x _ => by simp [hconns, entryBad]
  have htraces : c.traces = [] := by simp [PCtx.traces, hconns]
  simp only [PCtx.r141, hlen, hrec, hentries, htraces, PCtx.circuits_of_noConns hconns, List.findSome?_nil, List.find?_nil, Option.map_none]

/-- R153 asks of a Vintage without CASKS sections and connections only that no generator partition meets another one's cask. -/
theorem PCtx.r153_of_noConns (hsecs : ∀ x ∈ c.secs, x.kind ≠ 0x13) : c.r153 = c.genClash := by
  simp only [PCtx.r153, c.caskRecs_of_noCasks hsecs, PCtx.connCask_of_noConns hconns, List.findSome?_nil]

end

/-! ## The context of the checks -/

/-- The sections of an image that apply to a variant, as they stand in it. -/
def appliedSecs (im : List Byte) (k : Nat) : List PSec := ((stagedOf im).filter fun x => bitN x.1 k).map (·.2)

/-- The REPORT section of a variant. -/
def reportOf (im : List Byte) (k : Nat) : List Byte :=
  match (sectsOf im).find? fun x => x.kind == 1 && x.applies k with | some x => x.body im | none => []

/-- A variant takes its sections as they stand: it has no patches, WEIGHT sections, Slot Tables, casks and relocations. -/
def plainVariant (im : List Byte) (k : Nat) : Prop :=
  ∀ x ∈ stagedOf im, bitN x.1 k = true → x.2.kind ∉ [0xF0, 0xF1, 0x11, 0x12, 0x13]

/-- What the checks of step 8 see of such a variant. -/
def State.plainCtx (s : State) (o : PlaceOps) (im : List Byte) (k : Nat) : PCtx :=
  let st := s.writePlacement o.v (leAt (reportOf im k) 0x1B 1 + 1) (leAt im 0x12 1) (appliedSecs im k)
  { old := s, st := st, fin := st, v := o.v, secs := appliedSecs im k, mask := varMask (variants im) k,
    F := leAt (reportOf im k) 0x1B 1 + 1, elastic := bitN (leAt im 0x13 1) 0 }

section
variable {im : List Byte} {k : Nat}

theorem plainVariant.kind_ne (hplain : plainVariant im k) {y : PSec} (hy : y ∈ appliedSecs im k) {kind : Nat}
    (hkind : kind ∈ [0xF0, 0xF1, 0x11, 0x12, 0x13]) : y.kind ≠ kind := by
  obtain ⟨x, hx, rfl⟩ := List.mem_map.mp hy
  obtain ⟨hmem, happ⟩ := List.mem_filter.mp hx
  rintro rfl
  exact hplain x hmem happ hkind

theorem plainVariant.recs (hplain : plainVariant im k) {kind : Nat} (hkind : kind ∈ [0xF0, 0xF1]) : (stagedOf im).recs k kind = [] := by
  have hnone : (stagedOf im).filter (fun x => x.2.kind == kind && bitN x.1 k) = [] := List.filter_eq_nil_iff.mpr fun x hx hboth => by
    obtain ⟨heq, happ⟩ := Bool.and_eq_true_iff.mp hboth
    have hout := hplain x hx happ
    rw [eq_of_beq heq] at hout
    exact hout (List.mem_append_left [0x11, 0x12, 0x13] hkind)
  simp [Staged.recs, hnone]

/-- Without Slot Tables no bridge point is rewritten (R218). -/
theorem bridgeAll_of_noSlots (m : RowMap) {xs : List PSec} (h : ∀ x ∈ xs, x.kind ≠ 0x12) : bridgeAll m xs = .ok xs := by
  induction xs with
  | nil => rfl
  | cons x xs ih =>
    have hx : ¬ (x.kind = 0x12 ∧ tgKind x.target = 6 ∧ tgI x.target < 2) := fun hk => h x List.mem_cons_self hk.1
    simp only [bridgeAll, if_neg hx, ih fun y hy => h y (List.mem_cons_of_mem x hy)]

/-- The sections of an image are numbered by their directory entries. -/
theorem stagedOf_inj {x y : Nat × PSec} (hx : x ∈ stagedOf im) (hy : y ∈ stagedOf im) (h : x.2.idx = y.2.idx) : x = y := by
  have hidx {z : Nat × PSec} (hz : z ∈ stagedOf im) :
      z = ((sectAt im z.2.idx).vmask, ⟨z.2.idx, (sectAt im z.2.idx).kind, (sectAt im z.2.idx).flags, (sectAt im z.2.idx).target,
        (sectAt im z.2.idx).body im⟩) := by
    obtain ⟨w, hw, rfl⟩ := List.mem_map.mp hz
    obtain ⟨i, -, rfl⟩ := List.mem_map.mp hw
    rfl
  rw [hidx hx, hidx hy, h]

/-- Sections that are put back as they are leave the staging copy as it is. -/
theorem stagedOf_putBack :
    ((stagedOf im).map fun x => match (appliedSecs im k).find? fun y => y.idx == x.2.idx with | some y => (x.1, y) | none => x) = stagedOf im := by
  refine (List.map_congr_left fun x hx => ?_).trans (List.map_id _)
  cases hfind : (appliedSecs im k).find? fun y => y.idx == x.2.idx with
  | none => rfl
  | some y =>
    obtain ⟨z, hz, rfl⟩ := List.mem_map.mp (List.mem_of_find?_eq_some hfind)
    have hidx : (z.2.idx == x.2.idx) = true := List.find?_some (p := fun y : PSec => y.idx == x.2.idx) hfind
    rw [stagedOf_inj (List.mem_of_mem_filter hz) hx (eq_of_beq hidx)]
    rfl

end

/-- Steps 5 to 8 of a variant that takes its sections as they stand, on a part without casks: where its map, its region and its TFR frequency are
accepted, the checks decide. -/
theorem State.stagePlace_plain {s : State} {o : PlaceOps} {im : List Byte} {k : Nat} (hplain : plainVariant im k)
    (hmap : s.mapBad o.v (varMask (variants im) k) = none) (hregion : s.regionBad o.v o.base (leAt (reportOf im k) 0x1C 4) = false)
    (htop : ¬ s.fTop < leAt (reportOf im k) 0x18 1) (hcasks : ∀ x ∈ s.words, x.1 < wordKey .desc 0 0)
    (hchecks : (s.plainCtx o im k).checks = none) : s.stagePlace o im k = .ok (s.plainCtx o im k, []) := by
  have hweights : (appliedSecs im k).filter (fun x => x.kind == 0x11) = [] := List.filter_eq_nil_iff.mpr fun x hx => by
    simp [hplain.kind_ne hx (kind := 0x11) (by decide)]
  have hbridge (m : RowMap) : bridgeAll m (appliedSecs im k) = .ok (appliedSecs im k) :=
    bridgeAll_of_noSlots m fun x hx => hplain.kind_ne hx (by decide)
  unfold State.stagePlace
  lift_lets
  intro vb mask rep len m xs apply fr
  rw [show s.mapBad o.v mask = none from hmap]
  dsimp -zeta only
  rw [if_neg (ne_true_of_eq_false (show s.regionBad o.v o.base len = false from hregion)), if_neg (show ¬ s.fTop < leAt rep 0x18 1 from htop),
    show Staged.recs xs k 0xF1 = [] from hplain.recs (by decide)]
  dsimp -zeta only [patchAll]
  rw [show (apply xs).filter (fun x => x.kind == 0x11) = [] from hweights]
  dsimp -zeta only [weightsAll]
  rw [show bridgeAll m (apply xs) = .ok (apply xs) from hbridge m]
  dsimp -zeta only
  lift_lets
  intro ys
  have hback : ys = xs := stagedOf_putBack
  clear_value ys
  subst hback
  rw [show Staged.recs xs k 0xF0 = [] from hplain.recs (by decide)]
  dsimp -zeta only [relocAll]
  lift_lets
  intro secs ws st c0 recs drop c
  have hrecs : recs = [] := congrArg (List.map _) (c0.caskRecs_of_noCasks fun x hx => hplain.kind_ne hx (by decide))
  have hdrop : drop = [] := List.filter_eq_nil_iff.mpr fun n _ => by simp [State.caskUse_of_below hcasks]
  have hfin : st.placeCasks o.v recs drop = st := by rw [hrecs, hdrop]; rfl
  have hc : c = s.plainCtx o im k := congrArg (fun t => { c0 with fin := t }) hfin
  rw [hc, hchecks]
  rfl

end Sys2Proof.Machine
end

section
/-!
PROOFS. O14: a PLACE that binds another Graft head while a GRAFT_SUBMIT waits in the queue (07 R227 step 9; 08 R236).
-/
namespace Sys2Proof.Machine

/-! ## A Blend with a Graft head -/

/-- A GRAFT section (Table 8.1): two classes over 16 features without a hidden layer, a head tile at MX tile 0 of logical Row 0 with its two copies
in weight sets 0 and 1, and one Graft tile, MM tile 0. -/
def headSection : List Byte :=
  bytesOf 2 16 ++ bytesOf 2 0x400 ++ bytesOf 4 0 ++ bytesOf 2 2 ++ bytesOf 2 1 ++ bytesOf 4 64 ++ bytesOf 4 256 ++ bytesOf 2 0x101 ++
    bytesOf 2 1 ++ bytesOf 5 0 ++ bytesOf 2 0x101 ++ bytesOf 33 0 ++ bytesOf 672 0 ++
    (bytesOf 4 0 ++ bytesOf 6 1 ++ bytesOf 2 1 ++ bytesOf 4 0x10000 ++ bytesOf 16 0) ++ (bytesOf 4 1024 ++ bytesOf 28 0)

/-- The TILE section of the head tile: a program that halts, descriptor 0 with a bias, and weight sets 0 and 1. -/
def headTile : List Byte :=
  bytesOf 4 0x60000000 ++ bytesOf 332 0 ++ bytesOf 4 0x10 ++ bytesOf 60 0 ++ bytesOf 4 0x10000 ++ bytesOf 4 1 ++ bytesOf 4 1 ++ bytesOf 4 1 ++
    bytesOf 64 0

/-- A directory entry of a section of variant 0 with target 0. -/
def dirEntry (kind off len : Nat) : List Byte := bytesOf 4 (0x10000 + kind) ++ bytesOf 4 0 ++ bytesOf 4 off ++ bytesOf 4 len

/-- An unsigned Blend image of one variant in Row 0 of Terrace 0: REPORT with a HyperRAM region of 20 KiB, VARIANTS, the head tile, an empty HUBCFG,
a CLASSMAP of zeros and the GRAFT section. -/
def headImage : List Byte :=
  bytesOf 4 0x444E4C42 ++ bytesOf 2 1 ++ bytesOf 2 0x80 ++ bytesOf 4 2816 ++ bytesOf 4 2816 ++ bytesOf 2 0x6400 ++ bytesOf 2 0x201 ++
    bytesOf 2 6 ++ bytesOf 2 1 ++ ([LatClass.mx1, .mx2, .mx3, .mx4, .mx5, .sf1, .sf2, .sf3, .mm1, .mm2, .mm3, .mm4, .rk1, .io1, .io2].map
      fun k => BitVec.ofNat 8 (latLevel 1 k)) ++ bytesOf 1 0 ++ bytesOf 16 0 ++ bytesOf 4 128 ++ bytesOf 68 0 ++
    (dirEntry 1 224 68 ++ dirEntry 2 320 80 ++ dirEntry 0x10 416 480 ++ dirEntry 0x20 0 0 ++ dirEntry 0x21 896 1092 ++ dirEntry 0x22 2016 800) ++
    (bytesOf 16 0 ++ bytesOf 2 16 ++ bytesOf 10 0 ++ bytesOf 4 20480 ++ bytesOf 2 1 ++ bytesOf 34 0) ++ bytesOf 28 0 ++
    (bytesOf 4 1 ++ bytesOf 92 0) ++ headTile ++ bytesOf 1120 0 ++ headSection

/-- PLACE of slot 3 into Vintage 1 with any variant's map written for it, its region at 8 MiB. -/
def placeHead : CmdEntry := ⟨1, 5, 0, BitVec.ofNat 448 (0x1000103 + 2 ^ 32 * 0x800000)⟩

/-- A GRAFT_SUBMIT that waits at the front of the Graft queue. -/
def waitingSubmit : GraftCmd :=
  { commit := false, tag := 7, irq := false, reset := true, steps := 1, list := [], bad := 0, target := 0, band := none, appended := false,
    done := 0, staging := false, staged := false, armed := none }

/-- The usable offset of Blend slot 3. -/
def headOff : Nat := 3 * 2 ^ 20

/-- What the loader has recorded of the image in its slot. -/
def headSlot : SlotSt := ⟨true, 2816, [], 0, 0⟩

/-- HyperRAM with the image in slot 3. -/
@[irreducible] def headMem : SMap Byte := (State.reset.putBytes (hyperBase + headOff) headImage).mem

theorem headMem_eq : headMem = (State.reset.putBytes (hyperBase + headOff) headImage).mem := by unfold headMem; rfl

/-- Slot 3 of a Blend store at the start of HyperRAM holds the image; no head is bound; background traffic is deferred, so that the submit waits; a
command is published in ring 0, and the Cellarmaster runs. -/
def heldHead : State :=
  let s : State := { State.reset with
    sec := { SecSt.init with released := true, cm := 2 }
    pwr := { State.reset.pwr with deferBg := true }
    hrm := { State.reset.hrm with slots := setNth State.reset.hrm.slots 3 headSlot }
    grf := { GrfSt.init with queue := [waitingSubmit] }
    mem := headMem }
  let s := (s.setReg (R.PCI_RING_CFG 0) 0x106).setReg (R.PCI_RING_PROD 0) 1
  (((s.fset (F.HRM_CH_CFG_devices 0) 1).fset (F.HRM_CH_CFG_density 0) 3).fset F.HRM_BSTORE_slot_mib 1).setHyper 0 2

/-- The command may be taken, from a slot whose range is usable, and the image in it is one that LOAD_BLEND accepts (R474). -/
theorem heldHead_ready : heldHead.takes ∧ malformed ⟨2, placeHead, [], 0⟩ = false ∧ heldHead.placeWaits ⟨2, placeHead, [], 0⟩ = false ∧
    nth SlotSt.init heldHead.hrm.slots (placeOps placeHead).slot = headSlot ∧
    heldHead.slotPlace (placeOps placeHead).slot = (headOff, 2 ^ 20) ∧ heldHead.rangeGood headOff (2 ^ 20) = true ∧
    heldHead.imageBad headImage 2816 = none := by
  decide +kernel

/-! ## Steps 1 to 4 of its PLACE -/

/-- The loader has started on the PLACE. -/
def startedHead : State :=
  ((heldHead.consumed.mapCp fun x => { x with serial := some ⟨2, placeHead, [], 0⟩ }).ldrStart 2 (placeOps placeHead).slot).fset
    F.HUB_LDR_STATUS_vintage (placeOps placeHead).v

/-- Vintage 1, which is not placed, has been marked unplaced. -/
def takenHead : State :=
  (startedHead.fset F.HUB_VNT_STATUS_placed (startedHead.fget F.HUB_VNT_STATUS_placed)).fset
    (F.HUB_VNT_STATUS_compat (placeOps placeHead).v) 0

/-- The slot is usable, and the image passes steps 3 and 4: its latency level suffices, and variant 0 is eligible. -/
theorem takenHead_ready : startedHead.isPlaced (placeOps placeHead).v = false ∧
    nth SlotSt.init takenHead.hrm.slots (placeOps placeHead).slot = headSlot ∧
    takenHead.slotPlace (placeOps placeHead).slot = (headOff, 2 ^ 20) ∧ takenHead.rangeGood headOff (2 ^ 20) = true ∧
    headImage.length = headSlot.len ∧ takenHead.latShort (leAt headImage 0x12 1) = false ∧
    (takenHead.pickVariant (placeOps placeHead) (masksOf headImage)).toOption = some 0 := by
  decide +kernel

theorem heldHead_placeStart : heldHead.placeStart placeHead = takenHead := State.unplace_of_unplaced takenHead_ready.left

/-- The loader reads the image as it was written, and the read leaves the state as it is. -/
theorem takenHead_read :
    readHyper (takenHead.inOrder (hyperBase + headOff) headSlot.len) (hyperBase + headOff) headSlot.len 5 = (headImage, false, takenHead) := by
  obtain ⟨-, -, -, -, hlen, -, -⟩ := takenHead_ready
  have horder : takenHead.inOrder (hyperBase + headOff) headSlot.len = takenHead := by
    simp [State.inOrder, show takenHead.str.writes = [] from rfl]
  have hbytes : takenHead.bytesAt (hyperBase + headOff) headSlot.len = headImage := by
    have hmem : takenHead.mem = headMem := rfl
    have hput := State.reset.bytesAt_putBytes (hyperBase + headOff) headImage
    rw [hlen] at hput
    exact (State.bytesAt_congr fun p _ _ => congrArg (sget zeroB · p) (hmem.trans headMem_eq)).trans hput
  rw [horder, readHyper_clean (State.upsetAt_of_nil rfl) (State.poisoned_of_nil rfl rfl) (by decide) (by decide), hbytes]

theorem takenHead_variant : takenHead.pickVariant (placeOps placeHead) (masksOf headImage) = .ok 0 := by
  obtain ⟨-, -, -, -, -, -, hpick⟩ := takenHead_ready
  cases hx : takenHead.pickVariant (placeOps placeHead) (masksOf headImage) with
  | error e => rw [hx] at hpick; cases hpick
  | ok k => rw [hx] at hpick; exact congrArg Except.ok (Option.some.inj hpick)

/-! ## Steps 5 to 8 of its PLACE -/

/-- Vintage 1 has its map (R214): logical Row 0 of Terrace 0 in physical Row 0, and no other. -/
def mappedHead : State :=
  { takenHead with
    regs := [(R.HUB_LDR_STATUS, 0x0E070000), (R.PCI_RING_CFG 0, 0x106), (R.PCI_RING_PROD 0, 1), (R.PCI_RING_CONS 0, 1),
      (R.HRM_BSTORE, 0x10000), (R.HRM_CH_CFG 0, 13), (R.HRM_CH_STATUS 0, 2), (R.TER_ROW_MAP_V 0 1, 0xFFFFFFF0),
      (R.TER_ROW_MAP_V 1 1, 0xFFFFFFFF), (R.TER_ROW_MAP_V 2 1, 0xFFFFFFFF), (R.TER_ROW_MAP_V 3 1, 0xFFFFFFFF)] }

/-- Step 9 has written the image: the use bit and the pads of MX tile 0, and its program, descriptor 0 and partitions for Vintage 1. -/
def writtenHead : State :=
  { mappedHead with
    regs := [(R.HUB_LDR_STATUS, 0x0E070000), (R.PCI_RING_CFG 0, 0x106), (R.PCI_RING_PROD 0, 1), (R.PCI_RING_CONS 0, 1),
      (R.HRM_BSTORE, 0x10000), (R.HRM_CH_CFG 0, 13), (R.HRM_CH_STATUS 0, 2), (R.TER_ROW_MAP_V 0 1, 0xFFFFFFF0),
      (R.MX_SEQ_CTRL (tb ⟨0, 0, 0⟩), 2), (R.MX_DELAY_PAD_V (tb ⟨0, 0, 0⟩) 1, 137),
      (R.TER_ROW_MAP_V 1 1, 0xFFFFFFFF), (R.TER_ROW_MAP_V 2 1, 0xFFFFFFFF), (R.TER_ROW_MAP_V 3 1, 0xFFFFFFFF)]
    words := [(0x40, 0x60000000), (0x160, 0x10), (0x194, 0x10000), (0x195, 1), (0x196, 1), (0x197, 1)]
    poison := []
    upset := [] }

/-- What the checks of step 8 see of the image. -/
def headCtx : PCtx :=
  { old := mappedHead, st := writtenHead, fin := writtenHead, v := 1, secs := appliedSecs headImage 0, mask := 1, F := 1, elastic := false }

theorem takenHead_mapped : takenHead.mapped (placeOps placeHead) (nth 0 (masksOf headImage) 0) = mappedHead := by
  obtain ⟨r, w, p, u, heq⟩ := takenHead.mapped_configOnly (placeOps placeHead) (nth 0 (masksOf headImage) 0)
  have hfields : (takenHead.mapped (placeOps placeHead) (nth 0 (masksOf headImage) 0)).regs = mappedHead.regs ∧
      (takenHead.mapped (placeOps placeHead) (nth 0 (masksOf headImage) 0)).words = takenHead.words ∧
      (takenHead.mapped (placeOps placeHead) (nth 0 (masksOf headImage) 0)).poison = takenHead.poison ∧
      (takenHead.mapped (placeOps placeHead) (nth 0 (masksOf headImage) 0)).upset = takenHead.upset := by
    decide +kernel
  rw [heq] at hfields ⊢
  obtain ⟨rfl, rfl, rfl, rfl⟩ := hfields
  rfl

/-- The image's one variant takes its sections as they stand, for frames of one slot at compatibility level 1 and without an elastic fabric. -/
theorem headImage_form : plainVariant headImage 0 ∧ leAt (reportOf headImage 0) 0x1B 1 = 0 ∧ leAt headImage 0x12 1 = 1 ∧
    varMask (variants headImage) 0 = 1 ∧ bitN (leAt headImage 0x13 1) 0 = false ∧ (placeOps placeHead).v = 1 := by
  unfold plainVariant
  decide +kernel

set_option maxRecDepth 100000 in
theorem mappedHead_written : mappedHead.writePlacement 1 1 1 (appliedSecs headImage 0) = writtenHead := by
  obtain ⟨r, w, p, u, heq⟩ := mappedHead.writePlacement_configOnly 1 1 1 (appliedSecs headImage 0)
  have hfields : (mappedHead.writePlacement 1 1 1 (appliedSecs headImage 0)).regs = writtenHead.regs ∧
      (mappedHead.writePlacement 1 1 1 (appliedSecs headImage 0)).words = writtenHead.words ∧
      (mappedHead.writePlacement 1 1 1 (appliedSecs headImage 0)).poison = writtenHead.poison ∧
      (mappedHead.writePlacement 1 1 1 (appliedSecs headImage 0)).upset = writtenHead.upset := by
    decide +kernel
  rw [heq] at hfields ⊢
  obtain ⟨rfl, rfl, rfl, rfl⟩ := hfields
  rfl

theorem mappedHead_plainCtx : mappedHead.plainCtx (placeOps placeHead) headImage 0 = headCtx := by
  obtain ⟨-, hF, hlv, hmask, helastic, hv⟩ := headImage_form
  simp only [State.plainCtx, hv, hF, hlv, hmask, helastic, Nat.zero_add, mappedHead_written]
  rfl

/-- The image has no Slot Tables, so that no connection is in force. -/
theorem headCtx_conns (p : PointRef) (sl : Nat) : headCtx.conns p sl = [] := PCtx.conns_of_below (by decide) rfl p sl

set_option maxRecDepth 100000 in
/-- Every check of step 8 passes. -/
theorem headCtx_checks : headCtx.checks = none := by
  have hslots : headCtx.r141 = none := PCtx.r141_of_noConns headCtx_conns fun x hx => headImage_form.left.kind_ne hx (by decide)
  have hcasks : headCtx.r153 = headCtx.genClash := PCtx.r153_of_noConns headCtx_conns fun x hx => headImage_form.left.kind_ne hx (by decide)
  have hclash : headCtx.genClash = none := by decide +kernel
  have hcircuits : [PCtx.r141, PCtx.r153].findSome? (fun f => f headCtx) = none := by simp [hslots, hcasks, hclash]
  have htiles : [PCtx.r48, PCtx.r54, PCtx.r56, PCtx.r58, PCtx.r61, PCtx.r62, PCtx.r63, PCtx.r475].findSome? (fun f => f headCtx) = none := by
    decide +kernel
  have hdescribed : [PCtx.r80, PCtx.r85, PCtx.r90, PCtx.r114, PCtx.r117, PCtx.r118, PCtx.r123, PCtx.r129].findSome? (fun f => f headCtx) = none := by
    decide +kernel
  have hunits : [PCtx.r230, PCtx.r160, PCtx.r165, PCtx.r185, PCtx.r222].findSome? (fun f => f headCtx) = none := by decide +kernel
  have hhub : [PCtx.r235, PCtx.r291, PCtx.r296].findSome? (fun f => f headCtx) = none := by decide +kernel
  change (([PCtx.r48, PCtx.r54, PCtx.r56, PCtx.r58, PCtx.r61, PCtx.r62, PCtx.r63, PCtx.r475] ++
    ([PCtx.r80, PCtx.r85, PCtx.r90, PCtx.r114, PCtx.r117, PCtx.r118, PCtx.r123, PCtx.r129] ++ ([PCtx.r141, PCtx.r153] ++
    ([PCtx.r230, PCtx.r160, PCtx.r165, PCtx.r185, PCtx.r222] ++ [PCtx.r235, PCtx.r291, PCtx.r296])))).findSome? fun f => f headCtx) = none
  simp only [List.findSome?_append, htiles, hdescribed, hcircuits, hunits, hhub, Option.none_or]

theorem takenHead_stage : ∃ c ws,
    (takenHead.mapped (placeOps placeHead) (nth 0 (masksOf headImage) 0)).stagePlace (placeOps placeHead) headImage 0 = .ok (c, ws) ∧
      (c.record (placeOps placeHead) headImage 0).graft.isEmpty = false := by
  have hgraft : (headCtx.record (placeOps placeHead) headImage 0).graft.isEmpty = false := by decide +kernel
  have hmap : mappedHead.mapBad (placeOps placeHead).v (varMask (variants headImage) 0) = none := by decide +kernel
  have hregion : mappedHead.regionBad (placeOps placeHead).v (placeOps placeHead).base (leAt (reportOf headImage 0) 0x1C 4) = false := by
    decide +kernel
  have htop : ¬ mappedHead.fTop < leAt (reportOf headImage 0) 0x18 1 := by decide +kernel
  have hcasks : ∀ x ∈ mappedHead.words, x.1 < wordKey .desc 0 0 := List.forall_mem_nil _
  rw [takenHead_mapped]
  refine ⟨headCtx, [], ?_, hgraft⟩
  rw [← mappedHead_plainCtx]
  exact State.stagePlace_plain headImage_form.left hmap hregion htop hcasks ((congrArg PCtx.checks mappedHead_plainCtx).trans headCtx_checks)

/-! ## Its PLACE -/

/-- The PLACE leaves an entry for ring 1: the GRAFT_SUBMIT has completed with E-0D01 (R236). -/
theorem heldHead_placed {t : State} (ht : exec (.place placeHead) heldHead = .next t) :
    ∃ c ∈ t.cp.comps, c.tag = waitingSubmit.tag ∧ c.code = 0x0D01 := by
  obtain ⟨htakes, hform, hwait, -⟩ := heldHead_ready
  obtain rfl := Host.Outcome.next.inj ((exec_place_takes htakes hform rfl hwait).symm.trans ht)
  obtain ⟨c, ws, hstage, hgraft⟩ := takenHead_stage
  obtain ⟨-, hheld, hslot, hrange, -, hlat, -⟩ := takenHead_ready
  obtain ⟨-, -, -, hcomps⟩ := placeTake_step9 (cmd := ⟨2, placeHead, [], 0⟩) rfl rfl heldHead_placeStart hheld rfl hslot hrange
    takenHead_read hlat takenHead_variant hstage
  have hgrf := (takenHead.mapped_configOnly (placeOps placeHead) (nth 0 (masksOf headImage) 0)).grf
  obtain ⟨x, hx, hspec⟩ := State.step9_completes (q := waitingSubmit) headSlot.meas hgraft (by rw [hgrf]; rfl) (by rw [hgrf]; rfl)
    (by rw [hgrf]; exact List.mem_singleton_self _)
  exact ⟨x, hcomps hx, hspec⟩

end Sys2Proof.Machine

open Sys2Proof Sys2Proof.Machine

/-- Refutes O14, in its clause that a PLACE which passes steps 1 to 9 leaves the entries for ring 1 as they were: an image with a Graft head other
than the bound one takes the Graft state over at step 9, and every queued Graft command then completes with E-0D01 (R236). Here one GRAFT_SUBMIT
waits, and its completion joins the entries. -/
theorem not_loaderCommands : ¬ Obligations.LoaderCommands := by
  unfold Obligations.LoaderCommands
  rintro ⟨-, -, -, -, hplace, -⟩
  obtain ⟨c, ws, hstage, -⟩ := takenHead_stage
  obtain ⟨htakes, hform, hwait, hheld, hslot, hrange, -⟩ := heldHead_ready
  obtain ⟨-, -, -, -, -, hlat, -⟩ := takenHead_ready
  have hread : readHyper ((heldHead.placeStart placeHead).inOrder (hyperBase + (heldHead.slotPlace (placeOps placeHead).slot).1)
        (nth SlotSt.init heldHead.hrm.slots (placeOps placeHead).slot).len) (hyperBase + (heldHead.slotPlace (placeOps placeHead).slot).1)
      (nth SlotSt.init heldHead.hrm.slots (placeOps placeHead).slot).len 5 = (headImage, false, takenHead) := by
    rw [heldHead_placeStart, hslot, hheld]
    exact takenHead_read
  obtain ⟨t, p, ht, -, -, -, -, -, -, -, hcomps, -⟩ := hplace placeHead headImage 0 c ws heldHead takenHead htakes hform rfl rfl hwait rfl
    (by rw [hheld]; rfl) (by rw [hslot]; exact .inr hrange) hread hlat takenHead_variant hstage
  obtain ⟨x, hx, -⟩ := heldHead_placed ht
  rw [hcomps] at hx
  exact absurd hx List.not_mem_nil

end

section
/-!
PROOFS. Commands that are queued (08 R241, R251; 11 R328; 14 R397): taking a well-formed command, what entering the Graft queue comes to while
background traffic is deferred and when the queue is full, and a REPLAY_PUSH that stays in hand.
-/
namespace Sys2Proof.Machine

variable {s : State}

/-! ## Taking a well-formed command (R325) -/

/-- What a processor that takes does with a well-formed command that nothing holds. -/
theorem runCmd_takes_wellFormed {op : Nat} {e : CmdEntry} {data : List Byte} {bad : Nat} (htakes : s.takes) (hop : op ≤ 0x0F)
    (hform : malformed ⟨op, e, data, bad⟩ = false) (hroom : s.replayFull ⟨op, e, data, bad⟩ = false)
    (hwait : s.placeWaits ⟨op, e, data, bad⟩ = false) :
    runCmd op e data bad s = .next (s.consumed.takeOk ⟨op, e, data, bad⟩) := by
  have hknown : ¬ 0x0F < (⟨op, e, data, bad⟩ : Cmd).op := hop.not_gt
  rw [runCmd_takes s op e data bad htakes hroom hwait, State.takeCmd, if_neg hknown, if_neg (ne_true_of_eq_false hform)]

theorem State.regsBut_consumed (s : State) : s.regsBut s.consumed [R.PCI_RING_CONS 0] := s.regsBut_setReg _ _

theorem State.sameMem_consumed (s : State) : s.sameMem s.consumed := s.sameMem_setReg _ _

/-- Consuming an entry of ring 0 leaves which cameras are enabled. -/
theorem State.camOn_consumed (s : State) (c : Nat) : s.consumed.camOn c = s.camOn c := by
  have hoff : (F.ING_CAM_CFG_links c).off ≠ R.PCI_RING_CONS 0 := by
    simp only [F.ING_CAM_CFG_links, R.ING_CAM_CFG, R.PCI_RING_CONS]
    omega
  exact congrArg (fun w => (F.ING_CAM_CFG_links c).of w != 0) (State.reg_setReg_other s _ hoff)

/-! ## Entering the Graft queue (R241, R251) -/

/-- The entry of the Graft queue for a GRAFT_SUBMIT. -/
def submitEntry (e : CmdEntry) (data : List Byte) (bad : Nat) : GraftCmd :=
  { commit := false, tag := e.tag.toNat, irq := e.flags.getLsbD 0, reset := bitN (CmdF e 10 1) 0, steps := CmdF e 12 2,
    list := data.take (8 * CmdF e 8 2), bad := bad, target := 0, band := none, appended := false, done := 0, staging := false,
    staged := false, armed := none }

/-- The entry of the Graft queue for a GRAFT_COMMIT. -/
def commitEntry (e : CmdEntry) : GraftCmd :=
  { commit := true, tag := e.tag.toNat, irq := e.flags.getLsbD 0, reset := false, steps := 0, list := [], bad := 0, target := CmdF e 8 1,
    band := if bitN (CmdF e 9 1) 0 then some (CmdF e 12 4) else none, appended := false, done := 0, staging := false, staged := false,
    armed := none }

theorem exec_graftSubmit_takes {e : CmdEntry} {data : List Byte} {bad : Nat} (htakes : s.takes)
    (hform : malformed ⟨9, e, data, bad⟩ = false) :
    exec (.graftSubmit e data bad) s = .next (s.consumed.graftEnter (submitEntry e data bad)) :=
  runCmd_takes_wellFormed htakes (by decide) hform (by simp [State.replayFull]) (by simp [State.placeWaits])

theorem exec_graftCommit_takes {e : CmdEntry} (htakes : s.takes) (hform : malformed ⟨0x0A, e, [], 0⟩ = false) :
    exec (.graftCommit e) s = .next (s.consumed.graftEnter (commitEntry e)) :=
  runCmd_takes_wellFormed htakes (by decide) hform (by simp [State.replayFull]) (by simp [State.placeWaits])

/-- While background traffic is deferred the queue takes up neither a submit nor a commit that has not begun (R397). -/
theorem State.pumpGraft_deferred {q : GraftCmd} {qs : List GraftCmd} (hqueue : s.grf.queue = q :: qs) (happended : q.appended = false)
    (hstaging : q.staging = false) (hdefer : s.pwr.deferBg = true) (n : Nat) : s.pumpGraft n = s := by
  have hat : s.grfAt = 0 := by simp [State.grfAt, hqueue, hstaging]
  have hcur : s.grfCur = some q := by simp [State.grfCur, hqueue, hat]
  cases n with
  | zero => rfl
  | succ n =>
    unfold State.pumpGraft
    cases hcommit : q.commit with
    | true => simp [hcur, hcommit, hat, hdefer]
    | false => simp [hcur, hcommit, happended, hdefer]

/-- A command that enters the empty queue then stands in it alone, and nothing else changes. -/
theorem State.graftEnter_deferred {q : GraftCmd} (hempty : s.grf.queue = []) (happended : q.appended = false) (hstaging : q.staging = false)
    (hdefer : s.pwr.deferBg = true) : s.graftEnter q = s.mapGrf fun g => { g with queue := [q] } := by
  have hroom : ¬ 16 ≤ s.grf.queue.length := by simp [hempty]
  have halone : (s.mapGrf fun g => { g with queue := g.queue ++ [q] }) = s.mapGrf fun g => { g with queue := [q] } := by
    simp only [State.mapGrf, hempty, List.nil_append]
  rw [State.graftEnter, if_neg hroom, halone]
  exact State.pumpGraft_deferred (s := s.mapGrf fun g => { g with queue := [q] }) rfl happended hstaging hdefer 32

/-- A full queue stays as it is, and the command completes with E-0D07. -/
theorem State.graftEnter_full {q : GraftCmd} (hfull : 16 ≤ s.grf.queue.length) :
    ∃ res, s.answered (s.graftEnter q) ⟨1, q.tag, if q.commit then 0x0A else 9, 0x0D07, res, q.irq⟩ ∧ (s.graftEnter q).grf = s.grf := by
  rw [State.graftEnter, if_pos hfull]
  obtain ⟨-, hgrf⟩ := s.complete_plain (code := 0x0D07) (by decide) q.tag (if q.commit then 0x0A else 9) 0 q.irq
  obtain ⟨res, n, u, -, hlogs, heq⟩ := s.complete_spec q.tag (if q.commit then 0x0A else 9) 0x0D07 0 q.irq
  obtain ⟨-, -, hcp, -⟩ := hlogs.units
  refine ⟨res, ?_, hgrf⟩
  rw [heq]
  exact congrArg (fun c : CpSt => c.comps ++ [_]) hcp

/-! ## A REPLAY_PUSH that stays in hand (R328) -/

/-- The entry of a REPLAY_PUSH among those in hand, with its data read. -/
def replayEntry (e : CmdEntry) (data : List Byte) : ReplaySt :=
  { tag := e.tag.toNat, irq := e.flags.getLsbD 0, cam := CmdF e 8 1, lines := CmdF e 12 2, stride := CmdF e 24 4, pos := CmdF e 28 6,
    step := CmdF e 34 2, taken := 0, data := data, bad := 0 }

/-- A push with lines, in a replay job, for an enabled camera, joins those in hand. -/
theorem takeReplay_inHand {e : CmdEntry} {data : List Byte} (hjob : s.replayJob = true) (hcam : s.camOn (CmdF e 8 1) = true)
    (hlines : CmdF e 12 2 ≠ 0) :
    takeReplay s ⟨0x0D, e, data, 0⟩ = s.mapCp fun x => { x with replay := x.replay ++ [replayEntry e data] } := by
  have hallowed : ¬ (!s.replayJob || !s.camOn (Cmd.f ⟨0x0D, e, data, 0⟩ 8 1)) = true := by simp [hjob, Cmd.f, hcam]
  exact (if_neg hallowed).trans ((if_neg (not_not_intro rfl)).trans (if_neg hlines))

/-- With a place free the processor takes such a push at once. -/
theorem exec_replayPush_inHand {e : CmdEntry} {data : List Byte} (htakes : s.takes) (hform : malformed ⟨0x0D, e, data, 0⟩ = false)
    (hjob : s.replayJob = true) (hcam : s.camOn (CmdF e 8 1) = true) (hlines : CmdF e 12 2 ≠ 0) (hroom : s.cp.replay.length < 16) :
    exec (.replayPush e data 0) s = .next (s.consumed.mapCp fun x => { x with replay := x.replay ++ [replayEntry e data] }) := by
  have hfree : s.replayFull ⟨0x0D, e, data, 0⟩ = false := by simp [State.replayFull, hroom]
  have htake := takeReplay_inHand (s := s.consumed) (data := data) hjob ((s.camOn_consumed _).trans hcam) hlines
  exact (runCmd_takes_wellFormed htakes (by decide) hform hfree (by simp [State.placeWaits])).trans (congrArg Host.Outcome.next htake)

end Sys2Proof.Machine

open Sys2Proof Sys2Proof.Machine

/-- Settles O15: with background traffic deferred the queue takes nothing up, so that a command which enters it stays there as it came; a full
queue answers at once; a replay push joins the list of those in hand. -/
theorem queueingCommands : Obligations.QueueingCommands := by
  unfold Obligations.QueueingCommands
  refine ⟨?submit, ?commit, ?submitFull, ?commitFull, ?replay⟩
  case submit =>
    intro e data bad s htakes hform hempty hdefer
    have hrun := exec_graftSubmit_takes htakes hform
    rw [State.graftEnter_deferred (s := s.consumed) hempty rfl rfl hdefer] at hrun
    exact ⟨_, submitEntry e data bad, hrun, rfl, rfl, rfl, rfl, rfl, rfl, rfl, rfl, rfl, s.sameMem_consumed, s.regsBut_consumed⟩
  case commit =>
    intro e s htakes hform hempty hdefer
    have hrun := exec_graftCommit_takes htakes hform
    rw [State.graftEnter_deferred (s := s.consumed) hempty rfl rfl hdefer] at hrun
    exact ⟨_, commitEntry e, hrun, rfl, rfl, rfl, rfl, rfl, rfl, rfl, s.sameMem_consumed, s.regsBut_consumed⟩
  case submitFull =>
    intro e data bad s htakes hform hfull
    obtain ⟨res, hcomp, hgrf⟩ := State.graftEnter_full (s := s.consumed) (q := submitEntry e data bad) hfull
    exact ⟨_, res, exec_graftSubmit_takes htakes hform, hcomp, hgrf⟩
  case commitFull =>
    intro e s htakes hform hfull
    obtain ⟨res, hcomp, hgrf⟩ := State.graftEnter_full (s := s.consumed) (q := commitEntry e) hfull
    exact ⟨_, res, exec_graftCommit_takes htakes hform, hcomp, hgrf⟩
  case replay =>
    intro e data s htakes hform hjob hcam hlines hroom
    exact ⟨_, replayEntry e data, exec_replayPush_inHand htakes hform hjob hcam hlines hroom, rfl, rfl, rfl, rfl, rfl, rfl, rfl, rfl, rfl,
      s.sameMem_consumed, s.regsBut_consumed⟩

end

section
/-!
PROOFS. Line control (09 R270 to R276): what the encoder, a trigger generator and a marker output change and leave, an error that is noted and
counted, the first firing of a generator, and the events of a marker output that are late.
-/
namespace Sys2Proof.Machine

variable {s t u : State}

/-! ## Units of line control -/

theorem State.shaped.trgIndex (h : s.shaped) (k : Fin 8) : k.val < s.lin.trg.length := by
  obtain ⟨⟨-, htrg, -⟩, -⟩ := h
  exact htrg.symm ▸ k.isLt

theorem State.shaped.mrkIndex (h : s.shaped) (k : Fin 16) : k.val < s.lin.mrk.length := by
  obtain ⟨⟨-, -, hmrk, -⟩, -⟩ := h
  exact hmrk.symm ▸ k.isLt

/-! ## An error that is noted and counted (R8, R330) -/

@[simp] theorem State.regs_note (s : State) (code : Nat) : (s.note code).regs = s.regs := by
  unfold State.note
  split <;> rfl

@[simp] theorem State.lin_note (s : State) (code : Nat) : (s.note code).lin = s.lin := by
  unfold State.note
  split <;> rfl

@[simp] theorem State.pwr_note (s : State) (code : Nat) : (s.note code).pwr = s.pwr := by
  unfold State.note
  split <;> rfl

theorem State.fget_note (s : State) (code : Nat) (f : Fld) : (s.note code).fget f = s.fget f :=
  congrArg f.of (State.reg_congr (s.regs_note code) f.off)

/-- The first error that is noted in a job is the job's (R330). -/
theorem State.firstErr_note (code : Nat) (h : s.job.running = true ∧ s.job.firstErr = 0) : (s.note code).job.firstErr = code := by
  simp [State.note, h.1, h.2]

/-- An error that is noted and counted changes the count by one, and nothing that is no log. -/
theorem State.note_fcount_spec (s : State) (code : Nat) {f : Fld} (hf : f.lo + f.w ≤ 32) :
    ((s.note code).fcount f 1).fget f = satAdd f.w (s.fget f) 1 ∧ s.regsBut ((s.note code).fcount f 1) [f.off] ∧
      s.sameMem ((s.note code).fcount f 1) := by
  refine ⟨?_, ?_, ((s.onlyLogs_note code).trans ((s.note code).onlyLogs_fcount f 1)).sameMem⟩
  · rw [State.fget_fcount_same _ f 1 hf, State.fget_note]
  · exact State.regsBut_trans (State.regsBut_of_regs (s.regs_note code) _) ((s.note code).regsBut_fcount f 1)

/-! ## Trigger generators (R272, R273) -/

@[simp] theorem State.fget_atTime (s : State) (now : Nat) (f : Fld) : (s.atTime now).fget f = s.fget f := rfl
@[simp] theorem State.fbit_atTime (s : State) (now : Nat) (f : Fld) : (s.atTime now).fbit f = s.fbit f := rfl

theorem State.trg_setTrg_same {k : Nat} (hk : k < s.lin.trg.length) (x : TrgSt) : (s.setTrg k x).trg k = x := nth_setNth_same _ _ _ _ hk

theorem State.trg_setTrg_other (s : State) {j k : Nat} (hj : j ≠ k) (x : TrgSt) : (s.setTrg k x).trg j = s.trg j := nth_setNth_other _ _ _ hj

/-- `t` differs from `s` in what a firing gives the cameras: their queues of triggers, packets on the uplinks, and open values taken for them. -/
def State.givesOnly (s t : State) : Prop := ∃ g p n, t = { s with ing := g, lin := { s.lin with pkts := p }, free := n }

namespace State.givesOnly

theorem refl (s : State) : s.givesOnly s := ⟨_, _, _, rfl⟩

theorem trans (h : s.givesOnly t) (h' : t.givesOnly u) : s.givesOnly u := by
  obtain ⟨g, p, n, rfl⟩ := h
  obtain ⟨g', p', n', rfl⟩ := h'
  exact ⟨_, _, _, rfl⟩

theorem foldl {α : Type} {f : State → α → State} (h : ∀ (s : State) a, s.givesOnly (f s a)) (l : List α) (s : State) :
    s.givesOnly (l.foldl f s) := by
  induction l generalizing s with
  | nil => exact refl s
  | cons a l ih => exact (h s a).trans (ih _)

theorem regs (h : s.givesOnly t) : t.regs = s.regs := by
  obtain ⟨g, p, n, rfl⟩ := h
  rfl

theorem trl (h : s.givesOnly t) : t.trl = s.trl := by
  obtain ⟨g, p, n, rfl⟩ := h
  rfl

theorem trg (h : s.givesOnly t) (k : Nat) : t.trg k = s.trg k := by
  obtain ⟨g, p, n, rfl⟩ := h
  rfl

theorem pos (h : s.givesOnly t) : t.lin.pos = s.lin.pos := by
  obtain ⟨g, p, n, rfl⟩ := h
  rfl

theorem sameMem (h : s.givesOnly t) : s.sameMem t := by
  obtain ⟨g, p, n, rfl⟩ := h
  exact State.sameMem_of_eq rfl rfl rfl

end State.givesOnly

theorem State.giveTrigger_givesOnly (s : State) (k c : Nat) : s.givesOnly (s.giveTrigger k c) := by
  have hpkt (t : State) : t.givesOnly (if t.fbit (F.ING_CAM_POS_trig_pkt c) then
      (t.freshBelow 256).2.mapLin fun l => { l with pkts := l.pkts ++ [(c, l.pos, (t.freshBelow 256).1)] } else t) := by
    split
    · exact ⟨_, _, _, rfl⟩
    · exact .refl t
  unfold State.giveTrigger
  dsimp only
  split
  · split
    · exact hpkt s
    · exact .trans ⟨_, _, _, rfl⟩ (hpkt (s.setCam c _))
  · exact .refl s

/-- A generator that fires records the time, and then gives the cameras their triggers. -/
theorem State.fireTrigger_due {k : Nat} (h : s.tooSoon k = false) :
    ∃ b, (s.setTrg k { s.trg k with last := some (s.trl.time : Int), pulse := b }).givesOnly (s.fireTrigger k) := by
  simp only [State.fireTrigger, h, Bool.false_eq_true, if_false]
  exact ⟨_, .foldl (fun t c => t.giveTrigger_givesOnly k c) _ _⟩

theorem State.tooSoon_first {k : Nat} (h : (s.trg k).last = none) : s.tooSoon k = false := by simp only [State.tooSoon, h]

/-- The first firing of a generator is never suppressed: it records its time and leaves the other generators, the registers and memory. -/
theorem State.fireTrigger_first {k : Nat} (hk : k < s.lin.trg.length) (h : (s.trg k).last = none) :
    ((s.fireTrigger k).trg k).last = some (s.trl.time : Int) ∧ (s.fireTrigger k).trl = s.trl ∧
      (∀ j, j ≠ k → (s.fireTrigger k).trg j = s.trg j) ∧ (s.fireTrigger k).regs = s.regs ∧ s.sameMem (s.fireTrigger k) := by
  obtain ⟨b, hgive⟩ := State.fireTrigger_due (State.tooSoon_first h)
  refine ⟨?_, hgive.trl, fun j hj => ?_, hgive.regs, State.sameMem_trans (State.sameMem_of_eq rfl rfl rfl) hgive.sameMem⟩
  · rw [hgive.trg, State.trg_setTrg_same hk]
  · rw [hgive.trg, State.trg_setTrg_other s hj]

/-- A firing inside min of the last one is noted and counted (R273). -/
theorem State.fireTrigger_soon {k : Nat} {last : Int} (hlast : (s.trg k).last = some last)
    (hmin : (s.trl.time : Int) - last < (s.fget (F.STP_TRG_MIN_min k) : Int)) :
    s.fireTrigger k = (s.note 0x0241).fcount F.STP_TRG_SUPP_count 1 := by
  have hsoon : s.tooSoon k = true := by simpa only [State.tooSoon, hlast, decide_eq_true_eq] using hmin
  rw [State.fireTrigger, if_pos hsoon]

theorem exec_triggerTimer_fires {k : Fin 8} (now : Nat) (hen : s.fbit (F.STP_TRG_CFG_en k) = true) (hsrc : s.fget (F.STP_TRG_CFG_src k) = 1) :
    exec (.triggerTimer k now) s = .next ((s.atTime now).fireTrigger k) := by
  have hrun : exec (.triggerTimer k now) s = .next (triggerTimerEff s k now) := rfl
  rw [hrun, triggerTimerEff]
  simp only [State.fbit_atTime, State.fget_atTime, hen, hsrc, beq_self_eq_true, Bool.and_self, if_true]

/-! ## Writes of Ingest and Stamp registers (R314) -/

/-- A host write of a register of Ingest, Flat-field, Reshuffle, Slicer or Stamp, outside the mailbox windows, that no rule bars and no job locks
comes to that block. -/
theorem State.regWrite_ing {o : Nat} (v : Word) (env : WriteEnv) (h : s.hostOk o) (halign : o % 4 = 0) (hlo : 0x20000 ≤ o) (hhi : o < 0x30000)
    (hwin : o < 0x21000 ∨ 0x23000 ≤ o) (hreg : (regAt o).isSome = true) (hlock : jobLocked o = false) :
    s.regWrite .bar0 o v env = ingWrite s .bar0 o v env := by
  obtain ⟨hreset, hbar⟩ := h
  have hind : s.indOf o = none := s.indOf_of_lt (by omega) (by
    simp only [R.VRD_CMAP_DATA, R.STR_PROG_DATA, R.HUB_PRB_DATA_HI, List.mem_cons, List.not_mem_nil, or_false, not_or]
    omega)
  have hhub : ¬ o < 0x10000 := by omega
  have hstr : ¬ o < 0x20000 := by omega
  have hmbx : ¬ (0x21000 ≤ o ∧ o < 0x23000) := by omega
  rw [State.regWrite_of_not_barred v env hreset hbar halign, State.writeReg, hind, placeOf_of_lt (by omega)]
  simp only [State.blockWrite, hlock, hhub, hstr, hmbx, hhi, hreg, Bool.and_false, Bool.false_and, Bool.false_eq_true, if_false, if_true]

/-- A host write of STP.TRG_CFGk comes to its own row. -/
theorem exec_triggerSoftware {k : Fin 8} (v : Word) (now : Nat) (h : s.hostOk (R.STP_TRG_CFG k)) :
    exec (.triggerSoftware k v now) s = .next (triggerSoftwareEff s k v now) := by
  have hreg : ∀ k : Fin 8, (regAt (R.STP_TRG_CFG k)).isSome = true ∧ jobLocked (R.STP_TRG_CFG k) = false := by decide +kernel
  have hnum : R.STP_TRG_CFG k = 0x2C100 + k * 0x10 := rfl
  have hmbx : ¬ (0x20080 ≤ 0x2C100 + k.val * 0x10 ∧ 0x2C100 + k.val * 0x10 < 0x20090) := by omega
  have htrg : 0x2C100 ≤ 0x2C100 + k.val * 0x10 ∧ 0x2C100 + k.val * 0x10 < 0x2C180 ∧ (0x2C100 + k.val * 0x10) % 16 = 0 := by omega
  have hk : (0x2C100 + k.val * 0x10 - 0x2C100) / 16 = k := by omega
  refine congrArg Host.Outcome.next ((State.regWrite_ing v _ h ?_ ?_ ?_ ?_ (hreg k).1 (hreg k).2).trans ?_)
  · omega
  · omega
  · omega
  · omega
  · rw [ingWrite, hnum, if_neg hmbx, if_pos htrg, hk]

/-- The state in which a write of STP.TRG_CFGk has been stored, and en has begun a count when it rose (R272). -/
def State.trgConfigured (s : State) (k : Nat) (v : Word) : State :=
  (s.setReg (R.STP_TRG_CFG k) (v &&& 0xFFFFFF3F)).trgEnable k (s.fbit (F.STP_TRG_CFG_en k))

/-- The write keeps when the generator last fired, and changes its register and line control alone. -/
theorem State.trgConfigured_spec {k : Nat} (hk : k < s.lin.trg.length) (v : Word) :
    ((s.trgConfigured k v).trg k).last = (s.trg k).last ∧ (s.trgConfigured k v).trl = s.trl ∧
      (s.trgConfigured k v).lin.trg.length = s.lin.trg.length ∧
      (s.trgConfigured k v).regs = (s.setReg (R.STP_TRG_CFG k) (v &&& 0xFFFFFF3F)).regs ∧ s.sameMem (s.trgConfigured k v) := by
  unfold State.trgConfigured State.trgEnable
  split
  · refine ⟨?_, rfl, setNth_length _ _ _, rfl, State.sameMem_of_eq rfl rfl rfl⟩
    have hset := State.trg_setTrg_same hk { s.trg k with base := s.lin.pos, far := s.lin.pos }
    exact (congrArg TrgSt.last hset).trans rfl
  · exact ⟨rfl, rfl, rfl, rfl, State.sameMem_of_eq rfl rfl rfl⟩

/-- Bits 5:0 of what is stored of STP.TRG_CFGk are those written. -/
theorem trgCfg_field (v : Word) {lo w : Nat} (h : lo + w ≤ 6) : bitsW (v &&& 0xFFFFFF3F) lo w = bitsW v lo w := by
  apply Nat.eq_of_testBit_eq
  intro i
  rw [bitsW, bitsW, bitsN_testBit, bitsN_testBit]
  by_cases hi : i < w
  · have hmask : ∀ j < 6, (0xFFFFFF3F : Word).getLsbD j = true := by decide
    have hand := BitVec.getLsbD_and (x := v) (y := 0xFFFFFF3F) (i := lo + i)
    rw [hmask (lo + i) (by omega), Bool.and_true] at hand
    exact congrArg (decide (i < w) && ·) hand
  · simp only [hi, decide_false, Bool.false_and]

/-- A software trigger of a generator with that source fires it (R272). -/
theorem triggerSoftwareEff_fires {k : Nat} {v : Word} (now : Nat) (hk : k < s.lin.trg.length) (hsw : bitW v 6 = true) (hen : bitW v 0 = true)
    (hsrc : bitsW v 1 2 = 2) : triggerSoftwareEff s k v now = ((s.atTime now).trgConfigured k v).fireTrigger k := by
  obtain ⟨-, -, -, hregs, -⟩ := State.trgConfigured_spec (s := s.atTime now) hk v
  have hreg : ((s.atTime now).trgConfigured k v).reg (R.STP_TRG_CFG k) = v &&& 0xFFFFFF3F :=
    (State.reg_congr hregs _).trans (State.reg_setReg_same (s.atTime now) _ _)
  have hfen : ((s.atTime now).trgConfigured k v).fbit (F.STP_TRG_CFG_en k) = true := by
    have hone : bitsW v 0 1 = 1 := by
      have h2 : v.toNat % 2 = 1 := by simpa [bitW, BitVec.getLsbD, Nat.testBit_zero] using hen
      simpa [bitsW, bitsN] using h2
    have hof : ((s.atTime now).trgConfigured k v).fget (F.STP_TRG_CFG_en k) = 1 :=
      (congrArg (F.STP_TRG_CFG_en k).of hreg).trans ((trgCfg_field v (show 0 + 1 ≤ 6 by decide)).trans hone)
    rw [State.fbit, hof]
    rfl
  have hfsrc : ((s.atTime now).trgConfigured k v).fget (F.STP_TRG_CFG_src k) = 2 :=
    (congrArg (F.STP_TRG_CFG_src k).of hreg).trans ((trgCfg_field v (show 1 + 2 ≤ 6 by decide)).trans hsrc)
  rw [triggerSoftwareEff]
  refine if_pos ?_
  change (bitW v 6 && ((s.atTime now).trgConfigured k v).fbit (F.STP_TRG_CFG_en k) &&
    ((s.atTime now).trgConfigured k v).fget (F.STP_TRG_CFG_src k) == 2) = true
  rw [hsw, hfen, hfsrc]
  rfl

/-! ## Marker outputs (R275, R276) -/

theorem State.mrk_setMrk_same {k : Nat} (hk : k < s.lin.mrk.length) (x : MrkSt) : (s.setMrk k x).mrk k = x := nth_setNth_same _ _ _ _ hk

theorem State.mrk_setMrk_other (s : State) {j k : Nat} (hj : j ≠ k) (x : MrkSt) : (s.setMrk k x).mrk j = s.mrk j := nth_setNth_other _ _ _ hj

/-- `t` differs from `s` in line control alone, with as many marker outputs and the same position. -/
def State.marksOnly (s t : State) : Prop := ∃ l, t = { s with lin := l } ∧ l.mrk.length = s.lin.mrk.length ∧ l.pos = s.lin.pos

namespace State.marksOnly

theorem refl (s : State) : s.marksOnly s := ⟨_, rfl, rfl, rfl⟩

theorem trans (h : s.marksOnly t) (h' : t.marksOnly u) : s.marksOnly u := by
  obtain ⟨l, rfl, hlen, hpos⟩ := h
  obtain ⟨l', rfl, hlen', hpos'⟩ := h'
  exact ⟨l', rfl, hlen'.trans hlen, hpos'.trans hpos⟩

theorem foldl {α : Type} {f : State → α → State} (h : ∀ (s : State) a, s.marksOnly (f s a)) (l : List α) (s : State) :
    s.marksOnly (l.foldl f s) := by
  induction l generalizing s with
  | nil => exact refl s
  | cons a l ih => exact (h s a).trans (ih _)

theorem setMrk (s : State) (k : Nat) (x : MrkSt) : s.marksOnly (s.setMrk k x) := ⟨_, rfl, setNth_length _ _ _, rfl⟩

theorem fget (h : s.marksOnly t) (f : Fld) : t.fget f = s.fget f := by
  obtain ⟨l, rfl, -, -⟩ := h
  rfl

theorem job (h : s.marksOnly t) : t.job = s.job := by
  obtain ⟨l, rfl, -, -⟩ := h
  rfl

theorem sameMem (h : s.marksOnly t) : s.sameMem t := by
  obtain ⟨l, rfl, -, -⟩ := h
  exact State.sameMem_of_eq rfl rfl rfl

theorem length (h : s.marksOnly t) : t.lin.mrk.length = s.lin.mrk.length := by
  obtain ⟨l, rfl, hlen, -⟩ := h
  exact hlen

theorem pos (h : s.marksOnly t) : t.lin.pos = s.lin.pos := by
  obtain ⟨l, rfl, -, hpos⟩ := h
  exact hpos

end State.marksOnly

/-- Output `k` no longer held at its safe level (R277). -/
def State.markFreed (s : State) (k : Nat) : State := s.mapLin fun l => { l with safe := clearBit l.safe k }

theorem State.markFire_tripped {k : Nat} (e : Nat × Bool × Nat) (h : s.pwr.tripped = true) : s.markFire k e = s := if_pos h

/-- In time mode an event that fires starts the output's pulse (R275). -/
theorem State.markFire_time {k : Nat} (due width : Nat) (h : s.pwr.tripped = false) :
    s.markFire k (due, false, width) = (s.markFreed k).setMrk k { s.mrk k with pulse := true } := if_neg (ne_true_of_eq_false h)

/-- The end of the activity that an event of length mode leaves: the later of its own and the one that stands (R275). -/
def MrkSt.endAfter (x : MrkSt) (e : Nat) : Nat :=
  match x.upTo with
  | some u => if atOrBeyond e u then e else u
  | none => e

/-- In length mode an event that fires starts or extends the output's activity (R275). -/
theorem State.markFire_length {k : Nat} (due width : Nat) (h : s.pwr.tripped = false) :
    s.markFire k (due, true, width) =
      (s.markFreed k).setMrk k { s.mrk k with upTo := some ((s.mrk k).endAfter ((due + width) % posMod)) } := if_neg (ne_true_of_eq_false h)

/-- An event that fires leaves everything, or sets its output to a state that keeps a pulse under way. -/
theorem State.markFire_cases (s : State) (k : Nat) (e : Nat × Bool × Nat) :
    s.markFire k e = s ∨ ∃ x, s.markFire k e = (s.markFreed k).setMrk k x ∧ ((s.mrk k).pulse = true → x.pulse = true) := by
  cases htrip : s.pwr.tripped with
  | true => exact .inl (State.markFire_tripped e htrip)
  | false =>
    obtain ⟨due, mode, width⟩ := e
    cases mode with
    | false => exact .inr ⟨_, State.markFire_time due width htrip, fun _ => rfl⟩
    | true => exact .inr ⟨_, State.markFire_length due width htrip, id⟩

theorem State.markFire_marksOnly (s : State) (k : Nat) (e : Nat × Bool × Nat) : s.marksOnly (s.markFire k e) := by
  obtain h | ⟨x, h, -⟩ := s.markFire_cases k e
  · rw [h]
    exact .refl s
  · rw [h]
    exact .trans ⟨_, rfl, rfl, rfl⟩ (.setMrk (s.markFreed k) k x)

/-- Output `k` with the events whose due position has not been reached. -/
def State.markHeld (s : State) (k : Nat) : State :=
  s.setMrk k { s.mrk k with queue := (s.mrk k).queue.filter fun d => !atOrBeyond s.lin.pos d.1 }

/-- Output `k` once the events whose due position has been reached have fired. -/
def State.markFired (s : State) (k : Nat) : State :=
  ((s.mrk k).queue.filter fun d => atOrBeyond s.lin.pos d.1).foldl (fun s d => s.markFire k d) (s.markHeld k)

theorem State.markFired_marksOnly (s : State) (k : Nat) : s.marksOnly (s.markFired k) :=
  (State.marksOnly.setMrk s k _).trans (.foldl (fun t d => t.markFire_marksOnly k d) _ _)

/-- Once the events have fired, an output looks at the end of its activity: it stands as it is, or without that activity. -/
theorem State.markAt_cases (s : State) (k : Nat) :
    s.markAt k = s.markFired k ∨
      ∃ e, ((s.markFired k).mrk k).upTo = some e ∧ atOrBeyond (s.markFired k).lin.pos e = true ∧
        s.markAt k = (s.markFired k).setMrk k { (s.markFired k).mrk k with upTo := none } := by
  have hat : s.markAt k = match ((s.markFired k).mrk k).upTo with
      | some e => if atOrBeyond (s.markFired k).lin.pos e then (s.markFired k).setMrk k { (s.markFired k).mrk k with upTo := none }
        else s.markFired k
      | none => s.markFired k := rfl
  rw [hat]
  split
  · rename_i e he
    split
    · rename_i hend
      exact .inr ⟨e, he, hend, rfl⟩
    · exact .inl rfl
  · exact .inl rfl

theorem State.markAt_marksOnly (s : State) (k : Nat) : s.marksOnly (s.markAt k) := by
  obtain h | ⟨e, -, -, h⟩ := s.markAt_cases k
  · rw [h]
    exact s.markFired_marksOnly k
  · rw [h]
    exact (s.markFired_marksOnly k).trans (.setMrk _ k _)

/-- An event that fires keeps a pulse that is under way. -/
theorem State.markFire_pulse {k : Nat} (hk : k < s.lin.mrk.length) (e : Nat × Bool × Nat) (h : (s.mrk k).pulse = true) :
    ((s.markFire k e).mrk k).pulse = true := by
  obtain hfire | ⟨x, hfire, hx⟩ := s.markFire_cases k e
  · rwa [hfire]
  · rw [hfire, State.mrk_setMrk_same (s := s.markFreed k) hk]
    exact hx h

theorem State.foldl_markFire_pulse {k : Nat} (es : List (Nat × Bool × Nat)) (hk : k < s.lin.mrk.length) (h : (s.mrk k).pulse = true) :
    ((es.foldl (fun s e => s.markFire k e) s).mrk k).pulse = true := by
  induction es generalizing s with
  | nil => exact h
  | cons e es ih => exact ih ((s.markFire_marksOnly k e).length.symm ▸ hk) (State.markFire_pulse hk e h)

/-- A look at the position keeps a pulse that is under way: its end is a row of its own (R275). -/
theorem State.markAt_pulse {k : Nat} (hk : k < s.lin.mrk.length) (h : (s.mrk k).pulse = true) : ((s.markAt k).mrk k).pulse = true := by
  have hlen : k < (s.markHeld k).lin.mrk.length := (State.marksOnly.setMrk s k _).length.symm ▸ hk
  have hpulse : ((s.markHeld k).mrk k).pulse = true := by rw [State.markHeld, State.mrk_setMrk_same hk]; exact h
  have hfired : ((s.markFired k).mrk k).pulse = true := State.foldl_markFire_pulse _ hlen hpulse
  obtain hat | ⟨e, -, -, hat⟩ := s.markAt_cases k
  · rw [hat]
    exact hfired
  · rw [hat, State.mrk_setMrk_same ((s.markFired_marksOnly k).length.symm ▸ hk)]
    exact hfired

/-- With no event waiting, a look at the position keeps an activity whose end is ahead. -/
theorem State.markAt_upTo {k e : Nat} (hk : k < s.lin.mrk.length) (hqueue : (s.mrk k).queue = []) (hup : (s.mrk k).upTo = some e)
    (hend : atOrBeyond s.lin.pos e = false) : ((s.markAt k).mrk k).upTo = some e := by
  have hfired : s.markFired k = s.markHeld k := by simp only [State.markFired, hqueue, List.filter_nil, List.foldl_nil]
  have hheld : ((s.markHeld k).mrk k).upTo = some e := by rw [State.markHeld, State.mrk_setMrk_same hk]; exact hup
  have hpos : (s.markHeld k).lin.pos = s.lin.pos := rfl
  obtain hat | ⟨e', he', hreached, -⟩ := s.markAt_cases k
  · rw [hat, hfired]
    exact hheld
  · rw [hfired, hheld] at he'
    rw [hfired, hpos, ← Option.some.inj he', hend] at hreached
    exact absurd hreached Bool.false_ne_true

/-- The event that output `k` takes with the mode and width in force (R278). -/
def State.markEvent (s : State) (k due : Nat) : Nat × Bool × Nat :=
  (due, s.fget (F.STP_MRK_CFG_mode k) != 0, s.fget (F.STP_MRK_WID_width k))

/-- The state in which a late event has been noted and counted (R276). -/
def State.markLate (s : State) : State := (s.note 0x0230).fcount F.STP_MRK_LATE_count 1

theorem State.markQueue_late {k due : Nat} (h : atOrBeyond s.lin.pos due = true) :
    s.markQueue k due = (s.markLate.markFire k (s.markEvent k due)).markAt k := by
  rw [State.markQueue]
  exact if_pos h

theorem State.markQueue_full {k due : Nat} (hahead : atOrBeyond s.lin.pos due = false) (hfull : 1024 ≤ (s.mrk k).queue.length) :
    s.markQueue k due = (s.note 0x0232).fcount F.STP_MRK_DROP_count 1 := by
  simp only [State.markQueue, hahead, hfull, Bool.false_eq_true, if_false, if_true]

theorem State.markQueue_room {k due : Nat} (hahead : atOrBeyond s.lin.pos due = false) (hroom : (s.mrk k).queue.length < 1024) :
    s.markQueue k due = s.setMrk k { s.mrk k with queue := (s.mrk k).queue ++ [s.markEvent k due] } := by
  simp only [State.markQueue, State.markEvent, hahead, Nat.not_le.mpr hroom, Bool.false_eq_true, if_false]

theorem State.markQueue_late_marksOnly {k due : Nat} (h : atOrBeyond s.lin.pos due = true) : s.markLate.marksOnly (s.markQueue k due) := by
  rw [State.markQueue_late h]
  exact (State.markFire_marksOnly _ _ _).trans (State.markAt_marksOnly _ _)

@[simp] theorem State.lin_markLate (s : State) : s.markLate.lin = s.lin := by simp [State.markLate]
@[simp] theorem State.pwr_markLate (s : State) : s.markLate.pwr = s.pwr := by simp [State.markLate]

theorem State.mrk_markLate (s : State) (k : Nat) : s.markLate.mrk k = s.mrk k := congrArg (fun l : LinSt => nth _ l.mrk k) s.lin_markLate

/-- A late event of time mode leaves the output's pulse under way. -/
theorem State.markQueue_late_time {k due : Nat} (hk : k < s.lin.mrk.length) (htrip : s.pwr.tripped = false)
    (h : atOrBeyond s.lin.pos due = true) (hmode : s.fget (F.STP_MRK_CFG_mode k) = 0) : ((s.markQueue k due).mrk k).pulse = true := by
  have hlen : k < s.markLate.lin.mrk.length := by rwa [State.lin_markLate]
  have hevent : s.markEvent k due = (due, false, s.fget (F.STP_MRK_WID_width k)) := by rw [State.markEvent, hmode]; rfl
  have hfire := State.markFire_time (k := k) due (s.fget (F.STP_MRK_WID_width k)) ((congrArg PwrSt.tripped s.pwr_markLate).trans htrip)
  rw [State.markQueue_late h, hevent]
  refine State.markAt_pulse ((State.markFire_marksOnly _ k _).length.symm ▸ hlen) ?_
  rw [hfire, State.mrk_setMrk_same (s := s.markLate.markFreed k) hlen]

/-- A late event of length mode leaves an output that was at rest active up to due + width, when that lies ahead. -/
theorem State.markQueue_late_length {k due : Nat} (hk : k < s.lin.mrk.length) (htrip : s.pwr.tripped = false)
    (h : atOrBeyond s.lin.pos due = true) (hmode : s.fget (F.STP_MRK_CFG_mode k) = 1) (hrest : (s.mrk k).upTo = none)
    (hqueue : (s.mrk k).queue = []) (hend : atOrBeyond s.lin.pos ((due + s.fget (F.STP_MRK_WID_width k)) % posMod) = false) :
    ((s.markQueue k due).mrk k).upTo = some ((due + s.fget (F.STP_MRK_WID_width k)) % posMod) := by
  have hlen : k < s.markLate.lin.mrk.length := by rwa [State.lin_markLate]
  have hevent : s.markEvent k due = (due, true, s.fget (F.STP_MRK_WID_width k)) := by rw [State.markEvent, hmode]; rfl
  have hfire : (s.markLate.markFire k (due, true, s.fget (F.STP_MRK_WID_width k))).mrk k =
      { s.mrk k with upTo := some ((due + s.fget (F.STP_MRK_WID_width k)) % posMod) } := by
    rw [State.markFire_length due _ ((congrArg PwrSt.tripped s.pwr_markLate).trans htrip),
      State.mrk_setMrk_same (s := s.markLate.markFreed k) hlen, State.mrk_markLate, MrkSt.endAfter, hrest]
  have honly := s.markLate.markFire_marksOnly k (due, true, s.fget (F.STP_MRK_WID_width k))
  rw [State.markQueue_late h, hevent]
  refine State.markAt_upTo (honly.length.symm ▸ hlen) ?_ ?_ ?_
  · rw [hfire]
    exact hqueue
  · rw [hfire]
  · rw [honly.pos, State.lin_markLate]
    exact hend

/-! ## The encoder (R270) -/

/-- The position and memory are as before. -/
def State.posKept (s t : State) : Prop := t.lin.pos = s.lin.pos ∧ s.sameMem t

namespace State.posKept

theorem refl (s : State) : s.posKept s := ⟨rfl, s.sameMem_refl⟩

theorem trans (h : s.posKept t) (h' : t.posKept u) : s.posKept u := ⟨h'.1.trans h.1, State.sameMem_trans h.2 h'.2⟩

theorem foldl {α : Type} {f : State → α → State} (h : ∀ (s : State) a, s.posKept (f s a)) (l : List α) (s : State) :
    s.posKept (l.foldl f s) := by
  induction l generalizing s with
  | nil => exact refl s
  | cons a l ih => exact (h s a).trans (ih _)

theorem setTrg (s : State) (k : Nat) (x : TrgSt) : s.posKept (s.setTrg k x) := ⟨rfl, State.sameMem_of_eq rfl rfl rfl⟩

end State.posKept

theorem State.fireTrigger_posKept (s : State) (k : Nat) : s.posKept (s.fireTrigger k) := by
  cases hsoon : s.tooSoon k with
  | false =>
    obtain ⟨b, hgive⟩ := State.fireTrigger_due hsoon
    exact (State.posKept.setTrg s k _).trans ⟨hgive.pos, hgive.sameMem⟩
  | true =>
    rw [State.fireTrigger, if_pos hsoon]
    exact ⟨congrArg LinSt.pos (s.lin_note 0x0241), (s.note_fcount_spec 0x0241 (f := F.STP_TRG_SUPP_count) (by decide)).2.2⟩

theorem State.trigAt_posKept (s : State) (k : Nat) : s.posKept (s.trigAt k) := by
  have hfire (c : Prop) [Decidable c] (t : State) : t.posKept (if c then t.fireTrigger k else t) := by
    split
    · exact t.fireTrigger_posKept k
    · exact .refl t
  unfold State.trigAt
  dsimp only
  split
  · split
    · exact (State.posKept.setTrg s k _).trans (hfire _ _)
    · exact hfire _ s
  · exact .refl s

theorem State.markAt_posKept (s : State) (k : Nat) : s.posKept (s.markAt k) := ⟨(s.markAt_marksOnly k).pos, (s.markAt_marksOnly k).sameMem⟩

/-- A count moves the position by one modulo 2^48, whatever the generators and the markers make of it. -/
theorem State.movePos_spec (s : State) (up : Bool) :
    (s.movePos up).lin.pos = (s.lin.pos + if up then 1 else 2 ^ 48 - 1) % 2 ^ 48 ∧ s.sameMem (s.movePos up) := by
  have hmoved : ∀ t : State, t.posKept ((List.range 16).foldl (fun s k => s.markAt k) ((List.range 8).foldl (fun s k => s.trigAt k) t)) :=
    fun t => (State.posKept.foldl (fun t k => t.trigAt_posKept k) _ t).trans (.foldl (fun t k => t.markAt_posKept k) _ _)
  obtain ⟨hpos, hmem⟩ := hmoved (s.mapLin fun l => { l with pos := (l.pos + (if up then 1 else posMod - 1)) % posMod })
  rw [State.movePos]
  refine ⟨?_, State.sameMem_trans (State.sameMem_of_eq rfl rfl rfl) hmem⟩
  rw [hpos]
  simp only [State.mapLin_lin, posMod]

/-- The way an edge of one input goes: A leads B when the edge of A goes away from B's level, or the edge of B goes to A's. -/
def edgeLeads (a b a' b' : Bool) : Bool := if a != a' then a' != b else b' == a

/-- The edges that the decode counts: every edge, those of A, or the rising ones of A. -/
abbrev State.edgeCounts (s : State) (a a' : Bool) : Prop :=
  s.fget F.STP_ENC_CFG_decode = 0 ∨ (a ≠ a' ∧ (s.fget F.STP_ENC_CFG_decode = 1 ∨ a' = true))

theorem exec_encoderEdge (a b a' b' : Bool) (now : Nat) (hrun : s.rstHeld = false) :
    exec (.encoderEdge a b a' b' now) s = .next (encoderEdgeEff s a b a' b' now) :=
  congrArg Host.Outcome.next (if_neg (ne_true_of_eq_false hrun))

/-- An edge of one input moves the position when the decode counts it, and does nothing but bring the time when it does not. -/
theorem encoderEdgeEff_one {a b a' b' : Bool} (now : Nat) (hdec : s.fget F.STP_ENC_CFG_decode ≤ 2) (hone : (a != a') ≠ (b != b')) :
    encoderEdgeEff s a b a' b' now =
      if s.edgeCounts a a' then (s.atTime now).movePos (edgeLeads a b a' b' != s.fbit F.STP_ENC_CFG_dir) else s.atTime now := by
  have hdiffer : ∀ p q : Bool, p ≠ q → (p && q) = false ∧ (!p && !q) = false := by decide
  obtain ⟨hboth, hneither⟩ := hdiffer _ _ hone
  have hnone : (a == a' && b == b') = false := by simpa only [bne, Bool.not_not] using hneither
  simp only [encoderEdgeEff, hboth, hnone, Bool.false_eq_true, if_false, State.fget_atTime, State.fbit_atTime, State.edgeCounts, edgeLeads]
  obtain h | h | h : s.fget F.STP_ENC_CFG_decode = 0 ∨ s.fget F.STP_ENC_CFG_decode = 1 ∨ s.fget F.STP_ENC_CFG_decode = 2 := by omega
  · simp [h]
  · simp [h]
  · simp [h]

/-- Edges of both inputs at once are noted and counted (R270). -/
theorem encoderEdgeEff_both (a b : Bool) (now : Nat) :
    encoderEdgeEff s a b (!a) (!b) now = ((s.atTime now).note 0x0240).fcount F.STP_ENC_ERR_count 1 := by
  have hboth : (a != !a && b != !b) = true := by cases a <;> cases b <;> rfl
  rw [encoderEdgeEff]
  exact if_pos hboth

end Sys2Proof.Machine

open Sys2Proof Sys2Proof.Machine

/-- Settles O53: a count is State.movePos, whose trigger generators and markers keep the position; both sources of a firing come to
State.fireTrigger, and the end of a width sets one unit. -/
theorem encoderAndTriggers : Obligations.EncoderAndTriggers := by
  unfold Obligations.EncoderAndTriggers
  refine ⟨?edge, ?both, ?timer, ?soon, ?software, ?pulse, ?marker⟩
  case edge =>
    intro a b a' b' now s hrun hdec hone lead counts
    refine ⟨_, exec_encoderEdge a b a' b' now hrun, ?_⟩
    rw [encoderEdgeEff_one now hdec hone]
    by_cases hcounts : s.edgeCounts a a'
    · rw [if_pos hcounts]
      obtain ⟨hpos, hmem⟩ := (s.atTime now).movePos_spec (edgeLeads a b a' b' != s.fbit F.STP_ENC_CFG_dir)
      exact ⟨State.sameMem_trans (State.sameMem_of_eq rfl rfl rfl) hmem, fun _ => hpos, fun h => absurd hcounts h⟩
    · rw [if_neg hcounts]
      exact ⟨State.sameMem_of_eq rfl rfl rfl, fun h => absurd h hcounts, fun _ => rfl⟩
  case both =>
    intro a b now s hrun
    obtain ⟨hcount, hregs, hmem⟩ := (s.atTime now).note_fcount_spec 0x0240 (f := F.STP_ENC_ERR_count) (by decide)
    refine ⟨_, (exec_encoderEdge a b (!a) (!b) now hrun).trans (congrArg _ (encoderEdgeEff_both a b now)), ?_, hcount, hregs, hmem⟩
    exact (s.atTime now).lin_note 0x0240
  case timer =>
    intro k now s hshape hen hsrc hlast time
    have hk : k.val < s.lin.trg.length := hshape.trgIndex k
    obtain ⟨hfired, htrl, hothers, hregs, hmem⟩ := State.fireTrigger_first (s := s.atTime now) hk hlast
    exact ⟨_, exec_triggerTimer_fires now hen hsrc, hfired, congrArg TrlSt.time htrl, fun j hj => hothers j (Fin.val_ne_of_ne hj),
      State.regsBut_of_regs hregs _, hmem⟩
  case soon =>
    intro k now last s hen hsrc hlast hmin
    obtain ⟨hcount, hregs, hmem⟩ := (s.atTime now).note_fcount_spec 0x0241 (f := F.STP_TRG_SUPP_count) (by decide)
    have hsoon := State.fireTrigger_soon (s := s.atTime now) hlast hmin
    exact ⟨_, (exec_triggerTimer_fires now hen hsrc).trans (congrArg _ hsoon), (s.atTime now).lin_note 0x0241, hcount, hregs, hmem⟩
  case software =>
    intro k v now s hok hshape hsw hen hsrc hlast
    have hk : k.val < s.lin.trg.length := hshape.trgIndex k
    obtain ⟨hkept, htime, hlen, hcfgRegs, hcfgMem⟩ := State.trgConfigured_spec (s := s.atTime now) hk v
    obtain ⟨hfired, -, -, hregs, hmem⟩ := State.fireTrigger_first (hlen.symm ▸ hk) (hkept.trans hlast)
    have hstored : s.regsBut (((s.atTime now).trgConfigured k v).fireTrigger k) [R.STP_TRG_CFG k] := fun o ho =>
      (State.reg_congr (hregs.trans hcfgRegs) o).trans (State.reg_setReg_other (s.atTime now) _ (by simpa using ho))
    refine ⟨_, (exec_triggerSoftware v now hok).trans (congrArg _ (triggerSoftwareEff_fires now hk hsw hen hsrc)), ?_, ?_, hstored,
      State.sameMem_trans hcfgMem hmem⟩
    · rw [hfired, htime]
      rfl
    · exact (State.reg_congr (hregs.trans hcfgRegs) _).trans (State.reg_setReg_same (s.atTime now) _ _)
  case pulse =>
    intro k s hshape
    exact ⟨_, rfl, State.trg_setTrg_same (hshape.trgIndex k) _, fun j hj => State.trg_setTrg_other s (Fin.val_ne_of_ne hj) _,
      s.regsBut_refl _, State.sameMem_of_eq rfl rfl rfl⟩
  case marker =>
    intro k s hshape
    exact ⟨_, rfl, State.mrk_setMrk_same (hshape.mrkIndex k) _, fun j hj => State.mrk_setMrk_other s (Fin.val_ne_of_ne hj) _,
      s.regsBut_refl _, State.sameMem_of_eq rfl rfl rfl⟩

/-- Settles O54: an event that is ahead joins the queue or is dropped; a late one fires in the state in which it has been noted and counted, and the
look at the position that follows keeps the pulse, and an activity whose end is ahead. -/
theorem markerQueue : Obligations.MarkerQueue := by
  unfold Obligations.MarkerQueue
  intro k due s hshape
  have hk : k.val < s.lin.mrk.length := hshape.mrkIndex k
  refine ⟨State.markQueue_room, fun hahead hfull => ?full, fun hlate htrip => ?late⟩
  case full =>
    rw [State.markQueue_full hahead hfull]
    exact ⟨s.lin_note 0x0232, (s.note_fcount_spec 0x0232 (by decide)).1, State.firstErr_note 0x0232⟩
  case late =>
    have honly := State.markQueue_late_marksOnly (k := k) hlate
    refine ⟨?_, fun hjob => ?_, State.markQueue_late_time hk htrip hlate, State.markQueue_late_length hk htrip hlate⟩
    · rw [honly.fget]
      exact (s.note_fcount_spec 0x0230 (by decide)).1
    · rw [honly.job]
      exact State.firstErr_note 0x0230 hjob

end

section
/-!
PROOFS. Links, mailboxes and heartbeats (09 R260, R262): bits of a field, the windows of the mailboxes, what a write of ING.MBX_CTRL and a packet of a
camera come to, and the cameras of a link that has lost its lock.
-/
namespace Sys2Proof.Machine

variable {s t : State}

/-! ## Bits of a field -/

theorem bitN_eq_testBit (x i : Nat) : bitN x i = x.testBit i := by
  rw [Nat.testBit_eq_decide_div_mod_eq, bitN, Nat.shiftRight_eq_div_pow]
  rfl

/-- A bit just set in a field reads 1, and the other bits read as before. -/
theorem State.bitN_fsetBit_true {f : Fld} {i : Nat} (hf : f.lo + f.w ≤ 32) (hi : i < f.w) (j : Nat) :
    bitN ((s.fsetBit f i true).fget f) j = (decide (j = i) || bitN (s.fget f) j) := by
  have hlt : Nat.lor (s.fget f) (2 ^ i) < 2 ^ f.w := Nat.or_lt_two_pow (s.fget_lt f) (Nat.pow_lt_pow_right (by decide) hi)
  have hget : (s.fsetBit f i true).fget f = s.fget f ||| 2 ^ i := (s.fget_fset_same f _ hf).trans (Nat.mod_eq_of_lt hlt)
  rw [hget, bitN_eq_testBit, bitN_eq_testBit, Nat.testBit_or, Nat.testBit_two_pow, Bool.or_comm]
  simp only [eq_comm]

/-- A bit just cleared in a field reads 0. -/
theorem State.bitN_fsetBit_false {f : Fld} (hf : f.lo + f.w ≤ 32) (i : Nat) : bitN ((s.fsetBit f i false).fget f) i = false := by
  have hlt : s.fget f - (if bitN (s.fget f) i then 2 ^ i else 0) < 2 ^ f.w := (Nat.sub_le _ _).trans_lt (s.fget_lt f)
  have hget : (s.fsetBit f i false).fget f = s.fget f - (if bitN (s.fget f) i then 2 ^ i else 0) :=
    (s.fget_fset_same f _ hf).trans (Nat.mod_eq_of_lt hlt)
  rw [hget]
  cases hbit : bitN (s.fget f) i with
  | false => simpa only [Bool.false_eq_true, if_false, Nat.sub_zero] using hbit
  | true =>
    have hodd : s.fget f / 2 ^ i % 2 = 1 := by simpa [bitN, Nat.shiftRight_eq_div_pow] using hbit
    have hsub : (s.fget f - 2 ^ i) / 2 ^ i = s.fget f / 2 ^ i - 1 := by simpa using Nat.sub_mul_div (s.fget f) (2 ^ i) 1
    have heven : ¬ (s.fget f / 2 ^ i - 1) % 2 = 1 := by omega
    simpa [bitN, Nat.shiftRight_eq_div_pow, hsub] using heven

/-! ## Interrupts (R322) -/

@[simp] theorem State.regs_raiseVec (s : State) (v : Nat) : (s.raiseVec v).regs = s.regs := by
  unfold State.raiseVec
  split
  · split <;> rfl
  · rfl

/-- An interrupt cause that is raised stands in HUB.IRQ_STATUS. -/
theorem State.bitN_irq (s : State) {k : Nat} (hk : k < 6) : bitN ((s.irq k).fget irqBits) k = true := by
  have hset : bitN ((s.fsetBit irqBits k true).fget irqBits) k = true := by
    rw [State.bitN_fsetBit_true (f := irqBits) (by decide) hk, decide_eq_true rfl, Bool.true_or]
  cases hbit : bitN (s.fget irqBits) k with
  | true => rw [State.irq, if_pos hbit, hbit]
  | false =>
    rw [State.irq, if_neg (ne_true_of_eq_false hbit)]
    dsimp only
    split
    · have hget : ((s.fsetBit irqBits k true).raiseVec (irqVector k)).fget irqBits = (s.fsetBit irqBits k true).fget irqBits :=
        congrArg irqBits.of (State.reg_congr (State.regs_raiseVec _ _) _)
      rwa [hget]
    · exact hset

/-- Raising an interrupt leaves the fields of every other register. -/
theorem State.fget_irq (s : State) (k : Nat) {f : Fld} (hf : f.off ≠ R.HUB_IRQ_STATUS) : (s.irq k).fget f = s.fget f :=
  State.fget_of_regsBut (s.regsBut_irq k) (by simpa using hf)

theorem State.onlyLogs.ing (h : s.onlyLogs t) : t.ing = s.ing := by
  obtain ⟨r, i, c, w, e, n, rfl⟩ := h
  rfl

/-! ## Bytes in words (R2) -/

theorem ofBytes_lt (bs : List Byte) : ofBytes bs < 256 ^ bs.length := by
  induction bs with
  | nil => decide
  | cons b bs ih =>
    have hb := b.isLt
    rw [ofBytes, List.length_cons, Nat.pow_succ]
    omega

/-- The bytes of the number that bytes spell begin with those bytes. -/
theorem take_bytesOf_ofBytes (n : Nat) (bs : List Byte) (h : bs.length ≤ n) : (bytesOf n (ofBytes bs)).take bs.length = bs := by
  induction bs generalizing n with
  | nil => rfl
  | cons b bs ih =>
    obtain ⟨n, rfl⟩ : ∃ m, n = m + 1 := ⟨n - 1, by simp only [List.length_cons] at h; omega⟩
    have hb := b.isLt
    have hhead : BitVec.ofNat 8 (b.toNat + 256 * ofBytes bs) = b := BitVec.eq_of_toNat_eq (by rw [BitVec.toNat_ofNat]; omega)
    have htail : (b.toNat + 256 * ofBytes bs) / 256 = ofBytes bs := by omega
    rw [ofBytes, bytesOf, hhead, htail, List.length_cons, List.take_succ_cons, ih n (by simpa using h)]

/-! ## Windows of BAR0 words (R260) -/

/-- A window whose words read as before holds the same bytes. -/
theorem State.winBytes_congr {o : Nat} (n : Nat) (h : ∀ p, o ≤ p → t.reg p = s.reg p) : t.winBytes o n = s.winBytes o n := by
  unfold State.winBytes
  simp only [h _ (Nat.le_add_right o _)]

/-- The bytes of a window are those of its first word and those of the window that follows it. -/
theorem State.winBytes_cons (s : State) (o : Nat) {n : Nat} (hn : 0 < n) :
    s.winBytes o n = (bytesOf 4 (s.reg o).toNat).take n ++ s.winBytes (o + 4) (n - 4) := by
  have hcount : cdiv n 4 = cdiv (n - 4) 4 + 1 := by unfold cdiv; omega
  have hoff (i : Nat) : o + 4 * (i + 1) = o + 4 + 4 * i := by omega
  simp only [State.winBytes, hcount, List.range_succ_eq_map, List.flatMap_cons, List.flatMap_map, Nat.mul_zero, Nat.add_zero,
    Nat.succ_eq_add_one, hoff, List.take_append, bytesOf_length]

/-- Storing bytes into a window leaves the words below it. -/
theorem State.reg_putWin_below {p : Nat} (n : Nat) {o : Nat} (bs : List Byte) (h : p < o) : (s.putWin n o bs).reg p = s.reg p := by
  induction n generalizing s o bs with
  | zero => rfl
  | succ n ih =>
    rw [State.putWin]
    split
    · rfl
    · rw [ih (bs := bs.drop 4) (by omega), State.reg_setReg_other s _ (by omega)]

theorem State.sameMem_putWin (n o : Nat) (bs : List Byte) : s.sameMem (s.putWin n o bs) := by
  induction n generalizing s o bs with
  | zero => exact s.sameMem_refl
  | succ n ih =>
    rw [State.putWin]
    split
    · exact s.sameMem_refl
    · exact State.sameMem_trans (s.sameMem_setReg _ _) (ih _ _)

/-- Bytes stored into a window that holds them are read back from it. -/
theorem State.winBytes_putWin {n : Nat} (o : Nat) {bs : List Byte} (h : bs.length ≤ 4 * n) :
    (s.putWin n o bs).winBytes o bs.length = bs := by
  induction n generalizing s o bs with
  | zero =>
    obtain rfl : bs = [] := List.length_eq_zero_iff.mp (by omega)
    rfl
  | succ n ih =>
    cases hbs : bs with
    | nil => rfl
    | cons b tail =>
      rw [← hbs]
      have hne : bs.isEmpty = false := by rw [hbs]; rfl
      have hpos : 0 < bs.length := by rw [hbs]; exact Nat.succ_pos _
      have hlen : (bs.take 4).length ≤ 4 := List.length_take_le _ _
      have hlt : ofBytes (bs.take 4) < 2 ^ 32 := (ofBytes_lt _).trans_le (Nat.pow_le_pow_right (by decide : 256 > 0) hlen)
      have hfirst : (bytesOf 4 (ofBytes (bs.take 4))).take bs.length = bs.take 4 := by
        have hspelt := take_bytesOf_ofBytes 4 (bs.take 4) hlen
        rwa [List.length_take, ← List.take_take, List.take_of_length_le (i := 4) ?_] at hspelt
        simp only [List.length_take, bytesOf_length]
        omega
      have hrest := ih (s := s.setReg o (BitVec.ofNat 32 (ofBytes (bs.take 4)))) (o + 4) (bs := bs.drop 4) (by rw [List.length_drop]; omega)
      rw [List.length_drop] at hrest
      rw [State.putWin, if_neg (ne_true_of_eq_false hne), State.winBytes_cons _ o hpos, hrest, State.reg_putWin_below n _ (by omega),
        State.reg_setReg_same, BitVec.toNat_ofNat, Nat.mod_eq_of_lt hlt, hfirst, List.take_append_drop]

/-! ## Mailboxes (R260) -/

theorem MBX_CTRL_lt_mbxBase (c d : Fin 4) : R.ING_MBX_CTRL c < mbxBase d := by
  simp only [R.ING_MBX_CTRL, mbxBase]
  omega

/-- A MAILBOX_SEND that no rule bars comes to its own row. -/
theorem exec_mailboxSend {c : Fin 4} (v : Word) (h : s.hostOk (R.ING_MBX_CTRL c)) :
    exec (.mailboxSend c v) s = .next (mailboxSendEff s c (v ||| 0x400)) := by
  have hreg : ∀ c : Fin 4, (regAt (R.ING_MBX_CTRL c)).isSome = true ∧ jobLocked (R.ING_MBX_CTRL c) = false := by decide +kernel
  have hnum : R.ING_MBX_CTRL c = 0x20080 + c * 0x4 := rfl
  have hmbx : 0x20080 ≤ 0x20080 + c.val * 0x4 ∧ 0x20080 + c.val * 0x4 < 0x20090 := by omega
  have hc : (0x20080 + c.val * 0x4 - 0x20080) / 4 = c := by omega
  refine congrArg Host.Outcome.next ((State.regWrite_ing (v ||| 0x400) _ h ?_ ?_ ?_ ?_ (hreg c).1 (hreg c).2).trans ?_)
  · omega
  · omega
  · omega
  · omega
  · rw [ingWrite, hnum, if_pos hmbx, hc]

/-- The go bit that the row sets is beside the length that is written. -/
theorem mailboxSend_word (v : Word) (h : bitW v 27 = false) :
    bitsW (v ||| 0x400) 0 10 = bitsW v 0 10 ∧ bitW (v ||| 0x400) 10 = true ∧ bitW (v ||| 0x400) 27 = false := by
  refine ⟨?_, ?_, ?_⟩
  · simp [bitsW, bitsN, BitVec.toNat_or, Nat.or_mod_two_pow (n := 10)]
  · rw [bitW, BitVec.getLsbD_or, Bool.or_eq_true]
    exact .inr (by decide)
  · rw [bitW, BitVec.getLsbD_or, Bool.or_eq_false_iff]
    exact ⟨h, by decide⟩

/-- The state in which a camera's packet is being sent: its length and go stand in ING.MBX_CTRL. -/
def State.mailboxGone (s : State) (c n : Nat) : State := (s.fset (F.ING_MBX_CTRL_tx_len c) n).fset (F.ING_MBX_CTRL_go c) 1

@[simp] theorem State.fget_mapLin (s : State) (f : LinSt → LinSt) (fld : Fld) : (s.mapLin f).fget fld = s.fget fld := rfl

/-- A write with go that releases no receive window sends the payload of the transmit window. -/
theorem mailboxSendEff_go {c : Fin 4} {v : Word} (hgo : bitW v 10 = true) (hrx : bitW v 27 = false) :
    mailboxSendEff s c v =
      (s.mailboxGone c (bitsW v 0 10)).mapLin fun l => { l with uplink := l.uplink ++ [(c.val, s.winBytes (mbxBase c) (bitsW v 0 10))] } := by
  have hwin : (s.fset (F.ING_MBX_CTRL_tx_len c) (bitsW v 0 10)).winBytes (mbxBase c) (bitsW v 0 10) = s.winBytes (mbxBase c) (bitsW v 0 10) :=
    State.winBytes_congr _ fun p hp => State.reg_setReg_other s _ (Nat.ne_of_gt ((MBX_CTRL_lt_mbxBase c c).trans_le hp))
  simp only [mailboxSendEff, hgo, hrx, Bool.false_eq_true, if_false, if_true, hwin, State.mailboxGone]

theorem State.mailboxGone_spec (s : State) (c : Nat) {n : Nat} (hn : n < 2 ^ 10) :
    (s.mailboxGone c n).fbit (F.ING_MBX_CTRL_go c) = true ∧ (s.mailboxGone c n).fget (F.ING_MBX_CTRL_tx_len c) = n ∧
      s.regsBut (s.mailboxGone c n) [R.ING_MBX_CTRL c] := by
  refine ⟨?_, ?_, State.regsBut_trans (State.regsBut_fset _ _ _) (State.regsBut_fset _ _ _)⟩
  · rw [State.fbit, State.mailboxGone, State.fget_fset_same _ _ _ (show 10 + 1 ≤ 32 by decide)]
    rfl
  · rw [State.mailboxGone, State.fget_fset_beside _ (F.ING_MBX_CTRL_go c) (F.ING_MBX_CTRL_tx_len c) _ rfl (show 0 + 10 ≤ 32 by decide)
        (.inl (show 0 + 10 ≤ 10 by decide)),
      State.fget_fset_same _ _ _ (show 0 + 10 ≤ 32 by decide)]
    exact Nat.mod_eq_of_lt hn

/-- ING.MBX_CTRL with the length and kind of what stands in the receive window, which is full. -/
def State.rxFilled (s : State) (c n : Nat) (ev : Bool) : State :=
  ((s.fset (F.ING_MBX_CTRL_rx_len c) n).fset (F.ING_MBX_CTRL_rx_kind c) (if ev then 1 else 0)).fset (F.ING_MBX_CTRL_rx_full c) 1

theorem State.rxFilled_spec (s : State) (c : Nat) {n : Nat} (hn : n < 2 ^ 10) (ev : Bool) :
    (s.rxFilled c n ev).fget (F.ING_MBX_CTRL_rx_len c) = n ∧ (s.rxFilled c n ev).fbit (F.ING_MBX_CTRL_rx_kind c) = ev ∧
      (s.rxFilled c n ev).fbit (F.ING_MBX_CTRL_rx_full c) = true ∧ s.regsBut (s.rxFilled c n ev) [R.ING_MBX_CTRL c] ∧
      s.sameMem (s.rxFilled c n ev) := by
  refine ⟨?_, ?_, ?_, State.regsBut_trans (State.regsBut_trans (State.regsBut_fset _ _ _) (State.regsBut_fset _ _ _)) (State.regsBut_fset _ _ _),
    State.sameMem_of_eq rfl rfl rfl⟩
  · have hlen : 16 + 10 ≤ 32 := by decide
    rw [State.rxFilled,
      State.fget_fset_beside _ (F.ING_MBX_CTRL_rx_full c) (F.ING_MBX_CTRL_rx_len c) _ rfl hlen (.inl (show 16 + 10 ≤ 27 by decide)),
      State.fget_fset_beside _ (F.ING_MBX_CTRL_rx_kind c) (F.ING_MBX_CTRL_rx_len c) _ rfl hlen (.inl (show 16 + 10 ≤ 26 by decide)),
      State.fget_fset_same _ _ _ hlen]
    exact Nat.mod_eq_of_lt hn
  · have hkind : 26 + 1 ≤ 32 := by decide
    rw [State.fbit, State.rxFilled,
      State.fget_fset_beside _ (F.ING_MBX_CTRL_rx_full c) (F.ING_MBX_CTRL_rx_kind c) _ rfl hkind (.inl (show 26 + 1 ≤ 27 by decide)),
      State.fget_fset_same _ _ _ hkind]
    cases ev <;> rfl
  · rw [State.fbit, State.rxFilled, State.fget_fset_same _ _ _ (show 27 + 1 ≤ 32 by decide)]
    rfl

/-- A reply or event for an empty receive window of at most 1,023 bytes is stored in it and reported. -/
theorem replyOrEventPacketEff_empty {c : Fin 4} {bs : List Byte} (ev : Bool) (hlen : bs.length ≤ 1023)
    (hempty : s.fbit (F.ING_MBX_CTRL_rx_full c) = false) :
    replyOrEventPacketEff s c ev bs = ((s.putWin 256 (mbxBase c + 0x400) bs).rxFilled c bs.length ev).irq 3 := by
  simp only [replyOrEventPacketEff, hempty, Bool.false_eq_true, if_false, List.take_of_length_le hlen, State.rxFilled]

/-- A full receive window counts the packet as lost. -/
theorem replyOrEventPacketEff_full {c : Fin 4} (ev : Bool) (bs : List Byte) (hfull : s.fbit (F.ING_MBX_CTRL_rx_full c) = true) :
    replyOrEventPacketEff s c ev bs = s.fcount (F.ING_MBX_CTRL_rx_lost c) 1 := if_pos hfull

/-- The window keeps what was stored in it while the packet's length and kind are written and the interrupt is raised. -/
theorem winBytes_replyOrEvent {c : Fin 4} {bs : List Byte} (ev : Bool) (hlen : bs.length ≤ 1023) :
    (((s.putWin 256 (mbxBase c + 0x400) bs).rxFilled c bs.length ev).irq 3).winBytes (mbxBase c + 0x400) bs.length = bs := by
  obtain ⟨-, -, -, hregs, -⟩ := (s.putWin 256 (mbxBase c + 0x400) bs).rxFilled_spec c (n := bs.length) (by omega) ev
  have hctrl := MBX_CTRL_lt_mbxBase c c
  have hirq : R.HUB_IRQ_STATUS < mbxBase c := by simp only [R.HUB_IRQ_STATUS, mbxBase]; omega
  refine (State.winBytes_congr _ fun p hp => ?_).trans (State.winBytes_putWin (s := s) (n := 256) (mbxBase c + 0x400) (by omega))
  have hp1 : p ≠ R.HUB_IRQ_STATUS := by omega
  have hp2 : p ≠ R.ING_MBX_CTRL c := by omega
  rw [State.regsBut_irq _ 3 p (by simpa using hp1), hregs p (by simpa using hp2)]

/-! ## Cameras of a link (R262) -/

/-- The state in which every line of these cameras is missing. -/
def State.loseCams (s : State) (cs : List Nat) : State := cs.foldl (fun s c => s.setCam c { s.cam c with lost := true }) s

theorem State.loseCams_logs (s : State) (cs : List Nat) : (s.loseCams cs).regs = s.regs ∧ s.sameMem (s.loseCams cs) := by
  induction cs generalizing s with
  | nil => exact ⟨rfl, s.sameMem_refl⟩
  | cons c cs ih =>
    obtain ⟨hregs, hmem⟩ := ih (s.setCam c { s.cam c with lost := true })
    exact ⟨hregs, State.sameMem_trans (State.sameMem_of_eq rfl rfl rfl) hmem⟩

/-- A camera that has lost a line, or is among those that lose theirs, has lost it. -/
theorem State.lost_loseCams {c : Nat} (cs : List Nat) (hc : c < s.ing.cams.length) (h : c ∈ cs ∨ (s.cam c).lost = true) :
    ((s.loseCams cs).cam c).lost = true := by
  induction cs generalizing s with
  | nil =>
    obtain h | h := h
    · exact absurd h List.not_mem_nil
    · exact h
  | cons d cs ih =>
    have hlen : (s.setCam d { s.cam d with lost := true }).ing.cams.length = s.ing.cams.length := setNth_length _ _ _
    refine ih (s := s.setCam d { s.cam d with lost := true }) (hlen.symm ▸ hc) ?_
    by_cases hcd : c = d
    · subst hcd
      exact .inr (congrArg CamSt.lost (nth_setNth_same CamSt.init s.ing.cams c { s.cam c with lost := true } hc))
    · have hcam : (s.setCam d { s.cam d with lost := true }).cam c = s.cam c := nth_setNth_other _ _ _ hcd
      rw [hcam]
      exact h.imp_left fun hmem => (List.mem_cons.mp hmem).resolve_left hcd

theorem State.camsOfLink_lt {c l : Nat} (h : c ∈ s.camsOfLink l) : c < 4 := by
  simp only [State.camsOfLink, State.cams, List.mem_filter, List.mem_range] at h
  exact h.1.1

/-- The cameras of a link are those that ING.CAM_CFG names. -/
theorem State.camsOfLink_congr (h : ∀ c < 4, t.reg (R.ING_CAM_CFG c) = s.reg (R.ING_CAM_CFG c)) (l : Nat) : t.camsOfLink l = s.camsOfLink l := by
  have hlinks (c : Nat) (hc : c < 4) : t.fget (F.ING_CAM_CFG_links c) = s.fget (F.ING_CAM_CFG_links c) :=
    congrArg (F.ING_CAM_CFG_links c).of (h c hc)
  have hfirst (c : Nat) (hc : c < 4) : t.fget (F.ING_CAM_CFG_link_first c) = s.fget (F.ING_CAM_CFG_link_first c) :=
    congrArg (F.ING_CAM_CFG_link_first c).of (h c hc)
  simp only [State.camsOfLink, State.cams, List.filter_filter]
  refine List.filter_congr fun c hc => ?_
  rw [State.camOn, State.camOn, hlinks c (List.mem_range.mp hc), hfirst c (List.mem_range.mp hc)]

/-- ING.LINK_STATUS of a link that has lost its lock, with the error noted. -/
def State.unlocked (s : State) (l : Nat) : State :=
  ((s.note 0x0201).fsetBit F.ING_LINK_STATUS_lock l false).fsetBit F.ING_LINK_STATUS_lost l true

theorem State.unlocked_spec (s : State) (l : Fin 8) :
    bitN ((s.unlocked l).fget F.ING_LINK_STATUS_lock) l = false ∧ bitN ((s.unlocked l).fget F.ING_LINK_STATUS_lost) l = true ∧
      s.logsIn (s.unlocked l) [R.ING_LINK_STATUS] := by
  have hmem : R.ING_LINK_STATUS ∈ [R.ING_LINK_STATUS] := List.mem_singleton_self _
  refine ⟨?_, ?_, (((State.logsIn.refl s _).note 0x0201).fset F.ING_LINK_STATUS_lock _ hmem).fset F.ING_LINK_STATUS_lost _ hmem⟩
  · have hbeside := ((s.note 0x0201).fsetBit F.ING_LINK_STATUS_lock l false).fget_fset_beside F.ING_LINK_STATUS_lost F.ING_LINK_STATUS_lock
    rw [State.unlocked, State.fsetBit, hbeside _ rfl (by decide) (by decide)]
    exact State.bitN_fsetBit_false (f := F.ING_LINK_STATUS_lock) (by decide) l
  · rw [State.unlocked, State.bitN_fsetBit_true (f := F.ING_LINK_STATUS_lost) (by decide) l.isLt, decide_eq_true rfl, Bool.true_or]

theorem exec_linkLockLost (s : State) (l : Fin 8) :
    exec (.linkLockLost l) s = .next (((s.unlocked l).loseCams (s.camsOfLink l)).irq 3) := by
  have hrun : exec (.linkLockLost l) s = .next (((s.unlocked l).loseCams ((s.unlocked l).camsOfLink l)).irq 3) := rfl
  obtain ⟨-, -, -, hregs⟩ := s.unlocked_spec l
  rw [hrun, State.camsOfLink_congr fun c hc => hregs (R.ING_CAM_CFG c) ?_]
  simp only [R.ING_CAM_CFG, R.ING_LINK_STATUS, List.mem_singleton]
  omega

end Sys2Proof.Machine

open Sys2Proof Sys2Proof.Machine

/-- Settles O55: a mailbox's window and ING.MBX_CTRL are written apart, and the interrupt after them; a lost lock is written to ING.LINK_STATUS before
the link's cameras and the interrupt, which leave it. -/
theorem linksAndMailboxes : Obligations.LinksAndMailboxes := by
  unfold Obligations.LinksAndMailboxes
  refine ⟨?send, ?sent, ?reply, ?late, fun _ _ => rfl, ?lost, ?relock⟩
  case send =>
    intro c v s hok hrx
    obtain ⟨hlen, hgo, hkept⟩ := mailboxSend_word v hrx
    obtain ⟨hgone, htx, hregs⟩ := s.mailboxGone_spec c (n := bitsW v 0 10) (bitsN_lt v.toNat 0 10)
    have hrun := exec_mailboxSend v hok
    rw [mailboxSendEff_go hgo hkept, hlen] at hrun
    refine ⟨_, hrun, ?_, ?_, ?_, State.regsBut_trans hregs (State.regsBut_of_regs (State.mapLin_regs _ _) _), State.sameMem_of_eq rfl rfl rfl⟩
    · rw [State.fbit, State.fget_mapLin]
      exact hgone
    · rw [State.fget_mapLin]
      exact htx
    · rw [State.mapLin_lin]
      rfl
  case sent =>
    intro c s
    have hgo : (s.fset (F.ING_MBX_CTRL_go c) 0).fget (F.ING_MBX_CTRL_go c) = 0 := s.fget_fset_same _ 0 (show 10 + 1 ≤ 32 by decide)
    refine ⟨_, rfl, ?_, rfl, s.regsBut_fset _ _, State.sameMem_of_eq rfl rfl rfl⟩
    rw [State.fbit, hgo]
    rfl
  case reply =>
    intro c ev bs s hlen
    refine ⟨replyOrEventPacketEff s c ev bs, rfl, ?_⟩
    cases hrx : s.fbit (F.ING_MBX_CTRL_rx_full c) with
    | false =>
      have hctrl : R.ING_MBX_CTRL c ≠ R.HUB_IRQ_STATUS := by simp only [R.ING_MBX_CTRL, R.HUB_IRQ_STATUS]; omega
      obtain ⟨hrxlen, hkind, hfull, -, hmem⟩ := (s.putWin 256 (mbxBase c + 0x400) bs).rxFilled_spec c (n := bs.length) (by omega) ev
      rw [replyOrEventPacketEff_empty ev hlen hrx]
      refine ⟨State.sameMem_trans (State.sameMem_trans (State.sameMem_putWin _ _ _) hmem) (State.onlyLogs_irq _ 3).sameMem, fun _ => ?_,
        fun h => absurd h Bool.false_ne_true⟩
      refine ⟨winBytes_replyOrEvent ev hlen, (State.fget_irq _ 3 hctrl).trans hrxlen, ?_, ?_, State.bitN_irq _ (by decide)⟩
      · rw [State.fbit, State.fget_irq _ 3 hctrl]
        exact hkind
      · rw [State.fbit, State.fget_irq _ 3 hctrl]
        exact hfull
    | true =>
      rw [replyOrEventPacketEff_full ev bs hrx]
      exact ⟨(s.onlyLogs_fcount _ 1).sameMem, fun h => absurd h.symm Bool.false_ne_true,
        fun _ => ⟨s.fget_fcount_same _ 1 (show 28 + 4 ≤ 32 by decide), s.regsBut_fcount _ 1⟩⟩
  case late =>
    intro c s
    have hbit := State.bitN_fsetBit_true (s := s.note 0x0206) (f := F.ING_LINK_STATUS_hb_late) (by decide) c.isLt c
    obtain ⟨hlogs, hregs⟩ := (((State.logsIn.refl s [R.ING_LINK_STATUS, R.HUB_IRQ_STATUS]).note 0x0206).fset F.ING_LINK_STATUS_hb_late _
      (by decide)).irq 3 (by decide)
    refine ⟨_, rfl, ?_, State.bitN_irq _ (by decide), hregs, hlogs.sameMem⟩
    rw [State.fget_irq _ 3 (by decide), hbit, decide_eq_true rfl, Bool.true_or]
  case lost =>
    intro l s hshape
    obtain ⟨hlock, hlost, hlogs⟩ := s.unlocked_spec l
    obtain ⟨hregs, hmem⟩ := (s.unlocked l).loseCams_logs (s.camsOfLink l)
    have hkeeps (f : Fld) (hf : f.off ≠ R.HUB_IRQ_STATUS) :
        (((s.unlocked l).loseCams (s.camsOfLink l)).irq 3).fget f = (s.unlocked l).fget f :=
      (State.fget_irq _ 3 hf).trans (congrArg f.of (State.reg_congr hregs f.off))
    have hcams : (s.unlocked l).ing.cams.length = 4 := by
      obtain ⟨⟨hcams, -⟩, -⟩ := hshape
      rw [hlogs.1.ing, hcams]
    refine ⟨_, exec_linkLockLost s l, ?_, ?_, fun c hc => ?_, State.bitN_irq _ (by decide), ?_, ?_⟩
    · rw [hkeeps _ (by decide), hlock]
    · rw [hkeeps _ (by decide), hlost]
    · have hing := (State.onlyLogs_irq ((s.unlocked l).loseCams (s.camsOfLink l)) 3).ing
      have hcam := State.lost_loseCams (s.camsOfLink l) (hcams.symm ▸ State.camsOfLink_lt hc) (.inl hc)
      exact (congrArg (fun g : IngSt => (nth CamSt.init g.cams c).lost) hing).trans hcam
    · refine State.regsBut_trans (State.regsBut_mono (by simp) hlogs.2) ?_
      exact State.regsBut_trans (State.regsBut_of_regs hregs _) (State.regsBut_mono (by simp) (State.regsBut_irq _ 3))
    · exact State.sameMem_trans (State.sameMem_trans hlogs.1.sameMem hmem) (State.onlyLogs_irq _ 3).sameMem
  case relock =>
    intro l s
    have hbit := State.bitN_fsetBit_true (s := s) (f := F.ING_LINK_STATUS_lock) (by decide) l.isLt
    refine ⟨_, rfl, ?_, fun k hk => ?_, s.regsBut_fset _ _, State.sameMem_of_eq rfl rfl rfl⟩
    · rw [hbit, decide_eq_true rfl, Bool.true_or]
    · rw [hbit, decide_eq_false (Fin.val_ne_of_ne hk), Bool.false_or]

end

section
/-!
PROOFS. FENCE and the writes it waits for (10 R303; 12 R344, R349): what taking a FENCE comes to, and the write of one whole HyperRAM block,
after whose acceptance nothing is left to wait for.
-/
namespace Sys2Proof.Machine

variable {s : State}

/-! ## Completions with code 0 (R325) -/

/-- Code 0 is no error: recording it leaves the state. -/
theorem State.note_zero (s : State) : s.note 0 = s := by
  unfold State.note
  split
  case isTrue h =>
    have hfirst : s.job.firstErr = 0 := by simpa using (Bool.and_eq_true_iff.mp h).2
    have hjob : { s.job with firstErr := 0 } = s.job := by rw [← hfirst]
    rw [State.mapJob, hjob]
  case isFalse => rfl

/-- So a completion with code 0 adds its entry for ring 1, and nothing else. -/
theorem State.complete_zero (s : State) (tag op result : Nat) (irq : Bool) :
    s.complete tag op 0 result irq = s.mapCp fun c => { c with comps := c.comps ++ [⟨1, tag, op, 0, result, irq⟩] } := by
  rw [State.complete_ok s tag op 0 result irq (.inl rfl), State.raise, if_neg (by decide), State.note_zero]

/-- The command in hand completes with code 0. -/
theorem State.serialDone_zero {c : Cmd} (h : s.cp.serial = some c) (result : Nat) :
    s.serialDone 0 result = s.mapCp fun x =>
      { x with serial := none, comps := x.comps ++ [⟨1, c.e.tag.toNat, c.op, 0, result, c.e.flags.getLsbD 0⟩] } := by
  simp only [State.serialDone, h]
  exact State.complete_zero _ _ _ _ _

/-! ## Taking a FENCE (R303) -/

theorem exec_fence_takes {e : CmdEntry} (htakes : s.takes) (hform : malformed ⟨6, e, [], 0⟩ = false) :
    exec (.fence e) s = .next (takeFence s.consumed ⟨6, e, [], 0⟩) :=
  runCmd_takes_wellFormed htakes (by decide) hform (by simp [State.replayFull]) (by simp [State.placeWaits])

/-- With no write outstanding a FENCE answers at once. -/
theorem takeFence_none {e : CmdEntry} (h : s.str.writes = []) :
    takeFence s ⟨6, e, [], 0⟩ = s.mapCp fun c => { c with comps := c.comps ++ [doneEntry 6 e 0 0] } :=
  (if_pos (List.isEmpty_iff.mpr h)).trans (State.complete_zero _ _ _ _ _)

/-- With one outstanding it stays in hand and marks the writes issued so far. -/
theorem takeFence_some {e : CmdEntry} (h : s.str.writes ≠ []) :
    takeFence s ⟨6, e, [], 0⟩ =
      (s.mapStr fun x => { x with fenceTo := some x.nextWrite }).mapCp fun x => { x with serial := some ⟨6, e, [], 0⟩ } :=
  if_neg fun hnone => h (List.isEmpty_iff.mp hnone)

/-! ## A whole HyperRAM block (R341, R344) -/

/-- The state in which the block at `a` has been written whole: its bytes, its poison mark, no error. -/
def State.blockStored (s : State) (a : Nat) (bs : List Byte) (p : Bool) : State := ((s.putBytes a bs).setPoison a p).setUpset a 0

theorem State.blockStored_eq (s : State) (a : Nat) (bs : List Byte) (p : Bool) :
    ∃ m q x, s.blockStored a bs p = { s with mem := m, poison := q, upset := x } := by
  rw [State.blockStored, State.putBytes_eq]
  exact ⟨_, _, _, rfl⟩

/-- The block reads as it was written, and every byte outside it as before. -/
theorem State.blockStored_spec (s : State) (a : Nat) (bs : List Byte) (p : Bool) :
    (s.blockStored a bs p).bytesAt a bs.length = bs ∧ (s.blockStored a bs p).poisoned a = p ∧
      ∀ b, (b < a ∨ a + bs.length ≤ b) → (s.blockStored a bs p).byte b = s.byte b :=
  ⟨(State.bytesAt_congr (s := s.putBytes a bs) (t := s.blockStored a bs p) fun _ _ _ => rfl).trans (s.bytesAt_putBytes a bs),
    ((s.putBytes a bs).poisoned_rewrite a a p).trans (if_pos rfl), fun b hb => s.byte_putBytes_outside a b bs hb⟩

/-- A write of one aligned block outside the Blend store stores that block. -/
theorem writeHyper_block {a src : Nat} {bs : List Byte} (p : Bool) (ha : a % 32 = 0) (hlen : bs.length = 32)
    (hblend : s.hitsBstore a 32 = false) : writeHyper s a bs p src = s.blockStored a bs p := by
  have hne : bs.isEmpty = false := List.isEmpty_eq_false_iff.mpr (List.ne_nil_of_length_pos (by omega))
  have htake : bs.take 32 = bs := List.take_of_length_le hlen.le
  have hdrop : bs.drop 32 = [] := List.drop_of_length_le hlen.le
  rw [writeHyper, hlen, writeBlocks]
  simp only [hne, ha, Nat.sub_zero, hblend, htake, hdrop, Bool.and_false, Bool.false_eq_true, if_false, writeBlock, hlen, if_true]
  rfl

/-! ## The acceptance of the last write (R303, R344, R349) -/

theorem exec_hyperramWriteAccepted (ch : Fin 4) (s : State) : exec (.hyperramWriteAccepted ch) s = .next (writeAcceptedEff s ch) := rfl

/-- The only write outstanding is the oldest of its channel. -/
theorem find?_only {ch : Nat} {w : HyperWr} (hone : s.str.writes = [w]) (hchan : s.chanOf (w.addr - hyperBase) = some ch) :
    (s.str.writes.find? fun w => s.chanOf (w.addr - hyperBase) == some ch) = some w := by
  simp [hone, hchan]

theorem writeAcceptedEff_only {ch : Nat} {w : HyperWr} (hone : s.str.writes = [w]) (hchan : s.chanOf (w.addr - hyperBase) = some ch)
    (hready : s.chanInit ch = false) : writeAcceptedEff s ch = (s.acceptWrite w).pump := by
  rw [writeAcceptedEff, if_neg (ne_true_of_eq_false hready), find?_only hone hchan]

theorem writeAcceptedEff_waits {ch : Nat} (hinit : s.chanInit ch = true) : writeAcceptedEff s ch = s := by
  rw [writeAcceptedEff, if_pos hinit]

/-- A FENCE in hand completes when no write is left. -/
theorem State.fenceCheck_none {n : Nat} (hfence : s.str.fenceTo = some n) (hnone : s.str.writes = []) :
    s.fenceCheck = (s.mapStr fun x => { x with fenceTo := none }).serialDone 0 0 := by
  simp [State.fenceCheck, hfence, hnone]

/-- The state in which a write is no longer outstanding. -/
def State.writeGone (s : State) (w : HyperWr) : State := s.mapStr fun x => { x with writes := x.writes.filter fun y => y.no != w.no }

/-- Which addresses are reachable does not depend on the writes outstanding. -/
theorem State.spanOk_mapStr (s : State) (f : StrSt → StrSt) (a n : Nat) : (s.mapStr f).spanOk a n = s.spanOk a n := by
  have hterrace (p : Nat) : (s.mapStr f).terraceOk p = s.terraceOk p := rfl
  have hchan (o : Nat) : (s.mapStr f).chanOf o = s.chanOf o := rfl
  have haddr (p : Nat) : (s.mapStr f).addrOk p = s.addrOk p := by
    unfold State.addrOk
    rw [hterrace, hchan]
    cases s.chanOf (p - hyperBase) <;> rfl
  simp only [State.spanOk, haddr]

/-- The acceptance of a whole block that is reachable and outside the Blend store stores the block. -/
theorem State.acceptWrite_block {w : HyperWr} (ha : w.addr % 32 = 0) (hlen : w.bytes.length = 32) (hspan : s.spanOk w.addr 32 = true)
    (hblend : s.hitsBstore w.addr 32 = false) :
    s.acceptWrite w = ((s.writeGone w).blockStored w.addr w.bytes w.poison).writeDone w.no := by
  have hreach : (s.writeGone w).spanOk w.addr w.bytes.length = true := (s.spanOk_mapStr _ _ _).trans (hlen ▸ hspan)
  have hstore := writeHyper_block (s := s.writeGone w) (src := wrSource w.chan) w.poison ha hlen hblend
  unfold State.writeGone at hreach hstore ⊢
  simp only [State.acceptWrite, hreach, if_true, hstore]

/-- The last write has been accepted: the FENCE in hand completes, and no FENCE waits. -/
theorem State.writeDone_last {n no : Nat} {c : Cmd} (hnone : s.str.writes = []) (hfence : s.str.fenceTo = some n)
    (hserial : s.cp.serial = some c) :
    ∃ x : StrSt, s.writeDone no =
      { s with
        str := x
        cp := { s.cp with serial := none, comps := s.cp.comps ++ [⟨1, c.e.tag.toNat, c.op, 0, 0, c.e.flags.getLsbD 0⟩] } } ∧
      x.writes = [] ∧ x.fenceTo = none := by
  obtain ⟨x, hdone, hnone', hfence'⟩ :
      ∃ x : StrSt, s.writeDone no = (s.mapStr fun _ => x).fenceCheck ∧ x.writes = [] ∧ x.fenceTo = some n := ⟨_, rfl, hnone, hfence⟩
  rw [hdone, State.fenceCheck_none (s := s.mapStr fun _ => x) hfence' hnone',
    State.serialDone_zero (s := (s.mapStr fun _ => x).mapStr fun x => { x with fenceTo := none }) hserial]
  exact ⟨_, rfl, hnone', rfl⟩

end Sys2Proof.Machine
open Sys2Proof Sys2Proof.Machine

/-- Settles O10: a FENCE is taken at once and answers or stays in hand; the acceptance of the only write stores its block, after which nothing is
left to wait for. -/
theorem fenceWaitsForWrites : Obligations.FenceWaitsForWrites := by
  unfold Obligations.FenceWaitsForWrites
  refine ⟨fun e s htakes hform => ⟨fun hnone => ?atOnce, fun hsome => ?inHand⟩, ?accepted, ?waits⟩
  case atOnce =>
    exact ⟨_, (exec_fence_takes htakes hform).trans (congrArg _ (takeFence_none (s := s.consumed) hnone)), rfl, rfl, s.regsBut_consumed,
      s.sameMem_consumed⟩
  case inHand =>
    exact ⟨_, (exec_fence_takes htakes hform).trans (congrArg _ (takeFence_some (s := s.consumed) hsome)), rfl, rfl, rfl, s.regsBut_consumed,
      s.sameMem_consumed⟩
  case accepted =>
    intro ch e w n s hone hchan hready hfence _ hserial hcmds haddr hlen hspan hblend
    have hgone : (s.writeGone w).str.writes = [] := by simp [State.writeGone, hone]
    obtain ⟨hbytes, hpoison, hrest⟩ := (s.writeGone w).blockStored_spec w.addr w.bytes w.poison
    have hexec := (exec_hyperramWriteAccepted ch s).trans (congrArg _ (writeAcceptedEff_only hone hchan hready))
    rw [State.acceptWrite_block haddr hlen hspan hblend] at hexec
    obtain ⟨m, q, u, hstored⟩ := (s.writeGone w).blockStored_eq w.addr w.bytes w.poison
    rw [hstored] at hbytes hpoison hrest hexec
    obtain ⟨x, hdone, hwrites, hto⟩ := State.writeDone_last (s := { s.writeGone w with mem := m, poison := q, upset := u }) (no := w.no)
      hgone hfence hserial
    rw [hdone] at hexec
    rw [hlen] at hbytes hrest
    exact ⟨_, hexec.trans (congrArg _ (State.pump_nil hcmds)), hwrites, hto, rfl, rfl, hbytes, hpoison, hrest, fun _ _ => rfl⟩
  case waits =>
    intro ch w s _ _ hinit
    exact (exec_hyperramWriteAccepted ch s).trans (congrArg _ (writeAcceptedEff_waits hinit))

end

section
/-!
PROOFS. Channels of the Stream engine (10 R297, R298): setting one channel, how a host write of STR.CHn_CTRL comes to go, and what arming a
descriptor leaves.
-/
namespace Sys2Proof.Machine

variable {s t u : State}

/-! ## One channel of sixteen -/

theorem State.chan_setChan_same {n : Nat} (h : n < s.str.chans.length) (x : ChanSt) : (s.setChan n x).chan n = x := nth_setNth_same _ _ _ _ h

theorem State.chan_setChan_other (s : State) {m n : Nat} (h : m ≠ n) (x : ChanSt) : (s.setChan n x).chan m = s.chan m :=
  nth_setNth_other _ _ _ h

theorem State.chan_congr (h : t.str = s.str) (n : Nat) : t.chan n = s.chan n := congrArg (fun x : StrSt => nth _ x.chans n) h

/-- Between `s` and `t` no channel but `n` has changed, no register but those listed, and no memory. -/
def State.onlyChan (s t : State) (n : Nat) (os : List Nat) : Prop :=
  t.str.chans.length = s.str.chans.length ∧ (∀ m, m ≠ n → t.chan m = s.chan m) ∧ s.regsBut t os ∧ s.sameMem t

namespace State.onlyChan

variable {n : Nat} {os : List Nat}

theorem refl (s : State) (n : Nat) (os : List Nat) : s.onlyChan s n os := ⟨rfl, fun _ _ => rfl, s.regsBut_refl os, s.sameMem_refl⟩

theorem trans (h : s.onlyChan t n os) (h' : t.onlyChan u n os) : s.onlyChan u n os := by
  obtain ⟨hlen, hchan, hregs, hmem⟩ := h
  obtain ⟨hlen', hchan', hregs', hmem'⟩ := h'
  exact ⟨hlen'.trans hlen, fun m hm => (hchan' m hm).trans (hchan m hm), State.regsBut_trans hregs hregs', State.sameMem_trans hmem hmem'⟩

theorem mono {os' : List Nat} (h : s.onlyChan t n os) (hos : ∀ o ∈ os, o ∈ os') : s.onlyChan t n os' := by
  obtain ⟨hlen, hchan, hregs, hmem⟩ := h
  exact ⟨hlen, hchan, State.regsBut_mono hos hregs, hmem⟩

theorem setChan (h : s.onlyChan t n os) (x : ChanSt) : s.onlyChan (t.setChan n x) n os :=
  h.trans ⟨setNth_length _ _ _, fun _ hm => t.chan_setChan_other hm x, t.regsBut_refl os, t.sameMem_refl⟩

theorem mapStr (h : s.onlyChan t n os) (f : StrSt → StrSt) (hf : (f t.str).chans = t.str.chans) : s.onlyChan (t.mapStr f) n os :=
  h.trans ⟨congrArg List.length hf, fun m _ => congrArg (nth ChanSt.init · m) hf, t.regsBut_refl os, t.sameMem_refl⟩

theorem logsIn (h : s.onlyChan t n os) (hlogs : t.logsIn u os) : s.onlyChan u n os := by
  obtain ⟨hlogs, hregs⟩ := hlogs
  obtain ⟨-, -, -, -, hstr, -⟩ := hlogs.units
  exact h.trans ⟨congrArg (fun x : StrSt => x.chans.length) hstr, fun m _ => State.chan_congr hstr m, hregs, hlogs.sameMem⟩

theorem setReg (h : s.onlyChan t n os) (o : Nat) (v : Word) (ho : o ∈ os) : s.onlyChan (t.setReg o v) n os :=
  h.logsIn ⟨⟨_, _, _, _, _, _, rfl⟩, State.regsBut_mono (by simpa using ho) (t.regsBut_setReg o v)⟩

end State.onlyChan

/-! ## Arming a descriptor (R298) -/

/-- A descriptor becomes active at the start of its walk with no byte delivered: STR.CHn_BYTES starts again, and of the channel the shadow stays. -/
theorem State.activateDesc_eq (s : State) (n : Nat) (d : DescW) (fence : List Nat) (ord : Nat) :
    ∃ x : ChanSt, s.activateDesc n d fence ord = (s.setChan n x).setReg (R.STR_CH_BYTES n) 0 ∧ x.active = some d ∧
      x.shadow = (s.chan n).shadow ∧ x.moved = 0 ∧ x.walk = s.walkStart n d :=
  ⟨_, rfl, rfl, rfl, rfl, rfl⟩

/-- On an idle channel go makes a valid staged descriptor active. -/
theorem streamGoEff_idle {n : Nat} (hcode : s.descCode (s.staged16 n) = 0) (hidle : (s.chan n).active = none) :
    streamGoEff s n = (s.activateDesc n (s.staged16 n) (s.fenceOf (s.staged16 n)) s.str.nextOrder).nextArm := by
  have hfree : ((s.chan n).active.isNone || (s.chan n).halted) = true := by simp [hidle]
  exact (if_neg (not_not_intro hcode)).trans (if_pos hfree)

theorem reg_bytes_streamGoEff {n : Nat} (hcode : s.descCode (s.staged16 n) = 0) (hidle : (s.chan n).active = none) :
    (streamGoEff s n).reg (R.STR_CH_BYTES n) = 0 := by
  obtain ⟨x, hact, -⟩ := s.activateDesc_eq n (s.staged16 n) (s.fenceOf (s.staged16 n)) s.str.nextOrder
  rw [streamGoEff_idle hcode hidle, hact]
  exact (s.setChan n x).reg_setReg_same (R.STR_CH_BYTES n) 0

/-! ## STREAM_GO (R298, R314) -/

/-- A host write of a host channel's STR.CHn_CTRL that no rule bars comes to its own row. -/
theorem State.hostWrite_chCtrl {n : Fin 8} (h : s.hostOk (R.STR_CH_CTRL (8 + n))) (v : Word) :
    s.hostWrite (R.STR_CH_CTRL (8 + n)) v = chCtrlEff s .bar0 (R.STR_CH_CTRL (8 + n)) (8 + n) v := by
  obtain ⟨hreset, hbar⟩ := h
  have hreg : ∀ n : Fin 8, (regAt (R.STR_CH_CTRL (8 + n))).isSome = true ∧ jobLocked (R.STR_CH_CTRL (8 + n)) = false := by decide +kernel
  obtain ⟨hreg, hlock⟩ := hreg n
  have hnum : R.STR_CH_CTRL (8 + n) = 0x10000 + (8 + n.val) * 0x100 := rfl
  have hind : s.indOf (R.STR_CH_CTRL (8 + n)) = none := s.indOf_of_lt (by omega) (by
    simp only [R.VRD_CMAP_DATA, R.STR_PROG_DATA, R.HUB_PRB_DATA_HI, List.mem_cons, List.not_mem_nil, or_false, not_or]
    omega)
  have hlo : ¬ R.STR_CH_CTRL (8 + n) < 0x10000 := by omega
  have hhi : R.STR_CH_CTRL (8 + n) < 0x20000 := by omega
  have hchan : ¬ 0x11000 ≤ R.STR_CH_CTRL (8 + n) := by omega
  have hrow : (R.STR_CH_CTRL (8 + n) - 0x10000) % 0x100 = 0 := by omega
  have hidx : (R.STR_CH_CTRL (8 + n) - 0x10000) / 0x100 = 8 + n := by omega
  rw [State.hostWrite, State.regWrite_of_not_barred v _ hreset hbar (by omega), State.writeReg, hind, placeOf_of_lt (by omega)]
  simp only [State.blockWrite, hlock, hlo, hhi, hreg, Bool.and_false, Bool.false_and, Bool.false_eq_true, if_false, if_true]
  rw [strWrite, if_neg hchan, if_pos hrow, hidx]

theorem exec_streamGo {n : Fin 8} (h : s.hostOk (R.STR_CH_CTRL (8 + n))) : exec (.streamGo n) s = .next (streamGoEff s (8 + n)) := by
  have hhost : ¬ 8 + n.val < 8 := by omega
  have hrun : exec (.streamGo n) s = .next (s.hostWrite (R.STR_CH_CTRL (8 + n)) 1) := rfl
  rw [hrun, State.hostWrite_chCtrl h, chCtrlEff, if_neg hhost]
  rfl

/-- Channel 8 is idle, its descriptor registers hold a run of one byte, and STR.CH8_BYTES still shows the 64 bytes of its last descriptor. -/
def idleWithBytes : State := State.reset.setReg (R.STR_CH_BYTES 8) 64

theorem idleWithBytes_hostOk : idleWithBytes.hostOk (R.STR_CH_CTRL 8) := by decide +kernel

theorem idleWithBytes_code : idleWithBytes.descCode (idleWithBytes.staged16 8) = 0 := by decide +kernel

end Sys2Proof.Machine

open Sys2Proof Sys2Proof.Machine

/-- Refutes O44, in its clause that arming a descriptor on an idle channel changes no register: STR.CHn_BYTES counts the bytes of the active
descriptor (10, STR.CHn_BYTES), so go sets it to 0, and here it held the 64 bytes of the descriptor before. -/
theorem not_streamGoAndStop : ¬ Obligations.StreamGoAndStop := by
  unfold Obligations.StreamGoAndStop
  rintro ⟨hgo, -⟩
  obtain ⟨t, ht, -, -, -, -, hregs, -⟩ := hgo 0 idleWithBytes idleWithBytes_hostOk idleWithBytes_code rfl rfl
  obtain rfl := Host.Outcome.next.inj ((exec_streamGo (n := 0) idleWithBytes_hostOk).symm.trans ht)
  have harmed : (streamGoEff idleWithBytes 8).reg (R.STR_CH_BYTES 8) = 0 := reg_bytes_streamGoEff idleWithBytes_code rfl
  have hheld : idleWithBytes.reg (R.STR_CH_BYTES 8) = 64 := State.reg_setReg_same _ _ _
  exact absurd (harmed.symm.trans ((hregs (R.STR_CH_BYTES 8) List.not_mem_nil).trans hheld)) (by decide)

end

section
/-!
PROOFS. Transfers of the Stream engine: what a walk reads (10 R299, R300), a burst that asks host memory for its bytes (R301,
R302), a read that fails (R306), a read whose data is written to HyperRAM (R304, R344), and the end of a descriptor (R304, R305).
-/
namespace Sys2Proof.Machine

variable {s t : State}

theorem State.chanIndex (h : s.str.chans.length = 16) (n : Fin 16) : n.val < s.str.chans.length := by
  rw [h]
  exact n.isLt

/-! ## Walks read words and registers alone (R299, R300) -/

theorem stridePc_congr (h : t.words = s.words) (p fuel : Nat) (w : Walk) : stridePc t p fuel w = stridePc s p fuel w := by
  have hprog (pc : Nat) : t.sprog p pc = s.sprog p pc := by simp only [State.sprog, State.word, h]
  induction fuel generalizing w with
  | zero => rfl
  | succ fuel ih => simp only [stridePc, hprog, ih]

theorem strideLen_congr (h : t.words = s.words) (p : Nat) (w : Walk) : strideLen t p w = strideLen s p w := by
  simp only [strideLen, State.sprog, State.word, h]

theorem State.runLen_congr (h : t.words = s.words) (d : DescW) (w : Walk) : t.runLen d w = s.runLen d w := by
  simp only [State.runLen, strideLen_congr h]

theorem State.walkOn_congr (h : t.words = s.words) (d : DescW) (w : Walk) (n : Nat) : t.walkOn d w n = s.walkOn d w n := by
  simp only [State.walkOn, State.nextRun, strideNext, State.runLen_congr h, strideLen_congr h, stridePc_congr h]

theorem State.walkStart_congr (h : t.words = s.words) (hr : t.regs = s.regs) (n : Nat) (d : DescW) : t.walkStart n d = s.walkStart n d := by
  simp only [State.walkStart, State.fget, State.reg, stridePc_congr h, hr]

theorem State.burstLen_congr (h : t.words = s.words) (hp : t.pci = s.pci) (d : DescW) (w : Walk) : t.burstLen d w = s.burstLen d w := by
  simp only [State.burstLen, sideBytes, sideLimit, State.tlpMax, State.runLen_congr h, hp]

/-! ## A burst whose sources lie in host memory (R301, R302) -/

theorem State.burstLen_pos (s : State) (d : DescW) (w : Walk) : 0 < s.burstLen d w := by
  unfold State.burstLen
  exact Nat.lt_of_lt_of_le Nat.one_pos (Nat.le_max_left _ _)

/-- A burst has a source byte. -/
theorem burstSrcs_length_pos (d : DescW) (run sa off : Nat) {k : Nat} (h : 0 < k) : 0 < (burstSrcs d run sa off k).length := by
  obtain ⟨k, rfl⟩ := Nat.exists_eq_add_of_lt h
  unfold burstSrcs
  split
  · simp [splitSrc]
  · simp

/-- Sources in host memory leave none to read inside. -/
theorem filter_internal_nil {as : List Nat} (h : as.all isHost = true) : (as.filter fun a => !isHost a) = [] :=
  List.filter_eq_nil_iff.mpr fun a ha => by simp [List.all_eq_true.mp h a ha]

/-- The read that the next burst of a channel asks host memory for. -/
def State.burstRead (s : State) (d : DescW) (w : Walk) : ReadReq :=
  ⟨burstSrcs d (s.runLen d w) (runAt d w).1 w.off (s.burstLen d w), ((runAt d w).2 + w.off) % 2 ^ 40, s.burstLen d w, w, false⟩

theorem exec_streamBurst_host {n : Fin 16} (hn : 8 ≤ n.val) (hpark : s.pwr.park = false) (hrank : s.rstRank = 0) :
    exec (.streamBurst n []) s = .next (hostBurst s n) := by
  have hrun : exec (.streamBurst n []) s = .next (streamBurstEff s n []) := rfl
  simp only [hrun, streamBurstEff, State.strike, hpark, hrank, hn.not_gt, Nat.lt_irrefl, decide_false, Bool.or_self, Bool.false_eq_true, if_false]

/-- The state in which channel `n` has had its turn, that read has joined those outstanding, and its walk has moved on. -/
def State.burstAsked (s : State) (n : Nat) (d : DescW) : State :=
  (s.serve n).setChan n
    { s.chan n with
      walk := s.walkOn d (s.chan n).walk (s.burstLen d (s.chan n).walk)
      reads := (s.chan n).reads ++ [s.burstRead d (s.chan n).walk] }

theorem State.burstAsked_spec {n : Nat} (hn : n < s.str.chans.length) (d : DescW) :
    ((s.burstAsked n d).chan n).walk = s.walkOn d (s.chan n).walk (s.burstLen d (s.chan n).walk) ∧
      ((s.burstAsked n d).chan n).reads = (s.chan n).reads ++ [s.burstRead d (s.chan n).walk] ∧ s.onlyChan (s.burstAsked n d) n [] := by
  have hchan := State.chan_setChan_same (s := s.serve n) hn
  exact ⟨congrArg ChanSt.walk (hchan _), congrArg ChanSt.reads (hchan _), ((State.onlyChan.refl s n []).mapStr _ rfl).setChan _⟩

/-- A burst that is ready, has its turn and has no source inside is that read: nothing is read or written yet. -/
theorem hostBurst_read {n : Nat} {d : DescW} (hactive : (s.chan n).active = some d) (hwalk : (s.chan n).walk.done = false)
    (hready : s.burstReady n = true) (hturn : s.outranked n (burstClass d (s.chan n).walk) = false)
    (hhost : (s.burstRead d (s.chan n).walk).srcs.all isHost = true) (hpace : s.pace n d = s) :
    hostBurst s n = s.burstAsked n d := by
  have hrun (w : Walk) : (s.serve n).runLen d w = s.runLen d w := State.runLen_congr (s := s) (t := s.serve n) rfl d w
  have hon (w : Walk) (k : Nat) : (s.serve n).walkOn d w k = s.walkOn d w k := State.walkOn_congr (s := s) (t := s.serve n) rfl d w k
  have hlen (w : Walk) : (s.serve n).burstLen d w = s.burstLen d w := State.burstLen_congr (s := s) (t := s.serve n) rfl rfl d w
  have hnone := filter_internal_nil hhost
  have hsome := burstSrcs_length_pos d (s.runLen d (s.chan n).walk) (runAt d (s.chan n).walk).1 (s.chan n).walk.off
    (s.burstLen_pos d (s.chan n).walk)
  have hsrcs : (s.serve n).srcsOk [] = true := rfl
  unfold State.burstRead at hnone
  simp only [hostBurst, hactive, hpace, hwalk, hready, hturn, hlen, hrun, hon, hnone, hsrcs, hsome, Bool.false_and, Bool.not_true, Bool.or_self,
    Bool.false_eq_true, if_false, List.length_nil, if_true, State.burstAsked, State.burstRead]

/-! ## A read that fails (R306) -/

/-- Logging an error of a channel writes its STR.CHn_ERR and HUB.IRQ_STATUS. -/
theorem State.strErr_logsIn (s : State) (n code : Nat) : s.logsIn (s.strErr n code) [R.STR_CH_ERR n, R.HUB_IRQ_STATUS] := by
  have hnote : s.logsIn (s.note code) [R.STR_CH_ERR n, R.HUB_IRQ_STATUS] := (State.logsIn.refl s _).note code
  have herr : R.STR_CH_ERR n ∈ [R.STR_CH_ERR n, R.HUB_IRQ_STATUS] := List.mem_cons_self
  unfold State.strErr State.capture
  split
  · exact hnote
  · exact ((hnote.fset (F.STR_CH_ERR_code n) _ herr).fset (F.STR_CH_ERR_valid n) _ herr).irq 0 (by simp)

/-- A channel whose STR.CHn_ERR is free captures the code. -/
theorem State.strErr_code {n : Nat} (code : Nat) (h : s.fbit (F.STR_CH_ERR_valid n) = false) :
    (s.strErr n code).fget (F.STR_CH_ERR_code n) = code % 2 ^ 16 := by
  have hirq : R.STR_CH_ERR n ≠ R.HUB_IRQ_STATUS := by simp only [R.STR_CH_ERR, R.HUB_IRQ_STATUS]; omega
  have hfree : (s.note code).fbit (F.STR_CH_ERR_valid n) = false := by
    rw [State.fbit, State.fget_note]
    exact h
  rw [State.strErr, State.capture, if_neg (ne_true_of_eq_false hfree), State.fget_irq _ 0 hirq,
    State.fget_fset_beside _ (F.STR_CH_ERR_valid n) (F.STR_CH_ERR_code n) 1 rfl (show 0 + 16 ≤ 32 by decide) (.inl (show 0 + 16 ≤ 31 by decide))]
  exact State.fget_fset_same _ (F.STR_CH_ERR_code n) code (show 0 + 16 ≤ 32 by decide)

/-- The state in which channel `n` has halted at `w` and its error is not yet logged. -/
def State.haltedAt (s : State) (n : Nat) (w : Walk) : State :=
  (s.setChan n { s.chan n with halted := true, reads := [], walk := w }).setRes n w w.off

theorem State.haltedAt_valid (s : State) (n : Nat) (w : Walk) : (s.haltedAt n w).fbit (F.STR_CH_ERR_valid n) = s.fbit (F.STR_CH_ERR_valid n) := by
  have h0 : R.STR_CH_ERR n ≠ R.STR_CH_RES0 n := by simp only [R.STR_CH_ERR, R.STR_CH_RES0]; omega
  have h1 : R.STR_CH_ERR n ≠ R.STR_CH_RES1 n := by simp only [R.STR_CH_ERR, R.STR_CH_RES1]; omega
  have hreg : (s.haltedAt n w).reg (R.STR_CH_ERR n) = s.reg (R.STR_CH_ERR n) :=
    (State.reg_setReg_other _ _ h1).trans (State.reg_setReg_other _ _ h0)
  exact congrArg (fun v => (F.STR_CH_ERR_valid n).of v == 1) hreg

/-- A halt discards the reads outstanding and captures its code; memory stays. -/
theorem State.haltChan_spec {n : Nat} (hn : n < s.str.chans.length) (w : Walk) (code : Nat) :
    ((s.haltChan n w code).chan n).halted = true ∧ ((s.haltChan n w code).chan n).reads = [] ∧ s.sameMem (s.haltChan n w code) ∧
      (s.fbit (F.STR_CH_ERR_valid n) = false → (s.haltChan n w code).fget (F.STR_CH_ERR_code n) = code % 2 ^ 16) := by
  have hhalt : (s.haltedAt n w).chan n = { s.chan n with halted := true, reads := [], walk := w } := State.chan_setChan_same hn _
  have hmem : s.sameMem (s.haltedAt n w) := State.sameMem_of_eq rfl rfl rfl
  have hrun : s.haltChan n w code = (s.haltedAt n w).strErr n code := rfl
  obtain ⟨hlogs, -⟩ := (s.haltedAt n w).strErr_logsIn n code
  obtain ⟨-, -, -, -, hstr, -⟩ := hlogs.units
  rw [hrun, State.chan_congr hstr, hhalt]
  exact ⟨rfl, rfl, State.sameMem_trans hmem hlogs.sameMem, fun h => State.strErr_code code ((s.haltedAt_valid n w).trans h)⟩

theorem readFail_reads {n code : Nat} {q : ReadReq} {qs : List ReadReq} (h : (s.chan n).reads = q :: qs) :
    readFail s n code = s.haltChan n q.place code := by simp only [readFail, h]

/-! ## Data from host memory for HyperRAM (R304, R344) -/

theorem nth_eq_or_mem {α : Type} (d : α) (l : List α) (i : Nat) : nth d l i = d ∨ nth d l i ∈ l := by
  induction l generalizing i with
  | nil => exact .inl rfl
  | cons x l ih =>
    cases i with
    | zero => exact .inr List.mem_cons_self
    | succ i => exact (ih i).imp_right (List.mem_cons_of_mem x)

theorem mem_of_mem_eights {α : Type} {n : Nat} {xs g : List α} {x : α} (hg : g ∈ eights n xs) (hx : x ∈ g) : x ∈ xs := by
  induction n generalizing xs with
  | zero => exact absurd hg List.not_mem_nil
  | succ n ih =>
    unfold eights at hg
    split at hg
    · exact absurd hg List.not_mem_nil
    · obtain rfl | hg := List.mem_cons.mp hg
      · exact List.mem_of_mem_take hx
      · exact List.mem_of_mem_drop (ih hg)

/-- A burst from bytes without poison has none (R307). -/
theorem burstBytes_clean (d : DescW) (run off : Nat) {xs : List (Byte × Bool)} (h : xs.any (·.2) = false) :
    (burstBytes d run off xs).any (·.2) = false := by
  simp only [List.any_eq_false] at h ⊢
  intro y hy
  unfold burstBytes at hy
  split at hy
  case isFalse => exact h y hy
  case isTrue =>
    obtain ⟨i, -, rfl⟩ := List.mem_map.mp hy
    simp only [List.any_eq_true, not_exists, not_and]
    intro x hx
    obtain hnil | hmem := nth_eq_or_mem [] (eights xs.length xs) i
    · rw [hnil] at hx
      exact absurd hx List.not_mem_nil
    · exact h x (mem_of_mem_eights hmem hx)

/-- HyperRAM is neither host memory, nor a remote device, nor register space (Table 1.5). -/
theorem inHyper_class {a : Nat} (h : inHyper a = true) : isHost a = false ∧ isRemote a = false ∧ isRegs a = false := by
  simp only [inHyper, hyperBase, Bool.and_eq_true, decide_eq_true_eq] at h
  simp only [isHost, isRemote, isRegs, Bool.and_eq_false_iff, decide_eq_false_iff_not]
  omega

/-- Sources in host memory take the bytes of its answer in order. -/
theorem foldl_hostBytes {step : List (Byte × Bool) × List Byte → Nat → List (Byte × Bool) × List Byte}
    (hstep : ∀ acc a, isHost a = true → step acc a = (acc.1 ++ [(nth 0 acc.2 0, false)], acc.2.drop 1)) (as : List Nat) (hs : List Byte)
    (acc : List (Byte × Bool)) (hhost : as.all isHost = true) (hlen : hs.length = as.length) :
    as.foldl step (acc, hs) = (acc ++ hs.map fun b => (b, false), []) := by
  induction as generalizing hs acc with
  | nil => simp [List.length_eq_zero_iff.mp hlen]
  | cons a as ih =>
    obtain ⟨ha, hhost⟩ : isHost a = true ∧ as.all isHost = true := by simpa using hhost
    cases hs with
    | nil => simp at hlen
    | cons b hs =>
      rw [List.foldl_cons, hstep _ a ha]
      exact (ih hs (acc ++ [(b, false)]) hhost (by simpa using hlen)).trans (by simp)

theorem State.gather_host (s : State) {as : List Nat} {hs : List Byte} (hhost : as.all isHost = true) (hlen : hs.length = as.length) :
    s.gather as hs = (hs.map fun b => (b, false), s) := by
  unfold State.gather
  rw [filter_internal_nil hhost]
  dsimp only [List.map_nil]
  rw [foldl_hostBytes (fun acc a ha => if_pos ha) as hs [] hhost hlen]
  rfl

/-- A queued write is the last of those outstanding, and only its channel knows of it. -/
theorem State.queueWrite_spec {n : Nat} (hn : n < s.str.chans.length) (a : Nat) (bs : List Byte) (p : Bool) :
    (s.queueWrite n a bs p).str.writes = s.str.writes ++ [⟨s.str.nextWrite, n, a, bs, p⟩] ∧
      ((s.queueWrite n a bs p).chan n).reads = (s.chan n).reads ∧ s.onlyChan (s.queueWrite n a bs p) n [] := by
  refine ⟨rfl, ?_, ((State.onlyChan.refl s n []).mapStr _ rfl).setChan _⟩
  unfold State.queueWrite
  dsimp only
  rw [State.chan_setChan_same (by exact hn)]
  rfl

theorem State.putBurst_hyper {a : Nat} {xs : List (Byte × Bool)} (n : Nat) (ha : inHyper a = true) (hclean : xs.any (·.2) = false) :
    s.putBurst n a xs = s.queueWrite n a (xs.map (·.1)) false := by
  obtain ⟨hhost, hremote, hregs⟩ := inHyper_class ha
  simp only [State.putBurst, hhost, hremote, hregs, ha, State.putHyper, hclean, Bool.false_eq_true, if_false, if_true]

theorem State.chanVec_logsIn (s : State) (n : Nat) (os : List Nat) : s.logsIn (s.chanVec n) os := by
  unfold State.chanVec
  split
  · exact ⟨s.onlyLogs_raiseVec _, State.regsBut_of_regs (s.regs_raiseVec _) os⟩
  · exact .refl s os

/-- A slot that is done moves its end of the ring (R299). -/
theorem State.slotDone_logsIn (s : State) (n : Nat) (d : DescW) (w : Walk) (k : Nat) : s.logsIn (s.slotDone n d w k) [R.STR_CH_RING n] := by
  have hset (f : Fld) (v : Nat) (hf : f.off = R.STR_CH_RING n) : s.logsIn (s.fset f v) [R.STR_CH_RING n] :=
    (State.logsIn.refl s _).fset f v (by simp [hf])
  unfold State.slotDone
  dsimp only
  split
  · split
    · exact hset (F.STR_CH_RING_tail n) _ rfl
    · exact hset (F.STR_CH_RING_head n) _ rfl
  · exact .refl s _

/-- Bytes delivered are counted in the channel and its STR.CHn_BYTES; the half event may follow (R304). -/
theorem State.delivered_logsIn (s : State) (n k : Nat) :
    ∃ m h, ((s.setReg (R.STR_CH_BYTES n) (BitVec.ofNat 32 m)).setChan n { s.chan n with moved := m, halfDone := h }).logsIn (s.delivered n k)
      [R.STR_CH_STATUS n] := by
  refine ⟨(s.chan n).moved + k, (s.chan n).halfDone || (!(s.chan n).halfDone && decide (cdiv (s.chan n).total 2 ≤ (s.chan n).moved + k)), ?_⟩
  unfold State.delivered
  dsimp only
  split
  · split
    · exact ((State.logsIn.refl _ _).fset (F.STR_CH_STATUS_half n) 1 List.mem_cons_self).trans (State.chanVec_logsIn _ n _)
    · exact .refl _ _
  · exact .refl _ _

/-- The registers that delivering a burst of channel `n` can write. -/
def deliverRegs (n : Nat) : List Nat := [R.STR_CH_RING n, R.STR_CH_BYTES n, R.STR_CH_STATUS n]

/-- Between `s` and `t` channel `n` alone has changed, but for its reads, and the writes outstanding are the same. -/
def State.chanMoves (s t : State) (n : Nat) (os : List Nat) : Prop :=
  s.onlyChan t n os ∧ (t.chan n).reads = (s.chan n).reads ∧ t.str.writes = s.str.writes

namespace State.chanMoves

variable {u : State} {n : Nat} {os : List Nat}

theorem refl (s : State) (n : Nat) (os : List Nat) : s.chanMoves s n os := ⟨.refl s n os, rfl, rfl⟩

theorem trans (h : s.chanMoves t n os) (h' : t.chanMoves u n os) : s.chanMoves u n os := by
  obtain ⟨hframe, hreads, hwrites⟩ := h
  obtain ⟨hframe', hreads', hwrites'⟩ := h'
  exact ⟨hframe.trans hframe', hreads'.trans hreads, hwrites'.trans hwrites⟩

theorem length (h : s.chanMoves t n os) : t.str.chans.length = s.str.chans.length := h.1.1

theorem setChan (h : s.chanMoves t n os) (hn : n < s.str.chans.length) (x : ChanSt) (hx : x.reads = (t.chan n).reads) :
    s.chanMoves (t.setChan n x) n os :=
  h.trans ⟨(State.onlyChan.refl t n os).setChan x, (congrArg ChanSt.reads (State.chan_setChan_same (h.length ▸ hn) x)).trans hx, rfl⟩

theorem logsIn (h : s.chanMoves t n os) (hlogs : t.logsIn u os) : s.chanMoves u n os := by
  obtain ⟨-, -, -, -, hstr, -⟩ := hlogs.1.units
  exact h.trans ⟨(State.onlyChan.refl t n os).logsIn hlogs, congrArg ChanSt.reads (State.chan_congr hstr n), congrArg StrSt.writes hstr⟩

end State.chanMoves

theorem State.delivered_moves {n : Nat} (hn : n < s.str.chans.length) (k : Nat) : s.chanMoves (s.delivered n k) n (deliverRegs n) := by
  obtain ⟨m, h, hlogs⟩ := s.delivered_logsIn n k
  have hcount : s.logsIn (s.setReg (R.STR_CH_BYTES n) (BitVec.ofNat 32 m)) (deliverRegs n) :=
    ⟨⟨_, _, _, _, _, _, rfl⟩, State.regsBut_mono (by simp [deliverRegs]) (s.regsBut_setReg _ _)⟩
  have hmoved := ((State.chanMoves.refl s n _).logsIn hcount).setChan hn { s.chan n with moved := m, halfDone := h } rfl
  exact hmoved.logsIn (hlogs.mono (by simp [deliverRegs]))

/-- A clean burst for HyperRAM becomes one write of its bytes at its place. -/
theorem State.deliverBurst_hyper {n a : Nat} (hn : n < s.str.chans.length) (d : DescW) (w : Walk) {xs : List (Byte × Bool)}
    (ha : inHyper a = true) (hclean : xs.any (·.2) = false) :
    (s.deliverBurst n d w a xs).str.writes = s.str.writes ++ [⟨s.str.nextWrite, n, a, xs.map (·.1), false⟩] ∧
      ((s.deliverBurst n d w a xs).chan n).reads = (s.chan n).reads ∧ s.onlyChan (s.deliverBurst n d w a xs) n (deliverRegs n) := by
  obtain ⟨hwrites, hreads, hframe⟩ := s.queueWrite_spec hn a (xs.map (·.1)) false
  unfold State.deliverBurst
  rw [State.putBurst_hyper n ha hclean]
  generalize s.queueWrite n a (xs.map (·.1)) false = q at hwrites hreads hframe
  simp only [hclean, Bool.and_false, Bool.false_eq_true, if_false]
  have hq : n < q.str.chans.length := hframe.1 ▸ hn
  have hslot : q.chanMoves ((q.setChan n { q.chan n with lastDst := a + xs.length - 1 }).slotDone n d w xs.length) n (deliverRegs n) :=
    ((State.chanMoves.refl q n _).setChan hq { q.chan n with lastDst := a + xs.length - 1 } rfl).logsIn
      ((State.slotDone_logsIn _ n d w _).mono (by simp [deliverRegs]))
  obtain ⟨hmoved, hreads', hwrites'⟩ := hslot.trans (State.delivered_moves (hslot.length ▸ hq) xs.length)
  exact ⟨hwrites'.trans hwrites, hreads'.trans hreads, (hframe.mono (by simp)).trans hmoved⟩

/-- The final read of a barrier delivers nothing (R304). -/
theorem readCompletionEff_barrier {n : Nat} {d : DescW} {q : ReadReq} {qs : List ReadReq} (hactive : (s.chan n).active = some d)
    (hreads : (s.chan n).reads = q :: qs) (hbar : q.barrier = true) (bs : List Byte) :
    readCompletionEff s n bs = s.setChan n { s.chan n with reads := qs, barRead := 2 } := by
  simp only [readCompletionEff, hactive, hreads, hbar, if_true]

/-- A read of host memory alone, whose destination takes its data, leaves the reads outstanding and delivers the bytes that came. -/
theorem readCompletionEff_host {n : Nat} {d : DescW} {q : ReadReq} {qs : List ReadReq} {bs : List Byte}
    (hactive : (s.chan n).active = some d) (hreads : (s.chan n).reads = q :: qs) (hdata : q.barrier = false)
    (hhost : q.srcs.all isHost = true) (hlen : bs.length = q.srcs.length) (htag : s.writeTag q.dst = true)
    (hready : s.waitsInit q.dst q.n = false) (hdst : s.dstOk q.dst q.n = true) :
    readCompletionEff s n bs = (s.setChan n { s.chan n with reads := qs }).deliverBurst n d q.place q.dst
      (burstBytes d (s.runLen d q.place) q.place.off (bs.map fun b => (b, false))) := by
  have hall : q.srcs.filter isHost = q.srcs := List.filter_eq_self.mpr (List.all_eq_true.mp hhost)
  have htake : bs.take q.srcs.length = bs := List.take_of_length_le hlen.le
  have hrun : (s.setChan n { s.chan n with reads := qs }).runLen d q.place = s.runLen d q.place :=
    State.runLen_congr (s := s) (t := s.setChan n { s.chan n with reads := qs }) rfl d q.place
  have hgather := (s.setChan n { s.chan n with reads := qs }).gather_host hhost hlen
  simp only [hactive] at hgather hrun
  simp only [readCompletionEff, hactive, hreads, hdata, hall, hlen, Nat.lt_irrefl, htag, hready, hdst, htake, hgather, hrun, decide_false,
    Bool.not_true, Bool.or_self, Bool.false_eq_true, if_false]

/-! ## The end of a descriptor (R304, R305) -/

theorem State.chanIdle_spec {n : Nat} (hn : n < s.str.chans.length) :
    ((s.chanIdle n).chan n).active = none ∧ s.onlyChan (s.chanIdle n) n [] :=
  ⟨congrArg ChanSt.active (State.chan_setChan_same hn _), (State.onlyChan.refl s n []).setChan _⟩

/-- The state in which the shadow of channel `n` has left its place. -/
def State.shadowTaken (s : State) (n : Nat) : State := s.setChan n { s.chan n with shadow := none, shadowFence := [] }

section
variable {n : Nat} {d : DescW} (hsix : n ≠ 6) (hactive : (s.chan n).active = some d) (hdone : s.descDone n d = true) (hquiet : dBit d 11 = false)
include hsix hactive hdone hquiet

/-- With stop set the channel goes idle. -/
theorem descriptorCompleteEff_stop (next : List Word) (hstop : (s.chan n).stop = true) : descriptorCompleteEff s n next = s.chanIdle n := by
  simp only [descriptorCompleteEff, hsix, hactive, hdone, hquiet, hstop, State.chainWaits, Bool.not_true, Bool.false_and, Bool.or_self,
    Bool.false_eq_true, if_false, if_true]

/-- Without it the shadow becomes active, under the fence and the number with which it was armed. -/
theorem descriptorCompleteEff_shadow {e : DescW} (next : List Word) (hstop : (s.chan n).stop = false) (hshadow : (s.chan n).shadow = some e) :
    descriptorCompleteEff s n next = (s.shadowTaken n).activateDesc n e (s.chan n).shadowFence (s.chan n).shadowOrder := by
  simp only [descriptorCompleteEff, hsix, hactive, hdone, hquiet, hstop, hshadow, State.chainWaits, Option.isNone_some, Bool.not_true,
    Bool.and_false, Bool.false_and, Bool.or_self, Bool.false_eq_true, if_false, State.shadowTaken]

end

/-- A shadow that becomes active starts at its first byte and leaves no shadow; no other channel and no memory changes. -/
theorem State.shadowTaken_activateDesc {n : Nat} (hn : n < s.str.chans.length) (e : DescW) (fence : List Nat) (ord : Nat) :
    let c := ((s.shadowTaken n).activateDesc n e fence ord).chan n
    c.active = some e ∧ c.shadow = none ∧ c.moved = 0 ∧ c.walk = s.walkStart n e ∧
      s.onlyChan ((s.shadowTaken n).activateDesc n e fence ord) n [R.STR_CH_BYTES n] := by
  obtain ⟨x, hact, hactive, hshadow, hmoved, hwalk⟩ := (s.shadowTaken n).activateDesc_eq n e fence ord
  have htaken : ((s.shadowTaken n).chan n).shadow = none := congrArg ChanSt.shadow (State.chan_setChan_same hn _)
  have hframe : s.onlyChan (s.shadowTaken n) n [R.STR_CH_BYTES n] := (State.onlyChan.refl s n _).setChan _
  have hchan : (((s.shadowTaken n).setChan n x).setReg (R.STR_CH_BYTES n) 0).chan n = x :=
    State.chan_setChan_same (s := s.shadowTaken n) (hframe.1.symm ▸ hn) x
  rw [hact, hchan]
  exact ⟨hactive, hshadow.trans htaken, hmoved, hwalk.trans (State.walkStart_congr (s := s) (t := s.shadowTaken n) rfl rfl n e),
    (hframe.setChan x).setReg _ _ List.mem_cons_self⟩

end Sys2Proof.Machine

open Sys2Proof Sys2Proof.Machine

/-- Settles O45: a burst of host memory is State.burstRead; a failed read is State.haltChan; data for HyperRAM goes through State.deliverBurst, which
queues one write; the end of a descriptor is State.chanIdle or State.activateDesc of the shadow. -/
theorem streamMoves : Obligations.StreamMoves := by
  unfold Obligations.StreamMoves
  refine ⟨?burst, ?fails, ?barrier, ?data, ?stopped, ?handsOver⟩
  case burst =>
    intro n d s hlen hn hpark hrank hactive hwalk hready hturn hhost hpace w k
    rw [hpace] at hhost
    obtain ⟨hmoved, hasked, -, hothers, hregs, hmem⟩ := State.burstAsked_spec (State.chanIndex hlen n) d
    exact ⟨_, (exec_streamBurst_host hn hpark hrank).trans (congrArg _ (hostBurst_read hactive hwalk hready hturn hhost hpace)), hmoved, hasked,
      hothers, hregs, hmem⟩
  case fails =>
    intro n q qs s hlen hreads hfree
    have hfail (code : Nat) := State.haltChan_spec (State.chanIndex hlen n) q.place code
    obtain ⟨hhalt, hnone, hmem, hcode⟩ := hfail 0x0A10
    obtain ⟨hhalt', hnone', hmem', hcode'⟩ := hfail 0x0A11
    exact ⟨⟨_, congrArg Host.Outcome.next (readFail_reads hreads), hhalt, hnone, hcode hfree, hmem⟩,
      _, congrArg Host.Outcome.next (readFail_reads hreads), hhalt', hnone', hcode' hfree, hmem'⟩
  case barrier =>
    intro n d q qs s hactive hreads hbar bs
    exact congrArg Host.Outcome.next (readCompletionEff_barrier hactive hreads hbar bs)
  case data =>
    intro n d q qs bs s hlen hactive hreads hdata hhost hbytes htag hhyper hready hdst
    have hn := State.chanIndex hlen n
    have hclean := burstBytes_clean d (s.runLen d q.place) q.place.off (xs := bs.map fun b => (b, false)) (by simp)
    have hframe := (State.onlyChan.refl s n (deliverRegs n)).setChan { s.chan n with reads := qs }
    obtain ⟨hwrites, hkept, hdelivered⟩ := State.deliverBurst_hyper (s := s.setChan n { s.chan n with reads := qs }) (hframe.1.symm ▸ hn) d
      q.place hhyper hclean
    obtain ⟨-, hothers, hregs, hmem⟩ := hframe.trans hdelivered
    exact ⟨_, _, congrArg Host.Outcome.next (readCompletionEff_host hactive hreads hdata hhost hbytes htag hready hdst),
      hkept.trans (congrArg ChanSt.reads (State.chan_setChan_same hn _)), hwrites, rfl, rfl, rfl, rfl, rfl, hothers, hregs, hmem⟩
  case stopped =>
    intro n d next s hlen hsix hactive hdone hquiet hstop
    obtain ⟨hidle, -, hothers, -, hmem⟩ := State.chanIdle_spec (State.chanIndex hlen n)
    exact ⟨_, congrArg Host.Outcome.next (descriptorCompleteEff_stop (Fin.val_ne_of_ne hsix) hactive hdone hquiet next hstop), hidle, hothers,
      hmem⟩
  case handsOver =>
    intro n d e next s hlen hsix hactive hdone hquiet hstop hshadow
    obtain ⟨hnow, hnone, hmoved, hstart, -, hothers, -, hmem⟩ :=
      State.shadowTaken_activateDesc (State.chanIndex hlen n) e (s.chan n).shadowFence (s.chan n).shadowOrder
    exact ⟨_, congrArg Host.Outcome.next (descriptorCompleteEff_shadow (Fin.val_ne_of_ne hsix) hactive hdone hquiet next hstop hshadow), hnow,
      hnone, hmoved, hstart, hothers, hmem⟩

end

section
/-!
PROOFS. The scrubbers and the window of corrected errors (12 R346; 16 R441–R444): a codeword that is counted and written back, a pass that is
late, an uncorrectable codeword of the Cellarmaster memories, and the alerts that the end of a window raises.
-/
namespace Sys2Proof.Machine

variable {s t u : State}

/-! ## Fields just written -/

/-- A one-bit field just set stands. -/
theorem State.fbit_fset_one (s : State) {f : Fld} (hf : f.lo + f.w ≤ 32) (hw : f.w = 1) : (s.fset f 1).fbit f = true := by
  rw [State.fbit, s.fget_fset_same f 1 hf, hw]
  rfl

/-- What a write of register `f.off` and the logs it raises leave of a field elsewhere. -/
theorem State.logsIn.fget {os : List Nat} (h : s.logsIn t os) {f : Fld} (hf : f.off ∉ os) : t.fget f = s.fget f :=
  State.fget_of_regsBut h.2 hf

/-! ## A codeword counted and written back (R346, R441) -/

@[simp] theorem xorBytes_length (bs : List Byte) (p : Nat) : (xorBytes bs p).length = bs.length := by
  induction bs generalizing p with
  | nil => rfl
  | cons b bs ih => exact congrArg (· + 1) (ih _)

/-- A corrected codeword is counted in `f` and stored again under its own poison mark: its errors are gone and nothing beside it has changed. -/
theorem State.blockStored_counted (s : State) {f : Fld} (hf : f.lo + f.w ≤ 32) (a : Nat) (bs : List Byte) :
    let t := (s.fcount f 1).blockStored a bs (s.poisoned a)
    t.upsetAt a = 0 ∧ t.bytesAt a bs.length = bs ∧ t.poisoned a = s.poisoned a ∧
      (∀ b, (b < a ∨ a + bs.length ≤ b) → t.byte b = s.byte b) ∧ t.fget f = satAdd f.w (s.fget f) 1 ∧ s.regsBut t [f.off] := by
  obtain ⟨hbytes, hpoison, hrest⟩ := (s.fcount f 1).blockStored_spec a bs (s.poisoned a)
  have hupset : ((s.fcount f 1).blockStored a bs (s.poisoned a)).upsetAt a = 0 :=
    (State.upsetAt_setUpset _ a a 0).trans ((if_pos rfl).trans (onBytes_zero a))
  obtain ⟨m, q, x, hstored⟩ := (s.fcount f 1).blockStored_eq a bs (s.poisoned a)
  have hregs : ((s.fcount f 1).blockStored a bs (s.poisoned a)).regs = (s.fcount f 1).regs := by rw [hstored]
  exact ⟨hupset, hbytes, hpoison, hrest, (congrArg f.of (State.reg_congr hregs _)).trans (s.fget_fcount_same f 1 hf),
    State.regsBut_trans (s.regsBut_fcount f 1) (State.regsBut_of_regs hregs _)⟩

theorem State.inOrder_of_no_writes (h : s.str.writes = []) (a n : Nat) : s.inOrder a n = s := by
  rw [State.inOrder, h]
  rfl

theorem exec_hyperramScrub (off : Nat) (hits : List Upset) (s : State) :
    exec (.hyperramScrub off hits) s = .next (hyperramScrubEff s off hits) := rfl

/-- A block without error that does not end a pass stays as it is (R346). -/
theorem hyperramScrubEff_clean {off : Nat} (halign : off % 32 = 0) (hclean : s.upsetAt (hyperBase + off) = 0) (hlast : s.lastBlock ≠ some off)
    (hwrites : s.str.writes = []) : hyperramScrubEff s off [] = s := by
  have hoff : off / 32 * 32 = off := by omega
  have hgood : ¬ bitsN 0 257 7 ≠ 0 := by decide
  have hpass : (s.lastBlock == some off) = false := beq_eq_false_iff_ne.mpr hlast
  simp only [hyperramScrubEff, State.strike, State.inOrder_of_no_writes hwrites, hoff]
  cases s.chanOf off with
  | none => rfl
  | some c =>
    simp only [hclean, if_true, hgood, if_false, hpass, Bool.false_eq_true]
    exact ite_self s

/-- A block that can be corrected, whose address check holds, is counted and written back (R346). -/
theorem hyperramScrubEff_corrected {off c x : Nat} (halign : off % 32 = 0) (hwrites : s.str.writes = [])
    (hen : s.fbit F.HRM_CTRL_scrub_en = true) (hdefer : s.pwr.deferBg = false) (hchan : s.chanOf off = some c) (hready : s.chanReady c = true)
    (herr : s.upsetAt (hyperBase + off) ≠ 0) (hdec : rsDecode 36 (s.upsetAt (hyperBase + off)) = .corrected x) (htag : bitsN x 256 8 = 0)
    (hlast : s.lastBlock ≠ some off) :
    hyperramScrubEff s off [] = (s.fcount (F.HRM_CH_ERR_corr c) 1).blockStored (hyperBase + off) (xorBytes (s.bytesAt (hyperBase + off) 32) x)
      (s.poisoned (hyperBase + off)) := by
  have hoff : off / 32 * 32 = off := by omega
  have hzero (i : Nat) : (bitsN x 256 8).testBit i = false := by rw [htag, Nat.zero_testBit]
  have hcheck : bitsN x 257 7 = 0 := by
    apply Nat.eq_of_testBit_eq
    intro i
    have hi := hzero (i + 1)
    have hlt : decide (i + 1 < 8) = decide (i < 7) := decide_eq_decide.mpr (by omega)
    rw [bitsN_testBit, hlt, show 256 + (i + 1) = 257 + i by omega] at hi
    rw [bitsN_testBit, hi, Nat.zero_testBit]
  have hmark : bitN x 256 = false := by
    have h0 := hzero 0
    rw [bitsN_testBit] at h0
    exact (bitN_eq_testBit x 256).trans h0
  have hpass : (s.lastBlock == some off) = false := beq_eq_false_iff_ne.mpr hlast
  have hmarked : (s.fcount (F.HRM_CH_ERR_corr c) 1).poisoned (hyperBase + off) = s.poisoned (hyperBase + off) := rfl
  simp only [hyperramScrubEff, State.strike, State.inOrder_of_no_writes hwrites, hoff, hchan, hen, hready, hdefer, Bool.not_false, Bool.and_self,
    Bool.not_true, Bool.false_eq_true, if_false, herr, hdec, hcheck, ne_eq, not_true, hpass, hmarked, hmark, Bool.bne_false]
  rfl

theorem exec_sramScrub_mem (a : Nat) (s : State) : exec (.sramScrub (.mem a) [] false) s = .next (scrubMem s a) := rfl

/-- A codeword without error stays as it is (R441). -/
theorem scrubMem_clean {a : Nat} (halign : a % 8 = 0) (hclean : s.upsetAt a = 0) : scrubMem s a = s := by
  have ha : a / 8 * 8 = a := by omega
  simp only [scrubMem, ha, State.cwRs, hclean, if_true]
  exact ite_self s

/-- A codeword of the Hub's memories that can be corrected is counted and written back (R441). -/
theorem scrubMem_corrected {a r : Nat} (halign : a % 8 = 0) (hchip : a < 0x01000000) (hpark : s.pwr.park = false) (herr : s.upsetAt a ≠ 0)
    (hdec : rsDecode 11 (s.upsetAt a) = .corrected r) :
    scrubMem s a = (s.fcount F.HUB_ECC_HUB_corr 1).blockStored a (xorBytes (s.bytesAt a 8) r) (s.poisoned a) := by
  have ha : a / 8 * 8 = a := by omega
  have hhub : s.countCorr a = s.fcount F.HUB_ECC_HUB_corr 1 := by
    have hter : inTerrace a = false := by simp only [inTerrace, Bool.and_eq_false_iff, decide_eq_false_iff_not]; omega
    simp only [State.countCorr, hter, Bool.false_eq_true, if_false, State.countCorrRow]
  have hmarked : ((s.fcount F.HUB_ECC_HUB_corr 1).putBytes a (xorBytes (s.bytesAt a 8) r)).poisoned a = s.poisoned a := by
    rw [State.putBytes_eq]
    rfl
  simp only [scrubMem, ha, hchip, decide_true, hpark, Bool.not_false, Bool.not_true, Bool.true_or, if_true, Bool.false_eq_true, if_false,
    State.cwRs, herr, hdec, hhub, State.mend, hmarked]
  rfl

/-! ## Late passes (R442, R346) -/

/-- Noting an error changes of the job its first error alone, where it has none (R330). -/
theorem State.job_note (s : State) (code : Nat) : (s.note code).job =
    { s.job with firstErr := if (s.job.running || s.job.filling) && s.job.firstErr == 0 then code else s.job.firstErr } := by
  unfold State.note
  split <;> rfl

/-- An error that is noted and sets its late bit. -/
theorem State.note_fset_spec (s : State) (code : Nat) {f : Fld} (hf : f.lo + f.w ≤ 32) (hw : f.w = 1) :
    ((s.note code).fset f 1).fbit f = true ∧ ((s.note code).fset f 1).job =
        { s.job with firstErr := if (s.job.running || s.job.filling) && s.job.firstErr == 0 then code else s.job.firstErr } ∧
      s.regsBut ((s.note code).fset f 1) [f.off] ∧ s.sameMem ((s.note code).fset f 1) := by
  obtain ⟨hlogs, hregs⟩ := ((State.logsIn.refl s [f.off]).note code).fset f 1 (List.mem_singleton_self _)
  exact ⟨State.fbit_fset_one _ hf hw, s.job_note code, hregs, hlogs.sameMem⟩

/-! ## The Cellarmaster memories (R414, R443) -/

/-- The registers that count and capture an uncorrectable codeword outside the Rows, and HUB.IRQ_STATUS. -/
def hubEccRegs : List Nat := [R.HUB_ECC_HUB, R.HUB_ECC_ERR_ADDR, R.HUB_ECC_ERR_INFO, R.HUB_IRQ_STATUS]

/-- A control word outside the Rows that cannot be corrected takes an open value for its address and writes these registers. -/
theorem State.ctlEcc_none (s : State) (code : Nat) (scrub : Bool) : (s.freshBelow (2 ^ 40)).2.logsIn (s.ctlEcc none code scrub) hubEccRegs := by
  have haddr : R.HUB_ECC_ERR_ADDR ∈ hubEccRegs := by decide
  have hinfo : R.HUB_ECC_ERR_INFO ∈ hubEccRegs := by decide
  have hcount : (s.freshBelow (2 ^ 40)).2.logsIn ((s.freshBelow (2 ^ 40)).2.countUncRow none) hubEccRegs :=
    (State.logsIn.refl _ _).fset F.HUB_ECC_HUB_uncorr _ (by decide)
  unfold State.ctlEcc
  dsimp only
  split
  · exact hcount
  · exact (((((hcount.fset F.HUB_ECC_ERR_ADDR_addr _ haddr).fset F.HUB_ECC_ERR_INFO_addr_hi _ hinfo).fset F.HUB_ECC_ERR_INFO_code _ hinfo).fset
      F.HUB_ECC_ERR_INFO_source _ hinfo).fset F.HUB_ECC_ERR_INFO_valid _ hinfo).irq 0 (by decide)

theorem State.rstLevel_congr (hsec : t.sec = s.sec) (hkind : t.fget F.HUB_RST_STATUS_kind = s.fget F.HUB_RST_STATUS_kind) :
    t.rstLevel = s.rstLevel := by
  simp only [State.rstLevel, State.rstRank, hsec, hkind]

/-- A restart that no reset absorbs runs: HUB.CM_STATUS and HUB.RST_STATUS show it (R411, R414). -/
theorem State.cmRestart_spec (hlevel : s.rstLevel = 0) (hidle : s.sec.restart = false) {cause : Nat} (hcause : cause < 16) :
    (s.cmRestart cause).sec.restart = true ∧ (s.cmRestart cause).fget F.HUB_CM_STATUS_state = 1 ∧
      (s.cmRestart cause).fget F.HUB_RST_STATUS_kind = 4 ∧ (s.cmRestart cause).fget F.HUB_RST_STATUS_cause = cause := by
  have hfree : (decide (0 < s.rstLevel) || s.sec.restart) = false := by rw [hlevel, hidle]; rfl
  rw [State.cmRestart, if_neg (ne_true_of_eq_false hfree)]
  generalize s.cmDrop = u
  have hset (x : State) (f : Fld) : (x.setCm 1).fget f = (x.fset F.HUB_CM_STATUS_state 1).fget f := rfl
  refine ⟨rfl, ?_, ?_, ?_⟩ <;>
    simp (disch := decide) only [State.fget_mapSec, State.fcount, hset, State.rstStatus, State.fget_fset_elsewhere, State.fget_fset_beside,
      State.fget_fset_same]
  · rfl
  · rfl
  · exact Nat.mod_eq_of_lt hcause

/-- A codeword of the Cellarmaster memories that cannot be corrected restarts the Cellarmaster, unless a reset runs. -/
theorem scrubCellar_uncorrectable (hlevel : s.rstLevel = 0) (hidle : s.sec.restart = false) :
    let t := scrubCellar s .uncorrectable
    t.sec.restart = true ∧ t.fget F.HUB_CM_STATUS_state = 1 ∧ t.fget F.HUB_RST_STATUS_kind = 4 ∧ t.fget F.HUB_RST_STATUS_cause = 0 := by
  have hlogs := (s.note 0x0805).ctlEcc_none 0x0805 true
  obtain ⟨-, -, -, -, -, hsec, -⟩ := hlogs.1.units
  obtain ⟨-, -, -, -, -, hsecNote, -⟩ := (s.onlyLogs_note 0x0805).units
  have hsec' : ((s.note 0x0805).ctlEcc none 0x0805 true).sec = s.sec := hsec.trans hsecNote
  have hkind : ((s.note 0x0805).ctlEcc none 0x0805 true).fget F.HUB_RST_STATUS_kind = s.fget F.HUB_RST_STATUS_kind :=
    (hlogs.fget (by decide)).trans (s.fget_note 0x0805 F.HUB_RST_STATUS_kind)
  exact State.cmRestart_spec ((State.rstLevel_congr hsec' hkind).trans hlevel) (hsec' ▸ hidle) (by decide)

/-! ## Alerts of Rows (R444) -/

/-- `t` differs from `s` in registers, interrupt messages sent or pending and the job's first error; what the window keeps is the same. -/
def State.reportsOnly (s t : State) : Prop :=
  ∃ r i n e, t = { s with regs := r, irqOut := i, pci := { s.pci with pend := n }, job := { s.job with firstErr := e } }

namespace State.reportsOnly

theorem refl (s : State) : s.reportsOnly s := ⟨_, _, _, _, rfl⟩

theorem trans (h : s.reportsOnly t) (h' : t.reportsOnly u) : s.reportsOnly u := by
  obtain ⟨r, i, n, e, rfl⟩ := h
  obtain ⟨r', i', n', e', rfl⟩ := h'
  exact ⟨_, _, _, _, rfl⟩

theorem foldl {α : Type} {f : State → α → State} (h : ∀ (s : State) a, s.reportsOnly (f s a)) (l : List α) (s : State) :
    s.reportsOnly (l.foldl f s) := List.foldlRecOn l f (.refl s) fun _ hb a _ => hb.trans (h _ a)

theorem note (s : State) (code : Nat) : s.reportsOnly (s.note code) := by
  unfold State.note
  split
  · exact ⟨_, _, _, _, rfl⟩
  · exact .refl s

theorem fset (s : State) (f : Fld) (v : Nat) : s.reportsOnly (s.fset f v) := ⟨_, _, _, _, rfl⟩

theorem irq (s : State) (k : Nat) : s.reportsOnly (s.irq k) := by
  have hvec (x : State) (v : Nat) : x.reportsOnly (x.raiseVec v) := by
    unfold State.raiseVec
    split
    · split <;> exact ⟨_, _, _, _, rfl⟩
    · exact .refl x
  unfold State.irq
  split
  · exact .refl s
  · dsimp only
    split
    · exact (fset s irqBits _).trans (hvec _ _)
    · exact fset s irqBits _

theorem onlyLogs (h : s.reportsOnly t) : s.onlyLogs t := by
  obtain ⟨r, i, n, e, rfl⟩ := h
  exact ⟨_, _, _, _, _, _, rfl⟩

theorem window (h : s.reportsOnly t) : t.eccUnc = s.eccUnc ∧ t.eccWin = s.eccWin := by
  obtain ⟨r, i, n, e, rfl⟩ := h
  exact ⟨rfl, rfl⟩

end State.reportsOnly

/-- The alert of a Row stands in HUB.ECC_ALERT with its cause. -/
def State.alertIs (s : State) (T row cause : Nat) : Prop :=
  s.fbit F.HUB_ECC_ALERT_valid = true ∧ s.fget F.HUB_ECC_ALERT_terrace = T ∧ s.fget F.HUB_ECC_ALERT_row = row ∧
    s.fget F.HUB_ECC_ALERT_cause = cause

/-- An alert that is held stays. -/
theorem State.eccAlert_held (h : s.fbit F.HUB_ECC_ALERT_valid = true) (T row cause : Nat) : s.eccAlert T row cause = s := if_pos h

/-- With none held the alert is captured. -/
theorem State.eccAlert_free (h : s.fbit F.HUB_ECC_ALERT_valid = false) {T row cause : Nat} (hT : T < 4) (hrow : row < 16) (hcause : cause < 4) :
    (s.eccAlert T row cause).alertIs T row cause := by
  rw [State.eccAlert, if_neg (ne_true_of_eq_false h)]
  refine ⟨?_, ?_, ?_, ?_⟩
  · rw [State.fbit, State.fget_irq _ _ (by decide)]
    exact State.fbit_fset_one _ (by decide) rfl
  all_goals simp (disch := decide) only [State.fget_irq, State.fget_fset_beside, State.fget_fset_same]
  · exact Nat.mod_eq_of_lt hT
  · exact Nat.mod_eq_of_lt hrow
  · exact Nat.mod_eq_of_lt hcause

theorem State.eccAlert_logsIn (s : State) (T row cause : Nat) : s.logsIn (s.eccAlert T row cause) [R.HUB_ECC_ALERT, R.HUB_IRQ_STATUS] := by
  have hself := State.logsIn.refl s [R.HUB_ECC_ALERT, R.HUB_IRQ_STATUS]
  have halert : R.HUB_ECC_ALERT ∈ [R.HUB_ECC_ALERT, R.HUB_IRQ_STATUS] := by decide
  unfold State.eccAlert
  split
  · exact hself
  · exact ((((hself.fset F.HUB_ECC_ALERT_terrace T halert).fset F.HUB_ECC_ALERT_row row halert).fset F.HUB_ECC_ALERT_cause cause halert).fset
      F.HUB_ECC_ALERT_valid 1 halert).irq 0 (by decide)

theorem State.eccAlert_reportsOnly (s : State) (T row cause : Nat) : s.reportsOnly (s.eccAlert T row cause) := by
  unfold State.eccAlert
  split
  · exact .refl s
  · exact .trans ⟨_, _, _, _, rfl⟩ (.irq _ 0)

/-! ## The end of a window (R444) -/

/-- Row `i`, whose window count starts again, raises its alert where it has reached the limit. -/
def State.winStep (lim : Nat) (win : List Nat) (s : State) (i : Nat) : State :=
  let s := s.fset (F.TER_ROW_ECC_win_corr (i / 9) (i % 9)) 0
  if lim = 0 ∨ nth 0 win i < lim then s else (s.note 0x0802).eccAlert (i / 9) (i % 9) 1

/-- The state once every Row has been evaluated, before the waiting ones raise their alerts. -/
def State.windowDone (s : State) : State :=
  (List.range 36).foldl (State.winStep (s.fget F.HUB_ECC_CFG_corr_limit) s.eccWin) { s with eccWin := List.replicate 36 0 }

theorem exec_eccWindowEval_runs (h : s.cmRuns = true) : exec .eccWindowEval s = .next s.windowDone.eccDrain :=
  congrArg Host.Outcome.next (if_neg (by simp [h]))

theorem exec_eccWindowEval_stopped (h : s.cmRuns = false) : exec .eccWindowEval s = .next s :=
  congrArg Host.Outcome.next (if_pos (by simp [h]))

variable {lim : Nat} {win : List Nat}

theorem State.winStep_quiet {i : Nat} (h : lim = 0 ∨ nth 0 win i < lim) :
    State.winStep lim win s i = s.fset (F.TER_ROW_ECC_win_corr (i / 9) (i % 9)) 0 := if_pos h

theorem State.winStep_reached {i : Nat} (h : ¬ (lim = 0 ∨ nth 0 win i < lim)) :
    State.winStep lim win s i = ((s.fset (F.TER_ROW_ECC_win_corr (i / 9) (i % 9)) 0).note 0x0802).eccAlert (i / 9) (i % 9) 1 := if_neg h

theorem State.winStep_reportsOnly (lim : Nat) (win : List Nat) (s : State) (i : Nat) : s.reportsOnly (State.winStep lim win s i) := by
  by_cases h : lim = 0 ∨ nth 0 win i < lim
  · rw [State.winStep_quiet h]
    exact .fset s _ 0
  · rw [State.winStep_reached h]
    exact ((State.reportsOnly.fset s _ 0).trans (.note _ _)).trans (State.eccAlert_reportsOnly _ _ _ _)

/-- Beside the count of its Row, a Row's evaluation leaves every register but the alert's and HUB.IRQ_STATUS. -/
theorem State.fget_winStep (lim : Nat) (win : List Nat) (s : State) (i : Nat) {f : Fld} (hf : f.off ∉ [R.HUB_ECC_ALERT, R.HUB_IRQ_STATUS]) :
    (State.winStep lim win s i).fget f = (s.fset (F.TER_ROW_ECC_win_corr (i / 9) (i % 9)) 0).fget f := by
  by_cases h : lim = 0 ∨ nth 0 win i < lim
  · rw [State.winStep_quiet h]
  · rw [State.winStep_reached h]
    exact ((State.eccAlert_logsIn _ _ _ _).fget hf).trans (State.fget_note _ _ f)

/-- A Row's registers lie above those of the Hub (R41). -/
theorem TER_ROW_ECC_off_alert (n p : Nat) : R.TER_ROW_ECC n p ∉ [R.HUB_ECC_ALERT, R.HUB_IRQ_STATUS] := by
  simp only [R.TER_ROW_ECC, R.HUB_ECC_ALERT, R.HUB_IRQ_STATUS, List.mem_cons, List.not_mem_nil, or_false]
  omega

theorem State.fset_win_alert (s : State) (n p v : Nat) {f : Fld} (hf : f.off = R.HUB_ECC_ALERT) :
    (s.fset (F.TER_ROW_ECC_win_corr n p) v).fget f = s.fget f := by
  refine s.fget_fset_elsewhere _ f v fun heq => TER_ROW_ECC_off_alert n p ?_
  rw [show R.TER_ROW_ECC n p = R.HUB_ECC_ALERT from heq.symm.trans hf]
  exact List.mem_cons_self

/-- A Row's evaluation sets its window count to 0. -/
theorem State.winStep_clears (lim : Nat) (win : List Nat) (s : State) (i : Nat) :
    (State.winStep lim win s i).fget (F.TER_ROW_ECC_win_corr (i / 9) (i % 9)) = 0 := by
  rw [State.fget_winStep lim win s i (f := F.TER_ROW_ECC_win_corr _ _) (TER_ROW_ECC_off_alert _ _),
    State.fget_fset_same _ _ _ (show 16 + 8 ≤ 32 by decide)]
  rfl

/-- A window count that is 0 stays so. -/
theorem State.winStep_keeps_zero {n p : Nat} (h : s.fget (F.TER_ROW_ECC_win_corr n p) = 0) (i : Nat) :
    (State.winStep lim win s i).fget (F.TER_ROW_ECC_win_corr n p) = 0 := by
  rw [State.fget_winStep lim win s i (f := F.TER_ROW_ECC_win_corr _ _) (TER_ROW_ECC_off_alert _ _)]
  by_cases hoff : R.TER_ROW_ECC n p = R.TER_ROW_ECC (i / 9) (i % 9)
  · rw [show F.TER_ROW_ECC_win_corr n p = F.TER_ROW_ECC_win_corr (i / 9) (i % 9) from congrArg (fun o => Fld.mk o 16 8) hoff,
      State.fget_fset_same _ _ _ (show 16 + 8 ≤ 32 by decide)]
    rfl
  · rw [State.fget_fset_elsewhere _ (F.TER_ROW_ECC_win_corr (i / 9) (i % 9)) (F.TER_ROW_ECC_win_corr n p) _ hoff, h]

/-- An alert that stands is kept by the Rows evaluated after it. -/
theorem State.alertIs.winStep {T row cause : Nat} (h : s.alertIs T row cause) (i : Nat) : (State.winStep lim win s i).alertIs T row cause := by
  have hset : (s.fset (F.TER_ROW_ECC_win_corr (i / 9) (i % 9)) 0).alertIs T row cause := by
    simpa (disch := decide) only [State.alertIs, State.fbit, State.fset_win_alert] using h
  by_cases hquiet : lim = 0 ∨ nth 0 win i < lim
  · rwa [State.winStep_quiet hquiet]
  · have hnote : ((s.fset (F.TER_ROW_ECC_win_corr (i / 9) (i % 9)) 0).note 0x0802).alertIs T row cause := by
      simpa only [State.alertIs, State.fbit, State.fget_note] using hset
    rwa [State.winStep_reached hquiet, State.eccAlert_held hnote.1]

/-- Rows that have not reached the limit raise no alert. -/
theorem State.winSteps_quiet {is : List Nat} (hquiet : ∀ i ∈ is, lim = 0 ∨ nth 0 win i < lim) (h : s.fbit F.HUB_ECC_ALERT_valid = false) :
    (is.foldl (State.winStep lim win) s).fbit F.HUB_ECC_ALERT_valid = false :=
  List.foldlRecOn (motive := fun b : State => b.fbit F.HUB_ECC_ALERT_valid = false) is _ h fun b hb i hi => by
    rw [State.winStep_quiet (hquiet i hi), State.fbit, State.fset_win_alert _ _ _ _ rfl]
    exact hb

theorem State.alertIs.foldl {α : Type} {f : State → α → State} {T row cause : Nat} (h : s.alertIs T row cause)
    (hf : ∀ (s : State) a, s.alertIs T row cause → (f s a).alertIs T row cause) (l : List α) : (l.foldl f s).alertIs T row cause :=
  List.foldlRecOn (motive := fun s => s.alertIs T row cause) l f h fun b hb a _ => hf b a hb

theorem State.windowDone_reportsOnly (s : State) : ({ s with eccWin := List.replicate 36 0 } : State).reportsOnly s.windowDone :=
  .foldl (State.winStep_reportsOnly _ _) _ _

/-- Every Row is evaluated, so every window count has been set to 0. -/
theorem State.windowDone_clears (s : State) {n p : Nat} (hn : n < 4) (hp : p < 9) : s.windowDone.fget (F.TER_ROW_ECC_win_corr n p) = 0 := by
  have hrow : 9 * n + p ∈ List.range 36 := List.mem_range.mpr (by omega)
  obtain ⟨before, after, hsplit⟩ := List.append_of_mem hrow
  have hclear (x : State) := State.winStep_clears (s.fget F.HUB_ECC_CFG_corr_limit) s.eccWin x (9 * n + p)
  rw [show (9 * n + p) / 9 = n by omega, show (9 * n + p) % 9 = p by omega] at hclear
  rw [State.windowDone, hsplit, List.foldl_append, List.foldl_cons]
  exact List.foldlRecOn (motive := fun x : State => x.fget (F.TER_ROW_ECC_win_corr n p) = 0) after _ (hclear _) fun _ hb i _ =>
    State.winStep_keeps_zero hb i

/-- The first Row that has reached the limit raises the alert, which the Rows after it keep. -/
theorem State.windowDone_first {k : Nat} (hk : k < 36) (hlim : s.fget F.HUB_ECC_CFG_corr_limit ≠ 0)
    (hbefore : ∀ i < k, nth 0 s.eccWin i < s.fget F.HUB_ECC_CFG_corr_limit) (hreach : s.fget F.HUB_ECC_CFG_corr_limit ≤ nth 0 s.eccWin k)
    (hfree : s.fbit F.HUB_ECC_ALERT_valid = false) : s.windowDone.alertIs (k / 9) (k % 9) 1 := by
  have hsplit : List.range 36 = List.range k ++ k :: (List.range (35 - k)).map (k + 1 + ·) := by
    rw [show 36 = k + 1 + (35 - k) by omega, List.range_add, List.range_succ, List.append_assoc]
    rfl
  rw [State.windowDone, hsplit, List.foldl_append, List.foldl_cons]
  have hquiet := State.winSteps_quiet (s := { s with eccWin := List.replicate 36 0 }) (is := List.range k)
    (fun i hi => .inr (hbefore i (List.mem_range.mp hi))) hfree
  generalize (List.range k).foldl _ _ = x at hquiet ⊢
  refine State.alertIs.foldl ?_ (fun _ i hb => hb.winStep i) _
  rw [State.winStep_reached (by omega)]
  refine State.eccAlert_free ?_ (by omega) (by omega) (by decide)
  rwa [State.fbit, State.fget_note, State.fset_win_alert _ _ _ _ rfl]

/-- The waiting Rows are forgotten once they have raised their alerts. -/
theorem State.eccDrain_reportsOnly (s : State) : ({ s with eccUnc := [] } : State).reportsOnly s.eccDrain := by
  have halert (x : State) (y : Nat × Nat) : x.reportsOnly (x.eccAlert y.1 y.2 2) := x.eccAlert_reportsOnly y.1 y.2 2
  exact State.reportsOnly.foldl halert s.eccUnc { s with eccUnc := [] }

theorem State.alertIs.eccDrain {T row cause : Nat} (h : s.alertIs T row cause) : s.eccDrain.alertIs T row cause :=
  State.alertIs.foldl (s := { s with eccUnc := [] }) h (fun _ y hb => (State.eccAlert_held hb.1 y.1 y.2 2).symm ▸ hb) _

/-- With no alert held the first waiting Row raises its own. -/
theorem State.eccDrain_first {T row : Nat} {l : List (Nat × Nat)} (hwait : s.eccUnc = (T, row) :: l) (hT : T < 4) (hrow : row < 9)
    (hfree : s.fbit F.HUB_ECC_ALERT_valid = false) : s.eccDrain.alertIs T row 2 := by
  rw [State.eccDrain, hwait, List.foldl_cons]
  exact State.alertIs.foldl (State.eccAlert_free (s := { s with eccUnc := [] }) hfree hT (by omega) (by decide))
    (fun _ y hb => (State.eccAlert_held hb.1 y.1 y.2 2).symm ▸ hb) _

theorem State.eccDrain_logsIn (s : State) : s.logsIn s.eccDrain [R.HUB_ECC_ALERT, R.HUB_IRQ_STATUS] :=
  List.foldlRecOn (motive := fun x => s.logsIn x _) s.eccUnc _ ⟨⟨_, _, _, _, _, _, rfl⟩, fun _ _ => rfl⟩
    fun _ hb y _ => hb.trans (State.eccAlert_logsIn _ y.1 y.2 2)

end Sys2Proof.Machine

open Sys2Proof Sys2Proof.Machine

/-- Settles O49: a corrected codeword is counted and stored again (State.blockStored_counted), an uncorrectable one of the Cellarmaster memories
comes to State.cmRestart, and the window's end is State.winStep over the Rows, then the waiting ones. -/
theorem scrubbersAndWindow : Obligations.ScrubbersAndWindow := by
  unfold Obligations.ScrubbersAndWindow
  refine ⟨?block, ?blockBack, ?word, ?wordBack, ?late, ?off, fun _ => rfl, ?cellarCounted, ?cellarLost, ?wordLate, ?window, ?reached, ?waiting,
    fun s => exec_eccWindowEval_stopped⟩
  case block =>
    intro off s halign hclean hlast hwrites
    exact (exec_hyperramScrub off [] s).trans (congrArg _ (hyperramScrubEff_clean halign hclean hlast hwrites))
  case blockBack =>
    intro off c x s halign hwrites hen hdefer hchan hready herr hdec htag hlast a
    obtain ⟨hupset, hbytes, hpoison, hrest, hcount, hregs⟩ :=
      s.blockStored_counted (f := F.HRM_CH_ERR_corr c) (show 0 + 16 ≤ 32 by decide) a (xorBytes (s.bytesAt a 32) x)
    rw [xorBytes_length, State.bytesAt_length] at hbytes hrest
    exact ⟨_, (exec_hyperramScrub off [] s).trans (congrArg _ (hyperramScrubEff_corrected halign hwrites hen hdefer hchan hready herr hdec htag
      hlast)), hupset, hbytes, hpoison, hrest, hcount, hregs⟩
  case word =>
    intro a s halign hclean
    exact (exec_sramScrub_mem a s).trans (congrArg _ (scrubMem_clean halign hclean))
  case wordBack =>
    intro a r s halign hchip hpark herr hdec
    obtain ⟨hupset, hbytes, hpoison, hrest, hcount, hregs⟩ :=
      s.blockStored_counted (f := F.HUB_ECC_HUB_corr) (by decide) a (xorBytes (s.bytesAt a 8) r)
    rw [xorBytes_length, State.bytesAt_length] at hbytes hrest
    exact ⟨_, (exec_sramScrub_mem a s).trans (congrArg _ (scrubMem_corrected halign hchip hpark herr hdec)), hupset, hbytes, hpoison, hrest,
      hcount, hregs⟩
  case late =>
    intro s hen
    exact ⟨_, congrArg Host.Outcome.next (if_pos hen), s.note_fset_spec 0x0813 (f := F.HRM_SCRUB_late) (by decide) rfl⟩
  case off =>
    intro s hdis
    exact congrArg Host.Outcome.next (if_neg (ne_true_of_eq_false hdis))
  case cellarCounted =>
    intro s
    exact ⟨_, rfl, s.fget_fcount_same F.HUB_ECC_HUB_corr 1 (by decide), s.regsBut_fcount _ _, (s.onlyLogs_fcount _ _).sameMem⟩
  case cellarLost =>
    intro s hlevel hidle
    exact ⟨_, rfl, scrubCellar_uncorrectable hlevel hidle⟩
  case wordLate =>
    intro s
    exact ⟨_, rfl, s.note_fset_spec 0x0803 (f := F.HUB_ECC_SCRUB_late) (by decide) rfl⟩
  case window =>
    intro s hruns
    obtain ⟨hunc, hwin⟩ := s.windowDone.eccDrain_reportsOnly.window
    refine ⟨_, exec_eccWindowEval_runs hruns, hunc, hwin.trans s.windowDone_reportsOnly.window.2, fun n hn p hp => ?_,
      State.sameMem_trans s.windowDone_reportsOnly.onlyLogs.sameMem s.windowDone.eccDrain_logsIn.1.sameMem⟩
    exact (s.windowDone.eccDrain_logsIn.fget (TER_ROW_ECC_off_alert n p)).trans (s.windowDone_clears hn hp)
  case reached =>
    intro k s hruns hk hlim hbefore hreach hfree
    exact ⟨_, exec_eccWindowEval_runs hruns, (State.windowDone_first hk hlim hbefore hreach hfree).eccDrain⟩
  case waiting =>
    intro T row l s hruns hwait hT hrow hlim hfree
    have hquiet := State.winSteps_quiet (s := { s with eccWin := List.replicate 36 0 }) (is := List.range 36)
      (fun i hi => hlim.imp_right fun h => h i (List.mem_range.mp hi)) hfree
    exact ⟨_, exec_eccWindowEval_runs hruns, State.eccDrain_first (s.windowDone_reportsOnly.window.1.trans hwait) hT hrow hquiet⟩

end

section
/-!
PROOFS. HyperRAM channels (12 R342, R343, R347, R349): what a failure tells the users of a channel, what the Graft queue does when it may go on,
and that neither moves a channel again nor has a command taken; a channel that initialises, the Blend store and the crop store.
-/
namespace Sys2Proof.Machine

variable {s t u : State} {m : Prop}

/-! ## What keeps the channels -/

/-- The HyperRAM channels with their HRM.CHn_STATUS and the commands read ahead are in `t` as in `s`; where `m` holds, memory and the Graft queue
are too. -/
def State.keepsChans (m : Prop) (s t : State) : Prop :=
  t.hrm.chan = s.hrm.chan ∧ t.cp.cmds = s.cp.cmds ∧ (∀ c : Fin 4, t.reg (R.HRM_CH_STATUS c) = s.reg (R.HRM_CH_STATUS c)) ∧
    (m → t.mem = s.mem ∧ t.poison = s.poison ∧ t.upset = s.upset ∧ t.grf.queue = s.grf.queue)

namespace State.keepsChans

theorem refl (s : State) : s.keepsChans m s := ⟨rfl, rfl, fun _ => rfl, fun _ => ⟨rfl, rfl, rfl, rfl⟩⟩

theorem trans (h : s.keepsChans m t) (h' : t.keepsChans m u) : s.keepsChans m u := by
  obtain ⟨hchan, hcmds, hregs, hmem⟩ := h
  obtain ⟨hchan', hcmds', hregs', hmem'⟩ := h'
  refine ⟨hchan'.trans hchan, hcmds'.trans hcmds, fun c => (hregs' c).trans (hregs c), fun hm => ?_⟩
  obtain ⟨hbytes, hpoison, hupset, hqueue⟩ := hmem hm
  obtain ⟨hbytes', hpoison', hupset', hqueue'⟩ := hmem' hm
  exact ⟨hbytes'.trans hbytes, hpoison'.trans hpoison, hupset'.trans hupset, hqueue'.trans hqueue⟩

/-- A change of parts that `keepsChans` does not speak of. -/
theorem rest (h : s.keepsChans m t) (hchan : u.hrm.chan = t.hrm.chan) (hcmds : u.cp.cmds = t.cp.cmds) (hregs : u.regs = t.regs)
    (hmem : m → u.mem = t.mem ∧ u.poison = t.poison ∧ u.upset = t.upset ∧ u.grf.queue = t.grf.queue) : s.keepsChans m u :=
  h.trans ⟨hchan, hcmds, fun _ => State.reg_congr hregs _, hmem⟩

theorem fget (h : s.keepsChans m t) (c : Fin 4) {f : Fld} (hf : f.off = R.HRM_CH_STATUS c) : t.fget f = s.fget f := by
  obtain ⟨-, -, hregs, -⟩ := h
  rw [State.fget, State.fget, hf, hregs c]

theorem chanAt (h : s.keepsChans m t) (c : Nat) : t.chanAt c = s.chanAt c := congrArg (nth 0 · c) h.1

theorem cmds (h : s.keepsChans m t) : t.cp.cmds = s.cp.cmds := h.2.1

theorem queue (h : s.keepsChans m t) (hm : m) : t.grf.queue = s.grf.queue := by
  obtain ⟨-, -, -, hmem⟩ := h
  obtain ⟨-, -, -, hqueue⟩ := hmem hm
  exact hqueue

theorem sameMem (h : s.keepsChans m t) (hm : m) : s.sameMem t := by
  obtain ⟨-, -, -, hmem⟩ := h
  obtain ⟨hbytes, hpoison, hupset, -⟩ := hmem hm
  exact State.sameMem_of_eq hbytes hpoison hupset

theorem imp {m' : Prop} (h : s.keepsChans m t) (hm : m' → m) : s.keepsChans m' t := by
  obtain ⟨hchan, hcmds, hregs, hmem⟩ := h
  exact ⟨hchan, hcmds, hregs, hmem ∘ hm⟩

theorem of_ite {c : Prop} [Decidable c] (hx : s.keepsChans m t) (hy : s.keepsChans m u) : s.keepsChans m (if c then t else u) := by
  split <;> assumption

theorem rd_ite {c : Prop} [Decidable c] {x y : Rd} (hx : s.keepsChans m x.2.2) (hy : s.keepsChans m y.2.2) :
    s.keepsChans m (if c then x else y).2.2 := by
  split <;> assumption

theorem foldl {α : Type} (f : State → α → State) (h : ∀ (s : State) a, s.keepsChans m (f s a)) (l : List α) (s : State) :
    s.keepsChans m (l.foldl f s) := List.foldlRecOn l f (refl s) fun _ hb a _ => hb.trans (h _ a)

theorem freshBelow (h : s.keepsChans m t) (n : Nat) : s.keepsChans m (t.freshBelow n).2 := h.rest rfl rfl rfl fun _ => ⟨rfl, rfl, rfl, rfl⟩
theorem mapStr (h : s.keepsChans m t) (f : StrSt → StrSt) : s.keepsChans m (t.mapStr f) := h.rest rfl rfl rfl fun _ => ⟨rfl, rfl, rfl, rfl⟩
theorem mapVrd (h : s.keepsChans m t) (f : VrdSt → VrdSt) : s.keepsChans m (t.mapVrd f) := h.rest rfl rfl rfl fun _ => ⟨rfl, rfl, rfl, rfl⟩

theorem mapHrm (h : s.keepsChans m t) (f : HrmSt → HrmSt) (hf : (f t.hrm).chan = t.hrm.chan) : s.keepsChans m (t.mapHrm f) :=
  h.rest hf rfl rfl fun _ => ⟨rfl, rfl, rfl, rfl⟩

theorem mapCp (h : s.keepsChans m t) (f : CpSt → CpSt) (hf : (f t.cp).cmds = t.cp.cmds) : s.keepsChans m (t.mapCp f) :=
  h.rest rfl hf rfl fun _ => ⟨rfl, rfl, rfl, rfl⟩

theorem mapGrf (h : s.keepsChans m t) (f : GrfSt → GrfSt) (hf : m → (f t.grf).queue = t.grf.queue) : s.keepsChans m (t.mapGrf f) :=
  h.rest rfl rfl rfl fun hm => ⟨rfl, rfl, rfl, hf hm⟩

theorem fset (h : s.keepsChans m t) (f : Fld) (v : Nat) (hf : ∀ c : Fin 4, R.HRM_CH_STATUS c ≠ f.off) : s.keepsChans m (t.fset f v) :=
  h.trans ⟨rfl, rfl, fun c => t.reg_setReg_other _ (hf c), fun _ => ⟨rfl, rfl, rfl, rfl⟩⟩

theorem fcount (h : s.keepsChans m t) (f : Fld) (n : Nat) (hf : ∀ c : Fin 4, R.HRM_CH_STATUS c ≠ f.off) : s.keepsChans m (t.fcount f n) :=
  h.fset f _ hf

/-! ## Error reports -/

/-- Logs in other registers. -/
theorem logsIn (h : s.keepsChans m t) {os : List Nat} (hlogs : t.logsIn u os) (hos : ∀ c : Fin 4, R.HRM_CH_STATUS c ∉ os) :
    s.keepsChans m u := by
  obtain ⟨⟨r, i, c, w, e, n, rfl⟩, hregs⟩ := hlogs
  exact h.trans ⟨rfl, rfl, fun c => hregs _ (hos c), fun _ => ⟨rfl, rfl, rfl, rfl⟩⟩

theorem note (h : s.keepsChans m t) (code : Nat) : s.keepsChans m (t.note code) := h.logsIn ((State.logsIn.refl t []).note code) (by simp)

theorem irq (h : s.keepsChans m t) (k : Nat) : s.keepsChans m (t.irq k) := h.logsIn ⟨t.onlyLogs_irq k, t.regsBut_irq k⟩ (by decide)

theorem capture (h : s.keepsChans m t) (k : Nat) (fCode fValid : Fld) (code : Nat) (hc : ∀ c : Fin 4, R.HRM_CH_STATUS c ≠ fCode.off)
    (hv : ∀ c : Fin 4, R.HRM_CH_STATUS c ≠ fValid.off) : s.keepsChans m (t.capture k fCode fValid code) :=
  .of_ite h (((h.fset _ _ hc).fset _ _ hv).irq k)

theorem complete (h : s.keepsChans m t) (tag op code result : Nat) (irq : Bool) : s.keepsChans m (t.complete tag op code result irq) := by
  have hres : t.keepsChans m (if code ≠ 0 ∧ result = 0 then t.freshBelow (2 ^ 64) else (result, t)).2 := by
    split
    · exact (refl t).freshBelow _
    · exact refl t
  have hraise {x : State} (hx : t.keepsChans m x) : t.keepsChans m (x.raise code) :=
    .of_ite ((hx.note code).capture 0 F.SEC_ERR_code F.SEC_ERR_valid code (by decide) (by decide)) (hx.note code)
  exact (h.trans (hraise hres)).mapCp _ rfl

theorem hrmErr (h : s.keepsChans m t) (code ch src off : Nat) : s.keepsChans m (t.hrmErr code ch src off) :=
  .of_ite (h.note code) ((((((h.note code).fset F.HRM_ERR_ADDR_offset _ (by decide)).fset F.HRM_ERR_INFO_code _ (by decide)).fset
    F.HRM_ERR_INFO_channel _ (by decide)).fset F.HRM_ERR_INFO_source _ (by decide)).fset F.HRM_ERR_INFO_valid _ (by decide) |>.irq 0)

/-- The registers of a Terrace lie above HRM.CHn_STATUS (R41). -/
theorem ne_TER_ROW_ECC (n i : Nat) (c : Fin 4) : R.HRM_CH_STATUS c ≠ R.TER_ROW_ECC n i := by
  simp only [R.HRM_CH_STATUS, R.TER_ROW_ECC]
  omega

theorem countCorr (h : s.keepsChans m t) (a : Nat) : s.keepsChans m (t.countCorr a) := by
  unfold State.countCorr
  cases (if inTerrace a then some (terOf a, rowOf a) else none) with
  | none => exact h.fcount F.HUB_ECC_HUB_corr 1 (by decide)
  | some x =>
    exact (h.rest rfl rfl rfl fun _ => ⟨rfl, rfl, rfl, rfl⟩).fcount (F.TER_ROW_ECC_corr x.1 x.2) _ (ne_TER_ROW_ECC x.1 x.2)
      |>.fcount (F.TER_ROW_ECC_win_corr x.1 x.2) _ (ne_TER_ROW_ECC x.1 x.2)

theorem countUnc (h : s.keepsChans m t) (a : Nat) : s.keepsChans m (t.countUnc a) := by
  unfold State.countUnc
  cases (if inTerrace a then some (terOf a, rowOf a) else none) with
  | none => exact h.fcount F.HUB_ECC_HUB_uncorr 1 (by decide)
  | some x =>
    have hcount := h.fcount (F.TER_ROW_ECC_uncorr x.1 x.2) 1 (ne_TER_ROW_ECC x.1 x.2)
    exact .of_ite (hcount.logsIn (State.eccAlert_logsIn _ _ _ _) (by decide))
      (.of_ite hcount (hcount.rest rfl rfl rfl fun _ => ⟨rfl, rfl, rfl, rfl⟩))

theorem raiseEcc (h : s.keepsChans m t) (a code : Nat) (scrub : Bool) : s.keepsChans m (t.raiseEcc a code scrub) := by
  have hcount := (h.note code).countUnc a
  exact .of_ite hcount ((((((hcount.fset F.HUB_ECC_ERR_ADDR_addr _ (by decide)).fset F.HUB_ECC_ERR_INFO_addr_hi _ (by decide)).fset
    F.HUB_ECC_ERR_INFO_code _ (by decide)).fset F.HUB_ECC_ERR_INFO_source _ (by decide)).fset F.HUB_ECC_ERR_INFO_valid _ (by decide)).irq 0)

end State.keepsChans

/-! ## Memory -/

theorem readCw_keepsChans (s : State) (a : Nat) : s.keepsChans m (readCw s a).2.2 := by
  refine .rd_ite (.refl s) ?_
  cases rsDecode 11 (s.upsetAt a) with
  | good r => exact .refl s
  | corrected r => exact (State.keepsChans.refl s).countCorr a
  | bad => exact (State.keepsChans.refl s).raiseEcc a _ _

theorem readCws_keepsChans (s : State) (a n : Nat) : s.keepsChans m (readCws s a n).2.2 := by
  induction n generalizing s a with
  | zero => exact .refl s
  | succ n ih => exact (readCw_keepsChans s a).trans (ih (readCw s a).2.2 (a + 8))

theorem readChip_keepsChans (s : State) (a n : Nat) : s.keepsChans m (readChip s a n).2.2 := .rd_ite (.refl s) (readCws_keepsChans s _ _)

theorem readBlock_keepsChans (s : State) (a src : Nat) : s.keepsChans m (readBlock s a src).2.2 := by
  have hself := State.keepsChans.refl (m := m) s
  have hne (n : Nat) (c : Fin 4) : R.HRM_CH_STATUS c ≠ R.HRM_CH_ERR n := by
    simp only [R.HRM_CH_STATUS, R.HRM_CH_ERR]
    omega
  have hcheck (x : State) (r : Nat) : x.keepsChans m (checkBlock x a src r).2.2 :=
    .rd_ite (.refl x) ((State.keepsChans.refl x).hrmErr _ _ _ _)
  unfold readBlock
  dsimp only
  refine .rd_ite hself ?_
  generalize (s.chanOf (a - hyperBase)).getD 0 = ch
  cases rsDecode 36 (s.upsetAt a) with
  | good r => exact hcheck s r
  | corrected r => exact (hself.fcount (F.HRM_CH_ERR_corr ch) 1 (hne ch)).trans (hcheck _ r)
  | bad => exact (hself.fcount (F.HRM_CH_ERR_uncorr ch) 1 (hne ch)).hrmErr _ _ _ _

theorem readHyper_keepsChans (s : State) (a n src : Nat) : s.keepsChans m (readHyper s a n src).2.2 := by
  have hblocks (n : Nat) (s : State) (a : Nat) : s.keepsChans m (readBlocks s src a n).2.2 := by
    induction n generalizing s a with
    | zero => exact .refl s
    | succ n ih => exact (readBlock_keepsChans s a src).trans (ih (readBlock s a src).2.2 (a + 32))
  exact .rd_ite (.refl s) (hblocks _ s _)

/-- A codeword or block rewritten. -/
theorem State.keepsChans.rewrite (h : s.keepsChans False t) (a : Nat) (bs : List Byte) (p : Bool) :
    s.keepsChans False (((t.putBytes a bs).setPoison a p).setUpset a 0) := by
  rw [State.putBytes_eq]
  exact h.rest rfl rfl rfl False.elim

theorem writeCws_keepsChans (s : State) (n a : Nat) (bs : List Byte) (p : Bool) : s.keepsChans False (writeCws s n a bs p) := by
  have hcw (s : State) (a o : Nat) (bs : List Byte) : s.keepsChans False (writeCw s a o bs p) :=
    .of_ite ((State.keepsChans.refl s).rewrite a bs p) ((readCw_keepsChans s a).rewrite a _ _)
  induction n generalizing s a bs with
  | zero => exact .refl s
  | succ n ih => exact .of_ite (.refl s) ((hcw s _ _ _).trans (ih _ _ _))

theorem writeHyper_keepsChans (s : State) (a : Nat) (bs : List Byte) (p : Bool) (src : Nat) :
    s.keepsChans False (writeHyper s a bs p src) := by
  have hblock (s : State) (a o : Nat) (bs : List Byte) : s.keepsChans False (writeBlock s a o bs p src) :=
    .of_ite ((State.keepsChans.refl s).rewrite a bs p) ((readBlock_keepsChans s a src).rewrite a _ _)
  have hblocks (n : Nat) (s : State) (a : Nat) (bs : List Byte) : s.keepsChans False (writeBlocks s p src n a bs) := by
    induction n generalizing s a bs with
    | zero => exact .refl s
    | succ n ih => exact .of_ite (.refl s) (.trans (.of_ite (.refl s) (hblock s _ _ _)) (ih _ _ _))
  exact hblocks _ s a bs

/-! ## Writes under way (R303, R344) -/

theorem State.writeDone_keepsChans (s : State) (no : Nat) : s.keepsChans m (s.writeDone no) := by
  have hserial (x : State) : x.keepsChans m (x.serialDone 0 0) := by
    unfold State.serialDone
    cases x.cp.serial with
    | none => exact .refl x
    | some c => exact ((State.keepsChans.refl x).mapCp _ rfl).complete _ _ _ _ _
  have hfence (x : State) : x.keepsChans m x.fenceCheck := by
    unfold State.fenceCheck
    split
    · exact .of_ite (.refl x) (((State.keepsChans.refl x).mapStr _).trans (hserial _))
    · exact .refl x
  exact ((State.keepsChans.refl s).mapStr _).trans (hfence _)

theorem State.inOrder_keepsChans (s : State) (a n : Nat) : s.keepsChans False (s.inOrder a n) := by
  have hwrite (t : State) (w : HyperWr) :
      t.keepsChans False (if t.spanOk w.addr w.bytes.length then writeHyper t w.addr w.bytes w.poison (wrSource w.chan) else t) :=
    .of_ite (writeHyper_keepsChans t _ _ _ _) (.refl t)
  have haccept (t : State) (w : HyperWr) : t.keepsChans False (t.acceptWrite w) := by
    unfold State.acceptWrite
    exact (((State.keepsChans.refl t).mapStr _).trans (hwrite _ w)).trans (State.writeDone_keepsChans _ _)
  exact .foldl _ haccept _ s

/-! ## The Graft queue (R241–R251) -/

theorem State.readEntry_keepsChans (s : State) (a : Nat) : s.keepsChans False (s.readEntry a).2.2 := by
  have hcheck (n lo hi : Nat) : s.keepsChans False (s.readCheck 4 n lo hi) :=
    .of_ite (((State.keepsChans.refl s).note _).capture 0 (F.STR_CH_ERR_code 4) (F.STR_CH_ERR_valid 4) _ (by decide) (by decide)) (.refl s)
  exact ((hcheck _ _ _).trans (State.inOrder_keepsChans _ _ _)).trans (readHyper_keepsChans _ _ _ _)

theorem State.samples_keepsChans (s : State) (K n : Nat) (bs : List Byte) : s.keepsChans False (s.samples K n bs).2.2 := by
  have hfeat (s : State) (seq : Nat) : s.keepsChans False (s.featOf seq).2 := by
    unfold State.featOf
    dsimp only
    split
    · exact .refl s
    · exact s.readEntry_keepsChans _
  induction n generalizing s bs with
  | zero => exact .refl s
  | succ n ih =>
    have hread := hfeat s (leAt bs 0 4)
    unfold State.samples
    generalize s.featOf (leAt bs 0 4) = x at hread
    obtain ⟨o, u⟩ := x
    split
    · exact .refl s
    · split
      · exact .refl s
      · cases o with
        | none => exact hread
        | some e =>
          dsimp only
          split
          · exact hread
          · exact hread.trans (ih u _)

theorem State.keepsChans.grfDone (h : s.keepsChans False t) (q : GraftCmd) (code result : Nat) : s.keepsChans False (t.grfDone q code result) :=
  (h.mapGrf _ False.elim).complete _ _ _ _ _

theorem State.submitStart_keepsChans (s : State) (q : GraftCmd) : s.keepsChans False (s.submitStart q) := by
  have hself := State.keepsChans.refl (m := False) s
  have hput (t : State) : t.keepsChans False t.graftPut :=
    ((State.keepsChans.refl t).freshBelow (256 ^ t.graftLen)).trans (writeCws_keepsChans _ _ _ _ _)
  have hinit : s.keepsChans False (if q.reset then s.graftInit else (s.grf.mode == .ready, s)).2 := by
    unfold State.graftInit
    dsimp only
    split
    · split
      · exact (hself.mapGrf _ False.elim).trans (hput _)
      · exact hself
    · exact hself
  have hpool (t : State) (e : List Byte) : t.keepsChans False (t.appendPool e false) := by
    have hentry (x : State) (a : Nat) :
        x.keepsChans False ((writeHyper (x.inOrder a e.length) a e false 3).mapGrf fun g => { g with poolLen := g.poolLen + 1 }) :=
      ((x.inOrder_keepsChans _ _).trans (writeHyper_keepsChans _ _ _ _ _)).mapGrf _ False.elim
    exact (State.keepsChans.of_ite ((State.keepsChans.refl t).mapGrf _ False.elim) (.refl t)).trans (hentry _ _)
  unfold State.submitStart
  generalize (if q.reset then s.graftInit else (s.grf.mode == .ready, s)) = x at hinit
  obtain ⟨ok, u⟩ := x
  refine .of_ite (hself.grfDone _ _ _) (.of_ite (hself.grfDone _ _ _) (.of_ite (hinit.grfDone _ _ _) ?_))
  have hsamples : s.keepsChans False (if u.graftReach then u.samples (gHdr u.grf.sect).K 257 q.list else (0x0D0B, [], u)).2.2 := by
    split
    · exact hinit.trans (u.samples_keepsChans _ _ _)
    · exact hinit
  dsimp only
  generalize (if u.graftReach then u.samples (gHdr u.grf.sect).K 257 q.list else (0x0D0B, [], u)) = y at hsamples
  obtain ⟨code, es, v⟩ := y
  have happend := hsamples.trans (.foldl _ hpool es v)
  exact .of_ite (hsamples.grfDone _ _ _) (.of_ite (happend.grfDone _ _ _) (happend.mapGrf _ False.elim))

theorem State.commitStart_keepsChans (s : State) (q : GraftCmd) : s.keepsChans False (s.commitStart q) := by
  have hself := State.keepsChans.refl (m := False) s
  have hread : s.keepsChans False s.graftRead.2 := readChip_keepsChans s _ _
  have hdamaged (t : State) : t.keepsChans False t.graftDamaged := by
    have hself := State.keepsChans.refl (m := False) t
    have herr : t.keepsChans False (t.grfErr 0x0D06) :=
      .of_ite (hself.note _) (((hself.note _).capture 0 F.HUB_GRF_ERR_code F.HUB_GRF_ERR_valid _ (by decide) (by decide)).irq 2)
    exact ((herr.mapGrf _ False.elim).mapGrf _ False.elim).trans (.foldl _ (fun u q => (State.keepsChans.refl u).complete _ _ _ _ _) _ _)
  unfold State.commitStart
  generalize s.graftRead = x at hread
  obtain ⟨bad, u⟩ := x
  exact .of_ite (hself.grfDone _ _ _) (.of_ite (hself.grfDone _ _ _) (.of_ite (hself.grfDone _ _ _) (.of_ite (hself.grfDone _ _ _)
    (.of_ite (hread.trans (hdamaged _)) (((hread.fcount F.HUB_GRF_SAT_sat _ (by decide)).mapGrf _ False.elim).mapGrf _ False.elim)))))

/-- The Graft queue goes on beside the channels; an empty one does nothing. -/
theorem State.pumpGraft_keepsChans (s : State) (n : Nat) : s.keepsChans (s.grf.queue = []) (s.pumpGraft n) := by
  have hrun (n : Nat) (s : State) : s.keepsChans False (s.pumpGraft n) := by
    induction n generalizing s with
    | zero => exact .refl s
    | succ n ih =>
      have hself := State.keepsChans.refl (m := False) s
      unfold State.pumpGraft
      cases s.grfCur with
      | none => exact hself
      | some q =>
        have hcommit := (s.commitStart_keepsChans q).trans (ih _)
        have hsubmit := (s.submitStart_keepsChans q).trans (ih _)
        have hdone (code result : Nat) := (hself.grfDone q code result).trans (ih _)
        have hlost := ((hself.mapGrf (fun g => { g with stepping := false }) False.elim).grfDone q 0x0D0B 0).trans (ih _)
        exact .of_ite (.of_ite (.of_ite hself hcommit) (.of_ite (hdone _ _) hself)) (.of_ite (.of_ite hself hsubmit)
          (.of_ite (hdone _ _) (.of_ite (hdone _ _) (.of_ite hlost hself))))
  obtain ⟨hchan, hcmds, hregs, -⟩ := hrun n s
  exact ⟨hchan, hcmds, hregs, fun hempty => by rw [State.pumpGraft_nil hempty]; exact ⟨rfl, rfl, rfl, rfl⟩⟩

/-! ## A channel fails (R347, R348) -/

/-- E-0812 is logged for channel `c`; the offset and the source captured are open. -/
def State.failLogged (s : State) (c : Nat) : State :=
  let (o, s) := s.freshBelow (2 ^ 32)
  let (src, s) := s.freshBelow 8
  s.hrmErr 0x0812 c src o

theorem State.failLogged_keepsChans (s : State) (c : Nat) : s.keepsChans m (s.failLogged c) :=
  (((State.keepsChans.refl s).freshBelow (2 ^ 32)).freshBelow 8).hrmErr 0x0812 c _ _

/-- The state in which channel `c` stands failed with its cause, its users not yet told. -/
def State.chanDown (s : State) (c cause : Nat) : State := ((s.failLogged c).setHyper c 3).fset (F.HRM_CH_STATUS_cause c) cause

/-- The writes issued to channel `c` are not made, and nothing waits for them (R348); a held write of the crop store may now take effect. -/
def State.chanWritesLost (s : State) (c : Nat) : State :=
  let gone := s.str.writes.filter fun w => s.chanOf (w.addr - hyperBase) == some c
  let s := s.mapStr fun x => { x with writes := x.writes.filter fun w => !gone.contains w }
  (gone.foldl (fun s w => s.writeDone w.no) s).cropStoreFree

/-- What stood on channel `c` is lost: Blend slots, crops and writes (Table 12.4). -/
def State.chanUsersTold (s : State) (c : Nat) : State :=
  (((List.range 4).foldl (fun s i => let (o, n) := s.slotPlace i; if s.meetsChan c o n then s.slotInvalid i else s) s).cropsLost c
    0x0324).chanWritesLost c

theorem failChannel_eq {c : Nat} (hpresent : s.chanAt c ≠ 0) (hgood : s.chanAt c ≠ 3) (cause : Nat) : failChannel s c cause =
    (if ((s.chanDown c cause).chanUsersTold c).graftReach then (s.chanDown c cause).chanUsersTold c
      else ((s.chanDown c cause).chanUsersTold c).featsDropped.pumpGraft 32) := by
  have hguard : (s.chanFailed c || s.chanAt c == 0) = false := by simp [State.chanFailed, hpresent, hgood]
  rw [failChannel, hguard, if_neg Bool.false_ne_true]
  rfl

theorem State.cropsLost_keepsChans (s : State) (c code : Nat) : s.keepsChans m (s.cropsLost c code) := by
  refine .foldl _ (fun t x => ?_) _ s
  have hself := State.keepsChans.refl (m := m) t
  exact .of_ite (.of_ite (((hself.note code).fcount F.VRD_RB_DROP_crop 1 (by decide)).mapVrd _) (hself.mapVrd _)) hself

theorem State.cropStoreFree_keepsChans (s : State) : s.keepsChans m s.cropStoreFree := by
  have hset (t : State) (f : Fld) (hf : ∀ c : Fin 4, R.HRM_CH_STATUS c ≠ f.off) (held : Option Nat) :
      t.keepsChans m (match held with | some b => t.fset f b | none => t) := by
    cases held with
    | none => exact .refl t
    | some b => exact (State.keepsChans.refl t).fset f b hf
  have hfirst (t : State) (p : Bool) : t.keepsChans m (if p then t.mapVrd fun v => { v with nextPage := 0 } else t) :=
    .of_ite ((State.keepsChans.refl t).mapVrd _) (.refl t)
  unfold State.cropStoreFree
  refine .of_ite ?_ (.refl s)
  exact (((hset s F.HRM_CROP_BASE_pages (by decide) _).trans (hset _ F.HRM_CROP_SIZE_pages (by decide) _)).trans (hfirst _ _)).mapHrm _ rfl

theorem State.chanWritesLost_keepsChans (s : State) (c : Nat) : s.keepsChans m (s.chanWritesLost c) := by
  have hdone (t : State) (w : HyperWr) : t.keepsChans m (t.writeDone w.no) := t.writeDone_keepsChans w.no
  unfold State.chanWritesLost
  exact (((State.keepsChans.refl s).mapStr _).trans (.foldl _ hdone _ _)).trans (State.cropStoreFree_keepsChans _)

theorem State.chanUsersTold_keepsChans (s : State) (c : Nat) : s.keepsChans m (s.chanUsersTold c) := by
  have hslot (t : State) (i : Nat) : t.keepsChans m (if t.meetsChan c (t.slotPlace i).1 (t.slotPlace i).2 then t.slotInvalid i else t) :=
    .of_ite ((State.keepsChans.refl t).mapHrm _ rfl) (.refl t)
  unfold State.chanUsersTold
  exact ((State.keepsChans.foldl _ hslot _ s).trans (State.cropsLost_keepsChans _ _ _)).trans (State.chanWritesLost_keepsChans _ _)

/-- A present unit stands in the list of its kind. -/
theorem lt_length_of_nth_ne {α : Type} {d : α} {l : List α} {i : Nat} (h : nth d l i ≠ d) : i < l.length := by
  induction l generalizing i with
  | nil => exact absurd rfl h
  | cons x l ih =>
    cases i with
    | zero => exact Nat.zero_lt_succ _
    | succ i => exact Nat.succ_lt_succ (ih h)

/-- A channel that moves on stands where it moved, and HRM.CHn_STATUS shows it. -/
theorem State.setHyper_spec {c n : Nat} (hpresent : s.chanAt c ≠ 0) (hn : n < 8) :
    (s.setHyper c n).chanAt c = n ∧ (s.setHyper c n).fget (F.HRM_CH_STATUS_state c) = n ∧ s.regsBut (s.setHyper c n) [R.HRM_CH_STATUS c] :=
  ⟨nth_setNth_same _ _ _ _ (lt_length_of_nth_ne hpresent),
    (State.fget_fset_same _ _ n (show 0 + 3 ≤ 32 by decide)).trans (Nat.mod_eq_of_lt hn), State.regsBut_fset _ (F.HRM_CH_STATUS_state c) n⟩

@[simp] theorem State.chanAt_fset (s : State) (f : Fld) (v c : Nat) : (s.fset f v).chanAt c = s.chanAt c := rfl

/-- A channel that fails stands failed with its cause; force_fail, the commands read ahead, the Graft queue and memory are as before. -/
theorem State.chanDown_spec {c : Fin 4} {cause : Nat} (hpresent : s.chanAt c ≠ 0) (hcause : cause < 8) :
    let t := s.chanDown c cause
    t.chanAt c = 3 ∧ t.fget (F.HRM_CH_STATUS_state c) = 3 ∧ t.fget (F.HRM_CH_STATUS_cause c) = cause ∧
      t.fget (F.HRM_CH_STATUS_force_fail c) = s.fget (F.HRM_CH_STATUS_force_fail c) ∧ t.cp.cmds = s.cp.cmds ∧ t.grf.queue = s.grf.queue ∧
      s.sameMem t := by
  have hlog := s.failLogged_keepsChans (m := True) c
  unfold State.chanDown
  generalize s.failLogged c = u at hlog
  obtain ⟨hat, hstate, -⟩ := State.setHyper_spec (n := 3) (hlog.chanAt c ▸ hpresent) (by decide)
  refine ⟨(State.chanAt_fset _ _ _ _).trans hat, ?_, ?_, ?_, hlog.cmds, hlog.queue trivial, State.sameMem_trans (hlog.sameMem trivial) ?_⟩
  · rw [State.fget_fset_beside _ (F.HRM_CH_STATUS_cause c) (F.HRM_CH_STATUS_state c) _ rfl (show 0 + 3 ≤ 32 by decide)
      (.inl (show 0 + 3 ≤ 4 by decide)), hstate]
  · exact (State.fget_fset_same _ _ cause (show 4 + 3 ≤ 32 by decide)).trans (Nat.mod_eq_of_lt hcause)
  · rw [State.fget_fset_beside _ (F.HRM_CH_STATUS_cause c) (F.HRM_CH_STATUS_force_fail c) _ rfl (show 8 + 1 ≤ 32 by decide)
      (.inr (show 4 + 3 ≤ 8 by decide)), State.setHyper, State.fget_fset_beside _ (F.HRM_CH_STATUS_state c) (F.HRM_CH_STATUS_force_fail c) _ rfl
      (show 8 + 1 ≤ 32 by decide) (.inr (show 0 + 3 ≤ 8 by decide))]
    exact hlog.fget c rfl
  · exact State.sameMem_of_eq rfl rfl rfl

/-- The users of a failed channel and the Graft queue, which goes on, leave the channels as the failure left them. -/
theorem failChannel_keepsChans {c : Nat} (hpresent : s.chanAt c ≠ 0) (hgood : s.chanAt c ≠ 3) (cause : Nat) :
    (s.chanDown c cause).keepsChans ((s.chanDown c cause).grf.queue = []) (failChannel s c cause) := by
  rw [failChannel_eq hpresent hgood]
  generalize s.chanDown c cause = u
  have htold := u.chanUsersTold_keepsChans (m := u.grf.queue = []) c
  have hlost (t : State) : t.keepsChans (t.grf.queue = []) (t.featsDropped.pumpGraft 32) :=
    (((State.keepsChans.refl t).fcount F.HUB_GRF_DROP_drop t.grf.wait.length (by decide)).mapGrf _ fun _ => rfl).trans
      (t.featsDropped.pumpGraft_keepsChans 32)
  exact .of_ite htold (htold.trans ((hlost _).imp fun hempty => (htold.queue hempty).trans hempty))

/-- A channel that is present and has not failed fails with its cause, which HRM.CHn_STATUS shows; with no Graft command queued no memory
changes (R347). -/
theorem State.channelFail_spec {c : Fin 4} {cause : Nat} (hpresent : s.chanAt c ≠ 0) (hgood : s.chanAt c ≠ 3) (hcause : cause < 8)
    (hcmds : s.cp.cmds = []) :
    let t := s.channelFail c cause
    t.chanAt c = 3 ∧ t.fget (F.HRM_CH_STATUS_state c) = 3 ∧ t.fget (F.HRM_CH_STATUS_cause c) = cause ∧
      t.fget (F.HRM_CH_STATUS_force_fail c) = s.fget (F.HRM_CH_STATUS_force_fail c) ∧ (s.grf.queue = [] → s.sameMem t) := by
  obtain ⟨hat, hstate, hcause, hforce, hcmds', hqueue, hmem⟩ := State.chanDown_spec hpresent hcause
  have hkeeps := failChannel_keepsChans hpresent hgood cause
  have hpump : s.channelFail c cause = failChannel s c cause := State.pump_nil (hkeeps.cmds.trans (hcmds'.trans hcmds))
  rw [hpump]
  exact ⟨(hkeeps.chanAt c).trans hat, (hkeeps.fget c rfl).trans hstate, (hkeeps.fget c rfl).trans hcause, (hkeeps.fget c rfl).trans hforce,
    fun hempty => State.sameMem_trans hmem (hkeeps.sameMem (hqueue.trans hempty))⟩

theorem exec_hyperramChannelFail (c : Fin 4) (cause : Fin 3) (s : State) :
    exec (.hyperramChannelFail c cause) s = .next (s.channelFail c (cause + 1)) := rfl

/-! ## Writes of the HyperRAM block's registers -/

/-- Between 0x60000 and 0x70000 the registers are those of the HyperRAM block's table (Table 1.7). -/
theorem regAt_hrm {o : Nat} (hlo : 0x60000 ≤ o) (hhi : o < 0x70000) : regAt o = findReg regTabHRM o := by
  have hbelow (n : Nat) (hn : n ≤ 0x60000) : (o < n) = False := eq_false (by omega)
  rw [regAt, placeOf_of_lt (by omega)]
  simp (disch := decide) only [hubReg, hbelow, hhi, if_false, if_true]

/-- A host write of a register of the HyperRAM block that no rule bars comes to its own row (R314). -/
theorem State.hostWrite_hrm {o : Nat} (h : s.hostOk o) (v : Word) (halign : o % 4 = 0) (hlo : 0x60000 ≤ o) (hhi : o < 0x70000)
    (hreg : (findReg regTabHRM o).isSome = true) (hlock : jobLocked o = false) : s.hostWrite o v = hrmWrite s .bar0 o v := by
  obtain ⟨hreset, hbar⟩ := h
  have hind : s.indOf o = none := s.indOf_of_lt (by omega) (by
    simp only [R.VRD_CMAP_DATA, R.STR_PROG_DATA, R.HUB_PRB_DATA_HI, List.mem_cons, List.not_mem_nil, or_false, not_or]
    omega)
  have hsome : (regAt o).isSome = true := by rwa [regAt_hrm hlo hhi]
  have hlow (n : Nat) (hn : n ≤ 0x60000) : (o < n) = False := eq_false (by omega)
  rw [State.hostWrite, State.regWrite_of_not_barred v _ hreset hbar halign, State.writeReg, hind, placeOf_of_lt (by omega)]
  simp (disch := decide) only [State.blockWrite, hlock, hsome, hlow, hhi, Bool.and_false, Bool.false_and, Bool.false_eq_true, and_false, if_false,
    if_true]

/-- FORCE_FAIL sets force_fail and fails the channel with cause 4 (R347). -/
theorem exec_forceFail {c : Fin 4} (h : s.hostOk (R.HRM_CH_STATUS c)) :
    exec (.forceFail c) s = .next ((s.fset (F.HRM_CH_STATUS_force_fail c) 1).channelFail c 4) := by
  have hreg : ∀ c : Fin 4, (findReg regTabHRM (R.HRM_CH_STATUS c)).isSome = true ∧ jobLocked (R.HRM_CH_STATUS c) = false := by decide
  obtain ⟨hreg, hlock⟩ := hreg c
  have hnum : R.HRM_CH_STATUS c = 0x60044 + c.val * 0x10 := rfl
  have hidx : (R.HRM_CH_STATUS c - 0x60040) / 16 = c := by omega
  have hbit : bitW 0x100 8 = true := by decide
  have hrow : hrmWrite s .bar0 (R.HRM_CH_STATUS c) 0x100 = (s.fset (F.HRM_CH_STATUS_force_fail c) 1).channelFail c 4 := by
    have hstore : R.HRM_CH_STATUS c ≠ R.HRM_BSTORE := by simp only [hnum, R.HRM_BSTORE]; omega
    have hbase : R.HRM_CH_STATUS c ≠ R.HRM_CROP_BASE := by simp only [hnum, R.HRM_CROP_BASE]; omega
    have hsize : R.HRM_CH_STATUS c ≠ R.HRM_CROP_SIZE := by simp only [hnum, R.HRM_CROP_SIZE]; omega
    rw [hrmWrite, if_neg hstore, if_neg hbase, if_neg hsize, if_pos (by omega), hidx, if_pos hbit]
  exact congrArg Host.Outcome.next ((State.hostWrite_hrm h _ (by omega) (by omega) (by omega) hreg hlock).trans hrow)

theorem exec_bstoreWrite (h : s.hostOk R.HRM_BSTORE) (v : Word) : exec (.bstoreWrite v) s = .next (bstoreWriteEff s v) :=
  congrArg Host.Outcome.next ((State.hostWrite_hrm h v (by decide) (by decide) (by decide) (by decide) (by decide)).trans (if_pos rfl))

theorem exec_cropStoreWrite {size : Bool} (h : s.hostOk (if size then R.HRM_CROP_SIZE else R.HRM_CROP_BASE)) (v : Word) :
    exec (.cropStoreWrite size v) s = .next (cropStoreWriteEff s size v) := by
  refine congrArg Host.Outcome.next ?_
  cases size with
  | false => exact (State.hostWrite_hrm h v (by decide) (by decide) (by decide) (by decide) (by decide)).trans rfl
  | true => exact (State.hostWrite_hrm h v (by decide) (by decide) (by decide) (by decide) (by decide)).trans rfl

/-! ## The Blend store and the crop store (R342, R343) -/

/-- Replacing an element by what a missing one reads as leaves that to be read. -/
theorem nth_setNth_default {α : Type} (d : α) (l : List α) (i : Nat) : nth d (setNth l i d) i = d := by
  by_cases h : i < l.length
  · exact nth_setNth_same d l i d h
  · by_contra hne
    exact h ((setNth_length l i d).symm ▸ lt_length_of_nth_ne hne)

/-- Marking Blend slots invalid changes the slots alone. -/
theorem State.foldl_slotInvalid (l : List Nat) (s : State) : l.foldl (fun s i => s.slotInvalid i) s =
    s.mapHrm fun h => { h with slots := l.foldl (fun x i => setNth x i SlotSt.init) h.slots } := by
  induction l generalizing s with
  | nil => rfl
  | cons i l ih => exact ih (s.slotInvalid i)

theorem State.slotsInvalid_eq (s : State) : ∃ x, s.slotsInvalid = s.mapHrm (fun h => { h with slots := x }) ∧
    ∀ k < 4, (nth SlotSt.init x k).valid = false := by
  refine ⟨(List.range 4).foldl (fun x i => setNth x i SlotSt.init) s.hrm.slots, State.foldl_slotInvalid _ s, fun k hk => ?_⟩
  have hcases : k = 0 ∨ k = 1 ∨ k = 2 ∨ k = 3 := by omega
  obtain rfl | rfl | rfl | rfl := hcases <;>
    simp (disch := decide) only [List.range, List.range.loop, List.foldl, nth_setNth_other, nth_setNth_default] <;> rfl

/-- With the crop store empty a write of HRM.CROP_BASE or CROP_SIZE takes effect, and nothing is held (R342). -/
theorem cropStoreWriteEff_empty (size : Bool) (v : Word) (hcrops : s.vrd.crops = []) (hbase : s.hrm.heldBase = none)
    (hsize : s.hrm.heldSize = none) :
    let t := cropStoreWriteEff s size v
    bitsW (t.reg (if size then R.HRM_CROP_SIZE else R.HRM_CROP_BASE)) 0 17 = bitsW v 0 17 ∧ t.hrm.heldBase = none ∧ t.hrm.heldSize = none ∧
      s.sameMem t := by
  have hfld (t : State) {f : Fld} (hlo : f.lo = 0) (hw : f.w = 17) : bitsW ((t.fset f (bitsW v 0 17)).reg f.off) 0 17 = bitsW v 0 17 := by
    have hget := t.fget_fset_same f (bitsW v 0 17) (by omega)
    rw [State.fget, Fld.of, hlo, hw] at hget
    exact hget.trans (Nat.mod_eq_of_lt (bitsN_lt _ _ _))
  cases size with
  | false =>
    have htaken : cropStoreWriteEff s false v = (((s.mapHrm fun h => { h with heldBase := some (bitsW v 0 17) }).fset F.HRM_CROP_BASE_pages
        (bitsW v 0 17)).mapVrd fun x => { x with nextPage := 0 }).mapHrm fun h => { h with heldBase := none, heldSize := none } := by
      simp [cropStoreWriteEff, State.cropStoreFree, hcrops, hsize]
    rw [htaken]
    exact ⟨hfld _ (f := F.HRM_CROP_BASE_pages) rfl rfl, rfl, rfl, State.sameMem_of_eq rfl rfl rfl⟩
  | true =>
    have htaken : cropStoreWriteEff s true v = (((s.mapHrm fun h => { h with heldSize := some (bitsW v 0 17) }).fset F.HRM_CROP_SIZE_pages
        (bitsW v 0 17)).mapVrd fun x => { x with nextPage := 0 }).mapHrm fun h => { h with heldBase := none, heldSize := none } := by
      simp [cropStoreWriteEff, State.cropStoreFree, hcrops, hbase]
    rw [htaken]
    exact ⟨hfld _ (f := F.HRM_CROP_SIZE_pages) rfl rfl, rfl, rfl, State.sameMem_of_eq rfl rfl rfl⟩

/-! ## A channel initialises (R349) -/

/-- An entry that stays in a store reads as before. -/
theorem sget_filter_kept {β : Type} (d : Nat → β) (m : SMap β) (p : Nat × β → Bool) (k : Nat) (h : ∀ v, p (k, v) = true) :
    sget d (m.filter p) k = sget d m k := by
  induction m with
  | nil => rfl
  | cons x m ih =>
    obtain ⟨k', v⟩ := x
    by_cases hk : k' = k
    · subst hk
      simp [h v, sget]
    · cases hp : p (k', v) <;> simp [hp, sget, hk, ih]

/-- Inside the range an entry reads as its default, outside as before. -/
theorem sget_dropRange {β : Type} (d : Nat → β) (lo n : Nat) (m : SMap β) (k : Nat) :
    sget d (dropRange lo n m) k = if lo ≤ k ∧ k < lo + n then d k else sget d m k := by
  split
  case isTrue h => exact sget_filter_gone d m _ k fun v => by simp [h]
  case isFalse h =>
    refine sget_filter_kept d m _ k fun v => ?_
    simp only [Bool.not_eq_true', Bool.and_eq_false_iff, decide_eq_false_iff_not]
    omega

/-- The blocks of the channel hold zero without poison, and every other byte is as before. -/
theorem State.zeroChannel_spec (s : State) (c : Nat) :
    (∀ a, hyperBase + s.chanStart c ≤ a → a < hyperBase + s.chanStart c + s.chanCap c →
      (s.zeroChannel c).byte a = 0 ∧ (s.zeroChannel c).poisoned a = false) ∧
    ∀ a, (a < hyperBase + s.chanStart c ∨ hyperBase + s.chanStart c + s.chanCap c ≤ a) → (s.zeroChannel c).byte a = s.byte a := by
  refine ⟨fun a hlo hhi => ?_, fun a hout => ?_⟩
  · have hzero {β : Type} (d : Nat → β) (m : SMap β) : sget d (dropRange (hyperBase + s.chanStart c) (s.chanCap c) m) a = d a :=
      (sget_dropRange d _ _ m a).trans (if_pos ⟨hlo, hhi⟩)
    refine ⟨hzero zeroB s.mem, ?_⟩
    simp only [State.poisoned, State.copiesAt, State.zeroChannel, hzero, zeroN, onCopies_zero]
    rfl
  · exact (sget_dropRange zeroB _ _ s.mem a).trans (if_neg (by omega))

/-- HYPERRAM_INIT_DONE of a channel that initialises, before the Graft queue goes on. -/
theorem exec_hyperramInitDone {c : Fin 4} (hinit : s.chanAt c = 1) (hcmds : s.cp.cmds = []) :
    exec (.hyperramInitDone c) s = .next (((s.zeroChannel c).setHyper c 2).pumpGraft 32) := by
  have hkeeps := ((s.zeroChannel c).setHyper c 2).pumpGraft_keepsChans 32
  have hrun : hyperramInitDoneEff s c = ((s.zeroChannel c).setHyper c 2).pumpGraft 32 := if_pos (by simp [State.chanInit, hinit])
  have hpump : (hyperramInitDoneEff s c).pump = hyperramInitDoneEff s c := State.pump_nil (hrun ▸ hkeeps.cmds.trans hcmds)
  exact (congrArg Host.Outcome.next hpump).trans (congrArg _ hrun)

end Sys2Proof.Machine

open Sys2Proof Sys2Proof.Machine

/-- Settles O48: what follows a failure or the end of an initialisation keeps the channels (State.keepsChans), so they stand as the event itself
left them; the writes of registers come to their rows. -/
theorem hyperRamChannels : Obligations.HyperRamChannels := by
  unfold Obligations.HyperRamChannels
  refine ⟨?fails, ?forced, ?initialises, ?blend, ?crops⟩
  case fails =>
    intro c cause s hpresent hgood hcmds
    obtain ⟨hat, hstate, hcause, -, hmem⟩ := State.channelFail_spec (cause := cause + 1) hpresent hgood (by omega) hcmds
    exact ⟨_, exec_hyperramChannelFail c cause s, hat, hstate, hcause, hmem⟩
  case forced =>
    intro c s hok hpresent hgood hcmds
    obtain ⟨hat, hstate, hcause, hforce, hmem⟩ :=
      State.channelFail_spec (s := s.fset (F.HRM_CH_STATUS_force_fail c) 1) (c := c) (cause := 4) hpresent hgood (by decide) hcmds
    refine ⟨_, exec_forceFail hok, hat, hstate, hcause, ?_, fun hempty => State.sameMem_trans (s.onlyLogs_fset _ _).sameMem (hmem hempty)⟩
    rw [State.fbit, hforce]
    exact State.fbit_fset_one s (show 8 + 1 ≤ 32 by decide) rfl
  case initialises =>
    intro c s hinit hcmds
    obtain ⟨hzero, hrest⟩ := s.zeroChannel_spec c
    have hpresent : s.chanAt c ≠ 0 := by omega
    obtain ⟨hat, hstate, hregs⟩ := State.setHyper_spec (s := s.zeroChannel c) (n := 2) hpresent (by decide)
    have hkeeps := ((s.zeroChannel c).setHyper c 2).pumpGraft_keepsChans 32
    refine ⟨_, exec_hyperramInitDone hinit hcmds, (hkeeps.chanAt c).trans hat, (hkeeps.fget c rfl).trans hstate, fun hempty => ?_⟩
    rw [State.pumpGraft_nil (s := (s.zeroChannel c).setHyper c 2) hempty]
    exact ⟨hregs, hzero, hrest⟩
  case blend =>
    intro v s hok
    obtain ⟨x, hslots, hinvalid⟩ := (s.setReg R.HRM_BSTORE (v &&& 0x007F01FF)).slotsInvalid_eq
    have hself := s.reg_setReg_same R.HRM_BSTORE (v &&& 0x007F01FF)
    exact ⟨_, (exec_bstoreWrite hok v).trans (congrArg _ hslots), hself, hinvalid, s.regsBut_setReg R.HRM_BSTORE (v &&& 0x007F01FF),
      s.sameMem_setReg R.HRM_BSTORE (v &&& 0x007F01FF)⟩
  case crops =>
    intro size v s hok hcrops hbase hsize
    exact ⟨_, exec_cropStoreWrite hok v, cropStoreWriteEff_empty size v hcrops hbase hsize⟩

end
